-- ==== Sys2Proof/Word.lean ====
section
/-! DEFINITION. The words of the TG1 and their plainest arithmetic: bytes, 32-bit and 64-bit words (R8, R9). -/

namespace Sys2Proof

/-- A byte, bit 0 least significant (R8). -/
abbrev Byte := BitVec 8

/-- A 32-bit word. -/
abbrev W32 := BitVec 32

/-- The 64-bit little-endian word of the in-memory layouts, `w0`, `w1`, … (R42). -/
abbrev W64 := BitVec 64

/-- A context number, 0–15 (R37). -/
abbrev CtxId := Fin 16

/-- A cluster global index, 0–31 (R16). -/
abbrev ClusterId := Fin 32

/-- A core global index, 0–127 (R16). -/
abbrev CoreId := Fin 128

/-- A Shexon port number, 0–13. -/
abbrev PortId := Fin 14

/-- A stream engine global index, 0–511 (R181). -/
abbrev EngineId := Fin 512

/-- A die number, 0–3. -/
abbrev DieId := Fin 4

end Sys2Proof
end

