-- ==== Sys2Proof/Syntax.lean ====
section
/-! DEFINITION. The commands and events that reach the TG1, one constructor of `Instr` for each row of the opcode table.
The table gives the rows no operands of their own: the operands here are what the rule of each row says arrives with it. -/

namespace Sys2Proof

/-- The list a command stands in (R44): the lead list or one cluster's list. -/
inductive ListId where
  | lead
  | cluster (c : ClusterId)
deriving DecidableEq, Repr

/-- A SECDED error of R329: its class, whether it was corrected, and the physical address of the word (0 for a path or a
register). -/
structure MemError where
  cls       : Fin 8
  corrected : Bool
  pa        : BitVec 42
  /-- The unit of the item's progress in which the error is met; 0 as it starts. -/
  unit      : Nat
deriving DecidableEq, Repr

/-- Where a sequencer issues a command (R44, R49, R66): the context, the list, the position in it counted from 0, and
whether the command belongs to the run-ahead successor step. -/
structure IssueAt where
  ctx   : CtxId
  list  : ListId
  pos   : Nat
  ahead : Bool
  /-- What the check bits of the storage and the paths find while the unit works on the item (R133, R330). -/
  errs  : List MemError
deriving DecidableEq, Repr

/-- The item of a context that an event names: its list, its `SEQ` and whether it belongs to the successor step. -/
structure ItemRef where
  ctx   : CtxId
  list  : ListId
  seq   : Nat
  ahead : Bool
deriving DecidableEq, Repr

/-- A register that a write names: an entry of the object dictionary (R434), or a range of bytes of a BAR0 context page (R412) or of the
module page (R414). -/
inductive RegTarget where
  | entry (index : BitVec 16) (sub : Byte) (elem : Nat)
  | page (f : CtxId) (off : BitVec 16) (width : Nat)
  | modulePage (off : BitVec 16) (width : Nat)
deriving DecidableEq, Repr

/-- A hardware queue of R213: a sluice's consumer buffer of a core (types 0, 1 and 2 of R193), or the send queue of a
Shexon port. -/
inductive QueueId where
  | sluice (core : CoreId) (kind : Fin 3)
  | send (port : PortId)
deriving DecidableEq, Repr

/-- An operation of a consumer on its queue (R220): the queue, and whether it acts on the same NCLK edge as the operation of that queue
before it (R222). -/
structure QueueOp where
  queue : QueueId
  joins : Bool
deriving DecidableEq, Repr

/-- A read at a queue (R217): the queue, whether its consumer needs the line, and whether it acts on the edge of the operation before
it (R222); the read of a vector operator does not wait for a line (R205, R218). -/
structure QueueAsk where
  queue : QueueId
  need  : Bool
  joins : Bool
deriving DecidableEq, Repr

/-- A Shexon packet (R360): the four header words and the data bytes; and what the link knows of one received: the port on which it
came, with the pair of VC and dateline class whose buffer it stands in (R362), and the mark that a packet resent on a sibling
port bears: the sender's port that failed, and that port's packet count (R359). -/
structure Packet where
  w0   : W64
  w1   : W64
  w2   : W64
  w3   : W64
  data : List Byte
  via  : Option (PortId × Nat) := none
  mark : Option (Nat × Nat) := none
deriving DecidableEq, Repr

/-- The completion of a 32-byte submission entry read (R419): its four words, or a PCI Express error. -/
inductive FetchResult where
  | entry (w0 w1 w2 w3 : W64)
  | error
deriving DecidableEq, Repr

/-- Who asks for a dictionary operation (R441, R442): the management segment, with the interface identifier of the
source, or the mailbox of a function. -/
inductive Requester where
  | segment (iid : W64)
  | mailbox (f : CtxId)
deriving DecidableEq, Repr

/-- How an Igcor datagram was received over the segment (R439): from a unicast source, or on ff02::1; a mailbox frame
has no transport. -/
structure FrameFrom where
  who       : Requester
  port      : BitVec 16
  multicast : Bool
  /-- R439: the IPv6 and UDP form was acceptable (link-local source, no extension header, no fragment, good checksum). -/
  transportOk : Bool
deriving DecidableEq, Repr

/-- A host access through a BAR (R411): a read of a number of bytes, or a write of bytes. -/
inductive Access where
  | read (len : Nat)
  | write (data : List Byte)
deriving DecidableEq, Repr

/-- One finding of a scrub pass (R331): a word that was corrected, or one found uncorrectable, by its physical address. -/
inductive ScrubFinding where
  | corrected (pa : BitVec 42)
  | uncorrectable (pa : BitVec 42)
deriving DecidableEq, Repr

/-- The 100 µs sample of R470: the four junction temperatures and the coolant inlet in 0.1 °C, the main input in mV
and the 1 ms average of its power in mW, the standby input and the hold-up capacitor in mV. -/
structure ThermalData where
  tj0     : BitVec 16
  tj1     : BitVec 16
  tj2     : BitVec 16
  tj3     : BitVec 16
  coolant : BitVec 16
  inMv    : W32
  inMw    : W32
  stbyMv  : W32
  holdMv  : W32
deriving DecidableEq, Repr

/-- A sync chain frame as it is received (R476): its 16 bytes, and whether it holds a code violation. -/
structure SyncFrame where
  bytes     : List Byte
  violation : Bool
deriving DecidableEq, Repr

/-- Every command and event of spec/opcode_table.json, in the table's order. -/
inductive Instr where
  /-- PREEMPT: `CTX_CONTROL` written 1 (R40). -/
  | preempt (c : CtxId)
  /-- RESUME: `CTX_CONTROL` written 2 (R346). -/
  | resume (c : CtxId)
  /-- RESET: `CTX_CONTROL` written 3 (R40). -/
  | reset (c : CtxId)
  /-- REGISTER_WRITE: a write to an RW or RWS entry or register (R11). -/
  | registerWrite (t : RegTarget) (v : W64)
  /-- STATUS_ENTRY_WRITE: a write to a status entry (R234). -/
  | statusEntryWrite (index : BitVec 16) (sub : Byte) (v : W32)
  /-- SQ_TAIL: the submission tail doorbell (R418). -/
  | sqTail (c : CtxId) (v : W32)
  /-- CQ_HEAD: the completion head doorbell (R420). -/
  | cqHead (c : CtxId) (v : W32)
  /-- SQ_CFG: the submission ring configuration (R413). -/
  | sqCfg (c : CtxId) (v : W32)
  /-- CQ_CFG: the completion ring configuration (R413). -/
  | cqCfg (c : CtxId) (v : W32)
  /-- SUBMISSION_FETCH: a submission entry read completes (R419). -/
  | submissionFetch (c : CtxId) (r : FetchResult)
  /-- NOP (R51). -/
  | nop (q : IssueAt)
  /-- TILE (R137). The NCLK cycles of multicast stalls and the ACLK cycles of feeder holds are what timing made them (R117, R142). -/
  | tile (q : IssueAt) (holds stalls : Nat)
  /-- VECTOR (R140). -/
  | vector (q : IssueAt)
  /-- STREAM_ARM (R206). -/
  | streamArm (q : IssueAt)
  /-- BARRIER (R226). -/
  | barrier (q : IssueAt)
  /-- SAMPLE (R68). -/
  | sample (q : IssueAt)
  /-- GATHER (R267). -/
  | gather (q : IssueAt)
  /-- SCATTER (R276). -/
  | scatter (q : IssueAt)
  /-- COALESCE (R281). -/
  | coalesce (q : IssueAt)
  /-- REDUCE (R367). -/
  | reduce (q : IssueAt)
  /-- UPDATE (R317). -/
  | update (q : IssueAt)
  /-- COMMIT (R81). -/
  | commit (q : IssueAt)
  /-- MIGRATE (R298). -/
  | migrate (q : IssueAt)
  /-- SNAPSHOT (R391). -/
  | snapshot (q : IssueAt)
  /-- DMA (R429): the bytes the host's completions carry for a host-to-device transfer, and the unit at which the
  host answered with an error, if any. -/
  | dma (q : IssueAt) (hostData : List Byte) (errUnit : Option Nat)
  /-- ITEM_COMMIT: a unit completes an item (R56). -/
  | itemCommit (i : ItemRef)
  /-- FAULT_RESUME: a write of a `FAULT_ID`, or of 0xFFFF_FFFF (R342). -/
  | faultResume (c : CtxId) (id : W32)
  /-- BARRIER_ARRIVAL: an arrival at a barrier is registered (R228). -/
  | barrierArrival (c : CtxId) (bar : Byte)
  /-- PACE_RELEASE: the pacer makes its next arrival (R76). -/
  | paceRelease (c : CtxId)
  /-- COMMIT_TIMEOUT (R81). -/
  | commitTimeout (c : CtxId)
  /-- SPEC_VERIFY: an engine compares the bits of its unverified pass (R153); `waited` is the ACLK cycles its next
  pass waited for it (R155). -/
  | specVerify (i : ItemRef) (core : CoreId) (waited : Nat)
  /-- CONSERVATOR_COMPARE: the reference of a sampled tile completes (R172). -/
  | conservatorCompare (i : ItemRef) (tile : Nat)
  /-- STREAM_TRANSLATED (R208). -/
  | streamTranslated (e : EngineId)
  /-- STREAM_PROGRAM_END (R206). -/
  | streamProgramEnd (e : EngineId)
  /-- ARBITRATION_WINDOW: a window of 1,024 NCLK cycles starts (R204). -/
  | arbitrationWindow
  /-- MARK (R220). -/
  | mark (q : QueueOp)
  /-- UNMARK (R220). -/
  | unmark (q : QueueOp)
  /-- REWIND (R221). -/
  | rewind (q : QueueOp)
  /-- RELEASE (R220). -/
  | release (q : QueueOp) (x : W32)
  /-- QUEUE_READ (R217). -/
  | queueRead (q : QueueAsk)
  /-- VITRINE_COPY_DONE: the copy of a COPYING row completes (R294). -/
  | vitrineCopyDone (c : CtxId) (coll : BitVec 48) (row : W32)
  /-- SAVE_AREA_WRITTEN (R344). -/
  | saveAreaWritten (c : CtxId)
  /-- MMU_INVAL: start VA and count of 64 KiB units (R336). -/
  | mmuInval (c : CtxId) (va count : W64)
  /-- INVAL_DONE (R336). -/
  | invalDone (c : CtxId)
  /-- HBM_SCRUB_PASS: a pass completes with its findings (R331). -/
  | hbmScrubPass (found : List ScrubFinding)
  /-- RETIRE_COPY_DONE (R349). -/
  | retireCopyDone (d : DieId)
  /-- CODEWORD: a codeword arrives at a port with its sequence and acknowledgement, decodable or not, with the symbols
  corrected (R354, R355). -/
  | codeword (p : PortId) (seq ack : BitVec 10) (decoded : Bool) (corrected : BitVec 4)
  /-- SIGNAL_DETECT: signal on the lanes of the mask (R356). -/
  | signalDetect (p : PortId) (lanes : BitVec 4)
  /-- TRAIN_CONVERGED (R356). -/
  | trainConverged (p : PortId)
  /-- TRAIN_TIMEOUT (R356). -/
  | trainTimeout (p : PortId)
  /-- ALIGN_DONE (R356). -/
  | alignDone (p : PortId)
  /-- ALIGN_TIMEOUT (R356). -/
  | alignTimeout (p : PortId)
  /-- VERIFY_TIMEOUT (R356). -/
  | verifyTimeout (p : PortId)
  /-- LINK_RETRY_TIMER (R356). -/
  | linkRetryTimer (p : PortId)
  /-- LANE_LOCK_LOSS (R358). -/
  | laneLockLoss (p : PortId) (lane : Fin 4)
  /-- LANE_RESTORED (R358). -/
  | laneRestored (p : PortId) (lane : Fin 4)
  /-- LANE_DISABLE: the write (R358). -/
  | laneDisable (p : PortId) (v : Byte)
  /-- CREDIT: link credit for one VC and dateline class, in granules (R362). -/
  | credit (p : PortId) (vc : BitVec 2) (dl : Bool) (granules : Nat)
  /-- LANE_CHANGE: the codeword sequence at which the peer changes width, and the lanes it will use (R358). -/
  | laneChange (p : PortId) (seq : BitVec 10) (lanes : BitVec 4)
  /-- IDENT: the peer's domain identifier, coordinate, dimensions and port number (R357). -/
  | ident (p : PortId) (domain : W64) (coord dims : BitVec 16) (peerPort : Byte)
  /-- RED_HDR (R367). -/
  | redHdr (k : Packet)
  /-- RED_DENSE (R368). -/
  | redDense (k : Packet)
  /-- RED_SPARSE (R370). -/
  | redSparse (k : Packet)
  /-- RED_RESULT (R368). -/
  | redResult (k : Packet)
  /-- COLL_ABORT (R371). -/
  | collAbort (k : Packet)
  /-- COMMIT_TOKEN (R375). -/
  | commitToken (k : Packet)
  /-- MISMATCH_REPORT (R386). -/
  | mismatchReport (k : Packet)
  /-- VERDICT (R386). -/
  | verdict (k : Packet)
  /-- FENCE_VOTE_CLOSE (R386). -/
  | fenceVoteClose
  /-- VERDICT_TIMEOUT (R386). -/
  | verdictTimeout (c : CtxId)
  /-- APPLY_PREP (R376). -/
  | applyPrep (k : Packet)
  /-- APPLY_VOTE (R376). -/
  | applyVote (k : Packet)
  /-- APPLY_GO (R376). -/
  | applyGo (k : Packet)
  /-- APPLY_GO with the cancel bit (R376). -/
  | applyGoCancel (k : Packet)
  /-- DOMAIN_APPLY: the write of the 16 bytes as two words (R376). -/
  | domainApply (w0 w1 : W64)
  /-- APPLY_VOTE_DEADLINE (R376). -/
  | applyVoteDeadline
  /-- DOMAIN_APPLY_INSTANT (R376). -/
  | domainApplyInstant
  /-- SHX_TIME_PACKET: the timestamps t1 to t4 of an exchange with the parent, in ROOT cycles (R377). -/
  | shxTimePacket (t1 t2 t3 t4 : W64)
  /-- SHX_TIME_EXCHANGE (R377). -/
  | shxTimeExchange
  /-- MCAST: a multicast line arrives at a port (R373). -/
  | mcast (p : PortId) (k : Packet)
  /-- MCAST_PRUNE_TIMEOUT: a line is held too long in a port's delivery buffer (R374). -/
  | mcastPruneTimeout (p : PortId)
  /-- PRUNE (R374). -/
  | prune (k : Packet)
  /-- SHX_HOP_TIMEOUT: the oldest held packet of a direction's port is held too long (R365). -/
  | shxHopTimeout (p : PortId)
  /-- SHX_COLL_TIMEOUT (R371). -/
  | shxCollTimeout (c : CtxId)
  /-- DEPOT_WR (R393). -/
  | depotWr (k : Packet)
  /-- DEPOT_RD (R398). -/
  | depotRd (k : Packet)
  /-- DEPOT_DATA (R398). -/
  | depotData (k : Packet)
  /-- TUN_WR (R379). -/
  | tunWr (k : Packet)
  /-- TUN_RD (R379). -/
  | tunRd (k : Packet)
  /-- TUN_CPL (R379). -/
  | tunCpl (k : Packet)
  /-- TUN_DMA_RD (R426), with what the host's completions carry; none for an error. -/
  | tunDmaRd (k : Packet) (hostData : Option (List Byte))
  /-- TUN_DMA_WR (R426). -/
  | tunDmaWr (k : Packet)
  /-- TUN_IRQ (R426). -/
  | tunIrq (k : Packet)
  /-- SHX_TUNNEL_TIMEOUT (R379). -/
  | shxTunnelTimeout (opSeq : W32)
  /-- FENCE: `FENCE_CONTROL` written 1 (R387). -/
  | fence
  /-- FENCE_CLEAR: `FENCE_CONTROL` written 2 (R387). -/
  | fenceClear
  /-- RESTORE_REQ: the write of the 32 bytes as four words (R398). -/
  | restoreReq (w0 w1 w2 w3 : W64)
  /-- PROV_REQ: the write of the 4 bytes (R399). -/
  | provReq (w : W32)
  /-- FLR of function f (R430). -/
  | flr (f : CtxId)
  /-- D3HOT_TO_D0 of function f (R430). -/
  | d3hotToD0 (f : CtxId)
  /-- HOT_RESET (R430). -/
  | hotReset
  /-- PERST_ASSERT (R471). -/
  | perstAssert
  /-- WINDOW_READ (R415). -/
  | windowRead (f : CtxId) (off : BitVec 34) (len : Nat)
  /-- WINDOW_WRITE (R415). -/
  | windowWrite (f : CtxId) (off : BitVec 34) (data : List Byte)
  /-- APERTURE_ACCESS (R425). -/
  | apertureAccess (f : CtxId) (off : BitVec 35) (a : Access)
  /-- MAILBOX_GO (R428). -/
  | mailboxGo (f : CtxId)
  /-- IRQ_HOLDOFF_EXPIRY of a vector (R423). -/
  | irqHoldoffExpiry (f : CtxId) (vec : Byte)
  /-- IGCOR_FRAME (R445). -/
  | igcorFrame (from_ : FrameFrom) (bytes : List Byte)
  /-- NEIGHBOR_SOLICITATION: the source and the target interface identifiers (R439). -/
  | neighborSolicitation (src target : W64)
  /-- ICMPV6_ECHO (R439). -/
  | icmpv6Echo (src : W64) (data : List Byte)
  /-- READ (R436). -/
  | read (who : Requester) (index : BitVec 16) (sub : Byte) (off : W32) (len : BitVec 16)
  /-- WRITE (R436). -/
  | write (who : Requester) (index : BitVec 16) (sub : Byte) (off : W32) (data : List Byte)
  /-- READ_STAGED (R436). -/
  | readStaged (who : Requester) (index : BitVec 16) (sub : Byte) (off : W32) (len : BitVec 16)
  /-- CHECK (R451): the scope, and the generation the frame expects. -/
  | check (who : Requester) (gen : W32) (scope : Byte)
  /-- APPLY (R452): scope, form and argument. -/
  | apply (who : Requester) (gen : W32) (scope form : Byte) (arg : W64)
  /-- DISCARD (R454). -/
  | discard (who : Requester) (gen : W32) (scope : Byte)
  /-- DESCRIBE (R443). -/
  | describe (who : Requester) (index : BitVec 16) (sub : Byte)
  /-- EVENT_READ (R457): the first sequence wanted and the most records. -/
  | eventRead (who : Requester) (first : W64) (most : W32)
  /-- ARMED_APPLY_INSTANT (R453). -/
  | armedApplyInstant
  /-- PERSIST_WRITE: the store write, with its read-back and its one retry good or not (R438). -/
  | persistWrite (readBack retry : Bool)
  /-- STANDBY_POWER, with the slot straps (R462, R496). -/
  | standbyPower (straps : BitVec 6)
  /-- STANDBY_LOST (R462). -/
  | standbyLost
  /-- MAIN_INPUT_QUALIFIED (R463). -/
  | mainInputQualified
  /-- RAIL_GROUP_REGULATED, group 1 to 4 (R463). -/
  | railGroupRegulated (g : Fin 5)
  /-- PWR_FAULT in a rail group (R463). -/
  | pwrFault (g : Fin 5)
  /-- PWR_RETRY_TIMER (R463). -/
  | pwrRetryTimer
  /-- SUPPLY_WARN with the input in mV (R460). -/
  | supplyWarn (mv : W32)
  /-- SAG (R465). -/
  | sag
  /-- SAG_GLITCH (R461). -/
  | sagGlitch
  /-- OVERVOLTAGE with the input in mV (R460). -/
  | overvoltage (mv : W32)
  /-- SAVE_DONE: the record closed, after a number of SCLK cycles (R465, R468). -/
  | saveDone (cycles : W32)
  /-- SAVE_TIMEOUT (R465). -/
  | saveTimeout
  /-- THERMAL_SAMPLE (R470). -/
  | thermalSample (t : ThermalData)
  /-- MODULE_RESET_WARM: `MODULE_RESET` written 1 (R471). -/
  | moduleResetWarm
  /-- MODULE_RESET_COLD: `MODULE_RESET` written 2 (R471). -/
  | moduleResetCold
  /-- MODULE_RESET_DELAY (R471). -/
  | moduleResetDelay
  /-- WATCHDOG_EXPIRY (R471). -/
  | watchdogExpiry
  /-- PLL_UNLOCK (R475). -/
  | pllUnlock
  /-- REF_LOST (R475). -/
  | refLost
  /-- MODULE_RESET_DONE (R472). -/
  | moduleResetDone
  /-- SR_EXPORT (R469). -/
  | srExport
  /-- SYNC_TIME_FRAME (R479). -/
  | syncTimeFrame (f : SyncFrame)
  /-- SYNC_STEP_FRAME (R482). -/
  | syncStepFrame (f : SyncFrame)
  /-- ESTOP: the frame, and whether it came on SYNC_DN_IN (R483). -/
  | estop (f : SyncFrame) (onDn : Bool)
  /-- ECHO_REQ, with the turnaround in ROOT cycles of the answer (R478). -/
  | echoReq (f : SyncFrame) (turnaround : W32)
  /-- ECHO_RSP, with t1 and t4 in ROOT cycles (R478). -/
  | echoRsp (f : SyncFrame) (t1 t4 : W64)
  /-- SYNC_ECHO_TIMER (R478). -/
  | syncEchoTimer
  /-- SYNC_TIME_TIMER (R479). -/
  | syncTimeTimer
  /-- SYNC_LOSS on the DN (false) or the UP (true) pair (R480). -/
  | syncLoss (up : Bool)
  /-- ESTOP_RAISE: `ESTOP_CONTROL` written 1 (R483). -/
  | estopRaise
  /-- ESTOP_REPEAT (R483). -/
  | estopRepeat
  /-- ESTOP_CLEAR: `ESTOP_CONTROL` written 2 (R483). -/
  | estopClear
  /-- BAD_OPCODE: a descriptor whose opcode is not in R51 issues (R51). -/
  | badOpcode (q : IssueAt)
  /-- HOLDUP_CHARGED, with the charge time from 10 V to 50 V in µs and whether 50 V was reached (R461, R463). -/
  | holdupCharged (micros : W32) (reached : Bool)
  /-- PERST_DEASSERT (R472). -/
  | perstDeassert
  /-- PCIE_LINK_UP with the negotiated width and rate code (R432). -/
  | pcieLinkUp (width : Byte) (rate : BitVec 4)
  /-- VF_ENABLE of function f (R409). -/
  | vfEnable (f : CtxId)
  /-- MSIX_UNMASK of a vector of function f (R422). -/
  | msixUnmask (f : CtxId) (vec : Byte)
  /-- LANE_SYMBOL_RATE_WINDOW: the corrected symbols of a port's lanes in the second that ended (R358). -/
  | laneSymbolRateWindow (p : PortId) (l0 l1 l2 l3 : W32)
  /-- REFCLK_PRESENT (R473). -/
  | refclkPresent
  /-- SYNC_FRAME_DISCARD: with a failed CRC or code violation, or of an unknown type (R476). -/
  | syncFrameDiscard (crcBad : Bool)
deriving DecidableEq, Repr

end Sys2Proof
end

