-- ==== Sys2Proof/Decode.lean ====
section
/-! DEFINITION. The words of the commands. The opcode table gives no row a bit, so no word spells a command. -/

namespace Sys2Proof

/-- The command that a word of the opcode table spells: none, since the table gives no row bits. -/
def decodeTableWord (_nbits _w : Nat) : Option Instr := none

end Sys2Proof
end

