-- ==== Sys2Proof/Config.lean ====
section
/-! DEFINITION. What a module is built with and what the manual leaves open: opaque constants, so that nothing proved
can rest on a value of one of them. -/

namespace Sys2Proof.Config

/-- The values fixed at manufacture (class Identity of R437), by an entry's index, subindex and element. -/
opaque identityRaw : Nat → Nat → Nat → W64

/-- A value that the manual leaves undetermined, by the number of free values taken before it. -/
opaque freeWord : Nat → W64

/-- A byte of data that the manual leaves undetermined, by the number of free values taken before it. -/
opaque freeByte : Nat → Byte

/-- The class of a Kyofepra vector operator, by its first 64 bytes. -/
opaque vecKind : List Byte → Nat

/-- What a vector operator gives from its inputs (its own bytes, the descriptor, the seed, the step and the source block): the
bytes of a block, the partial result of a block that it reduces, and how many elements of a block it counts in a counter. -/
opaque vecByte : List Byte → Nat → Byte
opaque vecPart : List Byte → W64
opaque vecCount : List Byte → Nat → Nat

/-- What a reducing operator makes of two partial results, by its first 64 bytes. -/
opaque vecFold : List Byte → W64 → W64 → W64

/-- R168: the position of a dropout operator's first element in its activation tensor, by the operator and the descriptor. -/
opaque vecBase : List Byte → Nat

/-- R328: what a byte of a scratch window holds after a change of `CC_SCRATCH_WAYS`, by the number of that change and the
byte's physical address. -/
opaque scratchByte : Nat → Nat → Byte

/-- R336: how old the cached translation is that serves the access numbered by the free-value counter, at a virtual page. -/
opaque cachedAt : Nat → Nat → Nat

/-- R35: `SERIAL_NUMBER` is 16 characters, each a digit or an uppercase letter. -/
def serialChar (e : Nat) : Byte :=
  let x := (identityRaw 0x1000 1 e).toNat % 36
  if x < 10 then BitVec.ofNat 8 (0x30 + x) else BitVec.ofNat 8 (0x41 + (x - 10))

/-- R35: `SILICON_STEPPING` is an uppercase letter and then a digit. -/
def steppingChar (e : Nat) : Byte :=
  let x := (identityRaw 0x1000 2 e).toNat
  if e = 0 then BitVec.ofNat 8 (0x41 + x % 26) else BitVec.ofNat 8 (0x30 + x % 10)

/-- R506: `BOARD_REV` is an uppercase letter and then a digit. -/
def boardChar (e : Nat) : Byte :=
  let x := (identityRaw 0x1002 1 e).toNat
  if e = 0 then BitVec.ofNat 8 (0x41 + x % 26) else BitVec.ofNat 8 (0x30 + x % 10)

/-- R135: an element of `ENGINE_SPARES` holds 0 to 4 spare rows and 0 to 4 spare columns. -/
def spareLines (e : Nat) : Byte :=
  let x := (identityRaw 0x4001 0 e).toNat
  BitVec.ofNat 8 (x % 5 * 16 + x / 5 % 5)

/-- R35: `FIRMWARE_VERSION` has a major number of 1 to 255 in bits [31:24]. -/
def firmwareVersion : W32 :=
  let x := (identityRaw 0x1000 3 0).toNat
  BitVec.ofNat 32 ((1 + x % 255) * 2 ^ 24 + x / 255 % 2 ^ 24)

/-- R458: `MGMT_MAC` is 48 bits wide, and bits 0 and 1 of its first octet, bits [47:40], are 0. -/
def mgmtMac : W64 := identityRaw 0x1000 4 0 &&& 0x0000FCFFFFFFFFFF#64

end Sys2Proof.Config
end

