-- ==== Sys2Proof/Machine/Objects.lean ====
section
/-! DEFINITION. The object dictionary of the TG1 (R434, R435, R455), one constructor of `Obj` for each entry of the
object tables of the chapters, under the manual's name, and the registers of the BAR0 context page (R412). -/

namespace Sys2Proof.Machine

/-- The entries of the object dictionary and the context-page registers. A docstring would only repeat the name: the
rule that names each entry stands beside its row in `Obj.info`. -/
inductive Obj where
  | orderCode
  | serialNumber
  | siliconStepping
  | firmwareVersion
  | dieCount
  | clustersActive
  | enginesActiveLo
  | enginesActiveHi
  | hbmStacksPresent
  | hbmCapacity
  | shexonPortsPresent
  | sramTotalMib
  | ctxState
  | ctxStatus
  | ctxControl
  | ctxPartitions
  | ctxStep
  | cmdRejectCnt
  | cmdFailCnt
  | cmdParkCnt
  | logOverrunCnt
  | pacePlanVa
  | paceWindow
  | paceRunahead
  | paceStatus
  | paceSlot
  | paceLag
  | paceBermLeft
  | paceMaxLag
  | pacePlanId
  | commitTimeout
  | lastToken
  | lateSlotCnt
  | lateStepCnt
  | overflowSegCnt
  | runaheadDiscardCnt
  | stepMismatchCnt
  | fmtStatus
  | reservedCodeCnt
  | subnormFlushCnt
  | engineSpares
  | arrayStatus
  | sparseDropCnt
  | feedHoldCnt
  | gangExcludeLo
  | gangExcludeHi
  | dikeSplit
  | clusterRetire
  | dikeOwner
  | gangStatus
  | maskMissCnt
  | maskWasteCnt
  | maskReplayCnt
  | specWaitCnt
  | mcastStallCnt
  | dikeFaultCnt
  | precStatus
  | consK
  | consTableVa
  | consLevel
  | divergeLocal
  | divergeDomain
  | satCnt
  | ovfCnt
  | nanCnt
  | scaleClampCnt
  | consTileCnt
  | divergeCnt
  | consSkipCnt
  | promoteCnt
  | consCapCnt
  | residueClampCnt
  | streamEdfHorizon
  | portBudget
  | portAdmitted
  | streamEngineState
  | streamStatus
  | mcastTableVa
  | lastMiss
  | deadlineMissCnt
  | rearmCnt
  | rearmOvfCnt
  | admitRefuseCnt
  | streamIdxDropCnt
  | creditWaitCnt
  | sluiceEmptyCnt
  | barTable
  | queueStatus
  | barExcessCnt
  | queueMisuseCnt
  | queueRewindCnt
  | samplerBusy
  | sampleStatus
  | sampleTrails
  | sampleDropCnt
  | graphErrCnt
  | sampledEdgeCnt
  | trailHdrFailCnt
  | splitLen
  | gatherPrefetchMib
  | gatherStatus
  | dropIdxCnt
  | gatherNanCnt
  | splitSegCnt
  | prefetchHitCnt
  | prefetchDiscardCnt
  | coalRowCnt
  | vitPending
  | embStatus
  | embRegistry
  | vitLoadCnt
  | vitEvictCnt
  | vitStaleCnt
  | vitRecopyCnt
  | vitFullCnt
  | vitAbandonCnt
  | vitDropCnt
  | vitPendWaitCnt
  | vitHitCnt
  | updBusy
  | updStatus
  | stepEta
  | stepSched
  | stepLossScale
  | updDigest
  | lastSkippedStep
  | lastPoisonRank
  | frozenSkipCnt
  | skippedStepCnt
  | poisonLocalCnt
  | updNonfiniteCnt
  | trustGuardCnt
  | updBlockCnt
  | hbmUsable
  | hbmRetired
  | hbmRetire
  | retireState
  | polderTable
  | ccScratchWays
  | hbmScrubHours
  | pcDegradeThresh
  | eccCorrCnt
  | eccUeCnt
  | eccLastUe
  | hbmPcCorr
  | hbmPoisonCnt
  | memStatus
  | mmuStatus
  | ptRoot
  | faultQueueVa
  | faultHead
  | faultResume
  | mmuInval
  | saveVa
  | preemptLat
  | pageFaultCnt
  | polderDenyCnt
  | faultqOvfCnt
  | preemptCnt
  | saveBadCnt
  | shxDomainId
  | shxRank
  | shxCoord
  | torusDims
  | rankMap
  | members
  | epoch
  | faultSet
  | shxCollTimeout
  | shxHopTimeout
  | mcastPruneCycles
  | shxApplyGuard
  | globalTime
  | timeSource
  | timeOffset
  | domainApply
  | domainApplyResult
  | stageId
  | shxStatus
  | shxTunnelTimeout
  | portalMode
  | portalGroup
  | portalAux
  | laneDegradeThresh
  | lastCollAbort
  | portState
  | laneDisable
  | portPeer
  | fecCorrSymCnt
  | fecUncorrCnt
  | replayCnt
  | linkDownCnt
  | shxMcastVa
  | fabricDropCnt
  | collAbortCnt
  | sparseOvfCnt
  | mcastPruneCnt
  | mcastPrunedCnt
  | laneSpareCnt
  | linkMiswireCnt
  | applyMissCnt
  | timeStepCnt
  | tunnelTimeoutCnt
  | depotPa
  | depotSlotBytes
  | partnerMap
  | pwrDomain
  | loanCoords
  | sharedStripes
  | recoveryReason
  | fenceState
  | fenceControl
  | fenceVoteWindow
  | snapSeq
  | lastSnapStep
  | snapCost
  | snapMtbf
  | snapMtbfInit
  | lastFailTime
  | stepTime
  | snapInterval
  | snapMinSteps
  | snapMaxSteps
  | restoreReq
  | restoreState
  | provReq
  | provResult
  | survStatus
  | logPa
  | logRingEntries
  | uniqueManifestVa
  | sharedManifestVa
  | outImageVa
  | snapshotCnt
  | freezeFailCnt
  | depotRefuseCnt
  | mismatchReportCnt
  | fenceCnt
  | failureEventCnt
  | loanCnt
  | restoreFailCnt
  | provMismatchCnt
  | provRecopyCnt
  | lateReportCnt
  | pciIds
  | hostLink
  | portalSelf
  | hostStatus
  | hostCtxStatus
  | doorbellErrCnt
  | cqFullWaitCnt
  | winErrCnt
  | hostDmaErrCnt
  | tunnelRejectCnt
  | mgmtMac
  | igcorVersion
  | eventNextSeq
  | igcorRxCnt
  | igcorDropCnt
  | igcorRefuseCnt
  | igcorDupCnt
  | checkFailCnt
  | applyCnt
  | applyCancelCnt
  | persistFailCnt
  | plcaNodeId
  | plcaNodeCount
  | plcaToTimer
  | mgmtWriters
  | eventNotify
  | igcorStatus
  | stageState
  | stageGen
  | stageArmed
  | lastCheck
  | pwrState
  | pwrStatus
  | resetCause
  | inputMv
  | inputMw
  | stbyMv
  | holdupMv
  | holdupUf
  | powerCap
  | tjMaxC
  | coolantInC
  | tjThrottleC
  | moduleReset
  | refSelect
  | refState
  | srSummary
  | srExport
  | sagSeq
  | srReported
  | syncHead
  | syncPos
  | syncHopDelay
  | syncStep
  | syncStepLag
  | estopControl
  | sagGlitchCnt
  | throttleCycleCnt
  | supplyWarnCnt
  | syncCrcCnt
  | syncLossCnt
  | estopCnt
  | stepLagCnt
  | slotId
  | boardRev
  | sqTail
  | cqHead
  | sqBase
  | sqCfg
  | cqBase
  | cqCfg
  | sqHead
  | cqTail
  | winBase
  | irqHoldoff
  | eventMask
  | mbxCtrl
  | mbxRespLen
  | mbxReq
  | mbxResp
  | msixTable
  | msixPba
deriving DecidableEq, Repr

/-- How an entry is addressed (R434, R455): once per module, at base + n for context n, at base + p for port p, at
subindex n for context n, or at an offset of the context page of function n (R412). -/
inductive ObjForm where
  | module
  | ctx
  | port
  | sub
  | page
deriving DecidableEq, Repr

/-- The entry types of R435. -/
inductive ObjTy where
  | bool | u8 | u16 | u32 | u64 | i8 | i16 | i32 | i64 | f32 | str | domain | array
deriving DecidableEq, Repr

/-- The access codes of R11. -/
inductive Acc where
  | ro | rw | wo | rws
deriving DecidableEq, Repr

/-- The persistence classes of R437. -/
inductive Persist where
  | volatile | persistent | strongroom | identity
deriving DecidableEq, Repr

/-- One row of the object tables: address, form, type, element type, element size in bytes, element count, access,
class and the default of every element. -/
structure ObjInfo where
  index : Nat
  sub   : Nat
  form  : ObjForm
  ty    : ObjTy
  elTy  : ObjTy
  size  : Nat
  count : Nat
  acc   : Acc
  cls   : Persist
  dflt  : Nat
deriving DecidableEq, Repr


/-- Rows of the object table of the file 01_architecture.md. -/
def objRows1 : List (Obj × ObjInfo) := [
  (.orderCode, ⟨0x1000, 0, .module, .str, .u8, 1, 12, .ro, .volatile, 0⟩), -- R35
  (.serialNumber, ⟨0x1000, 1, .module, .str, .u8, 1, 16, .ro, .identity, 0⟩), -- R35
  (.siliconStepping, ⟨0x1000, 2, .module, .str, .u8, 1, 2, .ro, .identity, 0⟩), -- R35
  (.firmwareVersion, ⟨0x1000, 3, .module, .u32, .u32, 4, 1, .ro, .identity, 0⟩), -- R35
  (.dieCount, ⟨0x1001, 0, .module, .u8, .u8, 1, 1, .ro, .volatile, 4⟩), -- R35
  (.clustersActive, ⟨0x1001, 1, .module, .u32, .u32, 4, 1, .ro, .volatile, 4294967295⟩), -- R35
  (.enginesActiveLo, ⟨0x1001, 2, .module, .u64, .u64, 8, 1, .ro, .volatile, 18446744073709551615⟩), -- R35
  (.enginesActiveHi, ⟨0x1001, 3, .module, .u64, .u64, 8, 1, .ro, .volatile, 18446744073709551615⟩), -- R35
  (.hbmStacksPresent, ⟨0x1001, 4, .module, .u32, .u32, 4, 1, .ro, .volatile, 16777215⟩), -- R35
  (.hbmCapacity, ⟨0x1001, 5, .module, .u64, .u64, 8, 1, .ro, .volatile, 2473901162496⟩), -- R35
  (.shexonPortsPresent, ⟨0x1001, 6, .module, .u16, .u16, 2, 1, .ro, .volatile, 16383⟩), -- R35
  (.sramTotalMib, ⟨0x1001, 7, .module, .u32, .u32, 4, 1, .ro, .volatile, 2176⟩)] -- R35

/-- Rows of the object table of the file 02_work_model.md. -/
def objRows2 : List (Obj × ObjInfo) := [
  (.ctxState, ⟨0xB100, 0, .ctx, .u8, .u8, 1, 1, .ro, .volatile, 0⟩), -- R62
  (.ctxStatus, ⟨0xB100, 1, .ctx, .u32, .u32, 4, 1, .rw, .volatile, 0⟩), -- R62
  (.ctxControl, ⟨0xB100, 2, .ctx, .u8, .u8, 1, 1, .wo, .volatile, 0⟩), -- R62
  (.ctxPartitions, ⟨0xB100, 3, .ctx, .u32, .u32, 4, 1, .rws, .volatile, 0⟩), -- R62
  (.ctxStep, ⟨0xB100, 4, .ctx, .u64, .u64, 8, 1, .rw, .volatile, 0⟩), -- R62
  (.cmdRejectCnt, ⟨0xA010, 0, .sub, .u32, .u32, 4, 1, .ro, .volatile, 0⟩), -- R62
  (.cmdFailCnt, ⟨0xA011, 0, .sub, .u32, .u32, 4, 1, .ro, .volatile, 0⟩), -- R62
  (.cmdParkCnt, ⟨0xA012, 0, .sub, .u32, .u32, 4, 1, .ro, .volatile, 0⟩), -- R62
  (.logOverrunCnt, ⟨0xA013, 0, .sub, .u32, .u32, 4, 1, .ro, .volatile, 0⟩)] -- R62

/-- Rows of the object table of the file 03_step_schedule.md. -/
def objRows3 : List (Obj × ObjInfo) := [
  (.pacePlanVa, ⟨0xB200, 0, .ctx, .u64, .u64, 8, 1, .rws, .volatile, 0⟩), -- R84
  (.paceWindow, ⟨0xB200, 1, .ctx, .u8, .u8, 1, 1, .rw, .volatile, 2⟩), -- R84
  (.paceRunahead, ⟨0xB200, 2, .ctx, .u8, .u8, 1, 1, .rws, .volatile, 2⟩), -- R84
  (.paceStatus, ⟨0xB200, 3, .ctx, .u32, .u32, 4, 1, .rw, .volatile, 0⟩), -- R84
  (.paceSlot, ⟨0xB200, 4, .ctx, .u16, .u16, 2, 1, .ro, .volatile, 0⟩), -- R84
  (.paceLag, ⟨0xB200, 5, .ctx, .u32, .u32, 4, 1, .ro, .volatile, 0⟩), -- R84
  (.paceBermLeft, ⟨0xB200, 6, .ctx, .u64, .u64, 8, 1, .ro, .volatile, 0⟩), -- R84
  (.paceMaxLag, ⟨0xB200, 7, .ctx, .u32, .u32, 4, 1, .ro, .volatile, 0⟩), -- R84
  (.pacePlanId, ⟨0xB200, 8, .ctx, .u32, .u32, 4, 1, .ro, .volatile, 0⟩), -- R84
  (.commitTimeout, ⟨0xB200, 9, .ctx, .u32, .u32, 4, 1, .rw, .volatile, 500000000⟩), -- R84
  (.lastToken, ⟨0xB200, 10, .ctx, .domain, .u8, 1, 64, .ro, .volatile, 0⟩), -- R84
  (.lateSlotCnt, ⟨0xA020, 0, .sub, .u32, .u32, 4, 1, .ro, .volatile, 0⟩), -- R84
  (.lateStepCnt, ⟨0xA021, 0, .sub, .u32, .u32, 4, 1, .ro, .volatile, 0⟩), -- R84
  (.overflowSegCnt, ⟨0xA022, 0, .sub, .u32, .u32, 4, 1, .ro, .volatile, 0⟩), -- R84
  (.runaheadDiscardCnt, ⟨0xA023, 0, .sub, .u32, .u32, 4, 1, .ro, .volatile, 0⟩), -- R84
  (.stepMismatchCnt, ⟨0xA024, 0, .sub, .u32, .u32, 4, 1, .ro, .volatile, 0⟩)] -- R84

/-- Rows of the object table of the file 04_crilet_formats.md. -/
def objRows4 : List (Obj × ObjInfo) := [
  (.fmtStatus, ⟨0x4100, 0, .ctx, .u32, .u32, 4, 1, .rw, .volatile, 0⟩), -- R109
  (.reservedCodeCnt, ⟨0xA030, 0, .sub, .u32, .u32, 4, 1, .ro, .volatile, 0⟩), -- R109
  (.subnormFlushCnt, ⟨0xA031, 0, .sub, .u32, .u32, 4, 1, .ro, .volatile, 0⟩)] -- R109

/-- Rows of the object table of the file 05_matrix_engine.md. -/
def objRows5 : List (Obj × ObjInfo) := [
  (.engineSpares, ⟨0x4001, 0, .module, .array, .u8, 1, 128, .ro, .identity, 0⟩), -- R135
  (.arrayStatus, ⟨0x4200, 0, .ctx, .u32, .u32, 4, 1, .rw, .volatile, 0⟩), -- R135
  (.sparseDropCnt, ⟨0xA040, 0, .sub, .u32, .u32, 4, 1, .ro, .volatile, 0⟩), -- R135
  (.feedHoldCnt, ⟨0xA041, 0, .sub, .u32, .u32, 4, 1, .ro, .volatile, 0⟩)] -- R135

/-- Rows of the object table of the file 06_array_operations.md. -/
def objRows6 : List (Obj × ObjInfo) := [
  (.gangExcludeLo, ⟨0x4002, 0, .module, .u64, .u64, 8, 1, .rws, .volatile, 0⟩), -- R161
  (.gangExcludeHi, ⟨0x4002, 1, .module, .u64, .u64, 8, 1, .rws, .volatile, 0⟩), -- R161
  (.dikeSplit, ⟨0x4003, 0, .module, .u8, .u8, 1, 1, .rws, .volatile, 1⟩), -- R161
  (.clusterRetire, ⟨0x4003, 1, .module, .u32, .u32, 4, 1, .rws, .volatile, 0⟩), -- R161
  (.dikeOwner, ⟨0x4004, 0, .module, .array, .u8, 1, 32, .ro, .volatile, 0⟩), -- R161
  (.gangStatus, ⟨0x4500, 0, .ctx, .u32, .u32, 4, 1, .rw, .volatile, 0⟩), -- R161
  (.maskMissCnt, ⟨0xA042, 0, .sub, .u32, .u32, 4, 1, .ro, .volatile, 0⟩), -- R161
  (.maskWasteCnt, ⟨0xA043, 0, .sub, .u32, .u32, 4, 1, .ro, .volatile, 0⟩), -- R161
  (.maskReplayCnt, ⟨0xA044, 0, .sub, .u32, .u32, 4, 1, .ro, .volatile, 0⟩), -- R161
  (.specWaitCnt, ⟨0xA045, 0, .sub, .u32, .u32, 4, 1, .ro, .volatile, 0⟩), -- R161
  (.mcastStallCnt, ⟨0xA046, 0, .sub, .u32, .u32, 4, 1, .ro, .volatile, 0⟩), -- R161
  (.dikeFaultCnt, ⟨0xA047, 0, .sub, .u32, .u32, 4, 1, .ro, .volatile, 0⟩)] -- R161

/-- Rows of the object table of the file 07_precision_safeguards.md. -/
def objRows7 : List (Obj × ObjInfo) := [
  (.precStatus, ⟨0x4300, 0, .ctx, .u32, .u32, 4, 1, .rw, .volatile, 0⟩), -- R179
  (.consK, ⟨0x4300, 1, .ctx, .u8, .u8, 1, 1, .rws, .volatile, 10⟩), -- R179
  (.consTableVa, ⟨0x4300, 2, .ctx, .u64, .u64, 8, 1, .rws, .volatile, 0⟩), -- R179
  (.consLevel, ⟨0x4300, 3, .ctx, .array, .u8, 1, 256, .rws, .volatile, 0⟩), -- R179
  (.divergeLocal, ⟨0x4300, 4, .ctx, .domain, .u8, 1, 32, .ro, .volatile, 0⟩), -- R179
  (.divergeDomain, ⟨0x4300, 5, .ctx, .domain, .u8, 1, 32, .ro, .volatile, 0⟩), -- R179
  (.satCnt, ⟨0xA050, 0, .sub, .u32, .u32, 4, 1, .ro, .volatile, 0⟩), -- R179
  (.ovfCnt, ⟨0xA051, 0, .sub, .u32, .u32, 4, 1, .ro, .volatile, 0⟩), -- R179
  (.nanCnt, ⟨0xA052, 0, .sub, .u32, .u32, 4, 1, .ro, .volatile, 0⟩), -- R179
  (.scaleClampCnt, ⟨0xA053, 0, .sub, .u32, .u32, 4, 1, .ro, .volatile, 0⟩), -- R179
  (.consTileCnt, ⟨0xA054, 0, .sub, .u32, .u32, 4, 1, .ro, .volatile, 0⟩), -- R179
  (.divergeCnt, ⟨0xA055, 0, .sub, .u32, .u32, 4, 1, .ro, .volatile, 0⟩), -- R179
  (.consSkipCnt, ⟨0xA056, 0, .sub, .u32, .u32, 4, 1, .ro, .volatile, 0⟩), -- R179
  (.promoteCnt, ⟨0xA057, 0, .sub, .u32, .u32, 4, 1, .ro, .volatile, 0⟩), -- R179
  (.consCapCnt, ⟨0xA058, 0, .sub, .u32, .u32, 4, 1, .ro, .volatile, 0⟩), -- R179
  (.residueClampCnt, ⟨0xA059, 0, .sub, .u32, .u32, 4, 1, .ro, .volatile, 0⟩)] -- R179

/-- Rows of the object table of the file 08_stream_programs.md. -/
def objRows8 : List (Obj × ObjInfo) := [
  (.streamEdfHorizon, ⟨0x5000, 0, .module, .u32, .u32, 4, 1, .rw, .volatile, 2048⟩), -- R211
  (.portBudget, ⟨0x5000, 1, .module, .array, .u32, 4, 202, .ro, .volatile, 0⟩), -- R211
  (.portAdmitted, ⟨0x5000, 2, .module, .array, .u32, 4, 202, .ro, .volatile, 0⟩), -- R211
  (.streamEngineState, ⟨0x5000, 3, .module, .array, .u8, 1, 512, .ro, .volatile, 0⟩), -- R211
  (.streamStatus, ⟨0x5100, 0, .ctx, .u32, .u32, 4, 1, .rw, .volatile, 0⟩), -- R211
  (.mcastTableVa, ⟨0x5100, 1, .ctx, .u64, .u64, 8, 1, .rws, .volatile, 0⟩), -- R211
  (.lastMiss, ⟨0x5100, 2, .ctx, .u32, .u32, 4, 1, .ro, .volatile, 0⟩), -- R211
  (.deadlineMissCnt, ⟨0xA060, 0, .sub, .u32, .u32, 4, 1, .ro, .volatile, 0⟩), -- R211
  (.rearmCnt, ⟨0xA061, 0, .sub, .u32, .u32, 4, 1, .ro, .volatile, 0⟩), -- R211
  (.rearmOvfCnt, ⟨0xA062, 0, .sub, .u32, .u32, 4, 1, .ro, .volatile, 0⟩), -- R211
  (.admitRefuseCnt, ⟨0xA063, 0, .sub, .u32, .u32, 4, 1, .ro, .volatile, 0⟩), -- R211
  (.streamIdxDropCnt, ⟨0xA064, 0, .sub, .u32, .u32, 4, 1, .ro, .volatile, 0⟩), -- R211
  (.creditWaitCnt, ⟨0xA065, 0, .sub, .u32, .u32, 4, 1, .ro, .volatile, 0⟩), -- R211
  (.sluiceEmptyCnt, ⟨0xA066, 0, .sub, .u32, .u32, 4, 1, .ro, .volatile, 0⟩)] -- R211

/-- Rows of the object table of the file 09_queues_barriers.md. -/
def objRows9 : List (Obj × ObjInfo) := [
  (.barTable, ⟨0x5200, 0, .ctx, .array, .u64, 8, 255, .ro, .volatile, 0⟩), -- R236
  (.queueStatus, ⟨0x5200, 1, .ctx, .u32, .u32, 4, 1, .rw, .volatile, 0⟩), -- R236
  (.barExcessCnt, ⟨0xA070, 0, .sub, .u32, .u32, 4, 1, .ro, .volatile, 0⟩), -- R236
  (.queueMisuseCnt, ⟨0xA071, 0, .sub, .u32, .u32, 4, 1, .ro, .volatile, 0⟩), -- R236
  (.queueRewindCnt, ⟨0xA072, 0, .sub, .u32, .u32, 4, 1, .ro, .volatile, 0⟩)] -- R236

/-- Rows of the object table of the file 10_neighbourhood_sampling.md. -/
def objRows10 : List (Obj × ObjInfo) := [
  (.samplerBusy, ⟨0x6000, 0, .module, .u32, .u32, 4, 1, .ro, .volatile, 0⟩), -- R262
  (.sampleStatus, ⟨0x6100, 0, .ctx, .u32, .u32, 4, 1, .rw, .volatile, 0⟩), -- R262
  (.sampleTrails, ⟨0x6100, 1, .ctx, .u16, .u16, 2, 1, .ro, .volatile, 0⟩), -- R262
  (.sampleDropCnt, ⟨0xA080, 0, .sub, .u32, .u32, 4, 1, .ro, .volatile, 0⟩), -- R262
  (.graphErrCnt, ⟨0xA081, 0, .sub, .u32, .u32, 4, 1, .ro, .volatile, 0⟩), -- R262
  (.sampledEdgeCnt, ⟨0xA082, 0, .sub, .u64, .u64, 8, 1, .ro, .volatile, 0⟩), -- R262
  (.trailHdrFailCnt, ⟨0xA083, 0, .sub, .u32, .u32, 4, 1, .ro, .volatile, 0⟩)] -- R262

/-- Rows of the object table of the file 11_gather_scatter.md. -/
def objRows11 : List (Obj × ObjInfo) := [
  (.splitLen, ⟨0x6002, 0, .module, .u32, .u32, 4, 1, .rws, .volatile, 4096⟩), -- R283
  (.gatherPrefetchMib, ⟨0x6002, 1, .module, .u8, .u8, 1, 1, .rw, .volatile, 4⟩), -- R283
  (.gatherStatus, ⟨0x6300, 0, .ctx, .u32, .u32, 4, 1, .rw, .volatile, 0⟩), -- R283
  (.dropIdxCnt, ⟨0xA090, 0, .sub, .u32, .u32, 4, 1, .ro, .volatile, 0⟩), -- R283
  (.gatherNanCnt, ⟨0xA091, 0, .sub, .u32, .u32, 4, 1, .ro, .volatile, 0⟩), -- R283
  (.splitSegCnt, ⟨0xA092, 0, .sub, .u32, .u32, 4, 1, .ro, .volatile, 0⟩), -- R283
  (.prefetchHitCnt, ⟨0xA093, 0, .sub, .u32, .u32, 4, 1, .ro, .volatile, 0⟩), -- R283
  (.prefetchDiscardCnt, ⟨0xA094, 0, .sub, .u32, .u32, 4, 1, .ro, .volatile, 0⟩), -- R283
  (.coalRowCnt, ⟨0xA095, 0, .sub, .u64, .u64, 8, 1, .ro, .volatile, 0⟩)] -- R283

/-- Rows of the object table of the file 12_embedding_collections.md. -/
def objRows12 : List (Obj × ObjInfo) := [
  (.vitPending, ⟨0x6003, 0, .module, .array, .u32, 4, 4, .ro, .volatile, 0⟩), -- R302
  (.embStatus, ⟨0x6500, 0, .ctx, .u32, .u32, 4, 1, .rw, .volatile, 0⟩), -- R302
  (.embRegistry, ⟨0x6500, 1, .ctx, .array, .u64, 8, 16, .rws, .volatile, 0⟩), -- R302
  (.vitLoadCnt, ⟨0xA0A0, 0, .sub, .u32, .u32, 4, 1, .ro, .volatile, 0⟩), -- R302
  (.vitEvictCnt, ⟨0xA0A1, 0, .sub, .u32, .u32, 4, 1, .ro, .volatile, 0⟩), -- R302
  (.vitStaleCnt, ⟨0xA0A2, 0, .sub, .u32, .u32, 4, 1, .ro, .volatile, 0⟩), -- R302
  (.vitRecopyCnt, ⟨0xA0A3, 0, .sub, .u32, .u32, 4, 1, .ro, .volatile, 0⟩), -- R302
  (.vitFullCnt, ⟨0xA0A4, 0, .sub, .u32, .u32, 4, 1, .ro, .volatile, 0⟩), -- R302
  (.vitAbandonCnt, ⟨0xA0A5, 0, .sub, .u32, .u32, 4, 1, .ro, .volatile, 0⟩), -- R302
  (.vitDropCnt, ⟨0xA0A6, 0, .sub, .u32, .u32, 4, 1, .ro, .volatile, 0⟩), -- R302
  (.vitPendWaitCnt, ⟨0xA0A7, 0, .sub, .u32, .u32, 4, 1, .ro, .volatile, 0⟩), -- R302
  (.vitHitCnt, ⟨0xA0A8, 0, .sub, .u64, .u64, 8, 1, .ro, .volatile, 0⟩)] -- R302

/-- Rows of the object table of the file 13_parameter_update.md. -/
def objRows13 : List (Obj × ObjInfo) := [
  (.updBusy, ⟨0x7000, 0, .module, .u32, .u32, 4, 1, .ro, .volatile, 0⟩), -- R323
  (.updStatus, ⟨0x7100, 0, .ctx, .u32, .u32, 4, 1, .rw, .volatile, 0⟩), -- R323
  (.stepEta, ⟨0x7100, 1, .ctx, .f32, .f32, 4, 1, .ro, .volatile, 0⟩), -- R323
  (.stepSched, ⟨0x7100, 2, .ctx, .array, .f32, 4, 16, .ro, .volatile, 0⟩), -- R323
  (.stepLossScale, ⟨0x7100, 3, .ctx, .f32, .f32, 4, 1, .ro, .volatile, 0⟩), -- R323
  (.updDigest, ⟨0x7100, 4, .ctx, .u64, .u64, 8, 1, .rw, .volatile, 0⟩), -- R323
  (.lastSkippedStep, ⟨0x7100, 5, .ctx, .u64, .u64, 8, 1, .ro, .volatile, 0⟩), -- R323
  (.lastPoisonRank, ⟨0x7100, 6, .ctx, .u16, .u16, 2, 1, .ro, .volatile, 65535⟩), -- R323
  (.frozenSkipCnt, ⟨0xA0B0, 0, .sub, .u32, .u32, 4, 1, .ro, .volatile, 0⟩), -- R323
  (.skippedStepCnt, ⟨0xA0B1, 0, .sub, .u32, .u32, 4, 1, .ro, .volatile, 0⟩), -- R323
  (.poisonLocalCnt, ⟨0xA0B2, 0, .sub, .u32, .u32, 4, 1, .ro, .volatile, 0⟩), -- R323
  (.updNonfiniteCnt, ⟨0xA0B3, 0, .sub, .u32, .u32, 4, 1, .ro, .volatile, 0⟩), -- R323
  (.trustGuardCnt, ⟨0xA0B4, 0, .sub, .u32, .u32, 4, 1, .ro, .volatile, 0⟩), -- R323
  (.updBlockCnt, ⟨0xA0B5, 0, .sub, .u64, .u64, 8, 1, .ro, .volatile, 0⟩)] -- R323

/-- Rows of the object table of the file 14_memory_translation.md. -/
def objRows14 : List (Obj × ObjInfo) := [
  (.hbmUsable, ⟨0x3000, 0, .module, .array, .u64, 8, 4, .ro, .persistent, 618475290624⟩), -- R350
  (.hbmRetired, ⟨0x3000, 1, .module, .array, .u16, 2, 16, .ro, .persistent, 0⟩), -- R350
  (.hbmRetire, ⟨0x3000, 2, .module, .u16, .u16, 2, 1, .rws, .volatile, 0⟩), -- R350
  (.retireState, ⟨0x3000, 3, .module, .array, .u8, 1, 4, .ro, .volatile, 0⟩), -- R350
  (.polderTable, ⟨0x3000, 4, .module, .array, .u64, 8, 1024, .rws, .volatile, 0⟩), -- R350
  (.ccScratchWays, ⟨0x3000, 5, .module, .u8, .u8, 1, 1, .rws, .volatile, 0⟩), -- R350
  (.hbmScrubHours, ⟨0x3000, 6, .module, .u16, .u16, 2, 1, .rw, .volatile, 24⟩), -- R350
  (.pcDegradeThresh, ⟨0x3000, 7, .module, .u32, .u32, 4, 1, .rw, .volatile, 1024⟩), -- R350
  (.eccCorrCnt, ⟨0x3000, 8, .module, .array, .u64, 8, 8, .ro, .volatile, 0⟩), -- R350
  (.eccUeCnt, ⟨0x3000, 9, .module, .array, .u32, 4, 8, .ro, .volatile, 0⟩), -- R350
  (.eccLastUe, ⟨0x3000, 10, .module, .domain, .u8, 1, 16, .ro, .volatile, 0⟩), -- R350
  (.hbmPcCorr, ⟨0x3000, 11, .module, .array, .u32, 4, 1536, .ro, .volatile, 0⟩), -- R350
  (.hbmPoisonCnt, ⟨0x3000, 12, .module, .u32, .u32, 4, 1, .ro, .volatile, 0⟩), -- R350
  (.memStatus, ⟨0x3000, 13, .module, .u32, .u32, 4, 1, .rw, .volatile, 0⟩), -- R350
  (.mmuStatus, ⟨0x3100, 0, .ctx, .u32, .u32, 4, 1, .rw, .volatile, 0⟩), -- R350
  (.ptRoot, ⟨0x3100, 1, .ctx, .u64, .u64, 8, 1, .rws, .volatile, 0⟩), -- R350
  (.faultQueueVa, ⟨0x3100, 2, .ctx, .u64, .u64, 8, 1, .rws, .volatile, 0⟩), -- R350
  (.faultHead, ⟨0x3100, 3, .ctx, .u32, .u32, 4, 1, .rw, .volatile, 0⟩), -- R350
  (.faultResume, ⟨0x3100, 4, .ctx, .u32, .u32, 4, 1, .wo, .volatile, 0⟩), -- R350
  (.mmuInval, ⟨0x3100, 5, .ctx, .domain, .u8, 1, 16, .wo, .volatile, 0⟩), -- R350
  (.saveVa, ⟨0x3100, 6, .ctx, .u64, .u64, 8, 1, .rws, .volatile, 0⟩), -- R350
  (.preemptLat, ⟨0x3100, 7, .ctx, .u32, .u32, 4, 1, .ro, .volatile, 0⟩), -- R350
  (.pageFaultCnt, ⟨0xA0C0, 0, .sub, .u32, .u32, 4, 1, .ro, .volatile, 0⟩), -- R350
  (.polderDenyCnt, ⟨0xA0C1, 0, .sub, .u32, .u32, 4, 1, .ro, .volatile, 0⟩), -- R350
  (.faultqOvfCnt, ⟨0xA0C2, 0, .sub, .u32, .u32, 4, 1, .ro, .volatile, 0⟩), -- R350
  (.preemptCnt, ⟨0xA0C3, 0, .sub, .u32, .u32, 4, 1, .ro, .volatile, 0⟩), -- R350
  (.saveBadCnt, ⟨0xA0C4, 0, .sub, .u32, .u32, 4, 1, .ro, .volatile, 0⟩)] -- R350

/-- Rows of the object table of the file 15_shexon_fabric.md. -/
def objRows15 : List (Obj × ObjInfo) := [
  (.shxDomainId, ⟨0x8000, 0, .module, .u64, .u64, 8, 1, .rws, .persistent, 0⟩), -- R380
  (.shxRank, ⟨0x8000, 1, .module, .u16, .u16, 2, 1, .rws, .persistent, 0⟩), -- R380
  (.shxCoord, ⟨0x8000, 2, .module, .u16, .u16, 2, 1, .rws, .persistent, 0⟩), -- R380
  (.torusDims, ⟨0x8000, 3, .module, .u16, .u16, 2, 1, .rws, .persistent, 0⟩), -- R380
  (.rankMap, ⟨0x8000, 4, .module, .array, .u32, 4, 65536, .rws, .volatile, 0⟩), -- R380
  (.members, ⟨0x8000, 5, .module, .domain, .u8, 1, 8192, .rws, .volatile, 0⟩), -- R380
  (.epoch, ⟨0x8000, 6, .module, .u32, .u32, 4, 1, .ro, .volatile, 0⟩), -- R380
  (.faultSet, ⟨0x8000, 7, .module, .array, .u32, 4, 256, .rws, .volatile, 0⟩), -- R380
  (.shxCollTimeout, ⟨0x8000, 8, .module, .u32, .u32, 4, 1, .rw, .volatile, 100000000⟩), -- R380
  (.shxHopTimeout, ⟨0x8000, 9, .module, .u32, .u32, 4, 1, .rw, .volatile, 1000000⟩), -- R380
  (.mcastPruneCycles, ⟨0x8000, 10, .module, .u32, .u32, 4, 1, .rw, .volatile, 136000⟩), -- R380
  (.shxApplyGuard, ⟨0x8000, 11, .module, .u32, .u32, 4, 1, .rw, .volatile, 1000000⟩), -- R380
  (.globalTime, ⟨0x8000, 12, .module, .u64, .u64, 8, 1, .ro, .volatile, 0⟩), -- R380
  (.timeSource, ⟨0x8000, 13, .module, .u8, .u8, 1, 1, .rw, .volatile, 0⟩), -- R380
  (.timeOffset, ⟨0x8000, 14, .module, .i32, .i32, 4, 1, .ro, .volatile, 0⟩), -- R380
  (.domainApply, ⟨0x8000, 15, .module, .domain, .u8, 1, 16, .wo, .volatile, 0⟩), -- R380
  (.domainApplyResult, ⟨0x8000, 16, .module, .domain, .u8, 1, 16, .ro, .volatile, 0⟩), -- R380
  (.stageId, ⟨0x8000, 17, .module, .u32, .u32, 4, 1, .rws, .volatile, 0⟩), -- R380
  (.shxStatus, ⟨0x8000, 18, .module, .u32, .u32, 4, 1, .rw, .volatile, 0⟩), -- R380
  (.shxTunnelTimeout, ⟨0x8000, 19, .module, .u32, .u32, 4, 1, .rw, .volatile, 5000000⟩), -- R380
  (.portalMode, ⟨0x8000, 20, .module, .u8, .u8, 1, 1, .rws, .persistent, 0⟩), -- R380
  (.portalGroup, ⟨0x8000, 21, .module, .array, .u32, 4, 64, .rws, .persistent, 0⟩), -- R380
  (.portalAux, ⟨0x8000, 22, .module, .bool, .bool, 1, 1, .rws, .persistent, 0⟩), -- R380
  (.laneDegradeThresh, ⟨0x8000, 23, .module, .u32, .u32, 4, 1, .rw, .volatile, 1000000⟩), -- R380
  (.lastCollAbort, ⟨0x8000, 24, .module, .u32, .u32, 4, 1, .ro, .volatile, 0⟩), -- R380
  (.portState, ⟨0x8100, 0, .port, .u8, .u8, 1, 1, .ro, .volatile, 1⟩), -- R380
  (.laneDisable, ⟨0x8100, 1, .port, .u8, .u8, 1, 1, .rw, .volatile, 0⟩), -- R380
  (.portPeer, ⟨0x8100, 2, .port, .u32, .u32, 4, 1, .ro, .volatile, 0⟩), -- R380
  (.fecCorrSymCnt, ⟨0x8100, 3, .port, .u64, .u64, 8, 1, .ro, .volatile, 0⟩), -- R380
  (.fecUncorrCnt, ⟨0x8100, 4, .port, .u32, .u32, 4, 1, .ro, .volatile, 0⟩)] -- R380

/-- Rows of the object table of the file 15_shexon_fabric.md. -/
def objRows16 : List (Obj × ObjInfo) := [
  (.replayCnt, ⟨0x8100, 5, .port, .u32, .u32, 4, 1, .ro, .volatile, 0⟩), -- R380
  (.linkDownCnt, ⟨0x8100, 6, .port, .u32, .u32, 4, 1, .ro, .volatile, 0⟩), -- R380
  (.shxMcastVa, ⟨0x8200, 0, .ctx, .u64, .u64, 8, 1, .rws, .volatile, 0⟩), -- R380
  (.fabricDropCnt, ⟨0xA0D0, 0, .module, .u32, .u32, 4, 1, .ro, .volatile, 0⟩), -- R380
  (.collAbortCnt, ⟨0xA0D1, 0, .module, .u32, .u32, 4, 1, .ro, .volatile, 0⟩), -- R380
  (.sparseOvfCnt, ⟨0xA0D2, 0, .module, .u32, .u32, 4, 1, .ro, .volatile, 0⟩), -- R380
  (.mcastPruneCnt, ⟨0xA0D3, 0, .module, .u32, .u32, 4, 1, .ro, .volatile, 0⟩), -- R380
  (.mcastPrunedCnt, ⟨0xA0D4, 0, .module, .u32, .u32, 4, 1, .ro, .volatile, 0⟩), -- R380
  (.laneSpareCnt, ⟨0xA0D5, 0, .module, .u32, .u32, 4, 1, .ro, .volatile, 0⟩), -- R380
  (.linkMiswireCnt, ⟨0xA0D6, 0, .module, .u32, .u32, 4, 1, .ro, .volatile, 0⟩), -- R380
  (.applyMissCnt, ⟨0xA0D7, 0, .module, .u32, .u32, 4, 1, .ro, .volatile, 0⟩), -- R380
  (.timeStepCnt, ⟨0xA0D8, 0, .module, .u32, .u32, 4, 1, .ro, .volatile, 0⟩), -- R380
  (.tunnelTimeoutCnt, ⟨0xA0D9, 0, .module, .u32, .u32, 4, 1, .ro, .volatile, 0⟩)] -- R380

/-- Rows of the object table of the file 16_training_survival.md. -/
def objRows17 : List (Obj × ObjInfo) := [
  (.depotPa, ⟨0x9000, 0, .module, .u64, .u64, 8, 1, .rws, .volatile, 0⟩), -- R406
  (.depotSlotBytes, ⟨0x9000, 1, .module, .u64, .u64, 8, 1, .rws, .volatile, 0⟩), -- R406
  (.partnerMap, ⟨0x9000, 2, .module, .array, .u16, 2, 65536, .rws, .volatile, 65535⟩), -- R406
  (.pwrDomain, ⟨0x9000, 3, .module, .array, .u16, 2, 65536, .rws, .volatile, 65535⟩), -- R406
  (.loanCoords, ⟨0x9000, 4, .module, .array, .u32, 4, 256, .rws, .volatile, 0⟩), -- R406
  (.sharedStripes, ⟨0x9000, 5, .module, .u16, .u16, 2, 1, .rws, .volatile, 1⟩), -- R406
  (.recoveryReason, ⟨0x9000, 6, .module, .u8, .u8, 1, 1, .rws, .volatile, 0⟩), -- R406
  (.fenceState, ⟨0x9000, 7, .module, .u8, .u8, 1, 1, .ro, .strongroom, 0⟩), -- R406
  (.fenceControl, ⟨0x9000, 8, .module, .u8, .u8, 1, 1, .wo, .volatile, 0⟩), -- R406
  (.fenceVoteWindow, ⟨0x9000, 9, .module, .u32, .u32, 4, 1, .rw, .volatile, 10000000⟩), -- R406
  (.snapSeq, ⟨0x9000, 10, .module, .u64, .u64, 8, 1, .ro, .volatile, 0⟩), -- R406
  (.lastSnapStep, ⟨0x9000, 11, .module, .u64, .u64, 8, 1, .ro, .volatile, 0⟩), -- R406
  (.snapCost, ⟨0x9000, 12, .module, .f32, .f32, 4, 1, .ro, .volatile, 0⟩), -- R406
  (.snapMtbf, ⟨0x9000, 13, .module, .f32, .f32, 4, 1, .ro, .volatile, 0⟩), -- R406
  (.snapMtbfInit, ⟨0x9000, 14, .module, .f32, .f32, 4, 1, .rw, .volatile, 1202241536⟩), -- R406
  (.lastFailTime, ⟨0x9000, 15, .module, .u64, .u64, 8, 1, .ro, .volatile, 0⟩), -- R406
  (.stepTime, ⟨0x9000, 16, .module, .f32, .f32, 4, 1, .ro, .volatile, 0⟩), -- R406
  (.snapInterval, ⟨0x9000, 17, .module, .u32, .u32, 4, 1, .ro, .volatile, 0⟩), -- R406
  (.snapMinSteps, ⟨0x9000, 18, .module, .u32, .u32, 4, 1, .rw, .volatile, 100⟩), -- R406
  (.snapMaxSteps, ⟨0x9000, 19, .module, .u32, .u32, 4, 1, .rw, .volatile, 1000000⟩), -- R406
  (.restoreReq, ⟨0x9000, 20, .module, .domain, .u8, 1, 32, .wo, .volatile, 0⟩), -- R406
  (.restoreState, ⟨0x9000, 21, .module, .array, .u64, 8, 24, .ro, .volatile, 0⟩), -- R406
  (.provReq, ⟨0x9000, 22, .module, .domain, .u8, 1, 4, .wo, .volatile, 0⟩), -- R406
  (.provResult, ⟨0x9000, 23, .module, .domain, .u8, 1, 40, .ro, .volatile, 0⟩), -- R406
  (.survStatus, ⟨0x9000, 24, .module, .u32, .u32, 4, 1, .rw, .volatile, 0⟩), -- R406
  (.logPa, ⟨0x9100, 0, .ctx, .u64, .u64, 8, 1, .rws, .volatile, 0⟩), -- R406
  (.logRingEntries, ⟨0x9100, 1, .ctx, .u32, .u32, 4, 1, .rws, .volatile, 4096⟩), -- R406
  (.uniqueManifestVa, ⟨0x9100, 2, .ctx, .u64, .u64, 8, 1, .rws, .volatile, 0⟩), -- R406
  (.sharedManifestVa, ⟨0x9100, 3, .ctx, .u64, .u64, 8, 1, .rws, .volatile, 0⟩), -- R406
  (.outImageVa, ⟨0x9100, 4, .ctx, .u64, .u64, 8, 1, .rws, .volatile, 0⟩)] -- R406

/-- Rows of the object table of the file 16_training_survival.md. -/
def objRows18 : List (Obj × ObjInfo) := [
  (.snapshotCnt, ⟨0xA0E0, 0, .module, .u32, .u32, 4, 1, .ro, .volatile, 0⟩), -- R406
  (.freezeFailCnt, ⟨0xA0E1, 0, .module, .u32, .u32, 4, 1, .ro, .volatile, 0⟩), -- R406
  (.depotRefuseCnt, ⟨0xA0E2, 0, .module, .u32, .u32, 4, 1, .ro, .volatile, 0⟩), -- R406
  (.mismatchReportCnt, ⟨0xA0E3, 0, .module, .u32, .u32, 4, 1, .ro, .volatile, 0⟩), -- R406
  (.fenceCnt, ⟨0xA0E4, 0, .module, .u32, .u32, 4, 1, .ro, .volatile, 0⟩), -- R406
  (.failureEventCnt, ⟨0xA0E5, 0, .module, .u32, .u32, 4, 1, .ro, .volatile, 0⟩), -- R406
  (.loanCnt, ⟨0xA0E6, 0, .module, .u32, .u32, 4, 1, .ro, .volatile, 0⟩), -- R406
  (.restoreFailCnt, ⟨0xA0E7, 0, .module, .u32, .u32, 4, 1, .ro, .volatile, 0⟩), -- R406
  (.provMismatchCnt, ⟨0xA0E8, 0, .module, .u32, .u32, 4, 1, .ro, .volatile, 0⟩), -- R406
  (.provRecopyCnt, ⟨0xA0E9, 0, .module, .u32, .u32, 4, 1, .ro, .volatile, 0⟩), -- R406
  (.lateReportCnt, ⟨0xA0EA, 0, .module, .u32, .u32, 4, 1, .ro, .volatile, 0⟩)] -- R406

/-- Rows of the object table of the file 17_host_interface.md. -/
def objRows19 : List (Obj × ObjInfo) := [
  (.pciIds, ⟨0xB000, 0, .module, .u32, .u32, 4, 1, .ro, .volatile, 1946230590⟩), -- R432
  (.hostLink, ⟨0xB000, 1, .module, .u32, .u32, 4, 1, .ro, .volatile, 0⟩), -- R432
  (.portalSelf, ⟨0xB000, 2, .module, .u32, .u32, 4, 1, .rws, .persistent, 0⟩), -- R432
  (.hostStatus, ⟨0xB000, 3, .module, .u32, .u32, 4, 1, .rw, .volatile, 0⟩), -- R432
  (.hostCtxStatus, ⟨0xB300, 0, .ctx, .u32, .u32, 4, 1, .rw, .volatile, 0⟩), -- R432
  (.doorbellErrCnt, ⟨0xA0F0, 0, .sub, .u32, .u32, 4, 1, .ro, .volatile, 0⟩), -- R432
  (.cqFullWaitCnt, ⟨0xA0F1, 0, .sub, .u32, .u32, 4, 1, .ro, .volatile, 0⟩), -- R432
  (.winErrCnt, ⟨0xA0F2, 0, .sub, .u32, .u32, 4, 1, .ro, .volatile, 0⟩), -- R432
  (.hostDmaErrCnt, ⟨0xA0F3, 0, .sub, .u32, .u32, 4, 1, .ro, .volatile, 0⟩), -- R432
  (.tunnelRejectCnt, ⟨0xA0F4, 0, .module, .u32, .u32, 4, 1, .ro, .volatile, 0⟩)] -- R432

/-- Rows of the object table of the file 18_igcor_management.md. -/
def objRows20 : List (Obj × ObjInfo) := [
  (.mgmtMac, ⟨0x1000, 4, .module, .u64, .u64, 8, 1, .ro, .identity, 0⟩), -- R458
  (.igcorVersion, ⟨0x1000, 5, .module, .u8, .u8, 1, 1, .ro, .volatile, 1⟩), -- R458
  (.eventNextSeq, ⟨0xA000, 0, .module, .u64, .u64, 8, 1, .ro, .volatile, 0⟩), -- R458
  (.igcorRxCnt, ⟨0xA100, 0, .module, .u32, .u32, 4, 1, .ro, .volatile, 0⟩), -- R458
  (.igcorDropCnt, ⟨0xA101, 0, .module, .u32, .u32, 4, 1, .ro, .volatile, 0⟩), -- R458
  (.igcorRefuseCnt, ⟨0xA102, 0, .module, .u32, .u32, 4, 1, .ro, .volatile, 0⟩), -- R458
  (.igcorDupCnt, ⟨0xA103, 0, .module, .u32, .u32, 4, 1, .ro, .volatile, 0⟩), -- R458
  (.checkFailCnt, ⟨0xA104, 0, .module, .u32, .u32, 4, 1, .ro, .volatile, 0⟩), -- R458
  (.applyCnt, ⟨0xA105, 0, .module, .u32, .u32, 4, 1, .ro, .volatile, 0⟩), -- R458
  (.applyCancelCnt, ⟨0xA106, 0, .module, .u32, .u32, 4, 1, .ro, .volatile, 0⟩), -- R458
  (.persistFailCnt, ⟨0xA107, 0, .module, .u32, .u32, 4, 1, .ro, .volatile, 0⟩), -- R458
  (.plcaNodeId, ⟨0xB400, 0, .module, .u8, .u8, 1, 1, .rw, .persistent, 255⟩), -- R458
  (.plcaNodeCount, ⟨0xB400, 1, .module, .u8, .u8, 1, 1, .rw, .persistent, 8⟩), -- R458
  (.plcaToTimer, ⟨0xB400, 2, .module, .u8, .u8, 1, 1, .rw, .persistent, 32⟩), -- R458
  (.mgmtWriters, ⟨0xB400, 3, .module, .array, .u64, 8, 8, .rw, .persistent, 0⟩), -- R458
  (.eventNotify, ⟨0xB400, 4, .module, .domain, .u8, 1, 64, .rw, .volatile, 0⟩), -- R458
  (.igcorStatus, ⟨0xB400, 5, .module, .u32, .u32, 4, 1, .rw, .volatile, 0⟩), -- R458
  (.stageState, ⟨0xB401, 0, .module, .u8, .u8, 1, 1, .ro, .volatile, 0⟩), -- R458
  (.stageGen, ⟨0xB401, 1, .module, .u32, .u32, 4, 1, .ro, .volatile, 1⟩), -- R458
  (.stageArmed, ⟨0xB401, 2, .module, .domain, .u8, 1, 16, .ro, .volatile, 0⟩), -- R458
  (.lastCheck, ⟨0xB401, 3, .module, .domain, .u8, 1, 16, .ro, .volatile, 0⟩)] -- R458

/-- Rows of the object table of the file 19_power_reset_clocks.md. -/
def objRows21 : List (Obj × ObjInfo) := [
  (.pwrState, ⟨0x2000, 0, .module, .u8, .u8, 1, 1, .ro, .volatile, 3⟩), -- R484
  (.pwrStatus, ⟨0x2000, 1, .module, .u32, .u32, 4, 1, .rw, .volatile, 0⟩), -- R484
  (.resetCause, ⟨0x2000, 2, .module, .u8, .u8, 1, 1, .ro, .volatile, 0⟩), -- R484
  (.inputMv, ⟨0x2000, 3, .module, .u32, .u32, 4, 1, .ro, .volatile, 0⟩), -- R484
  (.inputMw, ⟨0x2000, 4, .module, .u32, .u32, 4, 1, .ro, .volatile, 0⟩), -- R484
  (.stbyMv, ⟨0x2000, 5, .module, .u32, .u32, 4, 1, .ro, .volatile, 0⟩), -- R484
  (.holdupMv, ⟨0x2000, 6, .module, .u32, .u32, 4, 1, .ro, .volatile, 0⟩), -- R484
  (.holdupUf, ⟨0x2000, 7, .module, .u32, .u32, 4, 1, .ro, .volatile, 0⟩), -- R484
  (.powerCap, ⟨0x2000, 8, .module, .u16, .u16, 2, 1, .rw, .persistent, 3600⟩), -- R484
  (.tjMaxC, ⟨0x2000, 9, .module, .array, .i16, 2, 4, .ro, .volatile, 0⟩), -- R484
  (.coolantInC, ⟨0x2000, 10, .module, .i16, .i16, 2, 1, .ro, .volatile, 0⟩), -- R484
  (.tjThrottleC, ⟨0x2000, 11, .module, .u8, .u8, 1, 1, .rw, .persistent, 95⟩), -- R484
  (.moduleReset, ⟨0x2000, 12, .module, .u8, .u8, 1, 1, .wo, .volatile, 0⟩), -- R484
  (.refSelect, ⟨0x2000, 13, .module, .u8, .u8, 1, 1, .rws, .persistent, 0⟩), -- R484
  (.refState, ⟨0x2000, 14, .module, .u8, .u8, 1, 1, .ro, .volatile, 0⟩), -- R484
  (.srSummary, ⟨0x2000, 15, .module, .domain, .u8, 1, 64, .ro, .volatile, 0⟩), -- R484
  (.srExport, ⟨0x2000, 16, .module, .u8, .u8, 1, 1, .wo, .volatile, 0⟩), -- R484
  (.sagSeq, ⟨0x2000, 17, .module, .u64, .u64, 8, 1, .ro, .strongroom, 0⟩), -- R484
  (.srReported, ⟨0x2000, 18, .module, .u64, .u64, 8, 1, .ro, .strongroom, 0⟩), -- R484
  (.syncHead, ⟨0x2001, 0, .module, .bool, .bool, 1, 1, .rws, .persistent, 0⟩), -- R484
  (.syncPos, ⟨0x2001, 1, .module, .u16, .u16, 2, 1, .ro, .volatile, 0⟩), -- R484
  (.syncHopDelay, ⟨0x2001, 2, .module, .u32, .u32, 4, 1, .ro, .volatile, 0⟩), -- R484
  (.syncStep, ⟨0x2001, 3, .module, .u64, .u64, 8, 1, .ro, .volatile, 0⟩), -- R484
  (.syncStepLag, ⟨0x2001, 4, .module, .u32, .u32, 4, 1, .rw, .volatile, 2⟩), -- R484
  (.estopControl, ⟨0x2001, 5, .module, .u8, .u8, 1, 1, .wo, .volatile, 0⟩), -- R484
  (.sagGlitchCnt, ⟨0xA001, 0, .module, .u32, .u32, 4, 1, .ro, .volatile, 0⟩), -- R484
  (.throttleCycleCnt, ⟨0xA002, 0, .module, .u64, .u64, 8, 1, .ro, .volatile, 0⟩), -- R484
  (.supplyWarnCnt, ⟨0xA003, 0, .module, .u32, .u32, 4, 1, .ro, .volatile, 0⟩), -- R484
  (.syncCrcCnt, ⟨0xA004, 0, .module, .u32, .u32, 4, 1, .ro, .volatile, 0⟩), -- R484
  (.syncLossCnt, ⟨0xA005, 0, .module, .u32, .u32, 4, 1, .ro, .volatile, 0⟩)] -- R484

/-- Rows of the object table of the file 19_power_reset_clocks.md. -/
def objRows22 : List (Obj × ObjInfo) := [
  (.estopCnt, ⟨0xA006, 0, .module, .u32, .u32, 4, 1, .ro, .volatile, 0⟩), -- R484
  (.stepLagCnt, ⟨0xA007, 0, .module, .u32, .u32, 4, 1, .ro, .volatile, 0⟩)] -- R484

/-- Rows of the object table of the file 20_module_hardware.md. -/
def objRows23 : List (Obj × ObjInfo) := [
  (.slotId, ⟨0x1002, 0, .module, .u8, .u8, 1, 1, .ro, .volatile, 0⟩), -- R506
  (.boardRev, ⟨0x1002, 1, .module, .str, .u8, 1, 2, .ro, .identity, 0⟩)] -- R506

/-- Rows of the register map of R412. -/
def objRows24 : List (Obj × ObjInfo) := [
  (.sqTail, ⟨0x0000, 0, .page, .u32, .u32, 4, 1, .wo, .volatile, 0⟩), -- R412
  (.cqHead, ⟨0x0004, 0, .page, .u32, .u32, 4, 1, .wo, .volatile, 0⟩), -- R412
  (.sqBase, ⟨0x0100, 0, .page, .u64, .u64, 8, 1, .rw, .volatile, 0⟩), -- R412
  (.sqCfg, ⟨0x0108, 0, .page, .u32, .u32, 4, 1, .rw, .volatile, 0⟩), -- R412
  (.cqBase, ⟨0x0110, 0, .page, .u64, .u64, 8, 1, .rw, .volatile, 0⟩), -- R412
  (.cqCfg, ⟨0x0118, 0, .page, .u32, .u32, 4, 1, .rw, .volatile, 0⟩), -- R412
  (.sqHead, ⟨0x0120, 0, .page, .u32, .u32, 4, 1, .ro, .volatile, 0⟩), -- R412
  (.cqTail, ⟨0x0124, 0, .page, .u32, .u32, 4, 1, .ro, .volatile, 0⟩), -- R412
  (.winBase, ⟨0x0128, 0, .page, .u64, .u64, 8, 1, .rw, .volatile, 0⟩), -- R412
  (.irqHoldoff, ⟨0x0130, 0, .page, .u32, .u32, 4, 1, .rw, .volatile, 0⟩), -- R412
  (.eventMask, ⟨0x0134, 0, .page, .u32, .u32, 4, 1, .rw, .volatile, 0⟩), -- R412
  (.mbxCtrl, ⟨0x0140, 0, .page, .u32, .u32, 4, 1, .rw, .volatile, 0⟩), -- R412
  (.mbxRespLen, ⟨0x0144, 0, .page, .u32, .u32, 4, 1, .ro, .volatile, 0⟩), -- R412
  (.mbxReq, ⟨0x1000, 0, .page, .array, .u8, 1, 2048, .rw, .volatile, 0⟩), -- R412
  (.mbxResp, ⟨0x1800, 0, .page, .array, .u8, 1, 2048, .ro, .volatile, 0⟩), -- R412
  (.msixTable, ⟨0x8000, 0, .page, .array, .u32, 4, 1024, .rw, .volatile, 0⟩), -- R412
  (.msixPba, ⟨0x9000, 0, .page, .array, .u64, 8, 4, .ro, .volatile, 0⟩)] -- R412

/-- The object tables of the chapters (R35, R62, R84, R109, R135, R161, R179, R211, R236, R262, R283, R302, R323, R350,
R380, R406, R432, R458, R484, R506) and the register map of R412, in the order of the constructors of `Obj`. -/
def objTable : List (Obj × ObjInfo) :=
  objRows1 ++ objRows2 ++ objRows3 ++ objRows4 ++ objRows5 ++ objRows6 ++ objRows7 ++ objRows8 ++
  objRows9 ++ objRows10 ++ objRows11 ++ objRows12 ++ objRows13 ++ objRows14 ++ objRows15 ++ objRows16 ++ objRows17 ++ objRows18 ++ objRows19 ++ objRows20 ++ objRows21 ++ objRows22 ++ objRows23 ++ objRows24

/-- The row of an entry. -/
def Obj.info (o : Obj) : ObjInfo :=
  (objTable.getD o.ctorIdx (o, ⟨0, 0, .module, .u8, .u8, 1, 1, .ro, .volatile, 0⟩)).2

/-- Every entry, in the order of the chapters. -/
def Obj.all : List Obj := objTable.map Prod.fst

end Sys2Proof.Machine
end

