-- ==== Sys2Proof/Machine/Store.lean ====
section
/-! DEFINITION. A store: values by number, in one canonical form. A key that is not listed holds its default; the list
is in rising order of keys, and no entry holds its key's default, so that equal stores are equal lists. -/

namespace Sys2Proof.Machine

/-- A store of values of one type by number. -/
abbrev Store (α : Type) := List (Nat × α)

/-- The value at a key: the listed one, or the key's default. -/
def Store.get {α : Type} (d : Nat → α) : Store α → Nat → α
  | [], k => d k
  | (k', v) :: r, k => if k = k' then v else Store.get d r k

/-- The store without a key. -/
def Store.erase {α : Type} (m : Store α) (k : Nat) : Store α := m.filter fun e => e.1 ≠ k

/-- A value put at its place in the rising order. -/
def Store.insert {α : Type} (k : Nat) (v : α) : Store α → Store α
  | [] => [(k, v)]
  | (k', v') :: r => if k < k' then (k, v) :: (k', v') :: r else (k', v') :: Store.insert k v r

/-- The store with a value at a key; writing the key's default removes its entry. -/
def Store.set {α : Type} [DecidableEq α] (d : Nat → α) (m : Store α) (k : Nat) (v : α) : Store α :=
  if v = d k then m.erase k else Store.insert k v (m.erase k)

/-- The keys rise strictly. -/
def Store.rising {α : Type} : Store α → Bool
  | [] => true
  | [_] => true
  | (k, _) :: (k', v') :: r => k < k' && Store.rising ((k', v') :: r)

/-- The canonical form: rising keys, and no entry with its key's default. -/
def Store.wf {α : Type} [DecidableEq α] (d : Nat → α) (m : Store α) : Bool :=
  Store.rising m && m.all fun e => e.2 ≠ d e.1

end Sys2Proof.Machine
end

