-- ==== Sys2Proof/Machine/Registers.lean ====
section
/-! DEFINITION. The register store: the number under which an element of an entry is kept, and its value at reset. -/

namespace Sys2Proof.Machine

/-- The number of element `e` of copy `n` (context, port or 0) of an entry. -/
def regCode (o : Obj) (n e : Nat) : Nat := (o.ctorIdx * 16 + n % 16) * 131072 + e % 131072

/-- The entry of a number. -/
def regObj (code : Nat) : Obj := Obj.ofNat (code / 131072 / 16)

/-- The copy (context or port) of a number. -/
def regCopy (code : Nat) : Nat := code / 131072 % 16

/-- The element of a number. -/
def regElem (code : Nat) : Nat := code % 131072

/-- R201: the budget of a port by its linear index, in bytes per 1,024 NCLK cycles. -/
def portBudgetOf (i : Nat) : Nat :=
  if i < 128 then 262144
  else if i < 160 then 524288
  else if i < 184 then 1747626
  else if i < 188 then 524288
  else 75294

/-- The ASCII codes of `ORDER_CODE`, "GT-TG1-H24-L" (R35). -/
def orderCodeBytes : List Nat := [0x47, 0x54, 0x2D, 0x54, 0x47, 0x31, 0x2D, 0x48, 0x32, 0x34, 0x2D, 0x4C]

/-- The reset value of an element: the Default column (R12, R437), with the entries whose default differs by element or
copy, the identity entries, and the log entries where the manual gives no value (DESIGN CHOICE 3, PRESUMED 4). -/
def regInit (o : Obj) (n e : Nat) : W64 :=
  match o with
  | .orderCode => BitVec.ofNat 64 (orderCodeBytes.getD e 0)
  | .serialNumber => (Config.serialChar e).zeroExtend 64
  | .siliconStepping => (Config.steppingChar e).zeroExtend 64
  | .firmwareVersion => Config.firmwareVersion.zeroExtend 64
  | .mgmtMac => Config.mgmtMac
  | .engineSpares => (Config.spareLines e).zeroExtend 64
  | .boardRev => (Config.boardChar e).zeroExtend 64
  | .ctxPartitions => if n = 0 then 0xFFFFFFFF#64 else 0
  | .portBudget => BitVec.ofNat 64 (portBudgetOf e)
  | .msixTable => if e % 4 = 3 then 1 else 0
  | .resetCause => 1
  | .slotId => 0x3F
  | o => BitVec.ofNat 64 o.info.dflt

/-- The reset value under a number. -/
def regDefault (code : Nat) : W64 := regInit (regObj code) (regCopy code) (regElem code)

end Sys2Proof.Machine
end

