-- ==== Sys2Proof/Machine/State.lean ====
section
/-! DEFINITION. The state of the TG1: every register, table, queue, counter and mode that the manual names, as plain
data, the queue of the commands that wait, and the state right after module reset. -/

namespace Sys2Proof.Machine

/-- The state of a context (R39). -/
inductive CtxState where
  | idle | running | parked | preempting | preempted | faulted
deriving DecidableEq, Repr

/-- A command descriptor: its eight words (R48, R53). -/
structure Desc where
  w0 : W64
  w1 : W64
  w2 : W64
  w3 : W64
  w4 : W64
  w5 : W64
  w6 : W64
  w7 : W64
deriving DecidableEq, Repr

/-- A submission-ring entry that has been fetched (R417, R419); `failed` marks a read that completed with an error. -/
structure Fetched where
  w0     : W64
  w1     : W64
  w2     : W64
  w3     : W64
  failed : Bool
deriving DecidableEq, Repr

/-- The copy of a step's header and program that is latched under R46: the 32 header words, the four words of the
program header, the 32 entries of the cluster-list table and the submission entry's `TAG`. -/
structure Program where
  tag   : W32
  hdr   : List W64
  p0    : W64
  p1    : W64
  p2    : W64
  p3    : W64
  clist : List (W64 × W64)
deriving DecidableEq, Repr

/-- A completion record: its words without `PHASE`, whether it signals cause 0, and the unit that holds until it can be
queued (R55, R421, R422). -/
structure Rec where
  w0   : W64
  w1   : W64
  w2   : W64
  w3   : W64
  irq  : Bool
  unit : BitVec 16
deriving DecidableEq, Repr

/-- A slot of the plan in use (R73) and the instant at which it ended, if it has. -/
structure Slot where
  period     : Nat
  berm       : Nat
  lead       : Nat
  leadMax    : Nat
  releaseBar : Byte
  closeBar   : Byte
  /-- The `CLOSE_BAR` has opened (R75). -/
  closed     : Bool
  ended      : Option Nat
deriving DecidableEq, Repr

/-- The plan in use (R72, R76): its slots, the slots whose release has been passed in order, and whether `LATE_STEP`
has been raised in this step. -/
structure Plan where
  slots    : List Slot
  released : Nat
  late     : Bool
deriving DecidableEq, Repr

/-- A sequencer's read of a command of a context that a page fault has parked (R338, R340): the list, the position, whether the
command is the successor's, and the fault number. -/
structure SeqStop where
  list  : ListId
  pos   : Nat
  ahead : Bool
  id    : W32
deriving DecidableEq, Repr

/-- What a context holds beside its dictionary entries (R37–R47, R66, R67, R75, R341, R344, R421). -/
structure Ctx where
  st         : CtxState
  /-- The latched open step: `STEP_OPEN` reads 1 while there is one. -/
  prog       : Option Program
  /-- The successor's submission entry, once fetched. -/
  next       : Option Fetched
  /-- The latched successor (R66). -/
  succ       : Option Program
  /-- Positions issued and committed of the open step's lists, and of the successor's. -/
  issued     : List (ListId × Nat)
  done       : List (ListId × Nat)
  issuedA    : List (ListId × Nat)
  doneA      : List (ListId × Nat)
  /-- Records held back for provisional items (R67), and records that wait for the ring (R421). -/
  held       : List Rec
  waiting    : List Rec
  /-- The step's first command has issued, at which the plan is read (R72). -/
  started    : Bool
  plan       : Option Plan
  /-- The plan that the successor's first command read as it ran ahead (R72): its identifier and slots. -/
  planA      : Option (Nat × List Slot)
  /-- The anchor instant T0 of the step, in SCLK cycles (R75). -/
  t0         : Nat
  /-- λ, before the saturation of `PACE_LAG`. -/
  lag        : Nat
  /-- The last declared submission tail and completion head (R418, R420), and the entry read in flight (R418). -/
  sqTail     : W32
  cqHead     : W32
  fetching   : Bool
  /-- Faults so far, and fault records written (R341). -/
  faults     : Nat
  faultRecs  : Nat
  /-- Commands whose reads by their sequencers are parked (R340). -/
  seqStops   : List SeqStop
  /-- The context was PARKED when `PREEMPT` was accepted; the instants of that and of PREEMPTED (R344); the physical
  pages of the save area found then (R383). -/
  wasParked  : Bool
  preemptAt  : Nat
  /-- The edge on which the context last became PARKED, plus one (R41). -/
  parkedAt   : Nat
  /-- The edges on which a `PREEMPT`, and a stop of every partition, took effect ahead of their command (R41). -/
  preAt      : Option Nat
  stopAt     : Option Nat
  stopTime   : Nat
  savePa     : List Nat
  /-- Arrivals of committed items not yet registered (R225, R228). -/
  arrivals   : List Byte
  /-- The range of an invalidation in progress: start VA and 64 KiB units (R336). -/
  inval      : Option (Nat × Nat)
  /-- Dike partitions of the context that have stopped as faulted (R146), and those that have stopped at all: after a
  rejection too (R39, R50). -/
  faultParts : List Nat
  haltParts  : List Nat
  /-- The latched commit token: its eight words (R80, R375). -/
  token      : Option (List W64)
  /-- The domain poison flag and rank latched for the step (R316), and what its combined headers gave so far (R367). -/
  latch      : Option (Bool × Nat)
  redPoison  : Bool × Nat
  /-- The instant of the last item's commit while `COMMIT` waits for the token (R81). -/
  waitFrom   : Nat
  /-- The parameter groups that `UPDATE` items of the open step have named (R309). -/
  groups     : List Nat
  /-- The module's local poison flag of the open step (R316). -/
  poison     : Bool
  /-- The merged-row stores that the coalescers have written, by address, with the elements of their records. -/
  stores     : List (Nat × Nat)
  /-- The item queues of `SCATTER` items that name a collection, by address, with its `TABLE_ID` (R286). -/
  bound      : List (Nat × Nat)
deriving DecidableEq, Repr

/-- A context right after reset: IDLE, with nothing held. -/
def Ctx.init : Ctx where
  st := .idle
  prog := none
  next := none
  succ := none
  issued := []
  done := []
  issuedA := []
  doneA := []
  held := []
  waiting := []
  started := false
  plan := none
  planA := none
  t0 := 0
  lag := 0
  sqTail := 0
  cqHead := 0
  fetching := false
  faults := 0
  faultRecs := 0
  seqStops := []
  wasParked := false
  preemptAt := 0
  parkedAt := 0
  preAt := none
  stopAt := none
  stopTime := 0
  savePa := []
  arrivals := []
  inval := none
  faultParts := []
  haltParts := []
  token := none
  latch := none
  redPoison := (false, 0xFFFF)
  waitFrom := 0
  groups := []
  poison := false
  stores := []
  bound := []

/-- How far an item is (R52, R56, R60): its work goes on or waits for something that another command brings; it is
parked under a fault number; it has stopped at a preemption point; its results are visible, with the status it commits
with; or it has committed and is provisional still (R67). -/
inductive ItemPhase where
  | working
  | parked (id : W32)
  | stopped
  | finished (status : Byte)
  | committed
deriving DecidableEq, Repr

/-- A value of an accumulator bank (R111): its FP32 bits, whether an addition of its tile overflowed (R105), whether the last
addition flushed it (R103, R108), and the strict exceptions that it has raised (R106). -/
structure Acc32 where
  bits  : Nat
  ovf   : Bool
  tiny  : Bool
  flags : Nat
deriving DecidableEq, Repr

/-- An accumulator that holds +0. -/
def Acc32.zero : Acc32 := ⟨0, false, false, 0⟩

/-- A row in a gather prefetch area (R274): the cluster whose cache holds it, the context and trail it was prefetched for, and the
physical addresses read, cut at 64 KiB pages: address and bytes of each piece. What it holds is what memory holds there, since a
write removes it. -/
structure FetchedRow where
  area   : Nat
  ctx    : CtxId
  trail  : Nat
  pieces : List (Nat × Nat)
deriving DecidableEq, Repr

/-- The weights of a pass in the cells of an engine (R111, R120): the codes by column and then K position of the pass (none for a
removed weight), and the scale codes beside them. -/
structure Weights where
  cells : List (List (Option Nat))
  codes : List Byte
deriving DecidableEq, Repr

/-- An entry of a row queue of a feeder (R116): its row, the first vector that it covers, its valid elements, its end-of-pass
mark, its 64 bits of activation data, and under `DIR` 1 the scale codes of the blocks that its elements fall in, by the K position
that the row takes of a vector. -/
structure FeedEntry where
  row   : Nat
  first : Nat
  count : Nat
  last  : Bool
  data  : W64
  codes : List (List Nat)
deriving DecidableEq, Repr

/-- A matrix engine (R111, R116, R153): the weights in its cells' active and shadow registers; the entries of its feeder's row
queues and the scale codes of the activations that they hold; its two accumulator banks by row and column of their output
tiles, the one in use, and the shadow of the bank that a speculative pass starts from. -/
structure MatEngine where
  active  : Weights
  shadow  : Weights
  entries : List FeedEntry
  codes   : List Byte
  bank    : Bool
  bank0   : List (List Acc32)
  bank1   : List (List Acc32)
  saved   : List (List Acc32)
deriving DecidableEq, Repr

/-- A matrix engine that holds nothing. -/
def MatEngine.init : MatEngine := ⟨⟨[], []⟩, ⟨[], []⟩, [], [], false, [], [], []⟩

/-- The bitmaps that say which bytes a tile touches: its row mask over K, and its output row mask from the byte of its first
row on (R125). -/
structure TileMasks where
  km : List Byte
  om : List Byte
deriving DecidableEq, Repr

/-- The tables that a `TILE` read with its descriptor (R96, R125, R150, R170), as 64-bit words; empty where there is none. -/
structure TileTabs where
  layer : List W64
  scale : List W64
  mask  : List W64
  act   : List W64
deriving DecidableEq, Repr

/-- An engine of the wave at work on its output tile (R113, R132, R137): the translations that the tile holds, by 64 KiB page, and
its masks; passes completed, the slices of activations that its feeder has expanded so far, the activity bits of the pass
under way once they are decided, whether that pass is not verified (R153), whether all its vectors have run, and whether the
engine waits on `FINAL_BAR` (R152, R153). -/
structure TileRun where
  core  : Nat
  tile  : Nat
  pages : List (Nat × Nat)
  masks : TileMasks
  pass : Nat
  got  : List Byte
  bits : Option (List Bool)
  spec : Bool
  ran  : Bool
  wait : Bool
deriving DecidableEq, Repr

/-- The activations of a row band as the load path brings them to the engines of a wave (R142): the next pass to read, and the
bytes read that no line holds yet. -/
structure BandLoad where
  band : Nat
  pass : Nat
  data : List Byte
deriving DecidableEq, Repr

/-- What a `TILE` keeps: its tables as read at issue, whether its current wave has been translated (R139), the engines at work,
the tiles at or beyond its progress that are visible, the sampled tiles that are not compared yet, each as its engine left it
(R172, R173), the bands that the load path has begun to bring (R142), and the weight tiles that have been loaded, by column
band and pass (R90, R131). -/
structure TileWork where
  tabs    : TileTabs
  reached : Bool
  runs    : List TileRun
  shown   : List Nat
  checks  : List TileRun
  bands   : List BandLoad
  loaded  : List (Nat × Nat)
deriving DecidableEq, Repr

/-- Nothing held. -/
def TileWork.init : TileWork := ⟨⟨[], [], [], []⟩, false, [], [], [], [], []⟩

/-- What a sampler keeps of a `SAMPLE` (R250–R257): units completed, entries, edges and drops so far, the first entry of
each level reached, and the open segment: its first entry, entries, first parent, parents and edges; `live` once the
header that starts the trail is visible. -/
structure SampleWork where
  next     : Nat
  nodes    : Nat
  edges    : Nat
  drops    : Nat
  lbase    : List Nat
  segFirst : Nat
  segNodes : Nat
  parFirst : Nat
  pars     : Nat
  segEdges : Nat
  live     : Bool
deriving DecidableEq, Repr

/-- A sampler that has started nothing. -/
def SampleWork.init : SampleWork := ⟨0, 0, 0, 0, [], 0, 0, 0, 0, 0, false⟩

/-- An item: a command that a sequencer has handed to a unit, until it commits or is aborted (R41, R48, R59, R345). -/
structure Item where
  ctx      : CtxId
  list     : ListId
  seq      : Nat
  /-- Provisional: of the run-ahead successor step (R66). -/
  ahead    : Bool
  desc     : Desc
  step     : W64
  /-- The unit that journals it (R59), its dike partition (R55) and the requesting cluster (R338). -/
  unit     : BitVec 16
  part     : Nat
  cluster  : Option ClusterId
  /-- The service sequencer of R45 issued it. -/
  service  : Bool
  progress : Nat
  /-- Its unit has started it: at once, but for a `GATHER`, whose first instance waits for its segment (R60, R267, R345). -/
  started  : Bool
  /-- Overflow segments opened so far (R71). -/
  segs     : Nat
  phase    : ItemPhase
  /-- The position words of R345 and what else the unit keeps of the item, by opcode. -/
  pos      : List Nat
  data     : List Byte
  tile     : TileWork
  sample   : SampleWork
  /-- What an `UPDATE` read at issue of each group: its coefficient entry, its record, and a sparse group's descriptors (R308,
  R309). -/
  groups   : List (List W64)
  /-- The number, plus one, of the item's latest log entry in its ring (R61). -/
  lastLog  : Nat
  /-- The errors of storage and paths that its unit is still to meet, each in the unit of progress that it names (R133, R330). -/
  errs     : List MemError
deriving DecidableEq, Repr

/-- The cursor of a trail (R258) that the sampler keeps: its item, its address, whether it is WORKING or DONE, and the
trail header as the sampler last had it (R252). -/
structure Trail where
  ctx     : CtxId
  list    : ListId
  seq     : Nat
  ahead   : Bool
  step    : W64
  cluster : Option ClusterId
  va      : Nat
  done    : Bool
  hdr     : List W64
deriving DecidableEq, Repr

/-- A pending entry of a vitrine share (R297): the context, the collection's address and descriptor, the row, the slot, the
`STEP` of the item that made it, and the cluster whose engine works for it. -/
structure Pend where
  ctx     : CtxId
  coll    : Nat
  desc    : List W64
  row     : Nat
  slot    : Nat
  step    : W64
  cluster : Option ClusterId
deriving DecidableEq, Repr

/-- The state of a barrier (R224). -/
inductive BarState where
  | uninit | closed | opened
deriving DecidableEq, Repr

/-- A barrier (R224). -/
structure Barrier where
  st      : BarState
  count   : Nat
  arrived : Nat
deriving DecidableEq, Repr

/-- A barrier right after reset (R224). -/
def Barrier.init : Barrier := ⟨.uninit, 0, 0⟩

/-- A line of a queue: its payload and its tag (R213, R214); in a send queue also the context, the fabric group and the number of
the program that it comes from (R199, R373). -/
structure Line where
  payload : List Byte
  tag     : BitVec 16
  source  : Option (CtxId × Nat × Nat)
deriving DecidableEq, Repr

/-- A queue or sluice (R195, R213, R220): its counters, its mark, its lines from F to P, and its ring geometry. -/
structure Queue where
  p      : W32
  rd     : W32
  f      : W32
  mark   : Option W32
  /-- Valid bytes that a feeder has expanded of the line at Rd, and of the line at the mark (R118). -/
  off    : Nat
  moff   : Nat
  /-- The lines from F on. -/
  lines  : List Line
  /-- Capacity in lines and whether credit returns in halves, as the producing program's `SETUP` gives (R186, R196). -/
  cap    : Nat
  half   : Bool
  /-- Lines that a regular consumer waits for before it starts, while the wait lasts (R197). -/
  prime  : Option Nat
  /-- The physical address of the ring of a core-store ring (R193); 0 for the other buffers. -/
  ring   : Nat
  /-- The consumer waits for a line that it needs (R197, R205, R218). -/
  waits  : Bool
deriving DecidableEq, Repr

/-- What a consumer does at its queue (R217, R220). -/
inductive QueueAct where
  | release (n : W32)
  | unmark
  | rewind
  | mark
  | read (need : Bool)
deriving DecidableEq, Repr

/-- Queue k right after reset: empty, with the capacity of its kind (R213); a core-store ring has none before a program's `SETUP`. -/
def Queue.init (k : Nat) : Queue :=
  ⟨0, 0, 0, none, 0, 0, [], if 512 ≤ k then 1024 else if k % 4 = 0 then 2048 else if k % 4 = 1 then 256 else 0, false, none, 0, false⟩

/-- What the conversions and reads of one transfer count (R164, R178, R190, R191): saturated, overflowed, NaN and flushed elements,
clamped scales, and indices out of range. -/
structure StreamCounts where
  sat   : Nat
  ovf   : Nat
  nan   : Nat
  flush : Nat
  clamp : Nat
  index : Nat
deriving DecidableEq, Repr

/-- A position in a stream program (R183, R209): the iteration and body instruction of a transfer, the transfer's number,
and a byte of it. -/
structure StreamPos where
  iter     : Nat
  body     : Nat
  transfer : Nat
  off      : Nat
deriving DecidableEq, Repr

/-- A stream program that an engine holds (R181–R184): the item it belongs to, the copy of its instructions, its sluice
handle, rate and class, and how far it is. -/
structure StreamProg where
  ctx      : CtxId
  seq      : Nat
  list     : ListId
  ahead    : Bool
  step     : W64
  seed     : W64
  cluster  : ClusterId
  instrs   : List W64
  sluice   : BitVec 16
  rate     : W32
  regular  : Bool
  /-- The queues of its consumers: one, the members of a multicast group, or a port's send queue (R193, R198, R199). -/
  queues   : List Nat
  /-- Its program number on its fabric group (R373). -/
  number   : Nat
  /-- The next body execution: iteration, position in the body, instructions still to skip, transfers made. -/
  iter     : Nat
  body     : Nat
  skip     : Nat
  transfer : Nat
  /-- Bytes of the next transfer that were delivered before a preemption (R209). -/
  drop     : Nat
  /-- The open line: its bytes, where its first byte came from, and whether it starts a bitmap-form item. -/
  buf      : List Byte
  start    : StreamPos
  bitmap   : Bool
  /-- Closed lines that wait for credit, and where the delivered lines that no consumer has freed began (R209). -/
  closed   : List (Line × StreamPos)
  sent     : List StreamPos
  /-- Every transfer has been made; a line with `END` has been delivered. -/
  made     : Bool
  ended    : Bool
  /-- The translations that a regular program holds: VA and PA of 64 KiB pages (R208). -/
  pages    : List (Nat × Nat)
  /-- What transfers that have not completed will count, and the transfers that have counted (R178). -/
  counts   : List (Nat × StreamCounts)
  counted  : Nat
  /-- The demand admitted for it: port index and bytes (R202). -/
  demand   : List (Nat × Nat)
deriving DecidableEq, Repr

/-- The state of a stream engine (R206). -/
inductive EngState where
  | idle | starting | running | parked | stopped | halted
deriving DecidableEq, Repr

/-- A stream engine: its state, its active program and its shadow (R181, R206). -/
structure Engine where
  st     : EngState
  active : Option StreamProg
  shadow : Option StreamProg
deriving DecidableEq, Repr

/-- A stream engine right after reset. -/
def Engine.init : Engine := ⟨.idle, none, none⟩

/-- An event of the ring (R456). -/
structure EventRec where
  seq  : W64
  time : W64
  code : Byte
  ctx  : BitVec 4
  arg  : W32
  /-- The event is one of the module, which carries context 0xF. -/
  ofModule : Bool
deriving DecidableEq, Repr

/-- What the module sends to the outside, in the order in which it sends it. -/
inductive Output where
  /-- A memory write on PCI Express from a function (R410). -/
  | hostWrite (f : CtxId) (addr : W64) (data : List Byte)
  /-- A memory read on PCI Express: the fetch of a submission entry or the data of a `DMA` (R418, R429). -/
  | hostRead (f : CtxId) (addr : W64) (len : Nat)
  /-- An MSI-X message (R422). -/
  | msix (f : CtxId) (vec : Byte) (addr : W64) (data : W32)
  /-- A completion of a host read through a BAR (R411, R415). -/
  | hostData (f : CtxId) (data : List Byte)
  /-- A packet handed to a Shexon port (R364). -/
  | packet (p : PortId) (k : Packet)
  /-- A codeword that a port sends: its `CW_SEQ` and `CW_ACK` (R354). -/
  | codeword (p : PortId) (seq ack : BitVec 10)
  /-- A datagram on the management segment: to an interface identifier and port (R439, R457). -/
  | datagram (iid : W64) (port : BitVec 16) (data : List Byte)
  /-- A Neighbor Advertisement to an interface identifier (R439). -/
  | advert (iid : W64)
  /-- An ICMPv6 Echo reply (R439). -/
  | echoReply (iid : W64) (data : List Byte)
  /-- What a read at a queue returns to the consumer (R217): the line at Rd, or the idle item. -/
  | queueItem (payload : List Byte) (tag : BitVec 16)
  /-- The bytes that a dictionary operation answers, with its status (R436, R444). -/
  | answer (status : Byte) (data : List Byte)
  /-- A frame on the sync chain: whether it goes down, and its 16 bytes (R476). -/
  | syncFrame (down : Bool) (bytes : List Byte)
  /-- A completion with Unsupported Request (R462). -/
  | unsupported (f : CtxId)
  /-- A Neighbor Solicitation of Duplicate Address Detection for an interface identifier (R439). -/
  | addressProbe (iid : W64)
deriving DecidableEq, Repr

/-! ## The fabric -/

/-- A codeword that a port has sent and that is not acknowledged: its sequence, how often it has been resent, and the packets that
end in it (R355). -/
structure SentWord where
  seq     : BitVec 10
  times   : Nat
  packets : List Packet
deriving DecidableEq, Repr

/-- A Shexon port (R352–R362): its link state, the lanes with signal, the lanes that it has lost, the codeword counters and the last
codewords sent, the packets that wait for credit or for the link, the link credits in granules of each pair of VC and dateline
class, and the multicast lines held for delivery. -/
structure Port where
  /-- The link state, by its code; 0 while a configuration that disables the port is in force (R356). -/
  st       : Nat
  signal   : BitVec 4
  lost     : BitVec 4
  rxNext   : BitVec 10
  /-- Codewords are discarded until the next expected one (R355). -/
  rxSkip   : Bool
  txNext   : BitVec 10
  lastAck  : BitVec 10
  ackRun   : Nat
  unacked  : List SentWord
  held     : List Packet
  credits  : List Nat
  alt      : Bool
  mcast    : List Packet
  /-- The lanes in use; a change of width that this end has asked for; one that is agreed: whether its codeword is one that this end
  sends, that codeword's sequence, and the lanes (R358). -/
  lanes    : BitVec 4
  asked    : Option (BitVec 10 × BitVec 4)
  change   : Option (Bool × BitVec 10 × BitVec 4)
  /-- Granules left in the last codeword sent, and the cycle of it plus one (R360). -/
  room     : Nat
  openAt   : Nat
  /-- Packets sent and received since the link last trained (R359). -/
  sent     : Nat
  got      : Nat
  /-- The packets that had been received when the link last went down (R359). -/
  gone     : Option Nat
  /-- The shares that VC1, VC2 and VC3 have in hand, in granules (R362). -/
  shares   : List Nat
deriving DecidableEq, Repr

/-- A port right after reset: DOWN, with the credits of an empty 32 KiB buffer for each of its eight pairs (R356, R362). -/
def Port.init : Port :=
  ⟨1, 0, 0, 0, false, 0, 1023, 0, [], [], List.replicate 8 1024, false, [], 0xF, none, none, 0, 0, 0, 0, none, [0, 0, 0]⟩

/-- What the module has received of one reduction of a context (R367–R371), by the context and its `OP_SEQ`: the headers by rank,
the partials and results, and whether it was aborted, and for headers that disagree. -/
structure Coll where
  ctx      : CtxId
  order    : Nat
  headers  : List (Nat × List W64)
  parts    : List Packet
  aborted  : Bool
  mismatch : Bool
deriving DecidableEq, Repr

/-- A domain-wide change at this module (R376): its identifier, form and argument; at the holder the votes; at a
member whether it has voted ready and which decision it holds. -/
structure DomApply where
  id       : W32
  form     : Byte
  arg      : W64
  holder   : Bool
  votes    : List (Nat × W32)
  prepared : Bool
  decided  : Option Bool
deriving DecidableEq, Repr

/-- A host read that the portal tunnels, or a host-bound read of a member, until its completion (R379, R426). -/
structure TunRead where
  opSeq  : W32
  f      : CtxId
  len    : Nat
  /-- 0: a host read at the portal; 1: a ring fetch at the member; 2: `DMA` data at the member. -/
  kind   : Nat
deriving DecidableEq, Repr

/-- The fabric of the module. -/
structure Fabric where
  ports   : Store Port
  colls   : List Coll
  apply   : Option DomApply
  tunnels : List TunRead
  opSeq   : W32
  /-- ROOT cycles of offset that slewing still has to remove, and its phase in 1,024 SCLK cycles (R377). -/
  slew    : Int
  phase   : Nat
  locked  : Bool
  /-- An exchange with the parent has given the offset since module reset (R377, R472). -/
  acquired : Bool
  /-- Multicast programs that this module has pruned itself from: source, group and program (R374). -/
  pruned  : List (Nat × Nat × Nat)
  /-- Program numbers by context and multicast group at the source, under 4096 c + g (R373). -/
  mprog   : Store Nat
deriving DecidableEq, Repr

/-! ## Surviving failures -/

/-- The holder's vote on mismatch reports (R386): the step and token values of its own group, the reports by rank, and
whether the window is open. -/
structure Vote where
  ctx     : CtxId
  step    : W64
  reports : List (Nat × List W64)
  isOpen  : Bool
deriving DecidableEq, Repr

/-- A restore copy in a request slot (R398): the operation of its chunk, and the hash announced for it (mode 0). -/
structure Restore where
  slot : Nat
  peer : Nat
  mode : Nat
  gen  : Nat
  ctx  : CtxId
  src  : Nat
  dst  : Nat
  len  : Nat
  done : Nat
  op   : Nat
  hash : Option W64
deriving DecidableEq, Repr

/-- A provenance check (R399): its operation, the block, the bytes of it recopied so far, and the peer's hash once it is
known. -/
structure Prov where
  peer   : Nat
  ctx    : CtxId
  recopy : Bool
  op     : Nat
  block  : Nat
  got    : Nat
  want   : Option W64
deriving DecidableEq, Repr

/-- A depot chunk being written (R393): its slot and number, the operation that writes it, and a bit for each 32-byte granule
received. -/
structure DepotPart where
  slot  : Nat
  chunk : Nat
  op    : Nat
  mask  : Nat
deriving DecidableEq, Repr

/-- A verdict received, or a comparison made, for a context's step (R386). -/
structure Compared where
  ctx    : CtxId
  step   : W64
  vals   : List W64
  failed : Bool
deriving DecidableEq, Repr

/-- The recovery mechanisms of the module. -/
structure Survival where
  /-- The last commit token that the holder sent, by context (R386). -/
  sent     : List (CtxId × List W64)
  votes    : List Vote
  verdicts : List (CtxId × List W64)
  compared : List Compared
  /-- Contexts whose mismatch report waits for a verdict. -/
  reported : List CtxId
  restores : List Restore
  prov     : Option Prov
  /-- Depot chunks being written (R393). -/
  depot    : List DepotPart
  /-- The instant of order 4 of the last frozen snapshot, by context (R396). -/
  froze    : List (CtxId × Nat)
  /-- The SCLK cycles of a snapshot whose cost order 6 has not averaged yet (R396). -/
  cost     : Option Nat
  snapped  : Bool
  timed    : Bool
  /-- No failure event has been applied since module reset (R397). -/
  firstFail : Bool
deriving DecidableEq, Repr

/-! ## Power, reset and the sync chain -/

/-- The power, reset, clock and sync-chain state that no dictionary entry holds (R460–R483, R495). -/
structure Power where
  /-- Standby power is present, and the main input is qualified (R460, R462). -/
  standby   : Bool
  qualified : Bool
  /-- The latches of a thermal trip and of an overvoltage (R462). -/
  tripLatch : Bool
  overLatch : Bool
  /-- Power-up: 0 charging, then the rail group awaited; the retries of this standby session (R463). -/
  group     : Nat
  retries   : Nat
  exhausted : Bool
  /-- A rail group has failed and the next try has not come (R463). -/
  retryWait : Bool
  /-- `HOLDUP_LOW` was held during this power-on period (R468). -/
  unprot    : Bool
  /-- The cause of the save in progress, and its time (R465). -/
  saveCause : Nat
  saveTime  : W64
  /-- What the dies have sent for the record of the save in progress (R465, R468). -/
  collected : List Byte
  /-- The cause of the save since the last power-up, for `RESET_CAUSE` (R471). -/
  lastSave  : Nat
  /-- A module reset is in progress, with its code and its kind; `PERST#` is asserted (R471). -/
  resetting : Bool
  cause     : Nat
  cold      : Bool
  perst     : Bool
  /-- The module reset in progress began with `PERST#` asserted, and waits for its deassertion (R472, R494). -/
  perstHold : Bool
  /-- Resets that `MODULE_RESET` has asked for and that have not begun, and the reset sources of a save, which act after power-down:
  code and kind (R465, R471). -/
  asked     : List (Nat × Bool)
  after     : List (Nat × Bool)
  /-- The cycle on which the module reset in progress began: of sources on one edge the lowest code counts (R471). -/
  resetAt   : Nat
  /-- The throttle of R470: h, samples at or above 105 °C of each die, samples of a hot coolant. -/
  h         : Nat
  tripRun   : List Nat
  hotRun    : Nat
  /-- The external reference toggles; ROOT is locked to it (R473, R475). -/
  refclk    : Bool
  holdover  : Bool
  /-- The bypass of the sync chain is closed (R481). -/
  bypass    : Bool
  straps    : BitVec 6
deriving DecidableEq, Repr

/-- The sync chain (R476–R483). -/
structure Sync where
  /-- A `TIME` frame has been accepted since module reset (R480). -/
  acquired : Bool
  /-- No valid frame has come on a pair since `SYNC_LOSS` was raised for it (R480). -/
  lostDn   : Bool
  lostUp   : Bool
  echoSeq  : Byte
  /-- The emergency stop: latched, whether this module is its origin, the origin's position, and when an `ESTOP` frame
  last arrived (R483). -/
  latched  : Bool
  origin   : Bool
  estopPos : BitVec 16
  estopAt  : Option Nat
  /-- The step for which `STEP_LAG` was last raised (R482). -/
  lagStep  : Option W64
deriving DecidableEq, Repr

/-- The strongroom (R466–R469): the configuration images as staged values with their generation, which one is current,
and the last two sag records, each whole or torn, newest first. -/
structure Strongroom where
  imageA  : Store W64
  genA    : W32
  imageB  : Store W64
  genB    : W32
  current : Bool
  records : List (List Byte)
deriving DecidableEq, Repr

/-! ## Management -/

/-- The staging image's armed change (R453): its scope, form (0xFF for a domain change) and argument. -/
structure Armed where
  scope : Byte
  form  : Byte
  arg   : W64
deriving DecidableEq, Repr

/-- A response kept for a source (R446). -/
structure Kept where
  iid   : W64
  reqId : BitVec 16
  resp  : List Byte
deriving DecidableEq, Repr

/-- The management controller: the change that is armed, the kept responses, oldest first, and the length of the request that each
function's mailbox processes (R428, R446, R453). -/
structure Mgmt where
  armed : Option Armed
  kept  : List Kept
  asked : List (CtxId × Nat)
deriving DecidableEq, Repr

/-- A copy of the non-volatile store (R438): the persistent values, the number of the store write, and its CRC-32. -/
structure StoreCopy where
  vals : Store W64
  seq  : Nat
  crc  : Nat
deriving DecidableEq, Repr

/-- What the configuration space of the endpoint holds beside its identity (R408, R426, R429): the functions whose bus mastering is off,
Max Payload Size and Max Read Request Size in bytes (PRESUMED 165), the completion timeout value, and the functions with an error reported
to AER, one bit for each. No command writes it: bus mastering is on for every function (DESIGN CHOICE 164). -/
structure PcieCfg where
  busOff : BitVec 16
  mps    : Nat
  mrrs   : Nat
  cto    : BitVec 4
  aer    : BitVec 16
deriving DecidableEq, Repr

/-- The fuse map (R36): a bit for each cluster and each engine that manufacturing test has retired; engines 0 to 63 in the
first of the two words. -/
structure Fuses where
  clusters  : W32
  enginesLo : W64
  enginesHi : W64
deriving DecidableEq, Repr

/-- The TG1. -/
structure State where
  /-- The commands that wait, first in, first out. -/
  pending : List Instr
  /-- SCLK cycles since module reset (R24, R75). -/
  now     : Nat
  /-- The W1C flags set on the present SCLK edge, by the number of their entry and their bit (R13, R235). -/
  edge    : List (Nat × Nat)
  /-- The clusterless context that the service sequencer served last (R45). -/
  served  : CtxId
  /-- The units that the fuse map retires for good (R36). -/
  fuses   : Fuses
  /-- Free values taken so far: the model's own field. -/
  free    : Nat
  /-- The applied values of the dictionary entries and the context-page registers (R434, R412). -/
  regs    : Store W64
  /-- The staging image: the staged values of the RWS entries (R448). -/
  staged  : Store W64
  /-- The two copies of the non-volatile store (R438). -/
  copyA   : StoreCopy
  copyB   : StoreCopy
  /-- A store write is outstanding (R438). -/
  storing : Bool
  /-- Memory, by physical address (R325): HBM, core stores, scratch windows and vitrines. -/
  mem     : Store Byte
  /-- Changes of `CC_SCRATCH_WAYS` applied since module reset: after one, a scratch byte that nothing has written since is a
  free value (R328). -/
  scratch : Nat
  /-- What 64-bit words of HBM held before each write to them, newest first: the word's number, the number of the write, and the
  value; and how many writes there have been. Cached translations may still be the old ones (R336). -/
  prior   : List (Nat × Nat × W64)
  writes  : Nat
  /-- The invalidations that have completed (R336): context, start, length, and the writes made until then. -/
  purged  : List (CtxId × Nat × Nat × Nat)
  /-- The rows in the gather prefetch areas, oldest first (R274). -/
  prefetched : List FetchedRow
  /-- The poisoned words, by address / 4, rising (R330). -/
  poison  : List Nat
  /-- The outputs, oldest first. -/
  out     : List Output
  /-- The contexts (R37). -/
  ctxs    : Store Ctx
  /-- The items in flight, in the order in which they were issued. -/
  items   : List Item
  /-- The trails that are WORKING or DONE (R258). -/
  trails  : List Trail
  /-- The pending entries of the vitrines, oldest first (R297). -/
  pend    : List Pend
  /-- Entries appended to each log ring, ring u of context c under 1024 c + u (R383). -/
  heads   : Store Nat
  /-- The barriers, barrier b of context c under 256 c + b (R224). -/
  bars    : Store Barrier
  /-- The matrix engines by core global index (R111). -/
  arrays  : Store MatEngine
  /-- The stream engines by global index (R181). -/
  engines : Store Engine
  /-- The queues (R213): the sluice of type t of core i under 4 i + t, and the send queue of port p under 512 + p. -/
  queues  : Store Queue
  /-- The operations of the present NCLK edge that wait for the last one of their edge (R222). -/
  acts    : List (QueueId × QueueAct)
  /-- The event ring: the last 1,024 events, oldest first (R456). -/
  events  : List EventRec
  /-- How many of the events are of the present SCLK edge: they are not numbered for good, and their notices not sent (R456). -/
  fresh   : Nat
  /-- When a vector sent its last message, plus one, and the vectors with a cause in a holdoff, under 256 f + v (R423). -/
  msiLast : Store Nat
  msiHeld : List Nat
  /-- The virtual functions that SR-IOV has enabled (R409). -/
  vfs     : BitVec 16
  pcie    : PcieCfg
  fabric  : Fabric
  surv    : Survival
  power   : Power
  sync    : Sync
  strong  : Strongroom
  mgmt    : Mgmt
deriving DecidableEq, Repr

/-- The reasons for which a command could end the run with a fault. There are none: every failure that the manual
describes is an effect on the state (a status, a counter, a context state). -/
inductive Fault where
deriving DecidableEq, Repr

/-- The reasons for which a command is refused. -/
inductive Refusal where
  /-- The command has no meaning in this model yet; raised by `exec` alone, and safe. -/
  | notModelled (mnemonic : String)
deriving DecidableEq, Repr

/-- The TG1 right after module reset: every dictionary entry at its Default, memory with nothing listed, nothing in
flight. -/
def State.reset : State where
  pending := []
  now := 0
  edge := []
  served := 15
  fuses := ⟨0, 0, 0⟩
  free := 0
  regs := []
  staged := []
  copyA := ⟨[], 0, 0⟩
  copyB := ⟨[], 0, 0⟩
  storing := false
  mem := []
  prior := []
  writes := 0
  purged := []
  prefetched := []
  scratch := 0
  poison := []
  out := []
  ctxs := []
  items := []
  trails := []
  pend := []
  heads := []
  bars := []
  engines := []
  queues := []
  acts := []
  arrays := []
  events := []
  fresh := 0
  msiLast := []
  msiHeld := []
  vfs := 0
  pcie := ⟨0, 128, 512, 0, 0⟩
  fabric :=
    { ports := [], colls := [], apply := none, tunnels := [], opSeq := 0, slew := 0, phase := 0, locked := false, acquired := false,
      pruned := [], mprog := [] }
  surv :=
    { sent := [], votes := [], verdicts := [], compared := [], reported := [], restores := [], prov := none,
      depot := [], froze := [], cost := none, snapped := false, timed := false, firstFail := true }
  power :=
    { standby := true, qualified := true, tripLatch := false, overLatch := false, group := 0, retries := 0,
      exhausted := false, retryWait := false, unprot := false,
      saveCause := 0, saveTime := 0, collected := [], lastSave := 0, resetting := false, cause := 1,
      cold := true, perst := false, perstHold := false, asked := [], after := [], resetAt := 0, h := 0, tripRun := [0, 0, 0, 0], hotRun := 0, refclk := false, holdover := false,
      bypass := false, straps := 0x3F }
  sync :=
    { acquired := false, lostDn := false, lostUp := false, echoSeq := 0, latched := false, origin := false,
      estopPos := 0, estopAt := none, lagStep := none }
  strong := { imageA := [], genA := 0, imageB := [], genB := 0, current := false, records := [] }
  mgmt := { armed := none, kept := [], asked := [] }

end Sys2Proof.Machine
end

