-- ==== Sys2Proof/Machine/Ops.lean ====
section
/-! DEFINITION. The named operations over the state: words and bytes, registers and counters, events and interrupts,
memory, error protection, translation and polders. -/

namespace Sys2Proof.Machine

/-! ## Words and bytes -/

/-- Bits h down to l of a word, as a number (R8). -/
def bits (h l : Nat) (w : W64) : Nat := w.toNat / 2 ^ l % 2 ^ (h - l + 1)

/-- Bit n of a word (R8). -/
def bit (n : Nat) (w : W64) : Bool := w.getLsbD n

/-- The number that bytes hold, the first the least significant (R9). -/
def leNat : List Byte → Nat
  | [] => 0
  | b :: r => b.toNat + 256 * leNat r

/-- The n bytes of a number, the least significant first (R9). -/
def leBytes : Nat → Nat → List Byte
  | 0, _ => []
  | n + 1, v => BitVec.ofNat 8 v :: leBytes n (v / 256)

/-- The 64-bit word at word k of bytes (R42). -/
def wordAt (bs : List Byte) (k : Nat) : W64 := BitVec.ofNat 64 (leNat ((bs.drop (8 * k)).take 8))

/-- The words of bytes, n of them. -/
def wordsOf (n : Nat) (bs : List Byte) : List W64 := (List.range n).map (wordAt bs)

/-- The bytes of words (R42). -/
def bytesOf (ws : List W64) : List Byte := ws.flatMap fun w => leBytes 8 w.toNat

/-- One step of a reflected CRC-32 over one bit. -/
def crc32Bit (c : Nat) : Nat := if c % 2 = 1 then Nat.xor (c / 2) 0xEDB88320 else c / 2

/-- The CRC-32 of IEEE 802.3 (R360, R438, R468). -/
def crc32 (bs : List Byte) : Nat :=
  Nat.xor (bs.foldl (fun c b => (List.range 8).foldl (fun c _ => crc32Bit c) (Nat.xor c b.toNat)) 0xFFFFFFFF) 0xFFFFFFFF

/-- One step of the CRC-64 of R392 over one bit. -/
def crc64Bit (c : Nat) : Nat :=
  let c' := c * 2 % 2 ^ 64
  if c / 2 ^ 63 % 2 = 1 then Nat.xor c' 0x42F0E1EBA9EA3693 else c'

/-- CRC-64: polynomial 0x42F0_E1EB_A9EA_3693, initial value 0, no reflection, no final inversion (R392). -/
def crc64 (bs : List Byte) : Nat :=
  bs.foldl (fun c b => (List.range 8).foldl (fun c _ => crc64Bit c) (Nat.xor c (b.toNat * 2 ^ 56))) 0

/-- n copies of a byte of zero. -/
def zeros (n : Nat) : List Byte := List.replicate n 0

/-- Bytes replaced from an offset. -/
def patch (bs : List Byte) (off : Nat) (new : List Byte) : List Byte :=
  bs.take off ++ new ++ bs.drop (off + new.length)

/-- One step of the CRC-16 of R59 over one bit. -/
def crc16Bit (c : Nat) (b : Bool) : Nat :=
  let top := decide (c / 32768 % 2 = 1)
  let c' := c * 2 % 65536
  if top != b then Nat.xor c' 0x1021 else c'

/-- The CRC-16 over one byte, its most significant bit first. -/
def crc16Byte (c : Nat) (b : Byte) : Nat :=
  (List.range 8).foldl (fun c i => crc16Bit c (b.getLsbD (7 - i))) c

/-- CRC-16: polynomial 0x1021, initial value 0xFFFF, no reflection, no final inversion (R59). -/
def crc16 (bs : List Byte) : Nat := bs.foldl crc16Byte 0xFFFF

/-- The 16 bytes of a sync chain frame (R476): its type, the position, bytes 3 to 10 of the payload as a word, the CRC of bytes 0 to 12, and zero. -/
def syncBytes (type pos : Nat) (body : W64) : List Byte :=
  let head := leBytes 1 type ++ leBytes 2 pos ++ leBytes 8 body.toNat ++ zeros 2
  head ++ leBytes 2 (crc16 head) ++ zeros 1

/-- The type of a received frame. -/
def frameType (f : SyncFrame) : Nat := leNat (f.bytes.take 1)

/-- The position that it carries. -/
def framePos (f : SyncFrame) : Nat := leNat ((f.bytes.drop 1).take 2)

/-- Its bytes 3 to 10 as a word. -/
def frameBody (f : SyncFrame) : W64 := BitVec.ofNat 64 (leNat ((f.bytes.drop 3).take 8))

/-- A frame is whole: no code violation, and its CRC matches. -/
def frameGood (f : SyncFrame) : Bool :=
  !f.violation && f.bytes.length = 16 && leNat ((f.bytes.drop 13).take 2) = crc16 (f.bytes.take 13)

/-- The numbers of a range of n from a start. -/
def rangeFrom (a n : Nat) : List Nat := (List.range n).map (a + ·)

/-- ceil(a / b) -/
def ceilDiv (a b : Nat) : Nat := (a + b - 1) / b

/-- A value saturated at 2^32 − 1. -/
def sat32 (x : Nat) : Nat := min x 0xFFFFFFFF

/-! ## Registers -/

/-- The applied value of element `e` of copy `n` of an entry. -/
def State.rd (s : State) (o : Obj) (n : Nat := 0) (e : Nat := 0) : W64 := Store.get regDefault s.regs (regCode o n e)

/-- The applied value as a number. -/
def State.rdN (s : State) (o : Obj) (n : Nat := 0) (e : Nat := 0) : Nat := (s.rd o n e).toNat

/-- An applied value written. -/
def State.wr (s : State) (o : Obj) (n e : Nat) (v : W64) : State :=
  { s with regs := Store.set regDefault s.regs (regCode o n e) v }

/-- An applied value written as a number, cut to the width of the entry's element. -/
def State.wrN (s : State) (o : Obj) (n e : Nat) (v : Nat) : State :=
  s.wr o n e (BitVec.ofNat 64 (v % 256 ^ o.info.size))

/-- The staged value of an element (R448). -/
def State.rdStaged (s : State) (o : Obj) (n : Nat := 0) (e : Nat := 0) : W64 :=
  Store.get regDefault s.staged (regCode o n e)

/-- A staged value written (R448). -/
def State.wrStaged (s : State) (o : Obj) (n e : Nat) (v : W64) : State :=
  { s with staged := Store.set regDefault s.staged (regCode o n e) v }

/-- A counter raised by an amount; it wraps at its width (R14, R63). -/
def State.count (s : State) (o : Obj) (n : Nat := 0) (e : Nat := 0) (k : Nat := 1) : State :=
  s.wrN o n e (s.rdN o n e + k)

/-- Elements of an array or a byte string, from one on. -/
def State.rdRange (s : State) (o : Obj) (n from_ len : Nat) : List W64 :=
  (rangeFrom from_ len).map fun e => s.rd o n e

/-- A byte string written, one byte an element. -/
def State.wrBytes (s : State) (o : Obj) (n off : Nat) : List Byte → State
  | [] => s
  | b :: r => State.wrBytes (s.wr o n off (b.zeroExtend 64)) o n (off + 1) r

/-- The bytes of a byte string. -/
def State.rdBytes (s : State) (o : Obj) (n off len : Nat) : List Byte :=
  (s.rdRange o n off len).map fun w => w.truncate 8

/-! ## Contexts and items -/

/-- The record of a context. -/
def State.ctx (s : State) (c : CtxId) : Ctx := Store.get (fun _ => Ctx.init) s.ctxs c.val

/-- The record of a context replaced. -/
def State.setCtx (s : State) (c : CtxId) (x : Ctx) : State :=
  { s with ctxs := Store.set (fun _ => Ctx.init) s.ctxs c.val x }

/-- The record of a context changed. -/
def State.updCtx (s : State) (c : CtxId) (f : Ctx → Ctx) : State := s.setCtx c (f (s.ctx c))

/-- The sixteen contexts. -/
def allCtx : List CtxId := List.finRange 16

/-- Two items are the same one: their context, list, position and step. -/
def Item.same (a b : Item) : Bool :=
  a.ctx == b.ctx && a.list == b.list && a.seq == b.seq && a.ahead == b.ahead

/-- The item that an event names. -/
def State.item (s : State) (r : ItemRef) : Option Item :=
  s.items.find? fun i => i.ctx == r.ctx && i.list == r.list && i.seq == r.seq && i.ahead == r.ahead

/-- An item replaced by its new form. -/
def State.setItem (s : State) (i : Item) : State :=
  { s with items := s.items.map fun j => if j.same i then i else j }

/-- An item taken out. -/
def State.dropItem (s : State) (i : Item) : State := { s with items := s.items.filter fun j => !j.same i }

/-- The present form of an item. -/
def State.current (s : State) (i : Item) : Option Item := s.items.find? fun j => j.same i

/-- Whether an item is parked on a page fault. -/
def Item.isParked (i : Item) : Bool :=
  match i.phase with
  | .parked _ => true
  | _ => false

/-- Whether an item's results are all visible. -/
def Item.isFinished (i : Item) : Bool :=
  match i.phase with
  | .finished _ => true
  | _ => false

/-- A barrier of a context (R224). -/
def State.bar (s : State) (c : CtxId) (b : Nat) : Barrier :=
  Store.get (fun _ => Barrier.init) s.bars (256 * c.val + b)

/-- A barrier replaced. -/
def State.setBar (s : State) (c : CtxId) (b : Nat) (x : Barrier) : State :=
  { s with bars := Store.set (fun _ => Barrier.init) s.bars (256 * c.val + b) x }

/-- A stream engine. -/
def State.engine (s : State) (e : Nat) : Engine := Store.get (fun _ => Engine.init) s.engines e

/-- A stream engine replaced. -/
def State.setEngine (s : State) (e : Nat) (x : Engine) : State :=
  { s with engines := Store.set (fun _ => Engine.init) s.engines e x }

/-- A queue. -/
def State.queue (s : State) (q : Nat) : Queue := Store.get Queue.init s.queues q

/-- The matrix engine of a core. -/
def State.array (s : State) (core : Nat) : MatEngine := Store.get (fun _ => MatEngine.init) s.arrays core

/-- A matrix engine replaced. -/
def State.setArray (s : State) (core : Nat) (e : MatEngine) : State :=
  { s with arrays := Store.set (fun _ => MatEngine.init) s.arrays core e }

/-- A queue replaced. -/
def State.setQueue (s : State) (q : Nat) (x : Queue) : State :=
  { s with queues := Store.set Queue.init s.queues q x }

/-- A unit holds an item: until it commits, and not while its context is PREEMPTED (R343, R344). -/
def State.holdsItem (s : State) (i : Item) : Bool := i.phase ≠ .committed && (s.ctx i.ctx).st ≠ .preempted

/-- A Shexon port. -/
def State.port (s : State) (p : Nat) : Port := Store.get (fun _ => Port.init) s.fabric.ports p

/-- A Shexon port replaced. -/
def State.setPort (s : State) (p : Nat) (x : Port) : State :=
  { s with fabric := { s.fabric with ports := Store.set (fun _ => Port.init) s.fabric.ports p x } }

/-- The next free value: a word that nothing constrains. -/
def State.freeW (s : State) : W64 × State := (Config.freeWord s.free, { s with free := s.free + 1 })

/-! ## Outputs, flags and events -/

/-- An output appended. -/
def State.emit (s : State) (o : Output) : State := { s with out := s.out ++ [o] }

/-- A bit of an entry set. -/
def State.setBit (s : State) (o : Obj) (n b : Nat) : State := s.wr o n 0 (s.rd o n ||| BitVec.ofNat 64 (2 ^ b))

/-- A W1C flag set on the present edge (R13). -/
def State.markFlag (s : State) (o : Obj) (n b : Nat) : State :=
  let s := s.setBit o n b
  { s with edge := (regCode o n 0, b) :: s.edge }

/-- The flags of an entry set on the present edge, as a word. -/
def State.freshFlags (s : State) (o : Obj) (n : Nat) : W64 :=
  s.edge.foldl (fun w e => if e.1 = regCode o n 0 then w ||| BitVec.ofNat 64 (2 ^ e.2) else w) 0

/-- A bit of an entry cleared. -/
def State.clearBit (s : State) (o : Obj) (n b : Nat) : State := s.wr o n 0 (s.rd o n &&& ~~~ BitVec.ofNat 64 (2 ^ b))

/-- The `EVENT_MASK` bit of a status entry (R424), if it has one. -/
def eventBit : Obj → Option Nat
  | .ctxStatus => some 0
  | .paceStatus => some 1
  | .fmtStatus => some 2
  | .arrayStatus => some 3
  | .gangStatus => some 4
  | .precStatus => some 5
  | .streamStatus => some 6
  | .queueStatus => some 7
  | .sampleStatus => some 8
  | .gatherStatus => some 9
  | .embStatus => some 10
  | .updStatus => some 11
  | .mmuStatus => some 12
  | .hostCtxStatus => some 13
  | .memStatus => some 16
  | .shxStatus => some 17
  | .survStatus => some 18
  | .hostStatus => some 19
  | .pwrStatus => some 20
  | _ => none

end Sys2Proof.Machine
end

