-- ==== Sys2Proof/Machine/Route.lean ====
section
/-! DEFINITION. Packets and their way through the torus: headers, coordinates, routes, port choice, sending and
forwarding, and the broadcast tree (R359–R366, R378). -/

namespace Sys2Proof

open Machine

/-! ## Packets (R360) -/

/-- `TYPE` of a packet. -/
def Packet.type (k : Packet) : Nat := bits 63 56 k.w0
/-- `LEN`: data granules of 32 bytes. -/
def Packet.len (k : Packet) : Nat := bits 55 48 k.w0
/-- `VC`. -/
def Packet.vc (k : Packet) : Nat := bits 47 46 k.w0
/-- `DL`. -/
def Packet.dl (k : Packet) : Nat := bits 45 45 k.w0
/-- `ROUTE`. -/
def Packet.route (k : Packet) : Nat := bits 44 42 k.w0
/-- `CONTEXT`. -/
def Packet.ctx (k : Packet) : CtxId := Fin.ofNat 16 (bits 39 36 k.w0)
/-- `DST_COORD`. -/
def Packet.dst (k : Packet) : Nat := bits 31 16 k.w0
/-- `SRC_COORD`. -/
def Packet.src (k : Packet) : Nat := bits 15 0 k.w0
/-- `SRC_RANK`. -/
def Packet.srcRank (k : Packet) : Nat := bits 63 48 k.w1
/-- `DST_RANK`; broadcasts carry 0xFFFF. -/
def Packet.dstRank (k : Packet) : Nat := bits 47 32 k.w1
/-- `EPOCH`. -/
def Packet.epoch (k : Packet) : Nat := bits 31 0 k.w1
/-- `OP_SEQ`. -/
def Packet.opSeq (k : Packet) : Nat := bits 31 0 k.w3
/-- `E2E_CRC`. -/
def Packet.crc (k : Packet) : Nat := bits 63 32 k.w3

/-- The CRC of a packet: over the header with the field zero, and the data (R360). -/
def Packet.crcOf (k : Packet) : Nat :=
  crc32 (bytesOf [k.w0, k.w1, k.w2, BitVec.ofNat 64 k.opSeq] ++ k.data)

/-- A packet with the CRC that its header and data have. -/
def Packet.sealed (k : Packet) : Packet :=
  { k with w3 := BitVec.ofNat 64 (k.crcOf * 2 ^ 32 + k.opSeq) }

/-- The packet is whole: its CRC matches and its data has the length that `LEN` gives (R360). -/
def Packet.good (k : Packet) : Bool := k.crc == k.crcOf && k.data.length == 32 * k.len

/-- A packet with its dateline class set: its CRC follows the change of the header, and stays as wrong as it was (R360). -/
def Packet.withDl (k : Packet) (b : Bool) : Packet :=
  let k' : Packet := { k with w0 := (k.w0 &&& ~~~ (0x200000000000#64)) ||| (if b then 0x200000000000#64 else 0) }
  { k' with w3 := BitVec.ofNat 64 (Nat.xor k'.crcOf (Nat.xor k.crc k.crcOf) * 2 ^ 32 + k.opSeq) }

/-- A packet with a route, in dateline class 0; its CRC follows as well. -/
def Packet.routed (k : Packet) (route : Nat) : Packet :=
  let k' : Packet := { k with w0 := (k.w0 &&& ~~~ (0x3C0000000000#64)) ||| BitVec.ofNat 64 (route % 8 * 2 ^ 42) }
  { k' with w3 := BitVec.ofNat 64 (Nat.xor k'.crcOf (Nat.xor k.crc k.crcOf) * 2 ^ 32 + k.opSeq) }

end Sys2Proof

namespace Sys2Proof.Machine

/-- The virtual channel of a packet type (R361). -/
def vcOf (type : Nat) : Nat :=
  if type = 0x10 || type = 0x11 || type = 0x12 || type = 0x13 then 1
  else if type = 0x30 || type = 0x40 || type = 0x41 || type = 0x42 then 2
  else if 0x50 ≤ type && type ≤ 0x55 then 3
  else 0

/-- A packet type that the table gives (R361). -/
def knownType (type : Nat) : Bool :=
  (1 ≤ type && type ≤ 3) || (0x10 ≤ type && type ≤ 0x14) || (0x20 ≤ type && type ≤ 0x24) || type = 0x30 || type = 0x31 ||
    (0x40 ≤ type && type ≤ 0x42) || (0x50 ≤ type && type ≤ 0x55)

/-- Data padded with zeros to whole granules. -/
def padGranules (d : List Byte) : List Byte := d ++ zeros ((32 - d.length % 32) % 32)

/-- A packet before it is routed: type, context, argument, operation sequence and data. -/
def mkPacket (type : Nat) (c : CtxId) (arg : W64) (opSeq : Nat) (data : List Byte) : Packet :=
  let d := padGranules data
  { w0 := BitVec.ofNat 64 (type * 2 ^ 56 + d.length / 32 * 2 ^ 48 + vcOf type * 2 ^ 46 + c.val * 2 ^ 36)
    w1 := 0
    w2 := arg
    w3 := BitVec.ofNat 64 (opSeq % 2 ^ 32)
    data := d }

/-! ## Coordinates and routes (R363, R364) -/

/-- The coordinate along a dimension: 0 is x, 1 is y, 2 is z (R363). -/
def coordAt (c d : Nat) : Nat := if d = 0 then c / 1024 % 64 else if d = 1 then c / 32 % 32 else c % 32

/-- A coordinate with one dimension replaced. -/
def withCoord (c d v : Nat) : Nat :=
  if d = 0 then v * 1024 + c % 1024
  else if d = 1 then c / 1024 * 1024 + v * 32 + c % 32
  else c / 32 * 32 + v

/-- The size of a dimension (R363). -/
def State.dim (s : State) (d : Nat) : Nat := coordAt (s.rdN .torusDims) d + 1

/-- The coordinate one hop on: dimension, and minus or plus. -/
def State.hop (s : State) (c d : Nat) (minus : Bool) : Nat :=
  let n := s.dim d
  withCoord c d ((coordAt c d + (if minus then n - 1 else 1)) % n)

/-- The coordinate stands in `FAULT_SET` (R364). -/
def State.faultCoord (s : State) (c : Nat) : Bool :=
  (s.rdRange .faultSet 0 0 256).any fun w => bit 31 w && !bit 30 w && bits 15 0 w == c

/-- The link from a coordinate in a direction stands in `FAULT_SET`, from either of its ends (R364). -/
def State.faultLink (s : State) (c d : Nat) (minus : Bool) : Bool :=
  let far := s.hop c d minus
  (s.rdRange .faultSet 0 0 256).any fun w =>
    bit 31 w && bit 30 w &&
      ((bits 15 0 w == c && bits 29 27 w == 2 * d + minus.toNat) ||
       (bits 15 0 w == far && bits 29 27 w == 2 * d + (!minus).toNat))

/-- The arc of `hops` hops in a direction holds a listed link, or a listed coordinate strictly between its ends (R364). -/
def State.arcFaulty (s : State) (c d : Nat) (minus : Bool) : Nat → Bool
  | 0 => false
  | n + 1 =>
    let c' := s.hop c d minus
    s.faultLink c d minus || (n ≠ 0 && s.faultCoord c') || State.arcFaulty s c' d minus n

/-- The direction in one dimension (R364): none when both arcs are faulty. -/
def State.routeDim (s : State) (src dst d : Nat) : Option Bool :=
  let n := s.dim d
  let δ := (coordAt dst d + n - coordAt src d) % n
  let first := decide (¬ δ ≤ n - δ)
  let hopsOf (m : Bool) := if δ = 0 then 0 else if m then n - δ else δ
  if !s.arcFaulty src d first (hopsOf first) then some first
  else if !s.arcFaulty src d (!first) (hopsOf (!first)) then some (!first)
  else none

/-- `ROUTE` from a source to a destination (R364): bits 2, 1 and 0 for X, Y and Z, or none. -/
def State.routeOf (s : State) (src dst : Nat) : Option Nat :=
  let corner1 := withCoord src 0 (coordAt dst 0)
  let corner2 := withCoord corner1 1 (coordAt dst 1)
  match s.routeDim src dst 0, s.routeDim corner1 dst 1, s.routeDim corner2 dst 2 with
  | some x, some y, some z => some (x.toNat * 4 + y.toNat * 2 + z.toNat)
  | _, _, _ => none

/-- The dimension of the next hop from here to a destination: X, then Y, then Z; none at the destination (R364). -/
def nextDim (here dst : Nat) : Option Nat :=
  if coordAt here 0 ≠ coordAt dst 0 then some 0
  else if coordAt here 1 ≠ coordAt dst 1 then some 1
  else if coordAt here 2 ≠ coordAt dst 2 then some 2
  else none

/-- Port k of a direction (R352). -/
def portOf (d : Nat) (minus : Bool) (k : Nat) : Nat := d + 3 * minus.toNat + 6 * k

/-- The other port of the same direction (R352); an AUX port has none. -/
def siblingOf (p : Nat) : Option Nat := if p < 12 then some ((p + 6) % 12) else none

/-- The port that a port is wired to on the neighbour (R352). -/
def pairedPort (p : Nat) : Nat :=
  if p = 12 then 13 else if p = 13 then 12 else if p / 3 % 2 = 0 then p + 3 else p - 3

/-- The parity of the bits of a 16-bit code. -/
def parity16 (x : Nat) : Nat := (List.range 16).foldl (fun a i => a + x / 2 ^ i % 2) 0 % 2

/-- A port is UP or UP3 (R356). -/
def State.portUp (s : State) (p : Nat) : Bool := (s.port p).st = 5 || (s.port p).st = 6

/-- The coordinate of a rank, if its entry of `RANK_MAP` is valid (R363). -/
def State.coordOf (s : State) (r : Nat) : Option Nat :=
  let w := s.rd .rankMap 0 r
  if bit 31 w then some (bits 15 0 w) else none

/-- The rank is a member of the epoch (R363). -/
def State.isMember (s : State) (r : Nat) : Bool := (s.rd .members 0 (r / 8)).getLsbD (r % 8)

/-- The members that one byte of `MEMBERS` names. -/
def byteMembers (i : Nat) (b : W64) : List Nat := ((List.range 8).filter fun j => b.getLsbD j).map (8 * i + ·)

/-- The members of the epoch, ascending; a module whose map is empty is a domain of one (R363, DESIGN CHOICE 12). -/
def State.memberList (s : State) : List Nat :=
  let listed := s.regs.filterMap fun e =>
    if regObj e.1 = .members then some (byteMembers (regElem e.1) e.2) else none
  match listed.flatten with
  | [] => [s.rdN .shxRank]
  | ms => ms

/-- The members of the epoch with the rank of the module itself in place (R390). -/
def State.memberPos (s : State) (r : Nat) : Nat := (s.memberList.filter (· < r)).length

/-! ## Sending (R359, R362, R365) -/

/-- The index of the pair of VC and dateline class. -/
def creditIx (k : Packet) : Nat := 2 * k.vc + k.dl

/-- A port sends n codewords, the last of which holds the ends of packets; each carries its sequence and the last one received in
order, and the last 512 are kept (R354, R355). -/
def State.sendWords (s : State) (p : Nat) (ks : List Packet) : Nat → State
  | 0 => s
  | n + 1 =>
    let x := s.port p
    let us := x.unacked ++ [⟨x.txNext, 0, if n = 0 then ks else []⟩]
    let s := s.setPort p { x with txNext := x.txNext + 1, unacked := us.drop (us.length - 512) }
    State.sendWords (s.emit (.codeword (Fin.ofNat 14 p) x.txNext (x.rxNext - 1))) p ks n

/-- A packet that ends in the codeword last sent. -/
def endsInLast (k : Packet) : List SentWord → List SentWord
  | [] => []
  | [w] => [{ w with packets := w.packets ++ [k] }]
  | w :: r => w :: endsInLast k r

/-- A packet put on the wire of a port: packets of one SCLK cycle lie back to back in 20-granule codewords, and the rest of a
cycle's last codeword is idle granules (R354, R360, DESIGN CHOICE 13). -/
def State.wire (s : State) (p : Nat) (k : Packet) : State :=
  let x := s.port p
  let room := if x.openAt = s.now + 1 then x.room else 0
  let words := ceilDiv (1 + k.len - room) 20
  let s := if words = 0 then s.setPort p { x with unacked := endsInLast k x.unacked } else s.sendWords p [k] words
  let s := s.setPort p { s.port p with
    room := room + 20 * words - (1 + k.len)
    openAt := s.now + 1
    sent := x.sent + (3 < k.type : Bool).toNat }
  s.emit (.packet (Fin.ofNat 14 p) k)

/-- A link-local packet put on a port's own link (R361). -/
def State.linkLocal (s : State) (p : PortId) (type : Nat) (arg : W64) (data : List Byte) : State :=
  s.wire p.val (mkPacket type 0 arg 0 data).sealed

/-- The buffer that a received packet stood in is free: its granules go back as credit to the sender (R361, R362, DESIGN
CHOICE 61). -/
def State.giveBack (s : State) (k : Packet) : State :=
  match k.via with
  | none => s
  | some (p, pair) => s.linkLocal p 0x01 (BitVec.ofNat 64 ((1 + k.len) * 256 + pair)) []

/-- A port can send a packet now: its link is up, and it has credit for the packet's whole length (R362). -/
def Port.fits (x : Port) (k : Packet) : Bool := (x.st = 5 || x.st = 6) && 1 + k.len ≤ x.credits.getD (creditIx k) 0

/-- A packet sent on a port that can send it. -/
def State.sendNow (s : State) (p : Nat) (k : Packet) : State :=
  let x := s.port p
  let left := x.credits.getD (creditIx k) 0 - (1 + k.len)
  (((s.setPort p { x with credits := x.credits.set (creditIx k) left }).wire p { k with via := none }).giveBack k)

/-- A packet handed to a port: sent, or held behind what it has of the same VC (R362). -/
def State.portSend (s : State) (p : Nat) (k : Packet) : State :=
  let x := s.port p
  if x.fits k && x.held.all fun h => h.vc ≠ k.vc then s.sendNow p k else s.setPort p { x with held := x.held ++ [k] }

/-- The port of a direction that a packet takes (R359, R362): by parity, or in alternation; the sibling when the choice
is not UP and the sibling is. -/
def State.choosePort (s : State) (k : Packet) (d : Nat) (minus : Bool) : Nat × State :=
  let p0 := portOf d minus 0
  let x := s.port p0
  let byParity := k.vc = 0 || k.vc = 3 || k.type = 0x30
  let kk := if byParity then parity16 (Nat.xor k.src k.dst) else x.alt.toNat
  let s' := if byParity then s else s.setPort p0 { x with alt := !x.alt }
  let p := portOf d minus kk
  let q := portOf d minus (1 - kk)
  (if !s.portUp p && s.portUp q then q else p, s')

/-- The dateline class on a hop (R364): 1 once the hop, or an earlier one of the dimension, crosses between n − 1 and 0. -/
def State.dlOn (s : State) (here d : Nat) (minus : Bool) (before : Bool) : Bool :=
  let n := s.dim d
  let v := coordAt here d
  before || (if minus then v = 0 else v = n - 1)

/-- The next hop of a packet from this module (R364). `fresh`: the hop enters its dimension. -/
def State.forwardOn (s : State) (k : Packet) (d : Nat) (minus : Bool) (fresh : Bool) : State :=
  let here := s.rdN .shxCoord
  let k' := k.withDl (s.dlOn here d minus (!fresh && k.dl = 1))
  let (p, s) := s.choosePort k' d minus
  s.portSend p k'

/-- The minus direction of a dimension in a `ROUTE`. -/
def routeMinus (route d : Nat) : Bool := route / 2 ^ (2 - d) % 2 = 1

/-- The ranks of the AUX ring in its order: the valid elements of `PORTAL_GROUP` (R378, DESIGN CHOICE 43). -/
def State.auxRing (s : State) : List Nat :=
  ((s.rdRange .portalGroup 0 0 64).filter fun w => bit 31 w).map fun w => bits 15 0 w

/-- The AUX port on the shorter arc of the ring to a rank, when that port is up (R352, R378): AUX-B leads on, AUX-A back. No packet
type tells a module the state of another module's links (R361), so that it sees its own end of the arc alone (DESIGN CHOICE 43). -/
def State.auxPort (s : State) (rank : Nat) : Option Nat :=
  if s.rdN .portalAux ≠ 1 then none
  else
    let ring := s.auxRing
    match ring.findIdx? (· == s.rdN .shxRank), ring.findIdx? (· == rank) with
    | some i, some j =>
      let n := ring.length
      let δ := (j + n - i) % n
      let p := if δ ≤ n - δ then 13 else 12
      if i ≠ j && s.portUp p then some p else none
    | _, _ => none

/-- A packet sent to a rank (R363, R364, R378): none when its rank has no valid map entry, or no arc is free of faults. -/
def State.sendTo (s : State) (rank : Nat) (k : Packet) : Option State :=
  match s.coordOf rank with
  | none => none
  | some dst =>
    let src := s.rdN .shxCoord
    let headed (route : Nat) : Packet := { k with
      w0 := k.w0 ||| BitVec.ofNat 64 (route * 2 ^ 42 + dst % 65536 * 2 ^ 16 + src % 65536)
      w1 := BitVec.ofNat 64 (s.rdN .shxRank * 2 ^ 48 + rank * 2 ^ 32 + s.rdN .epoch) }
    let route := s.routeOf src dst
    match if k.vc = 3 then s.auxPort rank else none with
    | some p => some (s.portSend p (headed (route.getD 0)).sealed)
    | none =>
      match route with
      | none => none
      | some route =>
        match nextDim src dst with
        | none => some (s.emit (.packet 0 (headed route).sealed))
        | some d => some (s.forwardOn (headed route).sealed d (routeMinus route d) true)

/-- A packet that the AUX ring does not carry on, sent by the torus with the route that this module computes (R364, R378, DESIGN
CHOICE 159); none where it has no route. -/
def State.onTorus (s : State) (k : Packet) : Option State :=
  let here := s.rdN .shxCoord
  match s.routeOf here k.dst, nextDim here k.dst with
  | some route, some d => some (s.forwardOn { k.routed route with mark := none } d (routeMinus route d) true)
  | _, _ => none

/-- A packet discarded on its way, with the buffer that it stands in. -/
def State.dropHere (s : State) (k : Packet) : State := (s.giveBack k).count .fabricDropCnt

/-- A transit packet sent on (R364): the coordinates alone decide. One that came by the AUX ring stays on it while it can (R378). -/
def State.forward (s : State) (k : Packet) : State :=
  let here := s.rdN .shxCoord
  if k.via.any fun v => 12 ≤ v.1.val then
    match s.auxPort k.dstRank with
    | some p => s.portSend p k
    | none => (s.onTorus k).getD ((s.dropHere k).markFlag .shxStatus 0 3)
  else
    match nextDim here k.dst with
    | none => s
    | some d =>
      let entered := coordAt here d = coordAt k.src d
      s.forwardOn k d (routeMinus k.route d) entered

/-! ## The broadcast tree (R366) -/

/-- The number of hops that one direction of a ring covers from a coordinate: half of the ring, plus with the middle; it
stops short of a `FAULT_SET` coordinate, and the minus direction then goes on to its far side, or to the far side of the last of
several. -/
def State.ringReach (s : State) (c d : Nat) (minus : Bool) : Nat :=
  let n := s.dim d
  let plusHalf := n / 2
  let at_ (j : Nat) := withCoord c d ((coordAt c d + j) % n)
  let cuts := (rangeFrom 1 (n - 1)).filter fun j => s.faultCoord (at_ j)
  match cuts.head?, cuts.getLast? with
  | some first, some last => if minus then n - 1 - last else first - 1
  | _, _ => if minus then n - 1 - plusHalf else plusHalf

/-- The directions in which this module sends a broadcast on: along the ring it came by, as far as the ring's reach, and
in both directions of every later dimension. `src` is the source's coordinate. -/
def State.treeDirs (s : State) (src : Nat) : List (Nat × Bool) :=
  let here := s.rdN .shxCoord
  let start (d : Nat) : List (Nat × Bool) :=
    [(d, false), (d, true)].filter fun e => 0 < s.ringReach here d e.2
  let onward (d : Nat) : List (Nat × Bool) :=
    let n := s.dim d
    let root := withCoord here d (coordAt src d)
    let up := (coordAt here d + n - coordAt src d) % n
    if up = 0 then start d
    else if up ≤ s.ringReach root d false then (if up < s.ringReach root d false then [(d, false)] else [])
    else if n - up < s.ringReach root d true then [(d, true)] else []
  if coordAt here 2 ≠ coordAt src 2 then onward 2
  else if coordAt here 1 ≠ coordAt src 1 then onward 1 ++ start 2
  else onward 0 ++ start 1 ++ start 2

/-- A broadcast packet sent on by this module (R366). -/
def State.treeSend (s : State) (k : Packet) : State :=
  (s.treeDirs k.src).foldl (fun s e => s.forwardOn k e.1 e.2 (coordAt (s.rdN .shxCoord) e.1 = coordAt k.src e.1)) s

/-- The ranks of the live members that the tree from a source cannot reach: on a ring that two `FAULT_SET` coordinates cut, those
between them, and all that only a `FAULT_SET` coordinate would lead to (R366, DEDUCED 160). -/
def State.treeMissed (s : State) (src : Nat) : List Nat :=
  let missed (root tgt d : Nat) : Bool :=
    let n := s.dim d
    let up := (coordAt tgt d + n - coordAt root d) % n
    up ≠ 0 && s.ringReach root d false < up && s.ringReach root d true < n - up
  s.memberList.filter fun r =>
    match s.coordOf r with
    | none => false
    | some c =>
      let ringX := withCoord (withCoord c 1 (coordAt src 1)) 2 (coordAt src 2)
      let ringY := withCoord c 2 (coordAt src 2)
      !s.faultCoord c && (missed src ringX 0 || missed ringX ringY 1 || missed ringY c 2)

end Sys2Proof.Machine
end

