-- ==== Sys2Proof/Machine/Signal.lean ====
section
/-! DEFINITION. What the module signals: flags with their counters, events, interrupts, host writes and completion
records (R13, R14, R234, R235, R409, R410, R420–R424, R426, R456, R457). -/

namespace Sys2Proof.Machine

/-- `PORTAL_MODE` 2: the module is a member behind a portal (R426). -/
def State.isMemberMode (s : State) : Bool := s.rdN .portalMode = 2

/-- The rank of a member's portal (R426). -/
def State.portalRank (s : State) : Nat := bits 15 0 (s.rd .portalSelf)

/-- Function f is enabled (R409). -/
def State.fnOn (s : State) (f : CtxId) : Bool := f.val = 0 || s.vfs.getLsbD f.val

/-- Function f serves its context: it is enabled, or it is the portal's, on which a member's own functions have no say (R409, R426). -/
def State.fnServed (s : State) (f : CtxId) : Bool := s.isMemberMode || s.fnOn f

/-- A packet that is not sent: counted in `FABRIC_DROP_CNT`, without the interrupt that its flag could raise; for an
interrupt's own packet, which finds no way to the portal. -/
def State.dropQuiet (s : State) : State := (s.count .fabricDropCnt).markFlag .shxStatus 0 3

/-- The next operation sequence of this source (R360). -/
def State.nextOp (s : State) : Nat × State :=
  (s.fabric.opSeq.toNat, { s with fabric := { s.fabric with opSeq := s.fabric.opSeq + 1 } })

/-- A vector's MSI-X message (R422): sent when its entry is not masked, else marked in the PBA. -/
def State.msixSend (s : State) (f : CtxId) (vec : Nat) : State :=
  if bit 0 (s.rd .msixTable f.val (4 * vec + 3)) || !s.fnOn f then
    s.wr .msixPba f.val (vec / 64) (s.rd .msixPba f.val (vec / 64) ||| BitVec.ofNat 64 (2 ^ (vec % 64)))
  else
    let addr := s.rdN .msixTable f.val (4 * vec) + 2 ^ 32 * s.rdN .msixTable f.val (4 * vec + 1)
    let s := s.emit (.msix f (BitVec.ofNat 8 vec) (BitVec.ofNat 64 addr) ((s.rd .msixTable f.val (4 * vec + 2)).truncate 32))
    { s with msiLast := Store.set (fun _ => 0) s.msiLast (256 * f.val + vec) (s.now + 1) }

/-- A cause of a vector (R423): within the holdoff it is marked, else its message goes. -/
def State.vector (s : State) (f : CtxId) (vec : Nat) : State :=
  let key := 256 * f.val + vec
  let last := Store.get (fun _ => 0) s.msiLast key
  let holdoff := bits 15 0 (s.rd .irqHoldoff f.val)
  if holdoff ≠ 0 && last ≠ 0 && s.now < (last - 1) + holdoff then
    if s.msiHeld.contains key then s else { s with msiHeld := s.msiHeld ++ [key] }
  else s.msixSend f vec

/-- Cause v of function f (R422); behind a portal it is a `TUN_IRQ` to the portal (R426). -/
def State.interrupt (s : State) (f : CtxId) (v : Nat) : State :=
  if s.isMemberMode then
    let (n, s) := s.nextOp
    (s.sendTo s.portalRank (mkPacket 0x55 f (BitVec.ofNat 64 v) n [])).getD s.dropQuiet
  else s.vector f v

/-- A W1C flag set (R13); a flag of an enabled entry that changes from 0 to 1 is a cause of vector 2 (R424). -/
def State.setFlag (s : State) (o : Obj) (n b : Nat) : State :=
  let was := bit b (s.rd o n)
  let s' := s.markFlag o n b
  match eventBit o with
  | none => s'
  | some e =>
    let f : CtxId := if e < 16 then Fin.ofNat 16 n else 0
    if !was && bit e (s.rd .eventMask f.val) then s'.interrupt f 2 else s'

/-- An occurrence counted, with its flag (R14, R235). -/
def State.tally (s : State) (cnt : Obj) (n : Nat) (status : Obj) (m b : Nat) : State :=
  (s.count cnt n).setFlag status m b

/-- The same for a number of occurrences on one edge (R235). -/
def State.tallyN (s : State) (cnt : Obj) (n : Nat) (status : Obj) (m b k : Nat) : State :=
  if k = 0 then s else (s.count cnt n 0 k).setFlag status m b

/-- A fabric drop (R360, R363). -/
def State.fabricDrop (s : State) : State := s.tally .fabricDropCnt 0 .shxStatus 0 3

/-- A packet sent to a rank, or counted as not sent. -/
def State.send (s : State) (rank : Nat) (k : Packet) : State := (s.sendTo rank k).getD s.fabricDrop

/-- A domain broadcast from this module (R366): along the tree, and in unicast copies to the members that it cannot reach; a copy that
finds no route is counted as every packet that is not sent (R364). -/
def State.broadcast (s : State) (k : Packet) : State :=
  let src := s.rdN .shxCoord
  let k' : Packet := { k with
    w0 := k.w0 ||| BitVec.ofNat 64 (src % 65536)
    w1 := BitVec.ofNat 64 (s.rdN .shxRank * 2 ^ 48 + 0xFFFF * 2 ^ 32 + s.rdN .epoch) }
  let s := s.treeSend k'.sealed
  (s.treeMissed src).foldl (fun s r => s.send r k) s

/-! ## Events (R456, R457) -/

/-- The 16 bytes of an event record. -/
def EventRec.bytes (e : EventRec) : List Byte :=
  leBytes 8 e.time.toNat ++ leBytes 8 (e.code.toNat * 2 ^ 56 + e.ctx.toNat * 2 ^ 52 + e.arg.toNat)

/-- An Igcor header (R443): length, operations, request identifier, kind, frame status and generation. -/
def igcorHeader (len ops reqId kind fstatus gen : Nat) : List Byte :=
  leBytes 8 (len * 2 ^ 48 + ops * 2 ^ 32 + reqId * 2 ^ 16 + kind * 2 ^ 8 + 1) ++
    leBytes 8 (fstatus * 2 ^ 32 + gen)

/-- An operation record (R443): status, length, index, subindex, operation, argument, offset and data padded to 8. -/
def igcorRecord (status len index sub op arg off : Nat) (data : List Byte) : List Byte :=
  leBytes 8 (status * 2 ^ 48 + len * 2 ^ 32 + index * 2 ^ 16 + sub * 2 ^ 8 + op) ++
    leBytes 8 (arg * 2 ^ 32 + off) ++ data ++ zeros ((8 - data.length % 8) % 8)

/-- The notice of an event: a `KIND` 2 frame with one `EVENT_READ` record (R457). -/
def State.notice (s : State) (e : EventRec) : List Byte :=
  let data := leBytes 8 e.seq.toNat ++ e.bytes
  igcorHeader (16 + 16 + 24) 1 0 2 0 (s.rdN .stageGen) ++ igcorRecord 0 24 0 0 8 1 0 data

/-- The notice sent to one element of `EVENT_NOTIFY`, when it is valid (R458). -/
def State.notify (s : State) (e : EventRec) (i : Nat) : State :=
  let el := s.rdBytes .eventNotify 0 (16 * i) 16
  if (el.getD 15 0).getLsbD 0 then
    s.emit (.datagram (wordAt el 0) (BitVec.ofNat 16 (leNat ((el.drop 8).take 2))) (s.notice e))
  else s

/-- The order of the events of one edge: by code, then by context. -/
def EventRec.rank (e : EventRec) : Nat := 16 * e.code.toNat + e.ctx.toNat

/-- An event put among those of its edge, behind its equals. -/
def EventRec.insert (e : EventRec) : List EventRec → List EventRec
  | [] => [e]
  | x :: r => if e.rank < x.rank then e :: x :: r else x :: EventRec.insert e r

/-- Events numbered from a sequence on. -/
def numbered (from_ : W64) : List EventRec → List EventRec
  | [] => []
  | e :: r => { e with seq := from_ } :: numbered (from_ + 1) r

/-- An event as it is raised. -/
def State.newEvent (s : State) (code : Nat) (c : Option CtxId) (arg : Nat) : EventRec where
  seq := s.rd .eventNextSeq
  time := s.rd .globalTime
  code := BitVec.ofNat 8 code
  ctx := match c with
    | some c => BitVec.ofNat 4 c.val
    | none => 0xF
  arg := BitVec.ofNat 32 arg
  ofModule := c.isNone

/-- An event raised (R456): it takes its place among those of the present edge, which take the last sequences, in the ring of 1,024. -/
def State.raise (s : State) (code : Nat) (c : Option CtxId) (arg : Nat) : State :=
  let k := s.events.length - s.fresh
  let now := numbered (s.rd .eventNextSeq - BitVec.ofNat 64 s.fresh) ((s.newEvent code c arg).insert (s.events.drop k))
  let evs := s.events.take k ++ now
  let s := { s with events := evs.drop (evs.length - 1024), fresh := min 1024 (s.fresh + 1) }
  s.count .eventNextSeq

/-- The events of the present edge are numbered for good, and their notices are sent (R456, R457). -/
def State.sealEvents (s : State) : State :=
  let es := s.events.drop (s.events.length - s.fresh)
  let s := { s with fresh := 0 }
  es.foldl (fun s e => (List.range 4).foldl (fun s i => s.notify e i) s) s

/-! ## Host writes and completion records -/

/-- A PCI Express error on a fetch, on `DMA` data or on a write behind a portal (R419, R426, R429): counted, and reported to AER of the
function on the module's own link. -/
def State.hostError (s : State) (c : CtxId) : State :=
  let s := if s.isMemberMode then s
    else { s with pcie := { s.pcie with aer := s.pcie.aer ||| BitVec.ofNat 16 (2 ^ c.val) } }
  s.tally .hostDmaErrCnt c.val .hostCtxStatus c.val 3

/-- Memory writes on the module's own link, cut at the Max Payload Size (R429). -/
def State.postWrites (s : State) (f : CtxId) (addr : Nat) (data : List Byte) : State :=
  (List.range (ceilDiv data.length s.pcie.mps)).foldl (fun t k =>
    t.emit (.hostWrite f (BitVec.ofNat 64 (addr + s.pcie.mps * k)) ((data.drop (s.pcie.mps * k)).take s.pcie.mps))) s

/-- Memory reads on the module's own link, cut at the Max Read Request Size (R429). -/
def State.postReads (s : State) (f : CtxId) (addr len : Nat) : State :=
  (List.range (ceilDiv len s.pcie.mrrs)).foldl (fun t k =>
    t.emit (.hostRead f (BitVec.ofNat 64 (addr + s.pcie.mrrs * k)) (min s.pcie.mrrs (len - s.pcie.mrrs * k)))) s

/-- A memory write on behalf of function f (R410), behind a portal a `TUN_DMA_WR` with the bus address in `ARG`
(R426, DESIGN CHOICE 14); none where the portal cannot be reached. -/
def State.hostWriteTo (s : State) (f : CtxId) (addr : Nat) (data : List Byte) : Option State :=
  if s.isMemberMode then
    let (n, s) := s.nextOp
    s.sendTo s.portalRank (mkPacket 0x54 f (BitVec.ofNat 64 addr) n data)
  else some (s.postWrites f addr data)

/-- The same, one that cannot reach the portal counted as a drop and as a PCI Express error (R426). -/
def State.hostWrite (s : State) (f : CtxId) (addr : Nat) (data : List Byte) : State :=
  (s.hostWriteTo f addr data).getD (s.fabricDrop.hostError f)

/-- The completion ring has room and can be written (R421). -/
def State.cqRoom (s : State) (c : CtxId) : Bool :=
  let cfg := s.rd .cqCfg c.val
  s.fnServed c && bit 31 cfg &&
    decide (((s.rd .cqTail c.val).truncate 32 - (s.ctx c).cqHead : W32).toNat < 2 ^ bits 4 0 cfg)

/-- A record written to its slot with its phase (R420), and cause 0 when it signals (R422). -/
def State.writeRec (s : State) (c : CtxId) (r : Rec) : State :=
  let l := bits 4 0 (s.rd .cqCfg c.val)
  let j := s.rdN .cqTail c.val
  let phase := 1 - j / 2 ^ l % 2
  let w1 := r.w1.toNat % 2 ^ 63 + phase * 2 ^ 63
  let s := s.hostWrite c (s.rdN .cqBase c.val + 32 * (j % 2 ^ l))
    (leBytes 8 r.w0.toNat ++ leBytes 8 w1 ++ leBytes 8 r.w2.toNat ++ leBytes 8 r.w3.toNat)
  let s := s.wrN .cqTail c.val 0 (j + 1)
  if r.irq then s.interrupt c 0 else s

/-- Waiting records written in order while there is room (R421). -/
def State.writeWaiting (s : State) (c : CtxId) : List Rec → State
  | [] => s.updCtx c fun x => { x with waiting := [] }
  | r :: rest =>
    if s.cqRoom c then State.writeWaiting (s.writeRec c r) c rest
    else s.updCtx c fun x => { x with waiting := r :: rest }

/-- The waiting records of a context, as far as there is room. -/
def State.drainRecs (s : State) (c : CtxId) : State := s.writeWaiting c (s.ctx c).waiting

/-- A record produced: it follows those that wait (R421). -/
def State.postRec (s : State) (c : CtxId) (r : Rec) : State :=
  (s.updCtx c fun x => { x with waiting := x.waiting ++ [r] }).drainRecs c

/-- The count of a status class (R57): rejections, failures and parks. -/
def State.countStatus (s : State) (c : CtxId) (status : Nat) : State :=
  if status / 16 = 2 then s.count .cmdRejectCnt c.val
  else if status / 16 = 3 then s.count .cmdFailCnt c.val
  else if status / 16 = 1 then s.count .cmdParkCnt c.val
  else s

end Sys2Proof.Machine
end

