-- ==== Sys2Proof/Machine/Mem.lean ====
section
/-! DEFINITION. Memory: the physical map, bytes, error protection, page-table walks, polders and the accesses of each
requester class (R325–R341, R347). -/

namespace Sys2Proof.Machine

/-! ## The physical map (R325, R326, R347) -/

/-- What lies at a physical address (R325). -/
inductive Place where
  | hbm (die : Nat)
  | core (i : Nat)
  | scratch (c : Nat)
  | vitrine (die : Nat)
  | reserved
deriving DecidableEq, Repr

/-- Bytes of HBM of one die (R325). -/
def dieBytes : Nat := 0x9000000000

/-- The map of R325. -/
def placeOf (pa : Nat) : Place :=
  if pa < 0x24000000000 then .hbm (pa / dieBytes)
  else if pa < 0x38000000000 then .reserved
  else if pa < 0x38040000000 then .core ((pa - 0x38000000000) / 0x800000)
  else if pa < 0x38080000000 then .scratch ((pa - 0x38040000000) / 0x2000000)
  else if pa < 0x38088000000 then .vitrine ((pa - 0x38080000000) / 0x2000000)
  else .reserved

/-- The error class of the memory at an address (R329). -/
def eccClass (pa : Nat) : Nat :=
  match placeOf pa with
  | .hbm _ => 0
  | .core _ => 1
  | .scratch _ => 2
  | .vitrine _ => 3
  | .reserved => 0

/-- The pseudo-channel index of an HBM address, 64 × (6·D + H) + P (R326, R331). -/
def pcIndex (pa : Nat) : Nat :=
  let d := pa / dieBytes
  let g := (pa % dieBytes) / 256
  64 * (6 * d + g % 6) + g / 6 % 64

/-- The location of an HBM address before any retirement (R326): die, stack, pseudo-channel, granule within it, byte. -/
def hbmPlace (pa : Nat) : Nat × Nat × Nat × Nat × Nat :=
  let o := pa % dieBytes
  let g := o / 256
  (pa / dieBytes, g % 6, g / 6 % 64, g / 384, o % 256)

/-- The retirements of a die in order: stack and pseudo-channel (R347, R350). -/
def State.retired (s : State) (d : Nat) : List (Nat × Nat) :=
  ((List.range 4).map fun k => s.rd .hbmRetired 0 (4 * d + k)).filterMap fun w =>
    if bit 15 w then some (bits 10 8 w, bits 5 0 w) else none

/-- The first die offset of band k of a die, k from 1 (R347). -/
def bandStart (k : Nat) : Nat := dieBytes - k * 0xC0000000

/-- The position of a pseudo-channel among the 384 of a die: the granules with it are those with this index modulo 384 (R326). -/
def channelPos (x : Nat × Nat) : Nat := 6 * x.2 + x.1

/-- The positions of the pseudo-channels that are not retired, ascending. -/
def livePos (ret : List (Nat × Nat)) : List Nat := (List.range 384).filter fun j => !ret.contains (j % 6, j / 6)

/-- The n-th target granule of band k, when the first k retirements are these (R347). -/
def targetGranule (ret : List (Nat × Nat)) (k n : Nat) : Nat :=
  let live := livePos ret
  bandStart k / 256 + n / live.length * 384 + live.getD (n % live.length) 0

/-- The granules below a granule that lie on a pseudo-channel. -/
def ownBelow (x : Nat × Nat) (g : Nat) : Nat := g / 384 + (channelPos x < g % 384 : Bool).toNat

/-- Of the first n targets of a retirement, those on a pseudo-channel that is retired later: every so many-th one. -/
def targetsOn (ret : List (Nat × Nat)) (x : Nat × Nat) (n : Nat) : Nat :=
  let live := livePos ret
  (n + live.length - 1 - live.findIdx (· == channelPos x)) / live.length

/-- For each of the first k retirements, how many of its sources stand for an address below that of granule g (R347): its own
granules, below its band, and the targets of earlier retirements that lie on it. -/
def sourcesBelow (ret : List (Nat × Nat)) (g : Nat) : Nat → List Nat
  | 0 => []
  | k + 1 =>
    let ns := sourcesBelow ret g k
    let x := ret.getD k (0, 0)
    ns ++ [ownBelow x (min g (bandStart (k + 1) / 256)) +
      ((ns.zipIdx.map fun n => targetsOn (ret.take (n.2 + 1)) x n.1).foldl (· + ·) 0)]

/-- The granule of a die in which the bytes of a die granule stand, after the die's retirements (R347): those that find it on their
pseudo-channel, as one of its own below the band or as an earlier target, move it to the target of its rank. -/
def granuleAt (ret : List (Nat × Nat)) (g : Nat) : Nat :=
  let ns := sourcesBelow ret g ret.length
  (ret.zipIdx).foldl (fun cur x =>
    let k := x.2 + 1
    if cur % 384 = channelPos x.1 && (cur ≠ g || g < bandStart k / 256) then targetGranule (ret.take k) k (ns.getD x.2 0) else cur) g

/-- The pseudo-channel index that serves an HBM address now (R326, R331, R347). -/
def State.servingPc (s : State) (pa : Nat) : Nat :=
  let d := pa / dieBytes
  pcIndex (d * dieBytes + 256 * granuleAt (s.retired d) (pa % dieBytes / 256))

/-- An address lies in a reserved range, beyond a die's usable HBM, beyond a scratch window's size, or in a vitrine
window: a page there faults with `PA_OUT` (R335). -/
def State.paOut (s : State) (pa : Nat) : Bool :=
  match placeOf pa with
  | .hbm d => decide (s.rdN .hbmUsable 0 d ≤ pa % dieBytes)
  | .core _ => false
  | .scratch _ => decide (s.rdN .ccScratchWays * 0x200000 ≤ (pa - 0x38040000000) % 0x2000000)
  | .vitrine _ => true
  | .reserved => true

/-! ## Bytes and poison (R330) -/

/-- The address lies in a scratch window (R325). -/
def isScratch (pa : Nat) : Bool := decide (0x38040000000 ≤ pa) && decide (pa < 0x38080000000)

/-- What a byte that nothing has written reads as: 0, as a cold reset leaves it (R472); a free value in a scratch window
after `n` changes of `CC_SCRATCH_WAYS`, when there has been one (R328). -/
def memDefault (n pa : Nat) : Byte := if n ≠ 0 && isScratch pa then Config.scratchByte n pa else 0

/-- A byte of memory. -/
def State.byteAt (s : State) (pa : Nat) : Byte := Store.get (memDefault s.scratch) s.mem pa

/-- Bytes of memory from an address. -/
def State.bytesAt (s : State) (pa len : Nat) : List Byte := (rangeFrom pa len).map s.byteAt

/-- Memory with bytes written from an address, after `n` changes of `CC_SCRATCH_WAYS`. -/
def memWrite (n : Nat) (m : Store Byte) (pa : Nat) : List Byte → Store Byte
  | [] => m
  | b :: r => memWrite n (Store.set (memDefault n) m pa b) (pa + 1) r

/-- A poisoned word meets a range of bytes. -/
def State.poisonIn (s : State) (pa len : Nat) : Option Nat :=
  s.poison.find? fun w => decide (w * 4 < pa + len) && decide (pa < w * 4 + 4)

/-- A poisoned word that a range of bytes covers only in part. -/
def State.poisonPart (s : State) (pa len : Nat) : Option Nat :=
  s.poison.find? fun w =>
    decide (w * 4 < pa + len) && decide (pa < w * 4 + 4) && !(decide (pa ≤ w * 4) && decide (w * 4 + 4 ≤ pa + len))

/-- What the 64-bit words of HBM hold that a range of bytes meets, kept before they are written (R336). -/
def State.keepPrior (s : State) (pa len : Nat) : List (Nat × Nat × W64) :=
  if pa < 0x24000000000 && len ≠ 0 then
    (rangeFrom (pa / 8) ((pa + len - 1) / 8 + 1 - pa / 8)).map (fun w => (w, s.writes, wordAt (s.bytesAt (8 * w) 8) 0)) ++ s.prior
  else s.prior

/-- A 64-bit word of memory as it stood after the first n writes (R336): what the first later write to it replaced, or what it
holds now. -/
def State.wordThen (s : State) (pa n : Nat) : W64 :=
  match (s.prior.filter fun e => e.1 = pa / 8).reverse with
  | [] => wordAt (s.bytesAt pa 8) 0
  | es =>
    match es.find? fun e => n ≤ e.2.1 with
    | some e => e.2.2
    | none => wordAt (s.bytesAt pa 8) 0

/-- A range of bytes meets a prefetched row. -/
def FetchedRow.meets (x : FetchedRow) (pa len : Nat) : Bool :=
  x.pieces.any fun e => decide (e.1 < pa + len) && decide (pa < e.1 + e.2)

/-- Bytes of a prefetched row. -/
def FetchedRow.bytes (x : FetchedRow) : Nat := (x.pieces.map Prod.snd).sum

/-- The rows that prefetch areas of n bytes have room for: the newest of each area (R274). -/
def fitRows (n : Nat) : List FetchedRow → List FetchedRow
  | [] => []
  | x :: r =>
    let r := fitRows n r
    if x.bytes + ((r.filter fun y => y.area = x.area).map FetchedRow.bytes).sum ≤ n then x :: r else r

/-- Rows displaced for lack of space, which are not counted (R274). -/
def State.fitFetched (s : State) : State :=
  { s with prefetched := fitRows (s.rdN .gatherPrefetchMib * 2 ^ 20) s.prefetched }

/-- Prefetched rows removed, each counted (R274). -/
def State.unfetch (s : State) (f : FetchedRow → Bool) : State :=
  (s.prefetched.filter f).foldl (fun s x => s.tally .prefetchDiscardCnt x.ctx.val .gatherStatus x.ctx.val 3)
    { s with prefetched := s.prefetched.filter fun x => !f x }

/-- Bytes put into memory: a word written whole loses its poison (R330). -/
def State.put (s : State) (pa : Nat) (bs : List Byte) : State :=
  { s with
    mem := memWrite s.scratch s.mem pa bs
    prior := s.keepPrior pa bs.length
    writes := s.writes + 1
    poison := s.poison.filter fun w => !(decide (pa ≤ w * 4) && decide (w * 4 + 4 ≤ pa + bs.length)) }

/-- Bytes written to memory, as a write of any unit or of host DMA: rows prefetched from them are removed first (R274). -/
def State.poke (s : State) (pa : Nat) (bs : List Byte) : State :=
  (s.unfetch fun x => x.meets pa bs.length).put pa bs

/-- A number put in its place in a rising list. -/
def insertNat (n : Nat) : List Nat → List Nat
  | [] => [n]
  | m :: r => if n < m then n :: m :: r else if n = m then m :: r else m :: insertNat n r

/-- A word left poisoned (R330): a poisoning write of the HBM controller is counted. -/
def State.poisonWord (s : State) (w : Nat) : State :=
  if s.poison.contains w then s
  else
    let s := { s with poison := insertNat w s.poison }
    if eccClass (4 * w) = 0 then s.count .hbmPoisonCnt else s

/-- An uncorrectable error of a class found (R330): counted by class, flagged and recorded. -/
def State.foundUeIn (s : State) (cls pa : Nat) : State :=
  let s := s.count .eccUeCnt 0 cls
  let s := s.wrBytes .eccLastUe 0 0 (leBytes 8 (pa * 256 + cls) ++ leBytes 8 s.now)
  s.setFlag .memStatus 0 1

/-- An uncorrectable error found at an address. -/
def State.foundUe (s : State) (pa : Nat) : State := s.foundUeIn (eccClass pa) pa

/-- A corrected error of a class (R330). -/
def State.foundCorrectedIn (s : State) (cls : Nat) : State := (s.count .eccCorrCnt 0 cls).setFlag .memStatus 0 0

/-- A corrected error at an address. -/
def State.foundCorrected (s : State) (pa : Nat) : State := s.foundCorrectedIn (eccClass pa)

/-- An error that SECDED finds (R133, R329–R331): corrected, it is counted, and one of HBM for its pseudo-channel too; uncorrectable, it is counted and recorded, and a word
of memory is left poisoned. -/
def State.meetError (s : State) (e : MemError) : State :=
  if e.corrected then
    let s := s.foundCorrectedIn e.cls.val
    if e.cls.val = 0 then s.count .hbmPcCorr 0 (s.servingPc e.pa.toNat) else s
  else
    let s := s.foundUeIn e.cls.val e.pa.toNat
    if e.cls.val ≤ 3 then s.poisonWord (e.pa.toNat / 4) else s

/-! ## Polders (R337, R338) -/

/-- An entry of `POLDER_TABLE` (R337). -/
structure Polder where
  enable   : Bool
  base     : Nat
  limit    : Nat
  contexts : Nat
  clusters : Nat
  kind     : Nat
  policy   : Nat
deriving DecidableEq, Repr

/-- Entry j from its four words (R337). -/
def polderOf (w0 w1 w2 w3 : W64) : Polder where
  enable := bit 63 w0
  base := bits 41 16 w0 * 65536
  limit := bits 41 16 w1 * 65536
  contexts := bits 63 48 w2
  clusters := bits 31 0 w2
  kind := bits 15 12 w3
  policy := bits 9 0 w3

/-- The applied polder j. -/
def State.polder (s : State) (j : Nat) : Polder :=
  polderOf (s.rd .polderTable 0 (4 * j)) (s.rd .polderTable 0 (4 * j + 1)) (s.rd .polderTable 0 (4 * j + 2))
    (s.rd .polderTable 0 (4 * j + 3))

/-- A range of bytes lies in an enabled polder. -/
def Polder.holds (p : Polder) (pa len : Nat) : Bool := p.enable && decide (p.base ≤ pa) && decide (pa + len ≤ p.limit)

/-- Grant bit b of a policy (R337): 0 RD_UNIT, 1 WR_UNIT, 2 RD_HOST, 3 WR_HOST, 4 WR_LOG, 5 RD_FABRIC, 6 WR_FABRIC,
7 RD_MGMT, 8 WR_MGMT, 9 RD_WALK. -/
def Polder.grants (p : Polder) (b : Nat) : Bool := p.policy / 2 ^ b % 2 = 1

/-- A context's bit in a polder. -/
def Polder.admits (p : Polder) (c : CtxId) : Bool := p.contexts / 2 ^ c.val % 2 = 1

/-- Some polder satisfies a condition. -/
def State.anyPolder (s : State) (f : Polder → Bool) : Bool := (List.range 256).any fun j => f (s.polder j)

/-! ## Dike partitions (R143, R145) -/

/-- Clusters in a partition: 32 / P. -/
def State.partSize (s : State) : Nat := 32 / s.rdN .dikeSplit

/-- The partition of a cluster (R143). -/
def State.partOf (s : State) (cl : Nat) : Nat := cl / s.partSize

/-- A context owns a cluster (R38). -/
def State.owns (s : State) (c : CtxId) (cl : Nat) : Bool := (s.rd .ctxPartitions c.val).getLsbD cl

/-- A cluster is in service (R159). -/
def State.clusterLive (s : State) (cl : Nat) : Bool := (s.rd .clustersActive).getLsbD cl

/-- The partitions of a context that count as owned, ascending: some cluster of each is in service (R38, R44, R159). -/
def State.ownedParts (s : State) (c : CtxId) : List Nat :=
  (List.range (s.rdN .dikeSplit)).filter fun p =>
    (rangeFrom (p * s.partSize) s.partSize).any fun cl => s.owns c cl && s.clusterLive cl

/-- The context owns no cluster: its lead list runs on the service sequencer (R38, R45). -/
def State.clusterless (s : State) (c : CtxId) : Bool := (s.ownedParts c).isEmpty

/-- The engines of a partition's gang by core index, ascending (R137, R158). -/
def State.gang (s : State) (p : Nat) : List Nat :=
  (rangeFrom (p * s.partSize * 4) (s.partSize * 4)).filter fun i =>
    if i < 64 then (s.rd .enginesActiveLo).getLsbD i else (s.rd .enginesActiveHi).getLsbD (i - 64)

/-! ## Walks (R333–R336) -/

/-- The end of a walk: the physical address with the leaf's polder, a fault with its reason and level, or an
uncorrectable word in a table (R330, R335). -/
inductive Walk where
  | ok (pa polder : Nat)
  | fault (reason level : Nat)
  | ue (pa : Nat)
deriving DecidableEq, Repr

/-- The shift of the VA bits that a level indexes, and the bytes of its table (R333). -/
def levelShift (l : Nat) : Nat := if l = 0 then 39 else if l = 1 then 30 else if l = 2 then 21 else 16

/-- The bytes of a table of a level (R333). -/
def levelBytes (l : Nat) : Nat := if l = 3 then 256 else 4096

/-- An address lies in an SRAM window (R328): a core store, a scratch window or a vitrine. -/
def isSram (pa : Nat) : Bool :=
  match placeOf pa with
  | .core _ => true
  | .scratch _ => true
  | .vitrine _ => true
  | _ => false

/-- A leaf judged after the walk (R335): `PA_OUT`, then `WRITE_DENIED`. -/
def State.leaf (s : State) (e : W64) (va level : Nat) (write : Bool) : Walk :=
  let size := 2 ^ levelShift level
  let base := bits 41 8 e * 256
  if s.paOut base || s.paOut (base + size - 1) then .fault 4 level
  else if write && !bit 2 e then .fault 5 level
  else .ok (base + va % size) (bits 63 56 e)

/-- An entry breaks R334: a reserved bit, a `LEAF` at a wrong level, a misaligned `PA`, or an SRAM leaf with a polder or
a page larger than 64 KiB (`BAD_ENTRY`, R335). -/
def badEntry (e : W64) (level : Nat) : Bool :=
  let base := bits 41 8 e * 256
  let isLeaf := bit 1 e
  bits 55 42 e ≠ 0 || bits 7 3 e ≠ 0 || (level = 0 && isLeaf) || (level = 3 && !isLeaf) ||
    (isLeaf && base % 2 ^ levelShift level ≠ 0) ||
    (!isLeaf && base % levelBytes (level + 1) ≠ 0) ||
    (isLeaf && isSram base && (bits 63 56 e ≠ 0 || level ≠ 3))

/-- A walk from the table of a level on, `n` levels left, over the entries as they stood after so many writes (R333, R335, R336). -/
def State.walkFrom (s : State) (c : CtxId) (va : Nat) (write : Bool) (then_ table level : Nat) : Nat → Walk
  | 0 => .fault 2 level
  | n + 1 =>
    if !s.anyPolder (fun p => p.holds table (levelBytes level) && p.grants 9 && p.admits c) then .fault 3 level
    else
      let width := if level = 3 then 5 else 9
      let at_ := table + 8 * (va / 2 ^ levelShift level % 2 ^ width)
      match s.poisonIn at_ 8 with
      | some w => .ue (4 * w)
      | none =>
        let e := s.wordThen at_ then_
        if !bit 0 e then .fault 1 level
        else if badEntry e level then .fault 2 level
        else if bit 1 e then s.leaf e va level write
        else State.walkFrom s c va write then_ (bits 41 8 e * 256) (level + 1) n

/-- The writes made before the last invalidation that covered an address: no older entry is cached for it (R336). -/
def State.purgedAt (s : State) (c : CtxId) (va : Nat) : Nat :=
  (s.purged.filterMap fun e =>
    if e.1 = c && decide (e.2.1 ≤ va) && decide (va < e.2.1 + e.2.2.1) then some e.2.2.2 else none).foldl max 0

/-- The translation of a 48-bit address (R333). Units cache translations: until an invalidation of its range has completed, the
entries as they stood at any instant since the one before may serve the access, which is a free choice (R336). -/
def State.walk (s : State) (c : CtxId) (va : Nat) (write : Bool) : Walk :=
  let va := va % 2 ^ 48
  let low := s.purgedAt c va
  let then_ := if s.writes ≤ low then low else low + Config.cachedAt s.free (va / 65536) % (s.writes - low + 1)
  if s.rdN .ptRoot c.val = 0 then .fault 1 0
  else s.walkFrom c va write then_ (s.rdN .ptRoot c.val) 0 4

/-! ## Requesters (R328, R338) -/

/-- A requester class with its context and, for units, its cluster (R338). -/
inductive Req where
  | unit (c : CtxId) (cl : Option ClusterId)
  | host (c : CtxId)
  | log (c : CtxId)
deriving DecidableEq, Repr

/-- The context of a requester. -/
def Req.ctx : Req → CtxId
  | .unit c _ => c
  | .host c => c
  | .log c => c

/-- The cluster of an SRAM window (R325). -/
def windowCluster (pa : Nat) : Nat :=
  match placeOf pa with
  | .core i => i / 4
  | .scratch c => c
  | _ => 0

/-- The polder check of a translated access (R328, R338). -/
def State.permits (s : State) (r : Req) (write : Bool) (pa len polder : Nat) : Bool :=
  match placeOf pa with
  | .reserved => false
  | .vitrine _ => false
  | .core _ | .scratch _ =>
    let cl := windowCluster pa
    match r with
    | .unit c (some q) => s.owns c cl && s.partOf cl = s.partOf q.val
    | .unit _ none => false
    | .host c => s.owns c cl
    | .log _ => false
  | .hbm _ =>
    match r with
    | .unit c q =>
      let p := s.polder polder
      p.holds pa len && p.admits c &&
        (match q with
          | some q => decide (p.clusters / 2 ^ q.val % 2 = 1)
          | none => true) &&
        p.grants (if write then 1 else 0)
    | .host c =>
      let p := s.polder polder
      p.holds pa len && p.admits c && p.grants (if write then 3 else 2)
    | .log c => s.anyPolder fun p => p.holds pa len && p.admits c && p.grants 4

/-- A FABRIC access to physical memory is granted (R338). -/
def State.fabricOk (s : State) (write : Bool) (pa len : Nat) : Bool :=
  s.anyPolder fun p => p.holds pa len && p.grants (if write then 6 else 5)

/-- A MGMT access to physical memory is granted (R338). -/
def State.mgmtOk (s : State) (write : Bool) (pa len : Nat) : Bool :=
  s.anyPolder fun p => p.holds pa len && p.grants (if write then 8 else 7)

/-! ## Accesses through translation -/

/-- Why work on an item stops: a page fault (R340), a polder refusal (R338), an uncorrectable error in data or in a page-table walk (R329, R330), a missed
deadline (R205), a lost collective (R371), a mismatch (R367), or something that another command must bring. -/
inductive Stop where
  | fault (va reason level : Nat) (write : Bool)
  | denied
  | ue (pa : Nat)
  | walkUe (pa : Nat)
  | missed
  | lost
  | mismatch
  | wait
deriving DecidableEq, Repr

/-- An uncorrectable error that an access has found is counted and recorded (R330). -/
def State.noteUe (s : State) : Stop → State
  | .ue pa => s.foundUe pa
  | .walkUe pa => s.foundUeIn 7 pa
  | _ => s

/-- One piece of an access, within a page: the physical address, or why it stops. -/
def State.reach (s : State) (r : Req) (va len : Nat) (write : Bool) : Except Stop Nat :=
  match s.walk r.ctx va write with
  | .fault reason level => .error (.fault (va % 2 ^ 48) reason level write)
  | .ue pa => .error (.walkUe pa)
  | .ok pa polder => if s.permits r write pa len polder then .ok pa else .error .denied

/-- A range of virtual addresses cut at 64 KiB pages: address and length of each piece (`fuel` bounds the pieces). -/
def pieces (va len : Nat) : Nat → List (Nat × Nat)
  | 0 => []
  | fuel + 1 =>
    if len = 0 then []
    else
      let n := min len (65536 - va % 65536)
      (va, n) :: pieces (va + n) (len - n) fuel

/-- The pieces of a range. -/
def piecesOf (va len : Nat) : List (Nat × Nat) := pieces va len (len / 65536 + 2)

/-- Every piece of a range is reached, in ascending order: their physical addresses and lengths. -/
def State.reachAll (s : State) (r : Req) (va len : Nat) (write : Bool) : Except Stop (List (Nat × Nat)) :=
  (piecesOf va len).mapM fun (a, n) => do
    let pa ← s.reach r a n write
    pure (pa, n)

/-- The bytes of pieces that have been reached; a poisoned word stops the read (R330). -/
def State.fetch (s : State) (ps : List (Nat × Nat)) : Except Stop (List Byte) :=
  match ps.findSome? fun (pa, n) => s.poisonIn pa n with
  | some w => .error (.ue (4 * w))
  | none => .ok (ps.flatMap fun (pa, n) => s.bytesAt pa n)

/-- A read through translation. -/
def State.vread (s : State) (r : Req) (va len : Nat) : Except Stop (List Byte) := do
  let ps ← s.reachAll r va len false
  s.fetch ps

/-- The pages of a range translated: virtual page and the address of its first byte (R132, R208). -/
def State.pagesOf (s : State) (r : Req) (va len : Nat) (write : Bool) : Except Stop (List (Nat × Nat)) := do
  let ps ← s.reachAll r va len write
  pure (((piecesOf va len).zip ps).map fun (a, p) => (a.1 / 65536 % 2 ^ 32, p.1 - a.1 % 65536)).dedup

/-- Every piece of a range reached through held translations; a page that is not held is translated (R132, R208). -/
def State.reachHeld (s : State) (r : Req) (pages : List (Nat × Nat)) (va len : Nat) (write : Bool) :
    Except Stop (List (Nat × Nat)) :=
  (piecesOf (va % 2 ^ 48) len).mapM fun (a, n) =>
    match pages.find? fun e => e.1 = a / 65536 % 2 ^ 32 with
    | some e => .ok (e.2 + a % 65536, n)
    | none => do
      let pa ← s.reach r a n write
      pure (pa, n)

/-- A read through held translations (R132, R208). -/
def State.readHeld (s : State) (r : Req) (pages : List (Nat × Nat)) (va len : Nat) : Except Stop (List Byte) := do
  let ps ← s.reachHeld r pages va len false
  s.fetch ps

/-- Bytes written to pieces that have been reached. -/
def State.store (s : State) : List (Nat × Nat) → List Byte → State
  | [], _ => s
  | (pa, n) :: ps, bs => State.store (s.poke pa (bs.take n)) ps (bs.drop n)

/-- Bytes written to pieces that have been reached; a poisoned word covered only in part stops the write (R330). -/
def State.storeAll (s : State) (ps : List (Nat × Nat)) (bs : List Byte) : Except Stop State :=
  match ps.findSome? fun (pa, n) => s.poisonPart pa n with
  | some w => .error (.ue (4 * w))
  | none => .ok (s.store ps bs)

/-- A write through translation. -/
def State.vwrite (s : State) (r : Req) (va : Nat) (bs : List Byte) : Except Stop State := do
  let ps ← s.reachAll r va bs.length true
  s.storeAll ps bs

/-- A write through held translations (R132). -/
def State.writeHeld (s : State) (r : Req) (pages : List (Nat × Nat)) (va : Nat) (bs : List Byte) : Except Stop State := do
  let ps ← s.reachHeld r pages va bs.length true
  s.storeAll ps bs

/-- A little-endian word read through translation. -/
def State.vword (s : State) (r : Req) (va len : Nat) : Except Stop Nat := do
  let bs ← s.vread r va len
  pure (leNat bs)

end Sys2Proof.Machine
end

