-- ==== Sys2Proof/Machine/Operands.lean ====
section
/-! DEFINITION. The operands of a command: the fields of a descriptor (R48, R53) and which of its bits are reserved. -/

namespace Sys2Proof.Machine

/-! ## The common header (R48) -/

/-- `OPCODE`. -/
def Desc.opcode (d : Desc) : Nat := bits 63 56 d.w0
/-- `CPL`. -/
def Desc.cpl (d : Desc) : Bool := bit 55 d.w0
/-- `IRQ`. -/
def Desc.irq (d : Desc) : Bool := bit 54 d.w0
/-- `FENCE`. -/
def Desc.fence (d : Desc) : Bool := bit 53 d.w0
/-- `PART`. -/
def Desc.part (d : Desc) : Nat := bits 52 48 d.w0
/-- `STAGE`. -/
def Desc.stage (d : Desc) : Nat := bits 47 44 d.w0
/-- `SEQ`. -/
def Desc.seq (d : Desc) : Nat := bits 31 0 d.w0
/-- `MB`. -/
def Desc.mb (d : Desc) : Nat := bits 63 52 d.w1
/-- `WAIT_BAR`. -/
def Desc.waitBar (d : Desc) : Nat := bits 47 40 d.w1
/-- `ARRIVE_BAR`. -/
def Desc.arriveBar (d : Desc) : Nat := bits 39 32 d.w1
/-- `TAG`. -/
def Desc.tag (d : Desc) : Nat := bits 31 0 d.w1

/-! ## `TILE` (R53) -/

/-- `AFMT`. -/
def Desc.tAfmt (d : Desc) : Nat := bits 63 56 d.w2
/-- `WFMT`. -/
def Desc.tWfmt (d : Desc) : Nat := bits 55 48 d.w2
/-- `WGT_VA`. -/
def Desc.tWgtVa (d : Desc) : Nat := bits 47 0 d.w2
/-- `ACT_VA`. -/
def Desc.tActVa (d : Desc) : Nat := bits 47 0 d.w3
/-- `OFMT`. -/
def Desc.tOfmt (d : Desc) : Nat := bits 55 48 d.w4
/-- `OUT_VA`. -/
def Desc.tOutVa (d : Desc) : Nat := bits 47 0 d.w4
/-- `K`. -/
def Desc.tK (d : Desc) : Nat := bits 63 40 d.w5
/-- `N`. -/
def Desc.tN (d : Desc) : Nat := bits 39 24 d.w5
/-- `M`. -/
def Desc.tM (d : Desc) : Nat := bits 23 0 d.w5
/-- `FED`. -/
def Desc.tFed (d : Desc) : Bool := bit 56 d.w6
/-- `RND`. -/
def Desc.tRnd (d : Desc) : Nat := bits 55 53 d.w6
/-- `STRICT`. -/
def Desc.tStrict (d : Desc) : Bool := bit 52 d.w6
/-- `ACCUM`. -/
def Desc.tAccum (d : Desc) : Bool := bit 51 d.w6
/-- `SPARSE24`. -/
def Desc.tSparse24 (d : Desc) : Bool := bit 50 d.w6
/-- `SPEC`. -/
def Desc.tSpec (d : Desc) : Bool := bit 49 d.w6
/-- `ZERO_MASKED`. -/
def Desc.tZeroMasked (d : Desc) : Bool := bit 48 d.w6
/-- `MASK_VA`. -/
def Desc.tMaskVa (d : Desc) : Nat := bits 47 0 d.w6
/-- `LAYER`. -/
def Desc.tLayer (d : Desc) : Nat := bits 63 56 d.w7
/-- `S16`. -/
def Desc.tS16 (d : Desc) : Bool := bit 53 d.w7
/-- `DIR`. -/
def Desc.tDir (d : Desc) : Nat := bits 52 51 d.w7
/-- `BLK`. -/
def Desc.tBlk (d : Desc) : Nat := bits 50 48 d.w7
/-- `SCALE_VA`. -/
def Desc.tScaleVa (d : Desc) : Nat := bits 47 0 d.w7

/-! ## `VECTOR` (R53) -/

/-- `PROG_VA`. -/
def Desc.vProgVa (d : Desc) : Nat := bits 47 0 d.w2
/-- `SRC_VA`. -/
def Desc.vSrcVa (d : Desc) : Nat := bits 47 0 d.w3
/-- `DST_VA`. -/
def Desc.vDstVa (d : Desc) : Nat := bits 47 0 d.w4
/-- `SESZ`. -/
def Desc.vSesz (d : Desc) : Nat := bits 47 44 d.w5
/-- `DESZ`. -/
def Desc.vDesz (d : Desc) : Nat := bits 43 40 d.w5
/-- `COUNT`. -/
def Desc.vCount (d : Desc) : Nat := bits 39 0 d.w5

/-! ## `STREAM_ARM` (R53) -/

/-- `ENGINE`. -/
def Desc.aEngine (d : Desc) : Nat := bits 63 60 d.w2
/-- `LEN`. -/
def Desc.aLen (d : Desc) : Nat := bits 52 48 d.w2
/-- `PROG_VA`. -/
def Desc.aProgVa (d : Desc) : Nat := bits 47 0 d.w2
/-- `SLUICE`. -/
def Desc.aSluice (d : Desc) : Nat := bits 15 0 d.w3
/-- `REGULAR`. -/
def Desc.aRegular (d : Desc) : Bool := bit 32 d.w4
/-- `RATE`. -/
def Desc.aRate (d : Desc) : Nat := bits 31 0 d.w4

/-! ## `BARRIER` (R53) -/

/-- `COUNT`. -/
def Desc.bCount (d : Desc) : Nat := bits 39 16 d.w2
/-- `BAR`. -/
def Desc.bBar (d : Desc) : Nat := bits 7 0 d.w2

/-! ## `SAMPLE` (R53) -/

/-- `GRAPH_VA`. -/
def Desc.sGraphVa (d : Desc) : Nat := bits 47 0 d.w2
/-- `SEEDS_VA`. -/
def Desc.sSeedsVa (d : Desc) : Nat := bits 47 0 d.w3
/-- `TRAIL_VA`. -/
def Desc.sTrailVa (d : Desc) : Nat := bits 47 0 d.w4
/-- `WEIGHTED`. -/
def Desc.sWeighted (d : Desc) : Bool := bit 42 d.w5
/-- `HOPS`. -/
def Desc.sHops (d : Desc) : Nat := bits 41 40 d.w5
/-- `NODE_BUDGET`. -/
def Desc.sNodeBudget (d : Desc) : Nat := bits 63 40 d.w6
/-- `EDGE_BUDGET`. -/
def Desc.sEdgeBudget (d : Desc) : Nat := bits 55 24 d.w7
/-- `SEEDS`. -/
def Desc.sSeeds (d : Desc) : Nat := bits 23 0 d.w7

/-! ## `GATHER and SCATTER` (R53) -/

/-- `TRAIL_VA`. -/
def Desc.gTrailVa (d : Desc) : Nat := bits 47 0 d.w2
/-- `TABLE_VA`. -/
def Desc.gTableVa (d : Desc) : Nat := bits 47 0 d.w3
/-- `OUT_VA`. -/
def Desc.gOutVa (d : Desc) : Nat := bits 47 0 d.w4
/-- `EMB`. -/
def Desc.gEmb (d : Desc) : Bool := bit 56 d.w5
/-- `HOP`. -/
def Desc.gHop (d : Desc) : Nat := bits 49 48 d.w5
/-- `REDUCE`. -/
def Desc.gReduce (d : Desc) : Nat := bits 47 44 d.w5
/-- `ROW_UNITS`. -/
def Desc.gRowUnits (d : Desc) : Nat := bits 43 32 d.w5
/-- `ROWS`. -/
def Desc.gRows (d : Desc) : Nat := bits 31 0 d.w5
/-- `ATTN_VA`. -/
def Desc.gAttnVa (d : Desc) : Nat := bits 47 0 d.w6
/-- `COLL_VA`. -/
def Desc.gCollVa (d : Desc) : Nat := bits 47 0 d.w7

/-! ## `COALESCE` (R53) -/

/-- `ITEM_VA`. -/
def Desc.cItemVa (d : Desc) : Nat := bits 47 0 d.w2
/-- `OUT_VA`. -/
def Desc.cOutVa (d : Desc) : Nat := bits 47 0 d.w3
/-- `ROW_UNITS`. -/
def Desc.cRowUnits (d : Desc) : Nat := bits 43 32 d.w4
/-- `TABLE_ID`. -/
def Desc.cTableId (d : Desc) : Nat := bits 31 0 d.w4

/-! ## `REDUCE` (R53) -/

/-- `SRC_VA`. -/
def Desc.rSrcVa (d : Desc) : Nat := bits 47 0 d.w2
/-- `DST_VA`. -/
def Desc.rDstVa (d : Desc) : Nat := bits 47 0 d.w3
/-- `SPARSE_VA`. -/
def Desc.rSparseVa (d : Desc) : Nat := bits 47 0 d.w4
/-- `BYTES`. -/
def Desc.rBytes (d : Desc) : Nat := bits 39 0 d.w5
/-- `DFMT`. -/
def Desc.rDfmt (d : Desc) : Nat := bits 7 0 d.w6

/-! ## `UPDATE` (R53) -/

/-- `COEF_VA`. -/
def Desc.uCoefVa (d : Desc) : Nat := bits 47 0 d.w2
/-- `PARAM_VA`. -/
def Desc.uParamVa (d : Desc) : Nat := bits 47 0 d.w3
/-- `GRAD_VA`. -/
def Desc.uGradVa (d : Desc) : Nat := bits 47 0 d.w4
/-- `GROUPS`. -/
def Desc.uGroups (d : Desc) : Nat := bits 31 16 d.w5
/-- `GROUP_FIRST`. -/
def Desc.uFirst (d : Desc) : Nat := bits 15 0 d.w5
/-- `SPARSE`. -/
def Desc.uSparse (d : Desc) : Bool := bit 0 d.w6

/-! ## `MIGRATE` (R53) -/

/-- `COLL_VA`. -/
def Desc.mCollVa (d : Desc) : Nat := bits 47 0 d.w2
/-- `LIST_VA`. -/
def Desc.mListVa (d : Desc) : Nat := bits 47 0 d.w3
/-- `EVICT`. -/
def Desc.mEvict (d : Desc) : Bool := bit 32 d.w4
/-- `COUNT`. -/
def Desc.mCount (d : Desc) : Nat := bits 31 0 d.w4

/-! ## `SNAPSHOT` (R53) -/

/-- `SRC_VA`. -/
def Desc.nSrcVa (d : Desc) : Nat := bits 47 0 d.w2
/-- `PARTNER`. -/
def Desc.nPartner (d : Desc) : Nat := bits 15 0 d.w3
/-- `DEPOT_OFF`. -/
def Desc.nDepotOff (d : Desc) : Nat := bits 47 0 d.w4
/-- `BYTES`. -/
def Desc.nBytes (d : Desc) : Nat := bits 39 0 d.w5

/-! ## `DMA` (R53) -/

/-- `DEV_VA`. -/
def Desc.dDevVa (d : Desc) : Nat := bits 47 0 d.w3
/-- `TO_HOST`. -/
def Desc.dToHost (d : Desc) : Bool := bit 40 d.w4
/-- `BYTES`. -/
def Desc.dBytes (d : Desc) : Nat := bits 39 0 d.w4

/-- Hop h of `FANOUT`, minus one. -/
def Desc.sFanout (d : Desc) (h : Nat) : Nat := bits (10 * h + 9) (10 * h) d.w5
/-- Hop h of `TYPE_FILTER`: the enable bit is bit 0 and the type bits 8 to 1. -/
def Desc.sFilter (d : Desc) (h : Nat) : Nat := bits (9 * h + 8) (9 * h) d.w6

/-! ## Reserved bits (R48, R53) -/

/-- The bits h down to l of a word. -/
def maskOf (h l : Nat) : Nat := (2 ^ (h - l + 1) - 1) * 2 ^ l

/-- The bits of a body word that an opcode uses; every other bit of w2 to w7 is reserved (R53). -/
def usedBits (op w : Nat) : Nat :=
  match op, w with
  | 1, 2 => 0xFFFFFFFFFFFFFFFF -- TILE
  | 1, 3 => 0x0000FFFFFFFFFFFF -- TILE
  | 1, 4 => 0x00FFFFFFFFFFFFFF -- TILE
  | 1, 5 => 0xFFFFFFFFFFFFFFFF -- TILE
  | 1, 6 => 0x01FFFFFFFFFFFFFF -- TILE
  | 1, 7 => 0xFF3FFFFFFFFFFFFF -- TILE
  | 2, 2 => 0x0000FFFFFFFFFFFF -- VECTOR
  | 2, 3 => 0x0000FFFFFFFFFFFF -- VECTOR
  | 2, 4 => 0x0000FFFFFFFFFFFF -- VECTOR
  | 2, 5 => 0x0000FFFFFFFFFFFF -- VECTOR
  | 2, 6 => 0xFFFFFFFFFFFFFFFF -- VECTOR
  | 3, 2 => 0xF01FFFFFFFFFFFFF -- STREAM_ARM
  | 3, 3 => 0x000000000000FFFF -- STREAM_ARM
  | 3, 4 => 0x00000001FFFFFFFF -- STREAM_ARM
  | 4, 2 => 0x000000FFFFFF00FF -- BARRIER
  | 5, 2 => 0x0000FFFFFFFFFFFF -- SAMPLE
  | 5, 3 => 0x0000FFFFFFFFFFFF -- SAMPLE
  | 5, 4 => 0x0000FFFFFFFFFFFF -- SAMPLE
  | 5, 5 => 0x000007FFFFFFFFFF -- SAMPLE
  | 5, 6 => 0xFFFFFF0FFFFFFFFF -- SAMPLE
  | 5, 7 => 0x00FFFFFFFFFFFFFF -- SAMPLE
  | 6, 2 => 0x0000FFFFFFFFFFFF -- GATHER and SCATTER
  | 7, 2 => 0x0000FFFFFFFFFFFF -- GATHER and SCATTER
  | 6, 3 => 0x0000FFFFFFFFFFFF -- GATHER and SCATTER
  | 7, 3 => 0x0000FFFFFFFFFFFF -- GATHER and SCATTER
  | 6, 4 => 0x0000FFFFFFFFFFFF -- GATHER and SCATTER
  | 7, 4 => 0x0000FFFFFFFFFFFF -- GATHER and SCATTER
  | 6, 5 => 0x0103FFFFFFFFFFFF -- GATHER and SCATTER
  | 7, 5 => 0x0103FFFFFFFFFFFF -- GATHER and SCATTER
  | 6, 6 => 0x0000FFFFFFFFFFFF -- GATHER and SCATTER
  | 7, 6 => 0x0000FFFFFFFFFFFF -- GATHER and SCATTER
  | 6, 7 => 0x0000FFFFFFFFFFFF -- GATHER and SCATTER
  | 7, 7 => 0x0000FFFFFFFFFFFF -- GATHER and SCATTER
  | 8, 2 => 0x0000FFFFFFFFFFFF -- COALESCE
  | 8, 3 => 0x0000FFFFFFFFFFFF -- COALESCE
  | 8, 4 => 0x00000FFFFFFFFFFF -- COALESCE
  | 9, 2 => 0x0000FFFFFFFFFFFF -- REDUCE
  | 9, 3 => 0x0000FFFFFFFFFFFF -- REDUCE
  | 9, 4 => 0x0000FFFFFFFFFFFF -- REDUCE
  | 9, 5 => 0x000000FFFFFFFFFF -- REDUCE
  | 9, 6 => 0x00000000000000FF -- REDUCE
  | 10, 2 => 0x0000FFFFFFFFFFFF -- UPDATE
  | 10, 3 => 0x0000FFFFFFFFFFFF -- UPDATE
  | 10, 4 => 0x0000FFFFFFFFFFFF -- UPDATE
  | 10, 5 => 0x00000000FFFFFFFF -- UPDATE
  | 10, 6 => 0x0000000000000001 -- UPDATE
  | 11, 2 => 0xFFFFFFFFFFFFFFFF -- COMMIT
  | 12, 2 => 0x0000FFFFFFFFFFFF -- MIGRATE
  | 12, 3 => 0x0000FFFFFFFFFFFF -- MIGRATE
  | 12, 4 => 0x00000001FFFFFFFF -- MIGRATE
  | 13, 2 => 0x0000FFFFFFFFFFFF -- SNAPSHOT
  | 13, 3 => 0x000000000000FFFF -- SNAPSHOT
  | 13, 4 => 0x0000FFFFFFFFFFFF -- SNAPSHOT
  | 13, 5 => 0x000000FFFFFFFFFF -- SNAPSHOT
  | 14, 2 => 0xFFFFFFFFFFFFFFFF -- DMA
  | 14, 3 => 0x0000FFFFFFFFFFFF -- DMA
  | 14, 4 => 0x000001FFFFFFFFFF -- DMA
  | _, _ => 0

/-! ## The sizes of a `SAMPLE` (R68, R251) -/

/-- Hops of a `SAMPLE`. -/
def Desc.hops (d : Desc) : Nat := d.sHops + 1
/-- Seeds. -/
def Desc.seeds (d : Desc) : Nat := d.sSeeds + 1
/-- The product of the fanouts of hops 0 to h − 1. -/
def Desc.fan (d : Desc) (h : Nat) : Nat := ((List.range h).map fun k => d.sFanout k + 1).foldl (· * ·) 1

/-- The largest number of entries (R68). -/
def Desc.nMax (d : Desc) : Nat :=
  min (2 ^ 64 - 1) (d.seeds * ((List.range (d.hops + 1)).map d.fan).foldl (· + ·) 0)

/-- The largest number of edges (R68). -/
def Desc.eMax (d : Desc) : Nat :=
  min (2 ^ 64 - 1) (d.seeds * ((List.range d.hops).map fun h => d.fan (h + 1)).foldl (· + ·) 0)

/-- The unit table's offset (R251). -/
def Desc.unitOff (d : Desc) : Nat := 64 * ceilDiv (4160 + 16 * d.nMax) 64

/-- A body word by its number. -/
def Desc.word (d : Desc) (w : Nat) : W64 :=
  if w = 0 then d.w0 else if w = 1 then d.w1 else if w = 2 then d.w2 else if w = 3 then d.w3
  else if w = 4 then d.w4 else if w = 5 then d.w5 else if w = 6 then d.w6 else d.w7

/-- A reserved bit of the header or of the body of an opcode is set (R10, R48, R53). -/
def Desc.reservedSet (d : Desc) (op : Nat) : Bool :=
  bits 43 32 d.w0 ≠ 0 || bits 51 48 d.w1 ≠ 0 ||
    (rangeFrom 2 6).any fun w => (d.word w &&& ~~~ BitVec.ofNat 64 (usedBits op w)) ≠ 0

/-- A descriptor from its 64 bytes. -/
def Desc.ofBytes (bs : List Byte) : Desc :=
  ⟨wordAt bs 0, wordAt bs 1, wordAt bs 2, wordAt bs 3, wordAt bs 4, wordAt bs 5, wordAt bs 6, wordAt bs 7⟩

/-- The code of a list in log entries and records (R55). -/
def listCode : ListId → Nat
  | .lead => 0x80
  | .cluster c => c.val

end Sys2Proof.Machine
end

