-- ==== Sys2Proof/Machine/Journal.lean ====
section
/-! DEFINITION. What becomes of items: the accession log, completion records, parking, the fault queue, failures,
partition faults and discards (R55–R61, R67, R146, R340, R341, R382, R383). -/

namespace Sys2Proof.Machine

/-! ## The accession log -/

/-- The ring of a unit (R382). -/
def ringIndex (unit : BitVec 16) : Nat :=
  let t := unit.toNat / 4096
  let i := unit.toNat % 4096
  if t = 0 then i else if t = 1 then 128 + i else if t = 2 then 640 + i else if t = 3 then 672 + i
  else if t = 4 then 704 + i else if t = 5 then 736 + i else if t = 6 then 768 + i else 782

/-- `STATE` of a log entry (R59). -/
inductive LogState where
  | issued | started | committed | aborted
deriving DecidableEq, Repr

/-- The code of a log state (R59). -/
def LogState.code : LogState → Nat
  | .issued => 0
  | .started => 1
  | .committed => 2
  | .aborted => 3

/-- A log entry (R59): bytes 0 to 29 and their CRC-16. -/
def logEntry (i : Item) (st : LogState) (status progress seg : Nat) : List Byte :=
  let w0 := i.desc.mb * 2 ^ 52 + i.ctx.val * 2 ^ 48 + st.code * 2 ^ 40 + i.desc.opcode * 2 ^ 32 + i.desc.seq
  let w1 := listCode i.list * 2 ^ 40 + status * 2 ^ 32 + seg * 2 ^ 24 + i.desc.stage * 2 ^ 16 + i.unit.toNat
  let body := leBytes 8 w0 ++ leBytes 8 w1 ++ leBytes 8 (progress % 2 ^ 48) ++ leBytes 6 (i.step.toNat % 2 ^ 48)
  body ++ leBytes 2 (crc16 body)

/-- A LOG request at a physical address is granted (R338). -/
def State.logOk (s : State) (c : CtxId) (pa len : Nat) : Bool :=
  s.anyPolder fun p => p.holds pa len && p.admits c && p.grants 4

/-- An entry appended to the ring of an item's unit: the entry, then the head (R383). It answers the state and whether
the append was granted. `LOG_PA` 0 names no log area (DEDUCED 15). An overwritten entry that is the latest of an item that
has neither committed nor been aborted is counted (R61); an item's new entry over its own latest one is not: the new one is
its latest then (DESIGN CHOICE 118). -/
def State.logAppend (s : State) (i : Item) (entry : List Byte) : State × Bool :=
  let c := i.ctx.val
  let base := s.rdN .logPa c
  if base = 0 then (s, true)
  else
    let e := s.rdN .logRingEntries c
    let u := ringIndex i.unit
    let j := Store.get (fun _ => 0) s.heads (1024 * c + u)
    let at_ := base + 8192 + 32 * e * u + 32 * (j % e)
    if s.logOk i.ctx at_ 32 && s.logOk i.ctx (base + 8 * u) 8 then
      let lost := s.items.any fun k =>
        k.ctx == i.ctx && ringIndex k.unit == u && !k.same i && k.phase ≠ .committed && k.lastLog + e == j + 1
      let s := (s.poke at_ entry).poke (base + 8 * u) (leBytes 8 (j + 1))
      let s := { s with heads := Store.set (fun _ => 0) s.heads (1024 * c + u) (j + 1) }
      let s := s.setItem { (s.current i).getD i with lastLog := j + 1 }
      (if lost then s.tally .logOverrunCnt c .ctxStatus c 3 else s, true)
    else (s, false)

/-- The overflow segment of an item's present instance (R70): a `SCATTER` counts down from its trail's segments. -/
def Item.segment (i : Item) : Nat := if i.desc.opcode = 7 then i.pos.getD 0 1 - i.segs else i.segs - 1

/-- A log entry of an item. -/
def State.log (s : State) (i : Item) (st : LogState) (status progress : Nat) : State × Bool :=
  s.logAppend i (logEntry i st status progress i.segment)

/-- A refused access made for an item is counted (R338). -/
def State.countDenied (s : State) (c : CtxId) : State := s.tally .polderDenyCnt c.val .mmuStatus c.val 1

/-- A log entry of an item that ends: a refusal is counted and changes nothing more. -/
def State.logLast (s : State) (i : Item) (st : LogState) (status progress : Nat) : State :=
  let (s, ok) := s.log i st status progress
  if ok then s else s.countDenied i.ctx

/-! ## Completion records (R55, R56) -/

/-- The record of an item. -/
def recOf (i : Item) (status progress segs : Nat) (irq : Bool) : Rec where
  w0 := BitVec.ofNat 64
    (i.desc.mb * 2 ^ 52 + i.desc.stage * 2 ^ 48 + status * 2 ^ 40 + i.desc.opcode * 2 ^ 32 + i.desc.seq)
  w1 := BitVec.ofNat 64
    (i.part * 2 ^ 52 + i.ctx.val * 2 ^ 48 + listCode i.list * 2 ^ 40 + segs * 2 ^ 32 + i.desc.tag)
  w2 := BitVec.ofNat 64 (progress % 2 ^ 48)
  w3 := i.step
  irq := irq
  unit := i.unit

/-- A record of an item produced, counted by its class (R57); `OK` of a provisional item is held back (R67). -/
def State.itemRec (s : State) (i : Item) (status progress : Nat) : State :=
  let r := recOf i status progress i.segs i.desc.irq
  let s := s.countStatus i.ctx status
  if i.ahead && status / 16 = 0 then s.updCtx i.ctx fun x => { x with held := x.held ++ [r] }
  else s.postRec i.ctx r

/-! ## Stream engines and queues of a stopped partition -/

/-- The queue number of a sluice (R213). -/
def sluiceIx (core kind : Nat) : Nat := 4 * core + kind

/-- A queue emptied with full credit: P, Rd and F at F and no mark (R223). -/
def Queue.emptied (q : Queue) : Queue :=
  { q with p := q.f, rd := q.f, mark := none, off := 0, moff := 0, lines := [], prime := none, waits := false }

/-- A stopped consumer's queue emptied at a preemption (R223); the bytes that a feeder has expanded of the line at F, which comes
again, stay expanded (R118, R209). -/
def Queue.rewound (q : Queue) : Queue := { q.emptied with off := if q.mark.isSome then q.moff else q.off }

/-- The queues of the cores of a cluster emptied. -/
def State.emptyQueues (s : State) (cl : Nat) : State :=
  (List.range 4).foldl (fun s k => (List.range 3).foldl (fun s t =>
    let q := sluiceIx (4 * cl + k) t
    s.setQueue q (s.queue q).emptied) s) s

/-- Admitted demand released (R202). -/
def State.releaseDemand (s : State) (d : List (Nat × Nat)) : State :=
  d.foldl (fun s (port, bytes) => s.wrN .portAdmitted 0 port (s.rdN .portAdmitted 0 port - bytes)) s

/-- The lines of a program in its send queues dropped: those that have not gone out. -/
def State.dropSends (s : State) (p : StreamProg) : State :=
  (p.queues.filter fun q => 512 ≤ q).foldl (fun s q =>
    let x := s.queue q
    let out := (x.rd - x.f).toNat
    let kept := x.lines.take out ++ (x.lines.drop out).filter fun l =>
      l.source ≠ some (p.ctx, p.sluice.toNat % 4096, p.number)
    s.setQueue q { x with lines := kept, p := x.f + BitVec.ofNat 32 kept.length }) s

/-- A stream engine that drops both programs and releases their demand, to a state (R206, R210); the lines of its program that wait
in a port's send queue go with it. -/
def State.dropEngine (s : State) (e : Nat) (st : EngState) : State :=
  let x := s.engine e
  let s := x.active.toList.foldl State.dropSends s
  let s := s.releaseDemand ((x.active.map StreamProg.demand).getD [] ++ (x.shadow.map StreamProg.demand).getD [])
  s.setEngine e ⟨st, none, none⟩

/-- Every stream engine of a cluster to a state, and the queues of its cores emptied (R210, R223). -/
def State.dropStreams (s : State) (cl : Nat) (st : EngState) : State :=
  ((rangeFrom (16 * cl) 16).foldl (fun s e => s.dropEngine e st) s).emptyQueues cl

/-- The clusters of a partition (R143). -/
def State.partClusters (s : State) (p : Nat) : List Nat := rangeFrom (p * s.partSize) s.partSize

/-! ## Trails (R252, R257, R258) -/

/-- The requester of an item's accesses. -/
def Item.req (i : Item) : Req := .unit i.ctx i.cluster

/-- The trail header of an item with a cursor state (R252). -/
def sampleHeader (i : Item) (st : Nat) : List W64 :=
  let x := i.sample
  let d := i.desc
  let lb (k : Nat) : Nat := if k ≤ d.hops then x.lbase.getD (k - 1) x.nodes else x.nodes
  [i.step,
   BitVec.ofNat 64 (d.mb * 2 ^ 52 + i.segs * 2 ^ 40 + i.ahead.toNat * 2 ^ 36 + st * 2 ^ 34 + i.seq),
   BitVec.ofNat 64 (x.edges * 2 ^ 32 + x.nodes), BitVec.ofNat 64 (x.drops * 2 ^ 32 + x.next),
   BitVec.ofNat 64 (lb 2 * 2 ^ 32 + lb 1), BitVec.ofNat 64 (lb 4 * 2 ^ 32 + lb 3), BitVec.ofNat 64 d.unitOff, 0]

/-- The cursor that the sampler keeps of an item's trail, put in place of any it kept of the same address (R258). -/
def State.keepTrail (s : State) (i : Item) (done : Bool) (hdr : List W64) : State :=
  let t : Trail :=
    { ctx := i.ctx, list := i.list, seq := i.seq, ahead := i.ahead, step := i.step, cluster := i.cluster
      va := i.desc.sTrailVa, done := done, hdr := hdr }
  { s with trails := (s.trails.filter fun k => !(k.ctx == i.ctx && k.va == t.va)) ++ [t] }

/-- The header written within the item's own run (R257, R258). -/
def State.writeHeader (s : State) (i : Item) (st : Nat) : Except Stop State := do
  let hdr := sampleHeader i st
  let s ← s.vwrite i.req i.desc.sTrailVa (bytesOf hdr)
  pure (s.keepTrail i (st = 2) hdr)

/-- A `SAMPLE` that stops writes its header (R257, R259). -/
def State.stopHeader (s : State) (i : Item) : State :=
  if i.desc.opcode ≠ 5 || !i.sample.live then s
  else
    match s.writeHeader i 1 with
    | .ok s => s
    | .error why => s.noteUe why

/-- Word 1 of a trail header with a cursor state and `PROV` (R252). -/
def trailW1 (w1 : W64) (st : Nat) (prov : Bool) : W64 :=
  BitVec.ofNat 64 (w1.toNat - bits 36 34 w1 * 2 ^ 34 + (st + 4 * prov.toNat) * 2 ^ 34)

/-- A trail header rewritten from outside the item's run: a write that fails is counted and not retried. -/
def State.rewriteTrail (s : State) (t : Trail) (st : Nat) (prov : Bool) : State :=
  let hdr := t.hdr.set 1 (trailW1 (t.hdr.getD 1 0) st prov)
  match s.vwrite (.unit t.ctx t.cluster) t.va (bytesOf hdr) with
  | .ok s => s
  | .error why => (s.noteUe why).tally .trailHdrFailCnt t.ctx.val .sampleStatus t.ctx.val 3

/-- Trails set to INVALID and forgotten (R258). -/
def State.rewindTrails (s : State) (f : Trail → Bool) : State :=
  let s' := (s.trails.filter f).foldl (fun s t =>
    (s.rewriteTrail t 0 (bit 36 (t.hdr.getD 1 0))).unfetch fun x => x.ctx == t.ctx && x.trail == t.va) s
  { s' with trails := s'.trails.filter fun t => !f t }

/-! ## Aborts, failures and faults -/

/-- An item discarded: its aborted entry, its record and its place in the flight (R40, R146). -/
def State.abortItem (s : State) (i : Item) (status : Nat) (records : Bool) : State :=
  let s := s.logLast i .aborted status i.progress
  let s := if records then s.itemRec i status i.progress else s
  s.dropItem i

/-- Items that satisfy a condition discarded with `ABORTED`. -/
def State.abortItems (s : State) (f : Item → Bool) (records : Bool) : State :=
  (s.items.filter f).foldl (fun s i => s.abortItem i 0x35 records) s

/-- An armed form-1 change of a context is cancelled: its image is kept (R453). -/
def State.cancelArmed (s : State) (c : CtxId) : State :=
  match s.mgmt.armed with
  | none => s
  | some a =>
    if a.form = 1 && a.arg.toNat % 65536 = c.val then
      let s := { s with mgmt := { s.mgmt with armed := none } }
      let s := s.wrBytes .stageArmed 0 0 (zeros 16)
      let s := s.wrN .stageGen 0 0 (if s.rdN .stageGen = 0xFFFFFFFF then 1 else s.rdN .stageGen + 1)
      let s := s.tally .applyCancelCnt 0 .igcorStatus 0 4
      s.raise 0x31 (if a.scope = 0x10 then none else some c) (s.rdN .stageGen % 2 ^ 24 * 256 + a.scope.toNat)
    else s

/-- The provisional programs of a context dropped from a stream engine. -/
def State.dropAhead (s : State) (c : CtxId) (e : Nat) (x : Engine) : State :=
  let mine (p : StreamProg) : Bool := p.ctx == c && p.ahead
  if x.active.any mine then s.dropEngine e .idle
  else
    match x.shadow with
    | some p => if mine p then (s.releaseDemand p.demand).setEngine e { x with shadow := none } else s
    | none => s

/-- Provisional items of a context discarded (R67): aborted entries and records, cursors rewound, each counted. -/
def State.discardAhead (s : State) (c : CtxId) (records : Bool) : State :=
  let mine (i : Item) : Bool := i.ctx == c && i.ahead
  let n := (s.items.filter mine).length
  let s := s.updCtx c fun x =>
    { x with held := [], issuedA := [], doneA := [], planA := none, seqStops := x.seqStops.filter fun k => !k.ahead }
  let s := s.abortItems mine records
  let s := s.engines.foldl (fun s e => s.dropAhead c e.1 e.2) s
  let s := s.rewindTrails fun t => t.ctx == c && t.ahead
  s.tallyN .runaheadDiscardCnt c.val .paceStatus c.val 3 n

/-- A context becomes FAULTED (R39): its flag is set, provisional items are discarded and an armed change of it is
cancelled. -/
def State.enterFaulted (s : State) (c : CtxId) : State :=
  if (s.ctx c).st = .faulted || (s.ctx c).st = .idle then s
  else
    let s := s.updCtx c fun x => { x with st := .faulted }
    let s := s.setFlag .ctxStatus c.val 2
    (s.discardAhead c true).cancelArmed c

/-- The item belongs to a stopped partition of a context, or to the service sequencer that stopped (R45, R146). -/
def Item.inPart (i : Item) (c : CtxId) (p : Nat) (service : Bool) : Bool :=
  i.ctx == c && !i.ahead && (service || i.part == p) && i.service == service

/-- A partition of a context stops as a failure (R41, R146): every unit stops, every other item is aborted, the provisional ones with
the context's (R67), and the partition shows as faulted. `p` is the partition number, and a context that owns no cluster
stops as R45 states. -/
def State.stopPartition (s : State) (c : CtxId) (p : Nat) (service : Bool) : State :=
  let s := s.abortItems (fun i => i.inPart c p service) true
  let s :=
    if service then s
    else
      let s := (s.partClusters p).foldl (fun s cl => s.dropStreams cl .halted) s
      let s := s.rewindTrails fun t => t.ctx == c &&
        (match t.cluster with
          | some cl => s.partOf cl.val == p
          | none => false)
      let s := s.tally .dikeFaultCnt c.val .gangStatus c.val 5
      s.updCtx c fun x => { x with faultParts := insertNat p x.faultParts, haltParts := insertNat p x.haltParts }
  s.enterFaulted c

/-- A partition of a context stops after a rejection (R39, R41): its units stop where they are. A rejection changes nothing else
(R50, R206), so that its items and stream programs stay until `RESET` (DEDUCED 28); a `SAMPLE` that stops writes its header (R257). In
a context without clusters the items are aborted, as on every fault event (R45). -/
def State.haltPartition (s : State) (c : CtxId) (p : Nat) (service : Bool) : State :=
  if service then s.stopPartition c p true
  else
    let stops (i : Item) : Bool := i.inPart c p false && i.phase ≠ .committed
    let s := (s.items.filter fun i => stops i && i.phase ≠ .stopped).foldl State.stopHeader s
    let s := { s with items := s.items.map fun i => if stops i then { i with phase := .stopped } else i }
    let s := s.updCtx c fun x => { x with haltParts := insertNat p x.haltParts }
    s.enterFaulted c

/-- An item fails with a class 0x3 status (R57, R146). -/
def State.failItem (s : State) (i : Item) (status : Nat) : State :=
  (s.abortItem i status true).stopPartition i.ctx i.part i.service

/-! ## Page faults (R340, R341) -/

/-- A fault record appended to the fault queue, or counted as not written (R341). -/
def State.faultRecord (s : State) (i : Item) (id : W32) (va reason level : Nat) (write : Bool) : State :=
  let c := i.ctx
  let q := s.rdN .faultQueueVa c.val
  if q = 0 then s
  else
    let n := (s.ctx c).faultRecs
    let full (s : State) : State := s.tally .faultqOvfCnt c.val .mmuStatus c.val 2
    if 1024 ≤ (BitVec.ofNat 32 n - (s.rd .faultHead c.val).truncate 32 : W32).toNat then full s
    else
      let phase := 1 - n / 1024 % 2
      let w1 := reason * 2 ^ 56 + level * 2 ^ 54 + write.toNat * 2 ^ 53 + i.unit.toNat * 2 ^ 32 + i.seq
      let w2 := i.desc.mb * 2 ^ 52 + i.desc.stage * 2 ^ 48 + listCode i.list * 2 ^ 40 + id.toNat
      let bytes := leBytes 8 va ++ leBytes 8 w1 ++ leBytes 8 w2 ++ leBytes 8 (phase * 2 ^ 63 + i.progress % 2 ^ 48)
      match s.vwrite (.log c) (q + 32 * (n % 1024)) bytes with
      | .ok s => (s.updCtx c fun x => { x with faultRecs := n + 1 }).interrupt c 1
      | .error why => full (s.noteUe why)

/-- The next fault number: from 1, never 0 or 0xFFFF_FFFF (R341). -/
def faultIdOf (n : Nat) : W32 := BitVec.ofNat 32 (n % 0xFFFFFFFE + 1)

/-- A refused append for an item that goes on fails it (R338); else its record is produced. -/
def State.logThen (s : State) (i : Item) (status : Nat) : State :=
  let (s, ok) := s.log i .started status i.progress
  if ok then s.itemRec i status i.progress else (s.countDenied i.ctx).failItem i 0x30

/-- A RUNNING context becomes PARKED (R39). -/
def State.enterParked (s : State) (c : CtxId) : State :=
  if (s.ctx c).st = .running then s.updCtx c fun x => { x with st := .parked, parkedAt := s.now + 1 } else s

/-- An item parks on a page fault (R340): counted, recorded, its context PARKED, and journalled. -/
def State.parkItem (s : State) (i : Item) (va reason level : Nat) (write : Bool) : State :=
  let c := i.ctx
  let s := s.tally .pageFaultCnt c.val .mmuStatus c.val 0
  let id := faultIdOf (s.ctx c).faults
  let s := s.updCtx c fun x => { x with faults := x.faults + 1 }
  let i := { (s.current i).getD i with phase := .parked id }
  let s := s.setItem i
  let s := s.faultRecord i id va reason level write
  (s.enterParked c).logThen i 0x10

/-- Work on an item stops (R133, R146, R338, R340): a fault parks it, a wait leaves it, the rest fail it. -/
def State.stopItem (s : State) (i : Item) : Stop → State
  | .fault va reason level write => s.parkItem i va reason level write
  | .denied => (s.countDenied i.ctx).failItem i 0x30
  | .ue pa => (s.foundUe pa).failItem i 0x32
  | .walkUe pa => (s.foundUeIn 7 pa).failItem i 0x32
  | .missed => s.failItem i 0x31
  | .lost => s.failItem i 0x34
  | .mismatch => s.failItem i 0x33
  | .wait => s

/-- The errors that an item meets in the units of progress it has reached (R133, R330): each is counted, and an uncorrectable one
fails it. -/
def State.meetDue (s : State) (i : Item) : State :=
  match s.current i with
  | none => s
  | some cur =>
    let due := cur.errs.filter fun e => decide (e.unit ≤ cur.progress)
    if due.isEmpty then s
    else
      let cur := { cur with errs := cur.errs.filter fun e => decide (cur.progress < e.unit) }
      let s := due.foldl State.meetError (s.setItem cur)
      if due.all MemError.corrected then s else s.failItem cur 0x32

/-- Progress recorded: a started entry each time it passes a multiple of 4,096 (R60), whose refusal fails the item. The errors of
the unit now in progress are met. -/
def State.advance (s : State) (i : Item) (progress : Nat) : State :=
  let cur := (s.current i).getD i
  let j := { cur with progress := progress }
  let s := s.setItem j
  if cur.progress / 4096 < progress / 4096 then
    let (s, ok) := s.log j .started 0 (progress / 4096 * 4096)
    if ok then s.meetDue i else (s.countDenied i.ctx).failItem j 0x30
  else s.meetDue i

/-- An item stops at its preemption point (R56, R60, R343): a started entry and a record with `PREEMPTED`. -/
def State.preemptItem (s : State) (i : Item) : State :=
  let i := { (s.current i).getD i with phase := .stopped }
  (s.setItem i).logThen i 0x11

/-- The item's work is complete: it waits for its commit with a status (R56). -/
def State.finish (s : State) (i : Item) (status : Byte) : State :=
  match s.current i with
  | none => s
  | some j => s.setItem { j with phase := .finished status }

end Sys2Proof.Machine
end

