-- ==== Sys2Proof/Machine/Sequencer.lean ====
section
/-! DEFINITION. The sequencers: latching a step, which command may issue, the checks of a descriptor, rejection and
acceptance (R38, R43–R51, R58, R60, R65, R66, R72, R74, R225, R230, R344). -/

namespace Sys2Proof.Machine

/-! ## Latching a step (R43, R46, R47, R419) -/

/-- The lead sequencer's cluster of a partition: its lowest-numbered one (R44). -/
def State.leadCluster (s : State) (p : Nat) : ClusterId := Fin.ofNat 32 (p * s.partSize)

/-- The requester of the reads made once per step: the lead sequencer of the context's lowest-numbered owned partition,
or the service sequencer (R338). -/
def State.stepReq (s : State) (c : CtxId) : Req :=
  match s.ownedParts c with
  | [] => .unit c none
  | p :: _ => .unit c (some (s.leadCluster p))

/-- A fetched entry is good of itself: no failed read, no reserved bit, no misaligned address (R417, R419). -/
def Fetched.good (e : Fetched) : Bool :=
  !e.failed && bits 63 48 e.w0 = 0 && bits 63 48 e.w1 = 0 && bits 63 32 e.w2 = 0 && e.w3 = 0 &&
    bits 47 0 e.w0 % 64 = 0 && bits 47 0 e.w1 % 256 = 0

/-- Its `TAG`, or 0 when its own read failed (R419). -/
def Fetched.tag (e : Fetched) : W32 := if e.failed then 0 else e.w2.truncate 32

/-- The cluster-list table of a program (R43): the entries of the clusters that `CLUSTER_MASK` names; the others are not
read (DEDUCED 47). -/
def State.readLists (s : State) (r : Req) (va mask : Nat) : Except Stop (List (W64 × W64)) :=
  (List.range 32).mapM fun k =>
    if mask / 2 ^ k % 2 = 1 then (s.vread r (va + 16 * k) 16).map fun t => (wordAt t 0, wordAt t 1) else .ok (0, 0)

/-- The step's header and program read for latching (R46): step header, program header, cluster-list table. -/
def State.readProgram (s : State) (c : CtxId) (e : Fetched) : Except Stop Program := do
  let r := s.stepReq c
  let h ← s.vread r (bits 47 0 e.w1) 256
  let p ← s.vread r (bits 47 0 e.w0) 32
  let lists ← s.readLists r (bits 47 0 (wordAt p 2)) (bits 31 0 (wordAt p 3))
  pure { tag := e.tag
         hdr := wordsOf 32 h
         p0 := wordAt p 0, p1 := wordAt p 1, p2 := wordAt p 2, p3 := wordAt p 3
         clist := lists }

/-- `STEP` of the latched header. -/
def Program.step (p : Program) : W64 := p.hdr.getD 0 0
/-- `SEED`. -/
def Program.seed (p : Program) : W64 := p.hdr.getD 1 0
/-- `MB_COUNT`, micro-batches minus one. -/
def Program.mbCount (p : Program) : Nat := bits 43 32 (p.hdr.getD 2 0)
/-- `ETA`, FP32 bits. -/
def Program.eta (p : Program) : Nat := bits 31 0 (p.hdr.getD 2 0)
/-- `LOSS_SCALE`, FP32 bits. -/
def Program.lossScale (p : Program) : Nat := bits 63 32 (p.hdr.getD 3 0)
/-- `SNAP`. -/
def Program.snap (p : Program) : Bool := bit 0 (p.hdr.getD 3 0)
/-- `SCHED[j]`, FP32 bits. -/
def Program.sched (p : Program) (j : Nat) : Nat :=
  let w := p.hdr.getD (4 + j / 2) 0
  if j % 2 = 0 then bits 31 0 w else bits 63 32 w
/-- `CLUSTER_MASK`. -/
def Program.mask (p : Program) : Nat := bits 31 0 p.p3

/-- FP32 bits name a finite value. -/
def finite32 (x : Nat) : Bool := x / 2 ^ 23 % 256 ≠ 255

/-- FP32 bits name a positive finite value. -/
def positive32 (x : Nat) : Bool := finite32 x && x < 2 ^ 31 && x ≠ 0

/-- The checks of R47 on a latched copy; a fenced module (R387) and one whose emergency stop is latched (R483) reject every
step header. -/
def State.checkProgram (s : State) (c : CtxId) (p : Program) : Bool :=
  s.rdN .fenceState = 0 && !s.sync.latched && p.step.toNat = (s.rdN .ctxStep c.val + 1) % 2 ^ 64 &&
    finite32 p.eta && positive32 p.lossScale &&
    bits 63 44 (p.hdr.getD 2 0) = 0 && bits 31 1 (p.hdr.getD 3 0) = 0 &&
    ((p.hdr.drop 12).all fun w => w = 0) &&
    bits 63 48 p.p0 = 0 && bits 63 32 p.p1 = 0 && bits 63 48 p.p2 = 0 && bits 63 32 p.p3 = 0 &&
    bits 47 0 p.p0 % 64 = 0 && bits 47 0 p.p2 % 64 = 0 && bits 31 0 p.p1 ≠ 0 &&
    ((List.range 32).all fun k =>
      !(p.mask / 2 ^ k % 2 = 1) ||
        (s.owns c k && s.clusterLive k &&
          bits 63 48 (p.clist.getD k (0, 0)).1 = 0 && bits 63 32 (p.clist.getD k (0, 0)).2 = 0 &&
          bits 47 0 (p.clist.getD k (0, 0)).1 % 64 = 0))

/-- The record of a rejected step: `BAD_HEADER`, `LIST` 0xFF, and cause 0 always (R47, R419, R422). -/
def State.rejectHeader (s : State) (c : CtxId) (tag : W32) (step : W64) : State :=
  let r : Rec :=
    { w0 := BitVec.ofNat 64 (0x20 * 2 ^ 40)
      w1 := BitVec.ofNat 64 (c.val * 2 ^ 48 + 0xFF * 2 ^ 40 + 1 * 2 ^ 32 + tag.toNat)
      w2 := 0
      w3 := step
      irq := true
      unit := 0xFFFF }
  (s.countStatus c 0x20).postRec c r

/-- The mirror of the open step's header (R46, R323). -/
def State.mirrorHeader (s : State) (c : CtxId) (p : Program) : State :=
  let s := s.wrN .stepEta c.val 0 p.eta
  let s := s.wrN .stepLossScale c.val 0 p.lossScale
  (List.range 16).foldl (fun s j => s.wrN .stepSched c.val j (p.sched j)) s

/-- A step opens with a program (R39): RUNNING, with what its run-ahead commands have issued and the plan that the first of them
read (R72), its anchor at this instant (R75, R82). The lag keeps its value until a slot ends (R75). A comparison that an earlier run of
the step made is forgotten (R386, R404). -/
def State.openStep (s : State) (c : CtxId) (p : Program) : State :=
  let s := match (s.ctx c).planA with
    | some k => s.wrN .pacePlanId c.val 0 k.1
    | none => s
  let s := s.updCtx c fun x =>
    { x with st := .running, prog := some p, next := none, succ := none, issued := x.issuedA, done := x.doneA,
             issuedA := [], doneA := [], started := !x.issuedA.isEmpty, planA := none,
             plan := x.planA.map fun k => { slots := k.2, released := 0, late := false }, t0 := s.now, latch := none,
             redPoison := (false, 0xFFFF), token := x.token.filter fun t => t.getD 0 0 = p.step, groups := [],
             poison := false, seqStops := (x.seqStops.filter SeqStop.ahead).map fun k => { k with ahead := false } }
  let s := { s with surv := { s.surv with compared := s.surv.compared.filter fun k => !(k.ctx = c && p.step.toNat ≤ k.step.toNat) } }
  let s := s.wrN .paceMaxLag c.val 0 0
  s.mirrorHeader c p

/-! ## Which command may issue (R44, R49, R65, R66) -/

/-- A sequencer of a list (R44, R45): the position among the owned partitions, the partition and the cluster of a lead
sequencer or of a cluster's own; the service sequencer has none. -/
structure Seqr where
  part    : Nat
  index   : Nat
  cluster : Option ClusterId
deriving DecidableEq, Repr

/-- What an issuing command stands in: its program, its descriptor, its partition, its cluster for requests, and whether
the service sequencer runs it. -/
structure Job where
  prog    : Program
  d       : Desc
  part    : Nat
  cluster : Option ClusterId
  service : Bool
  seqr    : Seqr
deriving DecidableEq, Repr

/-- The program whose list an issue event names: the open step's, or the successor's, latched already or to be latched
with this command (R46, R66). -/
def State.progOf (s : State) (c : CtxId) (ahead : Bool) : Option Program :=
  let x := s.ctx c
  if !ahead then x.prog
  else
    match x.prog, x.succ, x.next with
    | some _, some p, _ => some p
    | some _, none, some e => if e.good then (s.readProgram c e).toOption else none
    | _, _, _ => none

/-- The address and length of a list (R43). -/
def Program.listOf (p : Program) : ListId → Option (Nat × Nat)
  | .lead => some (bits 47 0 p.p0, bits 31 0 p.p1)
  | .cluster c =>
    if p.mask / 2 ^ c.val % 2 = 1 then
      let e := p.clist.getD c.val (0, 0)
      some (bits 47 0 e.1, bits 31 0 e.2)
    else none

/-- The sequencers that read a list (R44, R45). -/
def State.seqrs (s : State) (c : CtxId) : ListId → List Seqr
  | .lead =>
    if s.clusterless c then [⟨0, 0, none⟩]
    else (s.ownedParts c).zipIdx.map fun e => ⟨e.1, e.2, some (s.leadCluster e.1)⟩
  | .cluster cl => if s.clusterless c then [⟨0, 0, none⟩] else [⟨s.partOf cl.val, 0, some cl⟩]

/-- The descriptor at a position of a list as a sequencer reads it, with its own cluster (R338); `wait` beyond the list. -/
def State.descBy (s : State) (c : CtxId) (p : Program) (l : ListId) (pos : Nat) (k : Seqr) : Except Stop Desc :=
  match p.listOf l with
  | none => .error .wait
  | some (va, len) =>
    if pos < len then (s.vread (.unit c k.cluster) (va + 64 * pos) 64).map Desc.ofBytes else .error .wait

/-- A sequencer issues the command of a descriptor (R44): in the lead list the one whose partition `PART` names, and the first
one issues, for its rejection, a command whose `PART` names none. -/
def State.issues (s : State) (c : CtxId) (l : ListId) (k : Seqr) (d : Desc) : Bool :=
  match l with
  | .cluster _ => true
  | .lead => k.index = d.part || (k.index = 0 && (s.clusterless c || decide ((s.ownedParts c).length ≤ d.part)))

/-- The sequencer that issues the command at a position, and the descriptor that it reads. -/
def State.seqrAt (s : State) (c : CtxId) (p : Program) (l : ListId) (pos : Nat) : Option (Seqr × Desc) :=
  (s.seqrs c l).findSome? fun k =>
    match s.descBy c p l pos k with
    | .ok d => if s.issues c l k d then some (k, d) else none
    | .error _ => none

/-- The descriptor at a position of a list, when the sequencer that issues it can read it. -/
def State.descAt (s : State) (c : CtxId) (p : Program) (l : ListId) (pos : Nat) : Option Desc :=
  (s.seqrAt c p l pos).map Prod.snd

/-- The first sequencer of a list that cannot read the descriptor at a position, and why: a page fault, a refused access or an
uncorrectable word (R330, R338, R340). -/
def State.descStop (s : State) (c : CtxId) (p : Program) (l : ListId) (pos : Nat) : Option (Seqr × Stop) :=
  (s.seqrs c l).findSome? fun k =>
    match s.descBy c p l pos k with
    | .error .wait => none
    | .error why => some (k, why)
    | .ok _ => none

/-- The positions issued, and those committed, of a step's lists. -/
def Ctx.issuedOf (x : Ctx) (ahead : Bool) : List (ListId × Nat) := if ahead then x.issuedA else x.issued

/-- The positions committed. -/
def Ctx.doneOf (x : Ctx) (ahead : Bool) : List (ListId × Nat) := if ahead then x.doneA else x.done

/-- `STAGE` 0 or 8–10: as if `FENCE` were set, and nothing later issues before it commits (R49). -/
def Desc.stageFence (d : Desc) : Bool := d.stage = 0 || (8 ≤ d.stage && d.stage ≤ 10)

/-- The command is fenced (R48, R49). -/
def Desc.fenced (d : Desc) : Bool := d.fence || d.stageFence

/-- The order rules of R49 of a command at a position against one earlier position. -/
def State.orderOne (s : State) (q : IssueAt) (p : Program) (k : Seqr) (d : Desc) (j : Nat) : Bool :=
  let x := s.ctx q.ctx
  if (x.doneOf q.ahead).contains (q.list, j) then true
  else
    match s.descBy q.ctx p q.list j k with
    | .error _ => false
    | .ok e =>
      if e.stageFence || d.fenced then false
      else if (x.issuedOf q.ahead).contains (q.list, j) then true
      else !e.fence && (e.mb ≠ d.mb || (q.list = .lead && e.part ≠ d.part))

/-- A command may issue as far as the order of its list goes (R49), within 256 positions of the lowest unissued one of its
sequencer (R44, R344). -/
def State.orderOk (s : State) (q : IssueAt) (p : Program) (k : Seqr) (d : Desc) : Bool :=
  let x := s.ctx q.ctx
  !(x.issuedOf q.ahead).contains (q.list, q.pos) &&
    ((List.range q.pos).all fun j => s.orderOne q p k d j) &&
    ((List.range (q.pos - 256)).all fun j =>
      (x.issuedOf q.ahead).contains (q.list, j) ||
        (match s.descBy q.ctx p q.list j k with
          | .ok e => !s.issues q.ctx q.list k e
          | .error _ => false))

/-- The job of an issue event: the descriptor can be read and belongs to a latched or latchable step. -/
def State.job (s : State) (q : IssueAt) : Option Job :=
  match s.progOf q.ctx q.ahead with
  | none => none
  | some p =>
    match s.seqrAt q.ctx p q.list q.pos with
    | none => none
    | some (k, d) =>
      some { prog := p, d := d, part := k.part, cluster := k.cluster, service := s.clusterless q.ctx, seqr := k }

/-- The power state, the context's stopped partitions and the run-ahead depth let a command of the step issue (R41, R66, R465,
R471, R472). -/
def State.mayWork (s : State) (q : IssueAt) (j : Job) : Bool :=
  s.rdN .pwrState = 3 && !s.power.resetting && !(s.ctx q.ctx).haltParts.contains j.part &&
    (!q.ahead || ((j.d.stage = 1 || j.d.stage = 2) && j.d.mb < s.rdN .paceRunahead q.ctx.val))

/-- The context's state lets a command of the step issue too (R39, R41). -/
def State.mayIssue (s : State) (q : IssueAt) (j : Job) : Bool :=
  ((s.ctx q.ctx).st = .running || (s.ctx q.ctx).st = .parked) && s.mayWork q j

/-- The context lets a command wait on a barrier: while it runs, and in the partitions that have not stopped of one that is
FAULTED (R225, R231). -/
def State.mayWait (s : State) (q : IssueAt) (j : Job) : Bool :=
  ((s.ctx q.ctx).st = .running || (s.ctx q.ctx).st = .parked || ((s.ctx q.ctx).st = .faulted && !j.service)) && s.mayWork q j

/-- The unit that journals a command (R51, R59): type and index. `REDUCE` and `SNAPSHOT` are journalled by port 0
(DESIGN CHOICE 17). A rejected command of no unit of its own goes to a ring that R51 does not name (DESIGN CHOICE 119): one of
an unlisted opcode to the issuing sequencer's; a cluster-unit opcode in the lead list to that unit's of the lead cluster, and in
a context without clusters to that unit's of cluster 0. -/
def unitOf (op : Nat) (l : ListId) (j : Job) : BitVec 16 :=
  let cl := match l with
    | .cluster c => c.val
    | .lead => (j.cluster.getD 0).val
  let seq := if j.service then 0x7000 else 4 * cl
  BitVec.ofNat 16 <|
    match op with
    | 3 => 0x1000 + 16 * cl + j.d.aEngine
    | 5 => 0x2000 + cl
    | 6 | 7 | 12 => 0x3000 + cl
    | 8 => 0x4000 + cl
    | 10 => 0x5000 + cl
    | 9 | 13 => 0x6000
    | 14 => 0x7000
    | _ => seq

/-- The unit has room for an item (R65, R344), and holds for no record, of whatever context, that cannot be queued (R421). -/
def State.unitRoom (s : State) (u : BitVec 16) : Bool :=
  decide ((s.items.filter fun i => i.unit == u && s.holdsItem i).length < 8) &&
    allCtx.all fun c => ((s.ctx c).waiting.drop 64).all fun r => r.unit ≠ u

/-- The command latches the step's poison flag (R316): an `UPDATE`, a command with `STAGE` 9 or 10, or the `COMMIT`. -/
def Desc.latches (d : Desc) : Bool := d.opcode = 10 || d.opcode = 11 || d.stage = 9 || d.stage = 10

/-- Every `REDUCE` of the open step has committed (R316). -/
def State.reducesDone (s : State) (c : CtxId) (p : Program) : Bool :=
  (List.range (bits 31 0 p.p1)).all fun k =>
    (s.ctx c).done.contains (.lead, k) ||
      (match s.descAt c p .lead k with
        | none => false
        | some d => d.opcode ≠ 9)

/-- The lists of a program. -/
def Program.lists (p : Program) : List ListId :=
  .lead :: (List.finRange 32).filterMap fun c => if p.mask / 2 ^ c.val % 2 = 1 then some (.cluster c) else none

/-- Every command of stages 1 to `hi` in the cluster lists of a step has committed, and of those in its lead list every one
before a position and every other that has issued (R27, R81). -/
def State.stagesDone (s : State) (c : CtxId) (p : Program) (hi : Nat) (but : Nat) : Bool :=
  let x := s.ctx c
  p.lists.all fun l =>
    match p.listOf l with
    | none => true
    | some (_, n) => (List.range n).all fun k =>
        x.done.contains (l, k) ||
          (l = .lead && (k = but || (decide (but < k) && !x.issued.contains (l, k)))) ||
          (match s.descAt c p l k with
            | none => false
            | some d => d.stage = 0 || hi < d.stage)

/-- A latching command waits for every `REDUCE` of its step (R316), and a `REDUCE` for stage 7 of the last micro-batch (R27); no
`REDUCE` and no latching command runs ahead (DEDUCED 25). -/
def State.latchOk (s : State) (q : IssueAt) (j : Job) : Bool :=
  if q.ahead then j.d.opcode ≠ 9 && !j.d.latches && j.d.opcode ≠ 11
  else (!j.d.latches || s.reducesDone q.ctx j.prog) && (j.d.opcode ≠ 9 || s.stagesDone q.ctx j.prog 7 q.pos)

/-- A command's place in its list, its unit and its step's reductions let it go on (R49, R65, R316). -/
def State.inOrder (s : State) (q : IssueAt) (j : Job) : Bool :=
  s.orderOk q j.prog j.seqr j.d && s.unitRoom (unitOf j.d.opcode q.list j) && s.latchOk q j

/-- A command is ready in every respect except its `WAIT_BAR` (R225, R230). -/
def State.readyBut (s : State) (q : IssueAt) (j : Job) : Bool := s.mayIssue q j && s.inOrder q j

/-- Its `WAIT_BAR` lets it go on: none, OPEN, or UNINIT, which rejects it (R228, R230). -/
def State.barOk (s : State) (q : IssueAt) (j : Job) : Bool :=
  j.d.waitBar = 0 || (s.bar q.ctx j.d.waitBar).st ≠ .closed

/-- The positions of a list that have not issued. -/
def State.unissued (s : State) (c : CtxId) (p : Program) (l : ListId) (ahead : Bool) : List Nat :=
  match p.listOf l with
  | none => []
  | some (_, len) => (List.range len).filter fun k => !((s.ctx c).issuedOf ahead).contains (l, k)

/-- The commands of a context's list that have not issued, of the open step or of the successor, with their jobs. -/
def State.waitingJobs (s : State) (c : CtxId) (l : ListId) (ahead : Bool) : List (IssueAt × Job) :=
  match s.progOf c ahead with
  | none => []
  | some p => (s.unissued c p l ahead).filterMap fun k =>
      let q : IssueAt := ⟨c, l, k, ahead, []⟩
      (s.job q).map fun j => (q, j)

/-- The key of a command (R65) is lower: its step, its `MB`, its `SEQ`. -/
def keyBelow (q : IssueAt) (j : Job) (q' : IssueAt) (j' : Job) : Bool :=
  if q.ahead ≠ q'.ahead then !q.ahead
  else if j.d.mb ≠ j'.d.mb then decide (j.d.mb < j'.d.mb)
  else decide (q.pos < q'.pos)

/-- The command is ready to issue in every respect (R49, R65). -/
def State.ready (s : State) (q : IssueAt) (j : Job) : Bool := s.readyBut q j && s.barOk q j

/-- No other command that the same sequencer holds, that needs the same unit and that is ready, has a lower key (`STEP`, `MB`,
`SEQ`) (R65). -/
def State.isFirst (s : State) (q : IssueAt) (j : Job) : Bool :=
  ((s.waitingJobs q.ctx q.list false) ++ (if q.ahead then s.waitingJobs q.ctx q.list true else [])).all fun (q', j') =>
    j'.seqr ≠ j.seqr || unitOf j'.d.opcode q.list j' ≠ unitOf j.d.opcode q.list j || !keyBelow q' j' q j || !s.ready q' j'

/-- A clusterless context has a command that the service sequencer could issue. -/
def State.hasService (s : State) (c : CtxId) : Bool :=
  s.clusterless c && ([false, true].any fun a => (s.waitingJobs c .lead a).any fun (q, j) => s.ready q j)

/-- The service sequencer's turn (R45): the contexts between the one that it served last and this one have nothing that is
ready. Round robin takes the contexts in rising number, from context 0 after reset (DESIGN CHOICE 120). -/
def State.inTurn (s : State) (q : IssueAt) (j : Job) : Bool :=
  !j.service ||
    (List.range 16).all fun k =>
      let c : CtxId := Fin.ofNat 16 (s.served.val + 1 + k)
      decide ((q.ctx.val + 15 - s.served.val) % 16 ≤ k) || !s.hasService c

/-! ## Waiters (R225) -/

/-- Commands that wait on a barrier, run-ahead ones too: ready but for their `WAIT_BAR`, and those of the partitions of a FAULTED
context that have not stopped, which wait until `RESET` (R225, R231). -/
def State.cmdWaiters (s : State) (c : CtxId) (b : Nat) : Nat :=
  let of (a : Bool) : Nat :=
    match s.progOf c a with
    | none => 0
    | some p => (p.lists.map fun l =>
        ((s.waitingJobs c l a).filter fun (q, j) => j.d.waitBar = b && s.mayWait q j && s.inOrder q j).length).sum
  of false + of true

/-- The engines of a `TILE` that wait on a barrier as `FINAL_BAR` (R152, R153, R225). -/
def Item.finalWaits (i : Item) (b : Nat) : Nat :=
  if i.phase = .working && bits 7 0 (i.tile.tabs.act.getD 2 0) = b then (i.tile.runs.filter fun run => run.wait).length
  else 0

/-- The waiters of a barrier (R225): commands, engines and slots that have not ended. -/
def State.waiters (s : State) (c : CtxId) (b : Nat) : Nat :=
  s.cmdWaiters c b +
    (s.items.map fun i => if i.ctx == c && b ≠ 0 then i.finalWaits b else 0).sum +
    (match (s.ctx c).plan with
      | none => 0
      | some pl => (pl.slots.filter fun t => t.closeBar.toNat = b && t.ended.isNone).length)

/-- A barrier has a pending arrival other than one of a given item (R225). -/
def State.pendingArrival (s : State) (c : CtxId) (b : Nat) (but : ListId × Nat × Bool) : Bool :=
  (s.items.any fun i => i.ctx == c && i.desc.arriveBar = b && i.phase ≠ .committed && (i.list, i.seq, i.ahead) ≠ but) ||
    ((s.ctx c).arrivals.any fun a => a.toNat = b) ||
    (match (s.ctx c).plan with
      | none => false
      | some pl => (pl.slots.drop pl.released).any fun t => t.releaseBar.toNat = b) ||
    ((s.bar c b).st = .closed && (s.bar c b).arrived ≠ 0)

/-! ## The slot plan (R72–R74, R230) -/

/-- The plan read for the step's first command: its identifier and slots, or none when the plan breaks a rule. A `CLOSE_BAR` that is
open already when the plan is read has not ended its slot: a later opening does, or `COMMIT` (DESIGN CHOICE 146). -/
def State.readPlan (s : State) (c : CtxId) : Except Stop (Option (Nat × List Slot)) := do
  let r := s.stepReq c
  let va := s.rdN .pacePlanVa c.val
  let h ← s.vread r va 32
  let n := bits 13 0 (wordAt h 0) + 1
  let body ← s.vread r (va + 32) (32 * n)
  let rows := (List.range n).map fun k => (wordAt body (4 * k), wordAt body (4 * k + 1), wordAt body (4 * k + 2), wordAt body (4 * k + 3))
  let slots := rows.map fun (w0, w1, w2, _) =>
    ({ period := bits 31 0 w0, berm := bits 63 32 w0, lead := bits 31 0 w1, leadMax := bits 63 32 w1
       releaseBar := BitVec.ofNat 8 (bits 15 8 w2), closeBar := BitVec.ofNat 8 (bits 7 0 w2)
       closed := false, ended := none } : Slot)
  let okHdr := bits 63 14 (wordAt h 0) = 0 && bits 63 32 (wordAt h 1) = 0 && wordAt h 2 = 0 && wordAt h 3 = 0
  let okRow := rows.all fun (_, w1, w2, w3) => bits 63 16 w2 = 0 && w3 = 0 && bits 31 0 w1 ≤ bits 63 32 w1
  let okSlot := slots.all fun t =>
    t.period ≠ 0 && t.closeBar ≠ 0 && (s.bar c t.closeBar.toNat).st ≠ .uninit &&
      (t.releaseBar = 0 || (s.bar c t.releaseBar.toNat).st ≠ .uninit)
  let okDup := decide (slots.map Slot.closeBar).Nodup
  pure (if okHdr && okRow && okSlot && okDup then some (bits 31 0 (wordAt h 1), slots) else none)

/-- The plan is to be read with this command: it is its step's first, and the context has a plan (R72). -/
def State.planDue (s : State) (q : IssueAt) : Bool :=
  let x := s.ctx q.ctx
  (if q.ahead then x.issuedA.isEmpty else !x.started) && s.rdN .pacePlanVa q.ctx.val ≠ 0

/-! ## Rejection and acceptance (R50, R60) -/

/-- The item that a job becomes. -/
def itemOf (q : IssueAt) (j : Job) : Item where
  ctx := q.ctx
  list := q.list
  seq := q.pos
  ahead := q.ahead
  desc := j.d
  step := j.prog.step
  unit := unitOf j.d.opcode q.list j
  part := j.part
  cluster := j.cluster
  service := j.service
  progress := 0
  started := j.d.opcode ≠ 6
  segs := 1
  phase := .working
  pos := []
  data := []
  tile := TileWork.init
  sample := SampleWork.init
  groups := []
  lastLog := 0
  errs := []

/-- The service sequencer has served a context (R45). -/
def State.serve (s : State) (j : Job) (c : CtxId) : State := if j.service then { s with served := c } else s

/-- A command rejected (R50): an issued and an aborted entry, its record, and the fault event that stops its partition and
makes the context FAULTED (R39, R41). -/
def State.reject (s : State) (q : IssueAt) (j : Job) (status : Nat) : State :=
  let i := itemOf q j
  let s := (s.logLast i .issued 0 0).logLast i .aborted status 0
  ((s.itemRec i status 0).serve j q.ctx).haltPartition q.ctx j.part j.service

/-- A position marked as issued; a successor is latched with its first command (R46, R66). -/
def Ctx.markIssued (x : Ctx) (q : IssueAt) (p : Program) : Ctx :=
  if q.ahead then { x with issuedA := (q.list, q.pos) :: x.issuedA, succ := some p }
  else { x with issued := (q.list, q.pos) :: x.issued, started := true }

/-- The step's first latching command latches the domain poison flag and its lowest rank (R316, R367). -/
def Ctx.latched (x : Ctx) (d : Desc) : Ctx :=
  if d.latches && x.latch.isNone then { x with latch := some x.redPoison } else x

/-- A `SCATTER` keeps the segment count of its trail, from which its instances count down (R70). -/
def State.opening (s : State) (i : Item) : Item :=
  if i.desc.opcode = 7 then
    match s.vread (.unit i.ctx i.cluster) i.desc.gTrailVa 64 with
    | .ok b => { i with pos := [bits 47 40 (wordAt b 1)] }
    | .error _ => i
  else i

/-- A command accepted: its issued entry, and its started entry unless it is a `GATHER`, which starts with its first instance (R60,
R267). An entry refused fails the item. -/
def State.accept (s : State) (q : IssueAt) (j : Job) : State :=
  let i := s.opening (itemOf q j)
  let s := s.updCtx q.ctx fun x => (x.markIssued q j.prog).latched j.d
  let s := { s.serve j q.ctx with items := s.items ++ [i] }
  let (s, ok1) := s.log i .issued 0 0
  let (s, ok2) := if !ok1 then (s, false) else if i.started then s.log i .started 0 0 else (s, true)
  if ok1 && ok2 then s else (s.countDenied q.ctx).failItem i 0x30

/-- The plan taken into use (R72, R84), or kept for the step that its command runs ahead of. -/
def State.takePlan (s : State) (c : CtxId) (ahead : Bool) (id : Nat) (slots : List Slot) : State :=
  if ahead then s.updCtx c fun x => { x with planA := some (id, slots) }
  else
    (s.updCtx c fun x => { x with plan := some { slots := slots, released := 0, late := false } }).wrN .pacePlanId c.val 0 id

/-- Codes of the opcode table (R51). -/
def knownOpcode (op : Nat) : Bool := op ≤ 0x0E

/-- The list that an opcode may stand in (R51): 0 either, 1 lead, 2 cluster. -/
def listRule (op : Nat) : Nat :=
  if op = 0 || op = 4 then 0
  else if op = 1 || op = 2 || op = 9 || op = 11 || op = 13 || op = 14 then 1
  else 2

/-- The opcodes that a context without a cluster may run (R38, R45). -/
def serviceOpcode (op : Nat) : Bool := op = 0 || op = 4 || op = 14 || op = 13 || op = 11

/-- `BAD_ISSUER`: the wrong list, or a context that owns no cluster (R38, R44, R45). -/
def badIssuer (q : IssueAt) (j : Job) : Bool :=
  let isLead := q.list = .lead
  (listRule j.d.opcode = 1 && !isLead) || (listRule j.d.opcode = 2 && isLead) ||
    (j.service && !serviceOpcode j.d.opcode)

/-- `BAD_FIELD` of the common header (R44, R45, R48, R230). -/
def State.badHeader (s : State) (q : IssueAt) (j : Job) : Bool :=
  let d := j.d
  10 < d.stage || j.prog.mbCount < d.mb || (d.stageFence && d.mb ≠ 0) ||
    (match q.list with
      | .lead => if j.service then d.part ≠ 0 else (s.ownedParts q.ctx).length ≤ d.part
      | .cluster _ => d.part ≠ 0) ||
    (d.waitBar ≠ 0 && (s.bar q.ctx d.waitBar).st = .uninit)

/-- What the checks of an opcode's own body answer: a status that rejects, in the order of the status table. -/
structure BodyCheck where
  reserved : Bool
  field    : Bool
  /-- `REARM_OVF` or `BARRIER_BUSY`. -/
  last     : Option Nat
  /-- What a rejection with a status counts beside it. -/
  note     : Nat → State → State

/-- A body with nothing to check. -/
def BodyCheck.ok : BodyCheck := ⟨false, false, none, fun _ s => s⟩

/-- A body with a reserved bit set. -/
def BodyCheck.rsvd : BodyCheck := { BodyCheck.ok with reserved := true }

/-- A body with a field that breaks a rule, or none. -/
def BodyCheck.fieldIf (b : Bool) : BodyCheck := { BodyCheck.ok with field := b }

/-- The first failing status of a descriptor, in checking order (R50, R57). -/
def State.firstBad (s : State) (q : IssueAt) (j : Job) (body : BodyCheck) (badPlan : Bool) : Option Nat :=
  if !knownOpcode j.d.opcode then some 0x21
  else if badIssuer q j then some 0x22
  else if j.d.seq ≠ q.pos then some 0x23
  else if j.d.reservedSet j.d.opcode || body.reserved then some 0x24
  else if s.badHeader q j || body.field || badPlan then some 0x25
  else body.last

/-- A command may issue now: its job is ready, its `WAIT_BAR` lets it go on, no lower key goes first, and on the service
sequencer it is its context's turn. -/
def State.canIssue (s : State) (q : IssueAt) (j : Job) : Bool := s.ready q j && s.isFirst q j && s.inTurn q j

/-- The plan that comes into use with a command: none, unless it is the open step's first (R72); `some none` for a plan that
breaks a rule. -/
def State.planFor (s : State) (q : IssueAt) : Except Stop (Option (Option (Nat × List Slot))) :=
  if s.planDue q then (s.readPlan q.ctx).map some else .ok none

/-- The plan taken into use, if there is one. -/
def State.usePlan (s : State) (q : IssueAt) : Option (Option (Nat × List Slot)) → State
  | some (some (id, slots)) => s.takePlan q.ctx q.ahead id slots
  | _ => s

/-- The work of an accepted item begins, unless SECDED has found an uncorrectable error in its way, which fails it (R133, R146,
R330). Errors that lie in later units of its progress wait until it gets there. -/
def State.begin_ (s : State) (i : Item) (j : Job) (errs : List MemError) (start : Item → Job → State → State) : State :=
  let s := (s.setItem { (s.current i).getD i with errs := errs }).meetDue i
  match s.current i with
  | none => s
  | some cur => start cur j s

/-- A command that passed its checks: its plan comes into use, it is accepted, and its work begins unless an entry of its log was
refused (R60, R72). -/
def State.launch (s : State) (q : IssueAt) (j : Job) (plan : Option (Option (Nat × List Slot)))
    (start : Item → Job → State → State) : State :=
  let s := (s.usePlan q plan).accept q j
  if (s.current (itemOf q j)).isSome then s.begin_ (itemOf q j) j q.errs start else s

/-- The checks of the body need not be read: an earlier check fails (R50). -/
def State.failsEarly (s : State) (q : IssueAt) (j : Job) (badPlan : Bool) : Bool :=
  let quick := s.firstBad q j BodyCheck.ok badPlan
  quick = some 0x21 || quick = some 0x22 || quick = some 0x23 || j.d.reservedSet j.d.opcode

/-- A sequencer's read for a command parks on a page fault (R338, R340): it is counted and recorded as the sequencer's, the context
is PARKED, and the command issues once the fault is resumed (DESIGN CHOICE 16). -/
def State.parkSeq (s : State) (q : IssueAt) (j : Job) (va reason level : Nat) : State :=
  let c := q.ctx
  let s := s.tally .pageFaultCnt c.val .mmuStatus c.val 0
  let id := faultIdOf (s.ctx c).faults
  let s := s.updCtx c fun x => { x with faults := x.faults + 1, seqStops := x.seqStops ++ [⟨q.list, q.pos, q.ahead, id⟩] }
  (s.faultRecord { itemOf q j with unit := unitOf 0 q.list j } id va reason level false).enterParked c

/-- A command whose sequencer could not read what its issue needs: a page fault parks the read, anything else fails the command (R330,
R338, R340). -/
def State.seqStop (s : State) (q : IssueAt) (j : Job) : Stop → State
  | .fault va reason level _ => s.parkSeq q j va reason level
  | why => (s.accept q j).stopItem (itemOf q j) why

/-- The sequencer's read for a command is parked (R340). -/
def State.seqParked (s : State) (q : IssueAt) : Bool :=
  (s.ctx q.ctx).seqStops.any fun k => k.list = q.list && k.pos = q.pos && k.ahead = q.ahead

/-- The context's state and the module's let commands of the context issue (R39, R41, R465, R472). -/
def State.ctxRuns (s : State) (c : CtxId) : Bool :=
  ((s.ctx c).st = .running || (s.ctx c).st = .parked) && s.rdN .pwrState = 3 && !s.power.resetting

/-- An uncorrectable word that the read of a successor's program meets, as its first command would run ahead, is counted (R330). -/
def State.noteSuccessor (s : State) (q : IssueAt) : State :=
  let x := s.ctx q.ctx
  match x.prog, x.succ, x.next with
  | some _, none, some e =>
    if !q.ahead || !e.good || !s.ctxRuns q.ctx then s
    else
      match s.readProgram q.ctx e with
      | .error why => s.noteUe why
      | .ok _ => s
  | _, _, _ => s

/-- A command whose descriptor cannot be read parks its sequencer, or fails as an item of opcode 0 with its position for `SEQ`
(R330, R338, R340, DESIGN CHOICE 121). -/
def State.unreadable (s : State) (q : IssueAt) : State :=
  match s.progOf q.ctx q.ahead with
  | none => s.noteSuccessor q
  | some p =>
    match s.descStop q.ctx p q.list q.pos with
    | none => s
    | some (k, why) =>
      let j : Job :=
        { prog := p, d := ⟨BitVec.ofNat 64 (q.pos % 2 ^ 32), 0, 0, 0, 0, 0, 0, 0⟩, part := k.part, cluster := k.cluster
          service := s.clusterless q.ctx, seqr := k }
      if s.mayIssue q j && s.orderOk q p k j.d then s.seqStop q j why else s

/-- A command issues (R49, R50): its checks, then rejection, or acceptance and its work. `check` reads what its checks
need; what stops a read parks it or fails the command. `start` begins its work. An event that cannot happen changes nothing
(R39). -/
def State.issue (s : State) (q : IssueAt) (op : Nat) (check : State → Job → Except Stop BodyCheck)
    (start : Item → Job → State → State) : State :=
  if s.seqParked q then s
  else
  match s.job q with
  | none => s.unreadable q
  | some j =>
    if (if op ≤ 0x0E then j.d.opcode ≠ op else knownOpcode j.d.opcode) || !s.canIssue q j then s
    else
      match s.planFor q with
      | .error why => s.seqStop q j why
      | .ok plan =>
        match (if s.failsEarly q j (plan = some none) then .ok BodyCheck.ok else check s j) with
        | .error why => s.seqStop q j why
        | .ok body =>
          match s.firstBad q j body (plan = some none) with
          | some status => body.note status (s.reject q j status)
          | none => s.launch q j plan start

end Sys2Proof.Machine
end

