-- ==== Sys2Proof/Machine/Barrier.lean ====
section
/-! DEFINITION. Barriers and the pacer: arrivals, the ends of slots, lag, lateness and releases (R75–R79, R224–R231). -/

namespace Sys2Proof.Machine

/-! ## The pacer (R75–R79) -/

/-- The planned start of slot k, from T0: the periods and berms before it (R75). -/
def planStart (slots : List Slot) (k : Nat) : Nat := ((slots.take k).map fun t => t.period + t.berm).foldl (· + ·) 0

/-- The current slot: the lowest-numbered one that has not ended (R75). -/
def Plan.current (p : Plan) : Nat := (p.slots.takeWhile fun t => t.ended.isSome).length

/-- The berm of the slots after slot k (R77, R84). -/
def bermAfter (slots : List Slot) (k : Nat) : Nat := ((slots.drop (k + 1)).map Slot.berm).foldl (· + ·) 0

/-- The pacer's clock, which stands while the context is PREEMPTED (R78). -/
def State.paceClock (s : State) (c : CtxId) : Nat := if (s.ctx c).st = .preempted then (s.ctx c).stopTime else s.now

/-- Slot k of a context's plan ends now (R75, R77, R78): its lag, the counts of lateness and the largest lag of the step. -/
def State.endSlot (s : State) (c : CtxId) (p : Plan) (k : Nat) : State :=
  let x := s.ctx c
  let slots := p.slots.set k { p.slots.getD k ⟨0, 0, 0, 0, 0, 0, false, none⟩ with ended := some (s.paceClock c) }
  let lag := s.paceClock c - (x.t0 + planStart p.slots (k + 1))
  let breach := bermAfter p.slots k < lag && !p.late
  let s := s.setCtx c { x with plan := some { p with slots := slots, late := p.late || breach }, lag := lag }
  let s := s.wrN .paceLag c.val 0 (sat32 lag)
  let s := s.wrN .paceMaxLag c.val 0 (max (s.rdN .paceMaxLag c.val) (sat32 lag))
  let s := if 0 < lag then s.tally .lateSlotCnt c.val .paceStatus c.val 1 else s
  if breach then (s.tally .lateStepCnt c.val .paceStatus c.val 2).raise 0x01 (some c)
      ((x.prog.map fun p => p.step.toNat % 2 ^ 32).getD 0) else s

/-- Slots end in order while their `CLOSE_BAR` has opened, or all of them when `COMMIT` issues (R75). -/
def State.endSlots (s : State) (c : CtxId) (all : Bool) : Nat → State
  | 0 => s
  | n + 1 =>
    match (s.ctx c).plan with
    | none => s
    | some p =>
      match p.slots[p.current]? with
      | none => s
      | some t => if t.closed || all then State.endSlots (s.endSlot c p p.current) c all n else s

/-- Every slot that can end now, ends. -/
def State.closeSlots (s : State) (c : CtxId) (all : Bool) : State :=
  match (s.ctx c).plan with
  | none => s
  | some p => s.endSlots c all p.slots.length

/-! ## Arrivals (R227, R228) -/

/-- The slots whose `CLOSE_BAR` is a barrier that has opened. -/
def closeOn (b : Nat) (slots : List Slot) : List Slot :=
  slots.map fun t => if t.closeBar.toNat = b then { t with closed := true } else t

/-- The slots of the open step's plan, and of the successor's once it has been read, whose `CLOSE_BAR` has opened (R75). -/
def Ctx.closeOn (x : Ctx) (b : Nat) : Ctx :=
  { x with
    plan := x.plan.map fun p => { p with slots := Machine.closeOn b p.slots }
    planA := x.planA.map fun p => (p.1, Machine.closeOn b p.2) }

/-- An arrival at a barrier (R227, R228): not applied and counted when the barrier is not CLOSED; the barrier opens with
the arrival that reaches its count. -/
def State.arrive (s : State) (c : CtxId) (b : Nat) : State :=
  let x := s.bar c b
  if x.st ≠ .closed then s.tally .barExcessCnt c.val .queueStatus c.val 0
  else if x.arrived + 1 < x.count then s.setBar c b { x with arrived := x.arrived + 1 }
  else
    let s := s.setBar c b { x with arrived := x.arrived + 1, st := .opened }
    (s.updCtx c fun k => k.closeOn b).closeSlots c false

/-- The instant at which the release of slot k is made (R76), in SCLK cycles; it can lie before T0. -/
def releaseAt (t0 lag : Nat) (slots : List Slot) (k : Nat) : Int :=
  match slots[k]? with
  | none => 0
  | some t => (t0 : Int) + planStart slots k - t.lead - (min lag (t.leadMax - t.lead) : Nat)

/-- The next slot whose release is still to be made, from a slot on: slots without a `RELEASE_BAR` are passed over. -/
def nextRelease (slots : List Slot) (from_ : Nat) : Option Nat :=
  (rangeFrom from_ (slots.length - from_)).find? fun k =>
    match slots[k]? with
    | none => false
    | some t => t.releaseBar ≠ 0

/-- The pacer's next arrival (R76): in slot order, within `PACE_WINDOW` of the current slot and from its instant on; its
clock stands while the context is PREEMPTED (R78). Slots that name one `RELEASE_BAR` make an arrival each (DESIGN CHOICE 122). -/
def State.pace (s : State) (c : CtxId) : State :=
  let x := s.ctx c
  match x.plan with
  | none => s
  | some p =>
    match nextRelease p.slots p.released with
    | none => s
    | some k =>
      if x.st ≠ .preempted && k ≤ p.current + s.rdN .paceWindow c.val &&
          decide (releaseAt x.t0 x.lag p.slots k ≤ (s.now : Int)) then
        let s := s.setCtx c { x with plan := some { p with released := k + 1 } }
        s.arrive c ((p.slots[k]?.map fun t => t.releaseBar.toNat).getD 0)
      else s

/-! ## `BARRIER` (R226) -/

/-- The checks of a `BARRIER` body: its fields, and `BARRIER_BUSY` (R226). -/
def checkBarrier (q : IssueAt) (s : State) (j : Job) : Except Stop BodyCheck :=
  let b := j.d.bBar
  let busy := s.waiters q.ctx b ≠ 0 || s.pendingArrival q.ctx b (q.list, q.pos, q.ahead)
  .ok { reserved := false, field := b = 0 || j.d.bCount = 0, last := if busy then some 0x27 else none, note := fun _ s => s }

/-- A `BARRIER` sets its barrier to CLOSED, after which it commits (R226). -/
def startBarrier (i : Item) (_ : Job) (s : State) : State :=
  (s.setBar i.ctx i.desc.bBar ⟨.closed, i.desc.bCount, 0⟩).finish i 0

end Sys2Proof.Machine
end

