-- ==== Sys2Proof/Machine/Formats.lean ====
section
/-! DEFINITION. The number formats: exact values, rounding, block scales, conversion, the keyed generator and FP32
arithmetic (R86–R102, R106, R163–R167). -/

namespace Sys2Proof.Machine

/-! ## Exact values -/

/-- A value read or computed exactly: NaN, an infinity by its sign, or the fraction n / d with a sign. -/
inductive Val where
  | nan
  | inf (neg : Bool)
  | fin (neg : Bool) (n d : Nat)
deriving DecidableEq, Repr

/-- The value +0. -/
def Val.zero : Val := .fin false 0 1

/-- A whole number as a value. -/
def Val.ofNat (n : Nat) : Val := .fin false n 1

/-- The value is a zero. -/
def Val.isZero : Val → Bool
  | .fin _ n _ => n = 0
  | _ => false

/-- The value is finite. -/
def Val.isFin : Val → Bool
  | .fin _ _ _ => true
  | _ => false

/-- The sign of a value. -/
def Val.sign : Val → Bool
  | .nan => false
  | .inf s => s
  | .fin s _ _ => s

/-- The exact negation. -/
def Val.negate : Val → Val
  | .nan => .nan
  | .inf s => .inf !s
  | .fin s n d => .fin (!s) n d

/-- The exact product; 0 × ∞ is NaN. -/
def Val.mul : Val → Val → Val
  | .fin s n d, .fin t m e => .fin (s != t) (n * m) (d * e)
  | .inf s, .fin t m _ => if m = 0 then .nan else .inf (s != t)
  | .fin s n _, .inf t => if n = 0 then .nan else .inf (s != t)
  | .inf s, .inf t => .inf (s != t)
  | _, _ => .nan

/-- The exact sum; opposite infinities give NaN, and opposite equal values +0. -/
def Val.add : Val → Val → Val
  | .fin s n d, .fin t m e =>
    let a := n * e
    let b := m * d
    if s = t then .fin s (a + b) (d * e)
    else if a = b then .fin false 0 1
    else if b < a then .fin s (a - b) (d * e)
    else .fin t (b - a) (d * e)
  | .inf s, .fin _ _ _ => .inf s
  | .fin _ _ _, .inf t => .inf t
  | .inf s, .inf t => if s = t then .inf s else .nan
  | _, _ => .nan

/-- The exact difference. -/
def Val.sub (a b : Val) : Val := a.add b.negate

/-- The exact quotient; a finite value over zero is an infinity, 0 / 0 and ∞ / ∞ are NaN. -/
def Val.div : Val → Val → Val
  | .fin s n d, .fin t m e =>
    if m = 0 then (if n = 0 then .nan else .inf (s != t)) else .fin (s != t) (n * e) (d * m)
  | .inf s, .fin t _ _ => .inf (s != t)
  | .fin s _ _, .inf t => .fin (s != t) 0 1
  | _, _ => .nan

/-- The value times a power of two. -/
def Val.scale (v : Val) (k : Int) : Val :=
  match v with
  | .fin s n d => if 0 ≤ k then .fin s (n * 2 ^ k.toNat) d else .fin s n (d * 2 ^ (-k).toNat)
  | v => v

/-- Magnitudes compared: |a| < |b|. -/
def Val.absLt : Val → Val → Bool
  | .fin _ n d, .fin _ m e => decide (n * e < m * d)
  | .fin _ _ _, .inf _ => true
  | _, _ => false

/-- Values compared: a < b; nothing is less than a NaN. -/
def Val.lt (a b : Val) : Bool :=
  match a, b with
  | .nan, _ => false
  | _, .nan => false
  | .inf s, .inf t => s && !t
  | .inf s, .fin _ _ _ => s
  | .fin _ _ _, .inf t => !t
  | .fin s n d, .fin t m e =>
    if n = 0 then !t && m ≠ 0
    else if m = 0 then s
    else if s then (if t then decide (m * d < n * e) else true)
    else (if t then false else decide (n * e < m * d))

/-- floor(log2(n / d)) of a positive fraction. -/
def floorLog2 (n d : Nat) : Int :=
  let k : Int := (Nat.log2 n : Int) - (Nat.log2 d : Int)
  let fits := if 0 ≤ k then d * 2 ^ k.toNat ≤ n else d ≤ n * 2 ^ (-k).toNat
  if fits then k else k - 1

/-- The fraction n / d over 2^k, as a fraction. -/
def overPow (n d : Nat) (k : Int) : Nat × Nat :=
  if 0 ≤ k then (n, d * 2 ^ k.toNat) else (n * 2 ^ (-k).toNat, d)

/-- A fraction rounded to an integer, ties to even. -/
def roundEven (n d : Nat) : Nat :=
  let q := n / d
  let r := n % d
  if 2 * r < d then q else if d < 2 * r then q + 1 else if q % 2 = 0 then q else q + 1

/-- A positive fraction rounded to p bits, ties to even, with unbounded exponent: the integer m and the exponent of its
last bit. -/
def roundSig (p : Nat) (n d : Nat) : Nat × Int :=
  let qe := floorLog2 n d - (p - 1 : Int)
  let (a, b) := overPow n d qe
  (roundEven a b, qe)

/-! ## FP32 (R86, R91, R92, R103) -/

/-- The value of a binary floating-point code without sign: precision p, least normal exponent emin. -/
def codeVal (p : Nat) (emin : Int) (code : Nat) : Val :=
  let m := code % 2 ^ (p - 1)
  let e := code / 2 ^ (p - 1)
  if e = 0 then (Val.ofNat m).scale (emin - (p - 1 : Int))
  else (Val.ofNat (2 ^ (p - 1) + m)).scale (emin + (e : Int) - 1 - (p - 1 : Int))

/-- The value of FP32 bits, subnormal values kept. -/
def f32Strict (x : Nat) : Val :=
  let s := decide (x / 2 ^ 31 % 2 = 1)
  let m := x % 2 ^ 31
  if 0x7F800000 < m then .nan
  else if m = 0x7F800000 then .inf s
  else
    match codeVal 24 (-126) m with
    | .fin _ n d => .fin s n d
    | v => v

/-- The value of FP32 bits in the fast path: below 2^−126 reads as +0 (R92). -/
def f32 (x : Nat) : Val := if x % 2 ^ 31 < 0x800000 then .zero else f32Strict x

/-- The value of BF16 bits in the fast path (R91, R92). -/
def bf16 (x : Nat) : Val := f32 (x % 65536 * 65536)

/-- The canonical NaN of FP32 (R102). -/
def nan32 : Nat := 0x7FC00000

/-- `RNE_FP32` with results below 2^−126 as +0 (R103): the FP32 bits, and whether a finite value overflowed. -/
def rne32o (v : Val) : Nat × Bool :=
  match v with
  | .nan => (nan32, false)
  | .inf s => (s.toNat * 2 ^ 31 + 0x7F800000, false)
  | .fin s n d =>
    if n = 0 then (0, false)
    else
      let (m, qe) := roundSig 24 n d
      -- the value is m · 2^qe with 2^23 ≤ m ≤ 2^24
      let (m, qe) := if m = 2 ^ 24 then (2 ^ 23, qe + 1) else (m, qe)
      let e := qe + 23
      if e < -126 then (0, false)
      else if 127 < e then (s.toNat * 2 ^ 31 + 0x7F800000, true)
      else (s.toNat * 2 ^ 31 + (e + 127).toNat * 2 ^ 23 + (m - 2 ^ 23), false)

/-- `RNE_FP32`. -/
def rne32 (v : Val) : Nat := (rne32o v).1

/-- FP32 operations of the fast path on bits. -/
def add32 (a b : Nat) : Nat := rne32 ((f32 a).add (f32 b))
/-- The difference. -/
def sub32 (a b : Nat) : Nat := rne32 ((f32 a).sub (f32 b))
/-- The product. -/
def mul32 (a b : Nat) : Nat := rne32 ((f32 a).mul (f32 b))
/-- The quotient. -/
def div32 (a b : Nat) : Nat := rne32 ((f32 a).div (f32 b))
/-- The fused multiply-add a · b + c. -/
def fma32 (a b c : Nat) : Nat := rne32 (((f32 a).mul (f32 b)).add (f32 c))

/-- FP32 bits are a NaN. -/
def isNan32 (a : Nat) : Bool := 0x7F800000 < a % 2 ^ 31
/-- FP32 bits are an infinity. -/
def isInf32 (a : Nat) : Bool := a % 2 ^ 31 = 0x7F800000
/-- FP32 comparison a < b. -/
def lt32 (a b : Nat) : Bool := (f32 a).lt (f32 b)

/-- The integer square root, bit by bit from bit `k` down. -/
def isqrtFrom (n : Nat) : Nat → Nat → Nat
  | 0, r => r
  | k + 1, r =>
    let t := r + 2 ^ k
    isqrtFrom n k (if t * t ≤ n then t else r)

/-- floor(√n) -/
def isqrt (n : Nat) : Nat := isqrtFrom n (Nat.log2 n / 2 + 1) 0

/-- The FP32 square root, RNE: NaN of a negative value (R304). -/
def sqrt32 (x : Nat) : Nat :=
  match f32 x with
  | .nan => nan32
  | .inf s => if s then nan32 else 0x7F800000
  | .fin s n d =>
    if n = 0 then 0
    else if s then nan32
    else
      -- √(n/d) = √(n·d)/d; 2·64 further bits and a sticky bit decide every rounding
      let a := n * d * 2 ^ 128
      let r := isqrt a
      let sticky := if r * r = a then 0 else 1
      rne32 (.fin false (2 * r + sticky) (2 * d * 2 ^ 64))

/-- floor of a non-negative FP32 value, saturated. -/
def floor32 (x : Nat) : Nat :=
  match f32 x with
  | .fin false n d => n / d
  | .inf false => 2 ^ 64
  | _ => 0

/-! ## The element formats (R86–R91) -/

/-- Bits of an element in memory (R87). -/
def fmtBits (f : Nat) : Nat :=
  if f ≤ 2 then 4 else if f = 3 then 2 else if f ≤ 5 then 8 else if f = 6 then 16 else 32

/-- The format is a Crilet format, which takes block scales (R86). -/
def isCrilet (f : Nat) : Bool := f ≤ 5

/-- The format has 4 bits or fewer. -/
def isNarrow (f : Nat) : Bool := f ≤ 3

/-- The value of an element code (R88–R92); a reserved Crilet-2 code decodes as 0 (R90). -/
def elemVal (f c : Nat) : Val :=
  match f with
  | 0 =>
    let m := c % 8
    let s := decide (c / 8 % 2 = 1)
    match codeVal 2 0 m with
    | .fin _ n d => if n = 0 then .zero else .fin s n d
    | v => v
  | 1 => if c % 16 < 8 then .fin false (c % 16) 1 else .fin true (16 - c % 16) 1
  | 2 =>
    let m := c % 4
    let v := if m = 3 then 4 else m
    if v = 0 then .zero else .fin (decide (c / 4 % 2 = 1)) v 1
  | 3 => if c % 4 = 1 then .fin false 1 1 else if c % 4 = 2 then .fin true 1 1 else .zero
  | 4 =>
    let s := decide (c / 128 % 2 = 1)
    if c % 128 = 127 then .nan
    else
      match codeVal 4 (-6) (c % 128) with
      | .fin _ n d => .fin s n d
      | v => v
  | 5 =>
    let s := decide (c / 128 % 2 = 1)
    if 124 < c % 128 then .nan
    else if c % 128 = 124 then .inf s
    else
      match codeVal 3 (-14) (c % 128) with
      | .fin _ n d => .fin s n d
      | v => v
  | 6 => bf16 c
  | _ => f32 c

/-- The top of a format for a sign (R86): the value as a whole number; 4i reaches −8. -/
def topOf (f : Nat) (neg : Bool) : Nat :=
  match f with
  | 0 => 6
  | 1 => if neg then 8 else 7
  | 2 => 4
  | 3 => 1
  | 4 => 448
  | 5 => 57344
  | 6 => 255 * 2 ^ 120
  | _ => (2 ^ 24 - 1) * 2 ^ 104

/-! ## Block scales (R93, R94, R97) -/

/-- The value of a scale code (R93, R94): NaN for a NaN block, zero for a zero block. -/
def scaleVal (s16 : Bool) (c : Nat) : Val :=
  if s16 then
    if c / 32768 % 2 = 1 then .nan
    else if 0x7F80 ≤ c % 32768 then .nan
    else codeVal 8 (-126) (c % 32768)
  else if c % 256 = 255 then .nan
  else (Val.ofNat 1).scale ((c % 256 : Int) - 127)

/-- The NaN code of a scale (R93, R94). -/
def nanScale (s16 : Bool) : Nat := if s16 then 0x7FC0 else 0xFF

/-- The scale code 1.0. -/
def oneScale (s16 : Bool) : Nat := if s16 then 0x3F80 else 0x7F

/-- The largest |x| over the finite elements of a block. -/
def blockMax (xs : List Val) : Val :=
  xs.foldl (fun a x => if x.isFin && a.absLt x then x else a) .zero

/-- The code of a positive fraction on the grid of a format with precision p and least normal exponent emin: the
largest code whose value is at most n / d, and what remains of n / d above it over the distance to the next code. -/
def gridBelow (p : Nat) (emin : Int) (n d : Nat) : Nat × Nat × Nat :=
  let e := max (floorLog2 n d) emin
  let (a, b) := overPow n d (e - (p - 1 : Int))
  let m := a / b
  let code := if m < 2 ^ (p - 1) then m else (e - emin + 1).toNat * 2 ^ (p - 1) + (m - 2 ^ (p - 1))
  (code, a % b, b)

/-- A scale chosen from the values of a block (R97), and whether it was clamped (R164). -/
def chooseScale (f : Nat) (s16 : Bool) (xs : List Val) : Nat × Bool :=
  if isNarrow f && xs.any (· = .nan) then (nanScale s16, false)
  else
    match blockMax xs with
    | .fin _ n d =>
      if n = 0 then (oneScale s16, false)
      else
        let q := d * topOf f false
        if s16 then
          let (code, r, _) := gridBelow 8 (-126) n q
          let code := if r = 0 then code else code + 1
          (min code 0x7F7F, 0x7F7F < code)
        else
          let k := floorLog2 n q
          let (a, b) := overPow n q k
          let e := if a = b then k else k + 1
          let c := e + 127
          if c < 0 then (0, true) else if 0xFE < c then (0xFE, true) else (c.toNat, false)
    | _ => (oneScale s16, false)

/-! ## Conversion (R98–R102) -/

/-- What a conversion gives: the code, and the counts of `SAT_CNT`, `SUBNORM_FLUSH_CNT`, of an overflow to ±∞ from a
finite value, and of a NaN. -/
structure Conv where
  code  : Nat
  sat   : Bool
  flush : Bool
  ovf   : Bool
  nan   : Bool
deriving DecidableEq, Repr

/-- The code of a magnitude code with a sign (R88–R91); zero is always +0 (R101). -/
def signedCode (f : Nat) (neg : Bool) (m : Nat) : Nat :=
  if m = 0 || !neg then m
  else if f = 1 then 16 - m
  else if f = 3 then 2
  else m + 2 ^ (if f = 2 then 2 else fmtBits f - 1)

/-- The largest magnitude code at most n / d, with what remains over the distance to the next code. -/
def magBelow (f n d : Nat) : Nat × Nat × Nat :=
  match f with
  | 0 => gridBelow 2 0 n d
  | 1 => (n / d, n % d, d)
  | 2 => if n < d then (0, n, d) else if n < 2 * d then (1, n - d, d) else if n < 4 * d then (2, n - 2 * d, 2 * d)
    else (3, 0, d)
  | 3 => if n < d then (0, n, d) else (1, 0, d)
  | 4 => gridBelow 4 (-6) n d
  | 5 => gridBelow 3 (-14) n d
  | 6 => gridBelow 8 (-126) n d
  | _ => gridBelow 24 (-126) n d

/-- The magnitude code of the top. -/
def topCode (f : Nat) (neg : Bool) : Nat :=
  match f with
  | 0 => 7
  | 1 => if neg then 8 else 7
  | 2 => 3
  | 3 => 1
  | 4 => 0x7E
  | _ => 0x7B

/-- The NaN code of a format (R102); for the narrow formats, whose blocks become NaN blocks, code 0. -/
def nanCode (f : Nat) : Nat :=
  if f ≤ 3 then 0 else if f ≤ 5 then 0x7F else if f = 6 then 0x7FC0 else nan32

/-- `convert` of R98: mode 0 RNE, 1 RTZ, 2 SR with the 16 random bits r. -/
def convert (x : Val) (f mode r : Nat) : Conv :=
  match x with
  | .nan => ⟨nanCode f, false, false, false, true⟩
  | .inf s =>
    if f ≤ 5 then ⟨signedCode f s (topCode f s), true, false, false, false⟩
    else ⟨signedCode f s (if f = 6 then 0x7F80 else 0x7F800000), false, false, false, false⟩
  | .fin s n d =>
    if n = 0 then ⟨0, false, false, false, false⟩
    else if 6 ≤ f && n * 2 ^ 126 < d then ⟨0, false, true, false, false⟩
    else if f ≤ 5 && topOf f s * d < n then ⟨signedCode f s (topCode f s), true, false, false, false⟩
    else
      let (lo, rem, dist) := magBelow f n d
      let m :=
        if rem = 0 then lo
        else if mode = 1 then lo
        else if mode = 2 then (if 65536 ≤ 65536 * rem / dist + r then lo + 1 else lo)
        else if 2 * rem < dist then lo
        else if dist < 2 * rem then lo + 1
        else if lo % 2 = 0 then lo else lo + 1
      let inf := (f = 6 && 0x7F80 ≤ m) || (f = 7 && 0x7F800000 ≤ m)
      let m := if f = 6 then min m 0x7F80 else if f = 7 then min m 0x7F800000 else m
      ⟨signedCode f s m, false, false, inf, false⟩

/-- FP32 bits converted to BF16 with RNE. -/
def toBf16 (x : Nat) : Conv := convert (f32 x) 6 0 0

/-! ## Packing (R87) -/

/-- The code of element i of packed bytes. -/
def elemCode (f : Nat) (bs : List Byte) (i : Nat) : Nat :=
  if f ≤ 3 then
    let per := 8 / fmtBits f
    (bs.getD (i / per) 0).toNat / 2 ^ (fmtBits f * (i % per)) % 2 ^ fmtBits f
  else leNat ((bs.drop (fmtBits f / 8 * i)).take (fmtBits f / 8))

/-- The codes of n elements. -/
def unpack (f n : Nat) (bs : List Byte) : List Nat := (List.range n).map (elemCode f bs)

/-- Codes packed to bytes; the rest of the last byte is zero. -/
def pack (f : Nat) (cs : List Nat) : List Byte :=
  if f ≤ 3 then
    let per := 8 / fmtBits f
    (List.range (ceilDiv cs.length per)).map fun k =>
      BitVec.ofNat 8 ((List.range per).foldl (fun a j => a + cs.getD (per * k + j) 0 * 2 ^ (fmtBits f * j)) 0)
  else cs.flatMap fun c => leBytes (fmtBits f / 8) c

/-- Bytes of n packed elements. -/
def packedLen (f n : Nat) : Nat := ceilDiv (n * fmtBits f) 8

/-! ## The keyed generator (R165–R167) -/

/-- Ten rounds of Philox-4×32 (R165). -/
def philoxRounds : Nat → Nat × Nat × Nat × Nat → Nat → Nat → Nat × Nat × Nat × Nat
  | 0, c, _, _ => c
  | n + 1, (c0, c1, c2, c3), k0, k1 =>
    let a := 0xD2511F53 * c0
    let b := 0xCD9E8D57 * c2
    let h0 := a / 2 ^ 32
    let l0 := a % 2 ^ 32
    let h1 := b / 2 ^ 32
    let l1 := b % 2 ^ 32
    philoxRounds n (Nat.xor (Nat.xor h1 c1) k0, l1, Nat.xor (Nat.xor h0 c3) k1, l0)
      ((k0 + 0x9E3779B9) % 2 ^ 32) ((k1 + 0xBB67AE85) % 2 ^ 32)

/-- The four output words of a block (R166): purpose, identifier, block index, seed and step. -/
def draw (purpose ident block : Nat) (seed step : W64) : Nat × Nat × Nat × Nat :=
  philoxRounds 10
    (block % 2 ^ 32, block / 2 ^ 32 % 2 ^ 32, purpose * 2 ^ 28 + ident % 2 ^ 28, step.toNat % 2 ^ 32)
    (seed.toNat % 2 ^ 32) (seed.toNat / 2 ^ 32)

/-- The 16 bits of element i (R167). -/
def draw16 (purpose ident i : Nat) (seed step : W64) : Nat :=
  let (w0, w1, w2, w3) := draw purpose ident (i / 8) seed step
  let k := i % 8 / 2
  let w := if k = 0 then w0 else if k = 1 then w1 else if k = 2 then w2 else w3
  if i % 2 = 0 then w % 65536 else w / 65536

/-! ## Strict arithmetic (R106) -/

/-- A strict result: bits and the exceptions invalid, overflow, underflow and inexact. -/
structure Strict where
  bits     : Nat
  invalid  : Bool
  overflow : Bool
  underflow : Bool
  inexact  : Bool
deriving DecidableEq, Repr

/-- An exact value to binary32: RNE when `rtz` is false, toward zero otherwise; subnormals kept, underflow detected after
rounding; `zneg` is the sign of an exact zero. -/
def strictRound (rtz : Bool) (zneg : Bool) (v : Val) : Strict :=
  match v with
  | .nan => ⟨nan32, false, false, false, false⟩
  | .inf s => ⟨s.toNat * 2 ^ 31 + 0x7F800000, false, false, false, false⟩
  | .fin s n d =>
    if n = 0 then ⟨zneg.toNat * 2 ^ 31, false, false, false, false⟩
    else
      let (lo, rem, dist) := gridBelow 24 (-126) n d
      let up := !rtz && (dist < 2 * rem || (2 * rem = dist && lo % 2 = 1))
      let m := if up then lo + 1 else lo
      let inexact := decide (rem ≠ 0)
      -- tiny after rounding: rounded with unbounded exponent, the magnitude is below 2^−126
      let (m', qe) := if rtz then
          (let q := floorLog2 n d - 23
           let (a, b) := overPow n d q
           (a / b, q))
        else roundSig 24 n d
      let tiny := match (Val.ofNat m').scale qe with
        | .fin _ a b => decide (a * 2 ^ 126 < b)
        | _ => false
      if 0x7F800000 ≤ m then
        ⟨s.toNat * 2 ^ 31 + (if rtz then 0x7F7FFFFF else 0x7F800000), false, true, false, true⟩
      else ⟨s.toNat * 2 ^ 31 + m, false, false, tiny && inexact, inexact⟩

/-- FP32 bits are a signalling NaN. -/
def isSnan32 (x : Nat) : Bool := isNan32 x && x / 2 ^ 22 % 2 = 0

/-- The strict fused multiply-add a · b + c (R106). -/
def fmaStrict (rtz : Bool) (a b c : Nat) : Strict :=
  let x := f32Strict a
  let y := f32Strict b
  let z := f32Strict c
  let p := x.mul y
  let zeroTimesInf := p = .nan && !isNan32 a && !isNan32 b
  let r := p.add z
  let infs := r = .nan && p ≠ .nan && z ≠ .nan
  let invalid := zeroTimesInf || infs || isSnan32 a || isSnan32 b || isSnan32 c
  let zneg := p.isZero && z.isZero && p.sign && z.sign
  { strictRound rtz zneg r with invalid := invalid }

end Sys2Proof.Machine
end

