-- ==== Sys2Proof/Machine/Stream.lean ====
section
/-! DEFINITION. Stream programs and sluices: the checks of a program, its transfers, the delivery of lines against
credit, and the states of the engines (R181–R210, R213–R223, R372). -/

namespace Sys2Proof.Machine

/-! ## Instructions (R186) -/

/-- The opcode of a stream instruction. -/
def sOp (w : W64) : Nat := bits 63 58 w

/-- The bits of a stream instruction that its opcode uses; every other bit is reserved (R186). -/
def sUsed (op : Nat) : Nat :=
  match op with
  | 0x01 => 0x00FFF8FFFF01FFFF
  | 0x02 => 0x0300FFFFFFFFFFFF
  | 0x03 => 0x03800000FFFFFFFF
  | 0x04 => 0x03E0FFFFFFFFFFFF
  | 0x05 => 0x0380FFFFFFFFFFFF
  | 0x06 => 0x03FFFFFFFFFFFFF0
  | 0x07 => 0x03FFFFF000000000
  | 0x08 => 0x03FFFFF00FFFFFFF
  | 0x09 => 0x03FF8000FFFFFFFF
  | 0x10 => 0x03EFFF0000000000
  | 0x11 => 0x03EC000000000000
  | 0x12 => 0x03EFFF0000000000
  | 0x13 => 0x01FBFF0000000000
  | 0x14 => 0x03E0FFFF00000000
  | 0x15 => 0x03FEFFFF00000000
  | 0x16 => 0x01C3000000000000
  | 0x18 => 0x03FF000000000000
  | 0x19 => 0x0000000000000000
  | _ => 0x03FFFFFFFFFFFFFF

/-- A reserved bit of a stream instruction is set. -/
def sReserved (w : W64) : Bool :=
  (w &&& ~~~ BitVec.ofNat 64 (sUsed (sOp w) + sOp w * 2 ^ 58)) ≠ 0

/-- The instruction is a declaration. -/
def sDecl (w : W64) : Bool := 0x01 ≤ sOp w && sOp w ≤ 0x0F

/-- The opcode stands in R186. -/
def sKnown (op : Nat) : Bool := (1 ≤ op && op ≤ 9) || (0x10 ≤ op && op ≤ 0x16) || op = 0x18 || op = 0x19

/-- A field of an instruction holds a reserved value (R186). -/
def sBadField (w : W64) : Bool :=
  match sOp w with
  | 0x03 => 5 < bits 57 55 w
  | 0x04 => 5 < bits 55 53 w
  | 0x08 => !(bits 57 50 w = 6 || bits 57 50 w = 7) || 6 < bits 49 42 w || 5 < bits 40 38 w || bits 37 36 w = 3
  | 0x09 =>
    match bits 57 54 w with
    | 0 => 3 < bits 53 47 w
    | 1 => bits 53 47 w ≠ 0
    | 2 => 23 < bits 53 47 w
    | 3 => 3 < bits 53 47 w
    | 4 => 13 < bits 53 47 w
    | _ => true
  | 0x13 => bits 49 48 w = 3
  | 0x16 => bits 49 48 w = 3
  | 0x18 => bits 52 48 w = 0
  | _ => false

/-- The first instruction of an opcode. -/
def sFind (is : List W64) (op : Nat) : Option W64 := is.find? fun w => sOp w = op

/-- How often an opcode stands in a program. -/
def sCount (is : List W64) (op : Nat) : Nat := (is.filter fun w => sOp w = op).length

/-- The body instructions. -/
def sBody (is : List W64) : List W64 := is.filter fun w => !sDecl w

/-- n of a loop level (R182). -/
def sLoop (is : List W64) (l : Nat) : Nat :=
  match is.find? fun w => sOp w = 3 && bits 57 55 w = l with
  | none => 1
  | some w => bits 31 0 w + 1

/-- The iterations of a program. -/
def sIters (is : List W64) : Nat := (List.range 6).foldl (fun a l => a * sLoop is l) 1

/-- BASE of a register: the last `BASE` that names it (DESIGN CHOICE 134). -/
def sBase (is : List W64) (x : Nat) : Nat :=
  match is.reverse.find? fun w => sOp w = 2 && bits 57 56 w = x with
  | none => 0
  | some w => bits 47 0 w

/-- STRIDE of a register and level, as a signed number: the last `STRIDE` that names them (DESIGN CHOICE 134). -/
def sStride (is : List W64) (x l : Nat) : Int :=
  match is.reverse.find? fun w => sOp w = 4 && bits 57 56 w = x && bits 55 53 w = l with
  | none => 0
  | some w => if bit 47 w then (bits 47 0 w : Int) - 2 ^ 48 else bits 47 0 w

/-- i_ℓ of an iteration number: level 0 varies fastest (R182). -/
def sIndex (is : List W64) (iter l : Nat) : Nat :=
  iter / ((List.range l).foldl (fun a k => a * sLoop is k) 1) % sLoop is l

/-- The value of a register in an iteration (R182). -/
def sReg (is : List W64) (iter x : Nat) : Nat :=
  (((List.range 6).foldl (fun a l => a + sStride is x l * (sIndex is iter l : Int)) (sBase is x : Int)) % 2 ^ 48).toNat

/-- The smallest and largest value that a register takes (R208). -/
def sRange (is : List W64) (x : Nat) : Nat × Nat :=
  let ends := (List.range 6).foldl (fun (a : Int × Int) l =>
    let d := sStride is x l * ((sLoop is l : Int) - 1)
    if d < 0 then (a.1 + d, a.2) else (a.1, a.2 + d)) ((sBase is x : Int), (sBase is x : Int))
  ((ends.1 % 2 ^ 48).toNat, (ends.1 % 2 ^ 48).toNat + (ends.2 - ends.1).toNat)

/-! ## Patch geometry (R148, R189) -/

/-- The output extent of one dimension: none below 1. -/
def patchExtent (n k σ π δ : Nat) : Option Nat :=
  let top := n + 2 * π
  let reach := δ * (k - 1) + 1
  if top < reach then none else some ((top - reach) / σ + 1)

/-- The grid, kernel and step of a patch program. -/
structure Patch where
  h : Nat
  w : Nat
  d : Nat
  c : Nat
  kh : Nat
  kw : Nat
  kd : Nat
  σ : Nat
  π : Nat
  δ : Nat

/-- The patch configuration of a program. -/
def patchOf (is : List W64) : Option Patch :=
  match sFind is 6, sFind is 7 with
  | some a, some b =>
    some { h := bits 57 44 a + 1, w := bits 43 30 a + 1, d := bits 29 16 a + 1, c := bits 15 4 a + 1
           kh := bits 57 54 b + 1, kw := bits 53 50 b + 1, kd := bits 49 46 b + 1
           σ := bits 45 43 b + 1, π := bits 42 39 b, δ := bits 38 36 b + 1 }
  | _, _ => none

/-- The padding of the depth: a grid and kernel of depth 1 are the two-dimensional ones of R148, whose row m is y·Wout + x, and are not
padded there (DESIGN CHOICE 150). -/
def Patch.depthPad (p : Patch) : Nat := if p.d = 1 && p.kd = 1 then 0 else p.π

/-- The output extents: D, H and W. -/
def Patch.outs (p : Patch) : Option (Nat × Nat × Nat) :=
  match patchExtent p.d p.kd p.σ p.depthPad p.δ, patchExtent p.h p.kh p.σ p.π p.δ, patchExtent p.w p.kw p.σ p.π p.δ with
  | some d, some h, some w => some (d, h, w)
  | _, _, _ => none

/-- One coordinate of an input element; none outside the grid. -/
def patchCoord (o k n σ π δ : Nat) : Option Nat :=
  let x := o * σ + k * δ
  if x < π then none else if n ≤ x - π then none else some (x - π)

/-- The input element of (m, k), or none where code 0 stands (R189). -/
def Patch.elem (p : Patch) (m k : Nat) : Option Nat :=
  match p.outs with
  | none => none
  | some (od, oh, ow) =>
    if od * oh * ow ≤ m || p.kd * p.kh * p.kw * p.c ≤ k then none
    else
      match patchCoord (m / (ow * oh)) (k / (p.c * p.kw * p.kh)) p.d p.σ p.depthPad p.δ,
        patchCoord (m / ow % oh) (k / (p.c * p.kw) % p.kh) p.h p.σ p.π p.δ,
        patchCoord (m % ow) (k / p.c % p.kw) p.w p.σ p.π p.δ with
      | some z, some y, some x => some (((z * p.h + y) * p.w + x) * p.c + k % p.c)
      | _, _, _ => none

/-! ## Sluices (R193–R198, R372) -/

/-- What a sluice handle names (R193). -/
inductive Handle where
  | none
  | unicast (core kind : Nat)
  | group (g : Nat)
  | fabric (g : Nat)
  | bad
deriving DecidableEq, Repr

/-- A handle decoded (R193). -/
def handleOf (h : Nat) : Handle :=
  if h = 0xFFFF then .none
  else if h / 16384 = 0 then
    if h % 16 = 0 && h / 16 % 8 ≤ 2 then .unicast (h / 128 % 128) (h / 16 % 8) else .bad
  else if h / 16384 = 1 then (if h / 256 % 64 = 0 then .group (h % 256) else .bad)
  else if h / 16384 = 2 then (if h / 4096 % 4 = 0 then .fabric (h % 4096) else .bad)
  else .bad

/-- The capacity of a buffer type with the geometry of `SETUP` (R193, R213); 1,024 for a send queue, and also for a program without a
sluice, whose `PRIME` above that is rejected (DESIGN CHOICE 152). -/
def capOf (kind : Nat) (setup : W64) : Nat :=
  if kind = 0 then 2048 else if kind = 1 then 256 else if kind = 2 then bits 39 24 setup + 1 else 1024

/-- The cores of a multicast mask. -/
def maskCores (w0 w1 : W64) : List Nat := (List.range 128).filter fun i => if i < 64 then bit i w0 else bit (i - 64) w1

/-- An entry of the fabric multicast table is in use and well formed (R372). -/
def fabricEntryOk (bs : List Byte) : Bool :=
  let w0 := wordAt bs 0
  let w1 := wordAt bs 1
  let w2 := wordAt bs 2
  bits 63 58 w0 = 0 && bits 53 42 w0 = 0 && bits 57 54 w0 ≤ 13 && bits 41 0 w0 % 65536 = 0 && bits 47 32 w1 = 0 &&
    bits 63 48 w1 ≠ 0 && bits 63 1 w2 = 0 && bit 0 w2 && wordAt bs 3 = 0

/-- The consumers that a handle names, with their type, or `none` where it is rejected (R193, R198, R199, R372). -/
def State.consumers (s : State) (r : Req) (c : CtxId) (h : Handle) : Except Stop (Option (List Nat × Nat)) :=
  let owned (i : Nat) : Bool := s.owns c (i / 4)
  match h with
  | .none => .ok (some ([], 3))
  | .bad => .ok none
  | .unicast i k => .ok (if owned i then some ([sluiceIx i k], k) else none)
  | .group g => do
    let va := s.rdN .mcastTableVa c.val
    if va = 0 then pure none
    else
      let bs ← s.vread r (va + 32 * g) 32
      let w2 := wordAt bs 2
      let cores := maskCores (wordAt bs 0) (wordAt bs 1)
      let k := bits 6 4 w2
      let ok := k ≤ 2 && !cores.isEmpty && cores.all owned &&
        decide ((cores.map fun i => s.partOf (i / 4)).dedup.length = 1)
      pure (if ok then some (cores.map fun i => sluiceIx i k, k) else none)
  | .fabric g => do
    let va := s.rdN .shxMcastVa c.val
    if va = 0 then pure none
    else
      let bs ← s.vread r (va + 32 * g) 32
      pure (if fabricEntryOk bs then some ([512 + bits 57 54 (wordAt bs 0)], 3) else none)

/-- A reserved bit of the multicast entry that a handle names is set (R198). -/
def State.groupReserved (s : State) (r : Req) (c : CtxId) (h : Handle) : Except Stop Bool :=
  match h with
  | .group g => do
    let va := s.rdN .mcastTableVa c.val
    if va = 0 then pure false
    else
      let bs ← s.vread r (va + 32 * g) 32
      pure (bits 63 7 (wordAt bs 2) ≠ 0 || bits 3 0 (wordAt bs 2) ≠ 0 || wordAt bs 3 ≠ 0)
  | _ => .ok false

/-- A buffer is named by another engine's active or shadow program (R194); send queues are not consumer buffers. -/
def State.bufferHeld (s : State) (e : Nat) (qs : List Nat) : Bool :=
  s.engines.any fun (e', x) =>
    e' ≠ e && ((x.active.toList ++ x.shadow.toList).any fun p => p.queues.any fun q => q < 512 && qs.contains q)

/-- The port index of a `DEMAND` of a cluster's program (R201). -/
def demandPort (cl : Nat) (w : W64) : Nat :=
  let n := bits 53 47 w
  match bits 57 54 w with
  | 0 => 4 * cl + n
  | 1 => 128 + cl
  | 2 => 160 + n
  | 3 => 184 + n
  | _ => 188 + n

/-- The demand of a program: port index and bytes. -/
def sDemand (cl : Nat) (is : List W64) : List (Nat × Nat) :=
  (is.filter fun w => sOp w = 9).map fun w => (demandPort cl w, bits 31 0 w)

/-- Demand added to the admitted amounts (R202). -/
def State.takeDemand (s : State) (d : List (Nat × Nat)) : State :=
  d.foldl (fun s (port, bytes) => s.wrN .portAdmitted 0 port (s.rdN .portAdmitted 0 port + bytes)) s

/-- Every port stays within its regular limit, 7/8 of its budget (R201, R202). -/
def State.admissible (s : State) (d : List (Nat × Nat)) : Bool :=
  d.all fun (port, _) =>
    let total := ((d.filter fun e => e.1 = port).map (·.2)).foldl (· + ·) 0
    decide (s.rdN .portAdmitted 0 port + total ≤ s.rdN .portBudget 0 port * 7 / 8)

/-! ## The checks of a program (R187, R197, R199, R200) -/

/-- The rules of R187 on a program alone. The odd N of a `PATCH` of Crilet-4 elements is its number of elements, one more than the
field (DESIGN CHOICE 151). -/
def sBadProgram (is : List W64) : Bool :=
  let body := sBody is
  let first := is.head?.map sOp
  let levels := (is.filter fun w => sOp w = 3).map fun w => bits 57 55 w
  let afterBody := (is.dropWhile sDecl).any sDecl
  let needs (ops : List Nat) := is.any fun w => ops.contains (sOp w)
  let fmtWord := (sFind is 8).getD 0
  is.any (fun w => !sKnown (sOp w) || sBadField w) || first ≠ some 1 || sCount is 1 ≠ 1 || afterBody || body.isEmpty ||
    !decide levels.Nodup || !(List.range levels.length).all (fun l => levels.contains l) ||
    2 ^ 48 < sIters is * body.length ||
    (needs [0x11, 0x12] && sCount is 5 ≠ 1) || (needs [0x13] && (sCount is 6 ≠ 1 || sCount is 7 ≠ 1)) ||
    (needs [0x14, 0x15] && sCount is 8 ≠ 1) ||
    1 < sCount is 5 || 1 < sCount is 6 || 1 < sCount is 7 || 1 < sCount is 8 || 4 < sCount is 9 ||
    ((List.range body.length).any fun i =>
      let w := body.getD i 0
      (sOp w = 0x18 && body.length ≤ i + bits 52 48 w) ||
        (sOp w = 0x13 && bits 49 48 w = 0 && bits 47 40 w % 2 = 0) ||
        (sOp w = 0x15 && (8 * 2 ^ bits 40 38 fmtWord * fmtBits (bits 49 42 fmtWord)) % 8 ≠ 0)) ||
    (needs [0x13] && (match patchOf is with
      | none => true
      | some p => p.outs.isNone))

/-- A body instruction delivers to the sluice. -/
def sToSluice (w : W64) : Bool :=
  let op := sOp w
  ((op = 0x10 || op = 0x11 || op = 0x12 || op = 0x14 || op = 0x15) && !bit 57 w) || op = 0x13 || op = 0x16

/-- A body instruction writes to memory. -/
def sToMemory (w : W64) : Bool :=
  let op := sOp w
  (op = 0x10 || op = 0x11 || op = 0x12 || op = 0x14 || op = 0x15) && bit 57 w

/-- The rules that join the program to its sluice and its class (R187, R193, R196, R197, R199, R200). -/
def sBadUse (d : Desc) (is : List W64) (kind : Nat) : Bool :=
  let setup := is.getD 0 0
  let h := handleOf d.aSluice
  let isRing := kind = 2
  let cap := capOf kind setup
  (d.aSluice = 0xFFFF && is.any sToSluice) ||
    (!isRing && (bits 39 24 setup ≠ 0 || bits 16 0 setup ≠ 0)) ||
    (isRing && 131072 < bits 16 0 setup + cap) ||
    (bit 43 setup && cap % 2 ≠ 0) || cap < bits 55 44 setup ||
    (d.aRegular &&
      (d.aRate = 0 || sCount is 9 = 0 || is.any sToMemory || is.any (fun w => sOp w = 0x11 || sOp w = 0x12) ||
        match h with
        | .unicast _ _ | .group _ => false
        | _ => true))

/-- The copy of a program read with its `STREAM_ARM` (R181). -/
def State.readStream (s : State) (r : Req) (d : Desc) : Except Stop (List W64) := do
  let bs ← s.vread r d.aProgVa (8 * (d.aLen + 1))
  pure (wordsOf (d.aLen + 1) bs)

/-- The global index of the engine that a command names. -/
def engineOf (j : Job) : Nat := 16 * (j.cluster.getD 0).val + j.d.aEngine

/-- The checks of a `STREAM_ARM` body (R58, R187–R202, R372). -/
def checkStream (q : IssueAt) (s : State) (j : Job) : Except Stop BodyCheck := do
  let r : Req := .unit q.ctx j.cluster
  let is ← s.readStream r j.d
  if is.any sReserved then pure BodyCheck.rsvd
  else
    let rsvd ← s.groupReserved r q.ctx (handleOf j.d.aSluice)
    let cons ← s.consumers r q.ctx (handleOf j.d.aSluice)
    let e := engineOf j
    let field :=
      sBadProgram is ||
        (match cons with
          | none => true
          | some (qs, kind) => sBadUse j.d is kind || s.bufferHeld e qs)
    let refused := !field && j.d.aRegular && !s.admissible (sDemand (j.cluster.getD 0).val is)
    let full := (s.engine e).shadow.isSome
    pure
      { reserved := rsvd
        field := field || refused
        last := if full then some 0x26 else none
        note := fun status t =>
          if status = 0x26 then t.tally .rearmOvfCnt q.ctx.val .streamStatus q.ctx.val 2
          else if refused && !s.badHeader q j && !rsvd then t.tally .admitRefuseCnt q.ctx.val .streamStatus q.ctx.val 3
          else t }

/-! ## Reading the program's memory -/

/-- A read of a stream program; a regular one reads through the translations that it holds (R208). -/
def State.streamRead (s : State) (p : StreamProg) (va len : Nat) : Except Stop (List Byte) :=
  let r : Req := .unit p.ctx (some p.cluster)
  if p.regular then s.readHeld r p.pages va len else s.vread r (va % 2 ^ 48) len

/-! ## Counts of conversions (R98, R100, R105, R164, R178, R191) -/

/-- The counts of written elements of a context: saturated, overflowed, NaN, flushed. -/
def State.precCount (s : State) (c : CtxId) (sat ovf nan flush : Nat) : State :=
  let s := s.tallyN .satCnt c.val .precStatus c.val 1 sat
  let s := s.tallyN .ovfCnt c.val .precStatus c.val 1 ovf
  let s := s.tallyN .nanCnt c.val .precStatus c.val 0 nan
  s.tallyN .subnormFlushCnt c.val .fmtStatus c.val 9 flush

/-- The number of true values. -/
def countTrue (l : List Bool) : Nat := (l.filter id).length

/-- The counts of a list of conversions. -/
def State.convCount (s : State) (c : CtxId) (l : List Conv) : State :=
  s.precCount c (countTrue (l.map Conv.sat)) (countTrue (l.map Conv.ovf)) (countTrue (l.map Conv.nan))
    (countTrue (l.map Conv.flush))

/-- Nothing counted. -/
def StreamCounts.none : StreamCounts := ⟨0, 0, 0, 0, 0, 0⟩

/-- The counts of a list of conversions, with as many NaN elements more. -/
def StreamCounts.of (l : List Conv) (nans : Nat) : StreamCounts :=
  ⟨countTrue (l.map Conv.sat), countTrue (l.map Conv.ovf), countTrue (l.map Conv.nan) + nans, countTrue (l.map Conv.flush), 0, 0⟩

/-- What a transfer counts, counted for a context. -/
def State.streamCount (s : State) (c : CtxId) (k : StreamCounts) : State :=
  let s := s.precCount c k.sat k.ovf k.nan k.flush
  let s := s.tallyN .scaleClampCnt c.val .precStatus c.val 2 k.clamp
  s.tallyN .streamIdxDropCnt c.val .streamStatus c.val 4 k.index

/-- A stream conversion of a block (R190): the packed codes, and the counts of saturation, overflow, NaN and flush. -/
def convertBlock (p : StreamProg) (fw : W64) (xs : List Val) (scale : Val) (first : Nat) : List Nat × List Conv × Nat :=
  let dst := bits 49 42 fw
  let mode := bits 37 36 fw
  let nans := countTrue (xs.map fun x => decide (x = .nan))
  let each (v : Val) (e : Nat) : Conv := convert v dst mode (draw16 1 (bits 27 0 fw) (first + e) p.seed p.step)
  if dst = 6 then
    let cs := (List.range xs.length).map fun e => each (xs.getD e .nan) e
    (cs.map Conv.code, cs, 0)
  else if scale = .nan then (xs.map fun _ => nanCode dst, [], xs.length)
  else if scale.isZero then (xs.map fun _ => 0, [], nans)
  else if isNarrow dst && nans ≠ 0 then (xs.map fun _ => 0, [], nans)
  else
    let cs := (List.range xs.length).map fun e => each ((xs.getD e .nan).div scale) e
    (cs.map Conv.code, cs, 0)

/-! ## Transfers (R183, R188–R192) -/

/-- What a body execution does: nothing that is numbered (a skip, a flush), or a transfer with its bytes. -/
inductive Made where
  | skip (n : Nat)
  | flush
  | bytes (bs : List Byte) (item : Bool) (counts : StreamCounts)

/-- The source elements of a block (R190). -/
def State.blockElems (s : State) (p : StreamProg) (fw : W64) (a estride : Nat) : Except Stop (List Val) :=
  let f := bits 57 50 fw
  let size := fmtBits f / 8
  (List.range (8 * 2 ^ bits 40 38 fw)).mapM fun e => do
    let bs ← s.streamRead p (a + e * estride * size) size
    pure (elemVal f (leNat bs))

/-- One body execution: what it makes (R188–R192). -/
def State.streamExec (s : State) (p : StreamProg) (w : W64) : Except Stop Made := do
  let reg (x : Nat) : Nat := sReg p.instrs p.iter x
  match sOp w with
  | 0x10 => do
    let bs ← s.streamRead p (reg (bits 56 55 w)) (bits 51 40 w + 1)
    pure (.bytes bs false .none)
  | 0x11 | 0x12 => do
    let ix := (sFind p.instrs 5).getD 0
    let wide := bit 55 ix
    let n := if wide then 5 else 4
    let ib ← s.streamRead p (reg (bits 57 56 ix)) n
    let i := leNat ib
    let len := if sOp w = 0x11 then 2 ^ bits 51 50 w else 16 * (bits 51 40 w + 1)
    if bits 47 0 ix ≤ i || i = 256 ^ n - 1 then
      pure (.bytes (zeros len) false ⟨0, 0, 0, 0, 0, 1⟩)
    else
      let bs ← s.streamRead p (reg (bits 56 55 w) + i * len) len
      pure (.bytes bs false .none)
  | 0x13 => do
    let g := patchOf p.instrs
    let f := if bits 49 48 w = 0 then 0 else if bits 49 48 w = 1 then 4 else 6
    let m := reg (bits 54 53 w)
    let k := reg (bits 52 51 w)
    let codes ← (List.range (bits 47 40 w + 1)).mapM fun e =>
      match g.bind fun g => g.elem m (k + e) with
      | none => pure 0
      | some i => do
        let b ← s.streamRead p (reg (bits 56 55 w) + i * fmtBits f / 8) (max 1 (fmtBits f / 8))
        pure (if f = 0 then (b.getD 0 0).toNat / 16 ^ (i % 2) % 16 else leNat b)
    pure (.bytes (pack f codes) false .none)
  | 0x14 => do
    let fw := (sFind p.instrs 8).getD 0
    let xs ← s.blockElems p fw (reg (bits 56 55 w)) (bits 47 32 w + 1)
    let (code, clamped) := chooseScale (bits 49 42 fw) (bit 41 fw) xs
    pure (.bytes (leBytes (if bit 41 fw then 2 else 1) code) false ⟨0, 0, 0, 0, clamped.toNat, 0⟩)
  | 0x15 => do
    let fw := (sFind p.instrs 8).getD 0
    let xs ← s.blockElems p fw (reg (bits 56 55 w)) (bits 47 32 w + 1)
    let scale ← (if bits 49 42 fw = 6 then pure (Val.ofNat 1) else do
      let sb ← s.streamRead p (reg (bits 52 51 w)) (if bit 41 fw then 2 else 1)
      pure (scaleVal (bit 41 fw) (leNat sb)))
    let (codes, cs, nans) := convertBlock p fw xs scale (reg (bits 50 49 w))
    pure (.bytes (pack (bits 49 42 fw) codes) false (.of cs nans))
  | 0x16 => do
    let a := reg (bits 56 55 w)
    let n := if bit 54 w then 64 else 32
    let map ← s.streamRead p a n
    let ones := (map.map fun b => countTrue ((List.range 8).map fun i => b.getLsbD i)).foldl (· + ·) 0
    let width := 4 * 2 ^ bits 49 48 w
    let len := ceilDiv (ones * width) 64 * 8
    let vals ← s.streamRead p (a + n) len
    pure (.bytes (map ++ vals) true .none)
  | 0x18 => do
    let ab := reg (bits 55 54 w)
    let b ← s.streamRead p (reg (bits 57 56 w) + ab / 8) 1
    if (b.getD 0 0).getLsbD (ab % 8) = bit 53 w then pure (.skip (bits 52 48 w)) else pure (.skip 0)
  | _ => pure .flush

/-! ## Lines and credit (R184, R195–R197, R214–R216) -/

/-- A line from the bytes it holds (R214, R216). -/
def lineOf (bs : List Byte) (bitmap last : Bool) : Line where
  payload := bs ++ zeros (64 - bs.length)
  tag := BitVec.ofNat 16 ((if bitmap then 2 else 1) * 4096 + last.toNat * 2048 + bs.length)
  source := none

/-- Credit of a queue (R195, R196). -/
def Queue.credit (q : Queue) : Nat :=
  let half := q.cap / 2
  let f := if q.half && half ≠ 0 then BitVec.ofNat 32 (half * (q.f.toNat / half)) else q.f
  q.cap - (q.p - f).toNat

/-- Unread lines of a queue. -/
def Queue.unread (q : Queue) : Nat := (q.p - q.rd).toNat

/-- A line delivered into a queue: P advances, and a consumer's wait for priming ends when enough lines are there (R197). -/
def Queue.deliver (q : Queue) (l : Line) : Queue :=
  let q := { q with p := q.p + 1, lines := q.lines ++ [l] }
  match q.prime with
  | some n => if n ≤ q.unread || l.tag.getLsbD 11 then { q with prime := none } else q
  | none => q

/-- The line at Rd, or the idle item (R217). -/
def Queue.front (x : Queue) : Line :=
  if x.unread = 0 then ⟨zeros 64, 0, none⟩ else x.lines.getD (x.rd - x.f).toNat ⟨zeros 64, 0, none⟩

/-- The line at Rd read. -/
def Queue.step (x : Queue) : Queue := { x with rd := x.rd + 1, off := 0, waits := false }

/-- A consumer that waits for a line reads again, once there is one and it is primed (R197, R205, R218). -/
def State.readAgain (s : State) (q : Nat) : State :=
  let x := s.queue q
  if x.waits && x.prime.isNone && x.unread ≠ 0 then (s.emit (.queueItem x.front.payload x.front.tag)).setQueue q x.step else s

/-- A line delivered to one consumer; a core-store ring holds its payload in the core store (R193, R213). -/
def State.deliverTo (s : State) (l : Line) (q : Nat) : State :=
  let x := s.queue q
  let s := if x.ring ≠ 0 then s.poke (x.ring + 64 * (x.p.toNat % x.cap)) l.payload else s
  (s.setQueue q (x.deliver l)).readAgain q

/-- The `MCAST` packet of a line (R373): the line, then its tag (DESIGN CHOICE 19). -/
def mcastPacket (c : CtxId) (group number op : Nat) (l : Line) : Packet :=
  mkPacket 0x30 c (BitVec.ofNat 64 (group % 4096 + number % 65536 * 65536)) op (l.payload ++ leBytes 2 l.tag.toNat)

/-- The programs that deliver into a queue. -/
def State.producer (s : State) (q : Nat) : Option (Nat × StreamProg) :=
  s.engines.findSome? fun (e, x) =>
    match x.active with
    | some p => if p.queues.contains q then some (e, p) else none
    | none => none

/-- A port still holds a copy of a program's line, for credit or for a link. -/
def State.mcastHeld (s : State) (c : CtxId) (group number : Nat) : Bool :=
  let arg : W64 := BitVec.ofNat 64 (group % 4096 + number % 65536 * 65536)
  (List.range 14).any fun p => (s.port p).held.any fun k =>
    k.type = 0x30 && k.srcRank = s.rdN .shxRank && k.ctx = c && k.w2 = arg

/-- The lines of a port's send queue go out one after another; a line is freed, and the next follows, when every copy of it has
left (R199, R372). -/
def State.drainSend (s : State) (port : Nat) : Nat → State
  | 0 => s
  | n + 1 =>
    let q := s.queue (512 + port)
    match q.lines with
    | [] => s
    | l :: rest =>
      match l.source with
      | none => State.drainSend (s.setQueue (512 + port) { q with rd := q.f + 1, f := q.f + 1, lines := rest }) port n
      | some (c, group, number) =>
        if q.rd = q.f then
          let (op, s) := s.nextOp
          State.drainSend ((s.setQueue (512 + port) { q with rd := q.rd + 1 }).broadcast (mcastPacket c group number op l))
            port n
        else if s.mcastHeld c group number then s
        else State.drainSend (s.setQueue (512 + port) { q with f := q.f + 1, lines := rest }) port n

/-- Every consumer of a program has credit for a line (R198). -/
def State.credited (s : State) (p : StreamProg) : Bool := p.queues.all fun q => 0 < (s.queue q).credit

/-- A line as it stands in a queue of a program: in a send queue it carries where it comes from. -/
def StreamProg.label (p : StreamProg) (q : Nat) (l : Line) : Line :=
  if 512 ≤ q then { l with source := some (p.ctx, p.sluice.toNat % 4096, p.number) } else l

/-- The closed lines of a program delivered while there is credit; the positions of the lines that stay unfreed are kept
(R209). -/
def State.deliverLines (s : State) (p : StreamProg) : List (Line × StreamPos) → State × StreamProg
  | [] => (s, { p with closed := [] })
  | (l, pos) :: rest =>
    if s.credited p then
      let s := p.queues.foldl (fun s q => s.deliverTo (p.label q l) q) s
      let kept := (p.queues.map fun q => ((s.queue q).p - (s.queue q).f).toNat).foldl max 0
      let sent := p.sent ++ [pos]
      let p := { p with sent := sent.drop (sent.length - kept), ended := p.ended || l.tag.getLsbD 11 }
      State.deliverLines s p rest
    else (s, { p with closed := (l, pos) :: rest })

/-- The position of the next transfer. -/
def StreamProg.here (p : StreamProg) : StreamPos := ⟨p.iter, p.body, p.transfer, 0⟩

/-- The open line closed, if there is one (R184, R216). -/
def StreamProg.close (p : StreamProg) : StreamProg :=
  if p.buf.isEmpty then p
  else { p with closed := p.closed ++ [(lineOf p.buf p.bitmap false, p.start)], buf := [], bitmap := false }

/-- Bytes of a transfer packed behind the open line; `pos` is the transfer's position, and `off` the bytes of it that
lines already hold (R184, R215). -/
def StreamProg.append (p : StreamProg) (pos : StreamPos) (off : Nat) (bs : List Byte) : Nat → StreamProg
  | 0 => p
  | n + 1 =>
    if bs.isEmpty then p
    else
      let room := 64 - p.buf.length
      let part := bs.take room
      let p := if p.buf.isEmpty then { p with start := { pos with off := off } } else p
      let p := { p with buf := p.buf ++ part }
      let p := if p.buf.length = 64 then p.close else p
      StreamProg.append p pos (off + part.length) (bs.drop room) n

/-- The next body execution (R183). -/
def StreamProg.next (p : StreamProg) : StreamProg :=
  let n := (sBody p.instrs).length
  let p := if p.body + 1 < n then { p with body := p.body + 1 } else { p with iter := p.iter + 1, body := 0, skip := 0 }
  { p with made := decide (sIters p.instrs ≤ p.iter) }

/-- The last line of a program that has made its transfers carries `END` (R216). -/
def StreamProg.finish (p : StreamProg) : StreamProg :=
  if !p.buf.isEmpty then
    { p with closed := p.closed ++ [(lineOf p.buf p.bitmap true, p.start)], buf := [], bitmap := false }
  else
    match p.closed.reverse with
    | (l, pos) :: rest => { p with closed := rest.reverse ++ [({ l with tag := l.tag ||| 0x0800 }, pos)] }
    | [] => { p with closed := [(lineOf [] false true, p.here)] }

/-- Progress of a stream item: the transfers that have completed (R183). The first byte that is still in a line to be delivered
belongs to the first transfer that has not. -/
def StreamProg.done (p : StreamProg) : Nat :=
  match p.closed with
  | (_, at_) :: _ => at_.transfer
  | [] => if p.buf.isEmpty then p.transfer else p.start.transfer

/-! ## Engines (R206–R210) -/

/-- The item of a program. -/
def State.streamItem (s : State) (p : StreamProg) : Option Item :=
  s.item ⟨p.ctx, p.list, p.seq, p.ahead⟩

/-- An engine's active program replaced. -/
def State.setActive (s : State) (e : Nat) (p : StreamProg) : State := s.setEngine e { s.engine e with active := some p }

/-- The stop of an engine's work: a page fault parks the engine with its item at the transfer that faults (R206, R208); anything else
fails the item, whose bytes in an open line are not delivered (R52, R183, R210). -/
def State.streamStop (s : State) (e : Nat) (p : StreamProg) (why : Stop) : State :=
  match s.streamItem p with
  | none => s
  | some i =>
    match why with
    | .fault _ _ _ _ =>
      let i := { i with progress := p.transfer }
      ((s.setEngine e { s.engine e with st := .parked, active := some p }).setItem i).stopItem i why
    | _ =>
      let i := { i with progress := p.done }
      ((s.setActive e p).setItem i).stopItem i why

/-- The transfers that have completed count (R178, R190), each once: what a preemption makes a program deliver again has counted. -/
def State.countDone (s : State) (e : Nat) (p : StreamProg) : State :=
  let s := (p.counts.filter fun k => k.1 < p.done && p.counted ≤ k.1).foldl (fun s k => s.streamCount p.ctx k.2) s
  s.setActive e { p with counts := p.counts.filter fun k => p.done ≤ k.1, counted := max p.counted p.done }

/-- The active program goes on from a new position: what has completed counts, and its item's progress is journalled (R60). -/
def State.streamAdvance (s : State) (e : Nat) (p : StreamProg) : State :=
  let s := s.countDone e p
  match s.streamItem p with
  | none => s
  | some i => s.advance i p.done

/-- The item of a program is at work. -/
def State.atWork (s : State) (p : StreamProg) : Bool := (s.streamItem p).any fun i => i.phase = .working

/-- One body execution of a running engine: none while lines wait for credit or when the program has delivered all. -/
def State.streamStep (s : State) (e : Nat) : Option State :=
  let x := s.engine e
  match x.active with
  | none => none
  | some p =>
    if x.st ≠ .running || !s.atWork p || (p.made && p.closed.isEmpty && (p.ended || p.queues.isEmpty)) then none
    else if !p.closed.isEmpty then
      let (s', p') := s.deliverLines p p.closed
      if p'.closed.length < p.closed.length then
        let s' := s'.streamAdvance e p'
        some (p'.queues.foldl (fun s q => if 512 ≤ q then s.drainSend (q - 512) 1024 else s) s')
      else none
    else if p.made then
      some (s.setActive e p.finish)
    else
      let w := (sBody p.instrs).getD p.body 0
      if p.skip ≠ 0 then some (s.setActive e { p with skip := p.skip - 1 }.next)
      else
        match s.streamExec p w with
        | .error why => some (s.streamStop e p why)
        | .ok (.skip n) =>
          let p := { p.next with transfer := p.transfer + 1, skip := if p.next.body = 0 then 0 else n }
          some (s.streamAdvance e p)
        | .ok .flush =>
          let p := { p.close.next with transfer := p.transfer + 1 }
          some (s.streamAdvance e p)
        | .ok (.bytes bs item k) =>
          let counts := if k = .none then p.counts else p.counts ++ [(p.transfer, k)]
          if sToMemory w then
            match s.vwrite (.unit p.ctx (some p.cluster)) (sReg p.instrs p.iter (bits 54 53 w)) bs with
            | .error why => some (s.streamStop e p why)
            | .ok s' =>
              let p := { p.next with transfer := p.transfer + 1, counts := counts }
              some (s'.streamAdvance e p)
          else
            let p := if item then { p.close with bitmap := p.drop = 0 } else p
            let q := (p.append p.here p.drop (bs.drop p.drop) (bs.length / 64 + 2))
            let q := { q.next with transfer := p.transfer + 1, drop := 0, counts := counts }
            let q := if q.made then q.finish else q
            some (s.streamAdvance e q)

/-- A running engine works on until it waits for credit, stops or has delivered its last line. -/
def State.pumpFor (s : State) (e : Nat) : Nat → State
  | 0 => s
  | n + 1 =>
    match s.streamStep e with
    | none => s
    | some s => State.pumpFor s e n

/-- The work of an engine (R183, R184): at most the executions that are left and the lines that they make. -/
def State.pump (s : State) (e : Nat) : State :=
  match (s.engine e).active with
  | none => s
  | some p => s.pumpFor e (4 * ((sIters p.instrs - p.iter) * (sBody p.instrs).length + p.closed.length) + 8)

/-- The engines that deliver into a queue work on. -/
def State.pumpQueue (s : State) (q : Nat) : State :=
  match s.producer q with
  | some (e, _) => s.pump e
  | none => s

/-- The geometry of a program's consumer buffers takes effect when it becomes active (R186, R193, R197); a port's send queue that several
fabric programs share takes that of the last one to become active (DESIGN CHOICE 153). -/
def State.openSluices (s : State) (p : StreamProg) : State :=
  let setup := p.instrs.getD 0 0
  p.queues.foldl (fun s q =>
    let x := s.queue q
    let kind := if 512 ≤ q then 3 else q % 4
    let cap := capOf kind setup
    let prime := if p.regular && x.unread = 0 then some (min (max 1 (bits 55 44 setup)) cap) else x.prime
    let ring := if kind = 2 then 0x38000000000 + 0x800000 * (q / 4) + 64 * bits 16 0 setup else 0
    s.setQueue q { x with cap := cap, half := bit 43 setup, prime := prime, ring := ring }) s

/-- A program becomes active on its engine (R206): STARTING when it is regular and not yet translated, else RUNNING. -/
def State.activate (s : State) (e : Nat) (p : StreamProg) : State :=
  let s := s.openSluices p
  let st : EngState := if p.regular && p.pages.isEmpty then .starting else .running
  let s := s.setEngine e { s.engine e with st := st, active := some p, shadow := none }
  if st = .running then s.pump e else s

/-- The ranges of virtual addresses that a program can touch (R208): start and length. -/
def touchRanges (is : List W64) : List (Nat × Nat) :=
  let span (x len : Nat) : Nat × Nat := ((sRange is x).1, (sRange is x).2 - (sRange is x).1 + len)
  let fw := (sFind is 8).getD 0
  let block (w : W64) : Nat :=
    let size := fmtBits (bits 57 50 fw) / 8
    (8 * 2 ^ bits 40 38 fw - 1) * (bits 47 32 w + 1) * size + size
  (sBody is).flatMap fun w =>
    match sOp w with
    | 0x10 => [span (bits 56 55 w) (bits 51 40 w + 1)]
    | 0x13 =>
      match patchOf is with
      | some g => [span (bits 56 55 w) (ceilDiv (g.h * g.w * g.d * g.c * (4 * 2 ^ bits 49 48 w)) 8)]
      | none => []
    | 0x14 => [span (bits 56 55 w) (block w)]
    | 0x15 => [span (bits 56 55 w) (block w)] ++
        (if bits 49 42 fw = 6 then [] else [span (bits 52 51 w) (if bit 41 fw then 2 else 1)])
    | 0x16 =>
      let n := if bit 54 w then 64 else 32
      [span (bits 56 55 w) (n + n * 8 * (4 * 2 ^ bits 49 48 w) / 8)]
    | 0x18 =>
      let (lo, hi) := sRange is (bits 55 54 w)
      [((span (bits 57 56 w) 1).1 + lo / 8, (span (bits 57 56 w) 1).2 + (hi / 8 - lo / 8))]
    | _ => []

/-- The pages of a program translated (R208): each page's base, or why the translation stops. -/
def State.translateAll (s : State) (p : StreamProg) : Except Stop (List (Nat × Nat)) :=
  let pages := (touchRanges p.instrs).flatMap fun (va, len) =>
    (rangeFrom (va / 65536) ((va + len - 1) / 65536 - va / 65536 + 1)).map (· % 2 ^ 32)
  pages.dedup.mapM fun n => do
    let pa ← s.reach (.unit p.ctx (some p.cluster)) (n * 65536) 65536 false
    pure (n, pa)

/-- The next fabric program number of a group at this source (R373). -/
def State.mprogOf (s : State) (c : CtxId) (g : Nat) : Nat := Store.get (fun _ => 0) s.fabric.mprog (4096 * c.val + g)

/-- The number of a new program: the group's next one for a fabric program, which advances it (R373). -/
def State.nextProgram (s : State) (c : CtxId) (h : Handle) : Nat × State :=
  match h with
  | .fabric g =>
    (s.mprogOf c g, { s with fabric := { s.fabric with
      mprog := Store.set (fun _ => 0) s.fabric.mprog (4096 * c.val + g) ((s.mprogOf c g + 1) % 65536) } })
  | _ => (0, s)

/-- A `STREAM_ARM` that passed its checks (R202, R206): admitted, and active or in the shadow. -/
def startStream (i : Item) (j : Job) (s : State) : State :=
  let r : Req := .unit i.ctx j.cluster
  match s.readStream r j.d, s.consumers r i.ctx (handleOf j.d.aSluice) with
  | .ok is, .ok (some (qs, _)) =>
    let cl := j.cluster.getD 0
    let demand := if j.d.aRegular then sDemand cl.val is else []
    let s := s.takeDemand demand
    let (number, s) := s.nextProgram i.ctx (handleOf j.d.aSluice)
    let p : StreamProg :=
      { ctx := i.ctx, seq := i.seq, list := i.list, ahead := i.ahead, step := i.step, seed := j.prog.seed, cluster := cl
        instrs := is, sluice := BitVec.ofNat 16 j.d.aSluice, rate := BitVec.ofNat 32 j.d.aRate, regular := j.d.aRegular
        queues := qs, number := number, iter := 0, body := 0, skip := 0, transfer := 0, drop := 0, buf := []
        start := ⟨0, 0, 0, 0⟩, bitmap := false, closed := [], sent := [], made := false, ended := false, pages := []
        counts := [], counted := 0, demand := demand }
    let e := engineOf j
    let x := s.engine e
    match x.active with
    | none => s.activate e p
    | some _ =>
      (s.setEngine e { x with shadow := some p }).count .rearmCnt i.ctx.val
  | _, _ => s

/-- A program has delivered its last line, or needs to deliver none (R206). -/
def StreamProg.through (p : StreamProg) : Bool := p.made && p.closed.isEmpty && (p.ended || p.queues.isEmpty)

end Sys2Proof.Machine
end

