-- ==== Sys2Proof/Machine/Commit.lean ====
section
/-! DEFINITION. The commit of an item: its committed entry, its arrival and its record (R52, R56, R60, R67, R202, R225). -/

namespace Sys2Proof.Machine

/-- An item commits with a status (R56, R60): its committed entry, then its arrival, then its record when `CPL` asks for
one or the status is not `OK`, all with the progress at its commit. A provisional item stays, confirmed or discarded at the
boundary (R66, R67). A refused entry fails the item where it was. -/
def State.commitItem (s : State) (i : Item) (status progress : Nat) : State :=
  let (s, ok) := s.log i .committed status progress
  if !ok then (s.countDenied i.ctx).failItem i 0x30
  else
    let s := s.updCtx i.ctx fun x =>
      { x with
        arrivals := if i.desc.arriveBar = 0 then x.arrivals else x.arrivals ++ [BitVec.ofNat 8 i.desc.arriveBar]
        done := if i.ahead then x.done else (i.list, i.seq) :: x.done
        doneA := if i.ahead then (i.list, i.seq) :: x.doneA else x.doneA
        waitFrom := s.now }
    let s := if i.desc.cpl || status ≠ 0 then s.itemRec i status progress else s
    if i.ahead then s.setItem { (s.current i).getD i with phase := .committed, progress := progress } else s.dropItem i

/-- The active program of an engine has delivered its last line (R185, R206): its item commits, its demand is
released, and the shadow takes over unless its own item is parked or stopped, or the engine goes IDLE. -/
def State.endProgram (s : State) (e : Nat) : State :=
  let x := s.engine e
  match x.active with
  | none => s
  | some p =>
    if x.st ≠ .running || !p.through || !s.atWork p then s
    else
      match s.streamItem p with
      | none => s
      | some i =>
        let s := s.setEngine e { x with st := .idle, active := none }
        let s := (s.releaseDemand p.demand).commitItem i 0 p.transfer
        match (s.engine e).st, x.shadow with
        | .idle, some q => if (s.streamItem q).any fun i => i.phase = .working then s.activate e q else s
        | _, _ => s

end Sys2Proof.Machine
end

