-- ==== Sys2Proof/Machine/Sample.lean ====
section
/-! DEFINITION. `SAMPLE`: the graph store, draws, placement and the trail (R68–R71, R239–R259). -/

namespace Sys2Proof.Machine

/-! ## The graph store (R239–R244) -/

/-- A graph store header. -/
structure Graph where
  nodes  : Nat
  edges  : Nat
  off    : Nat
  nbr    : Nat
  etype  : Nat
  alias_ : Nat
  runoff : Nat
  run    : Nat
  perRun : Bool
  /-- A reserved bit is set; an array address is no multiple of 64. -/
  rsvd   : Bool
  odd    : Bool

/-- The header at an address (R239). -/
def State.graphAt (s : State) (r : Req) (va : Nat) : Except Stop Graph := do
  let b ← s.vread r va 128
  let w := wordAt b
  pure
    { nodes := bits 39 0 (w 0), edges := bits 39 0 (w 1), off := bits 47 0 (w 2), nbr := bits 47 0 (w 3)
      etype := bits 47 0 (w 5), alias_ := bits 47 0 (w 6), runoff := bits 47 0 (w 7), run := bits 47 0 (w 8)
      perRun := bit 0 (w 9)
      rsvd := bits 63 40 (w 0) ≠ 0 || bits 63 40 (w 1) ≠ 0 || ((rangeFrom 2 7).any fun k => bits 63 48 (w k) ≠ 0) ||
        bits 63 1 (w 9) ≠ 0 || ((rangeFrom 10 6).any fun k => w k ≠ 0)
      odd := (rangeFrom 2 7).any fun k => bits 47 0 (w k) % 64 ≠ 0 }

/-! ## Budgets (R68) -/

/-- The budget rules of R68. -/
def Desc.badBudget (d : Desc) : Bool :=
  let nb := d.sNodeBudget + 1
  let eb := d.sEdgeBudget + 1
  nb < 2049 || eb < 2049 || 16777216 < d.nMax || 63 * nb < d.nMax || 63 * eb < d.eMax

/-- The filter of a hop is enabled, and its type. -/
def Desc.filterOn (d : Desc) (h : Nat) : Bool := 256 ≤ d.sFilter h
/-- The type that a hop accepts. -/
def Desc.filterType (d : Desc) (h : Nat) : Nat := d.sFilter h % 256

/-- The rules of R240 and of the fields of hops beyond `HOPS`. -/
def badGraph (d : Desc) (g : Graph) : Bool :=
  let own := List.range d.hops
  let beyond := rangeFrom d.hops (4 - d.hops)
  let runs := g.runoff ≠ 0 && g.run ≠ 0
  g.nodes = 0 || g.off = 0 || g.nbr = 0 || g.odd || d.sTrailVa % 64 ≠ 0 ||
    (decide (g.runoff = 0) != decide (g.run = 0)) || (d.sWeighted && g.alias_ = 0) ||
    (own.any fun h => d.filterOn h && !runs) || (beyond.any fun h => d.sFilter h ≠ 0 || d.sFanout h ≠ 0) ||
    (d.sWeighted && own.any fun h => g.perRun ≠ d.filterOn h)

/-- The checks of a `SAMPLE` body. -/
def checkSample (q : IssueAt) (s : State) (j : Job) : Except Stop BodyCheck := do
  let g ← s.graphAt (.unit q.ctx j.cluster) j.d.sGraphVa
  pure { reserved := g.rsvd, field := badGraph j.d g || j.d.badBudget, last := none, note := fun _ s => s }

/-! ## Draws (R246–R249) -/

/-- Draw j for trail entry p at hop h: U and the coin (R246). -/
def sampleDraw (seed step : W64) (mb seq h p j : Nat) : Nat × Nat :=
  let k0 := Nat.xor (seed.toNat % 2 ^ 32) 0x3C6EF372
  let k1 := Nat.xor (seed.toNat / 2 ^ 32) 0xA54FF53A
  let (w0, w1, w2, _) := philoxRounds 10
    (j % 2 ^ 32, (h * 2 ^ 30 + p) % 2 ^ 32, (mb * 2 ^ 20 + seq % 2 ^ 20) % 2 ^ 32, step.toNat % 2 ^ 32) k0 k1
  (w1 * 2 ^ 32 + w0, w2)

/-- `pick(n, j)` of a draw. -/
def pick (u n : Nat) : Nat := u * n / 2 ^ 64

/-- Floyd's choice without replacement, in ascending order (R248); `u j` is draw j. -/
def uniform (d f : Nat) (u : Nat → Nat) : List Nat :=
  if d ≤ f then List.range d
  else
    (List.range f).foldl (fun c j =>
      let x := d - f + j
      let t := pick (u j) (x + 1)
      if c.contains t then insertNat x c else insertNat t c) []

/-- A node's neighbours at a hop: the first position, the length, and the type of its run. -/
structure Span where
  b    : Nat
  d    : Nat
  type : Nat

/-- A run record read in the search (R243): index, type and start. -/
abbrev RunRec := Nat × Nat × Nat

/-- `check(j)` of R243. -/
def runOk (o0 o1 : Nat) (seen : List RunRec) (x : RunRec) : Bool :=
  let (j, ty, st) := x
  o0 ≤ st && st < o1 &&
    seen.all fun (k, t, z) => (k < j && t < ty && z < st) || (j < k && ty < t && st < z) || k = j

/-- Run record a + j read. -/
def State.runAt (s : State) (r : Req) (g : Graph) (a j : Nat) : Except Stop RunRec := do
  let w ← s.vword r (g.run + 8 * (a + j)) 8
  pure (j, w / 2 ^ 56, w % 2 ^ 40)

/-- The search of R243 between lo and hi (exclusive), `n` reads at most: the run of the type, `none` when it is absent, or a
break. -/
def State.findRun (s : State) (r : Req) (g : Graph) (o0 o1 a cnt ty : Nat) :
    Nat → Nat → Nat → List RunRec → Except Stop (Option (Option (Nat × Nat)))
  | 0, _, _, _ => .ok none
  | n + 1, lo, hi, seen =>
    if hi ≤ lo then .ok (some none)
    else do
      let j := (lo + hi - 1) / 2
      let x ← s.runAt r g a j
      if !runOk o0 o1 seen x then pure none
      else if x.2.1 = ty then
        if j + 1 < cnt then
          match seen.find? fun k => k.1 = j + 1 with
          | some k => pure (some (some (x.2.2, k.2.2 - x.2.2)))
          | none => do
            let y ← s.runAt r g a (j + 1)
            pure (if runOk o0 o1 (x :: seen) y then some (some (x.2.2, y.2.2 - x.2.2)) else none)
        else pure (some (some (x.2.2, o1 - x.2.2)))
      else if x.2.1 < ty then State.findRun s r g o0 o1 a cnt ty n (j + 1) hi (x :: seen)
      else State.findRun s r g o0 o1 a cnt ty n lo j (x :: seen)

/-- The sampling range of a node at a hop (R247), and a graph-data fault (R245). -/
def State.rangeOf (s : State) (r : Req) (d : Desc) (g : Graph) (v h : Nat) : Except Stop (Span × Nat) := do
  let ob ← s.vread r (g.off + 8 * v) 16
  let o0 := (wordAt ob 0).toNat
  let o1 := (wordAt ob 1).toNat
  let bad : Span × Nat := (⟨0, 0, 0⟩, 1)
  let judge (x : Span) : Span × Nat := if d.sWeighted && 2 ^ 32 ≤ x.d then bad else (x, 0)
  if o1 < o0 || g.edges < o1 then pure bad
  else if d.filterOn h then do
    let rb ← s.vread r (g.runoff + 8 * v) 16
    let a := (wordAt rb 0).toNat
    let z := (wordAt rb 1).toNat
    if z < a || 256 < z - a then pure bad
    else
      match ← s.findRun r g o0 o1 a (z - a) (d.filterType h) 10 0 (z - a) [] with
      | none => pure bad
      | some none => pure (⟨0, 0, d.filterType h⟩, 0)
      | some (some (b, len)) => pure (judge ⟨b, len, d.filterType h⟩)
  else pure (judge ⟨o0, o1 - o0, 0⟩)

/-- The positions drawn in a range (R248, R249), and the graph-data faults. -/
def State.drawRange (s : State) (r : Req) (d : Desc) (g : Graph) (x : Span) (f : Nat) (dr : Nat → Nat × Nat) :
    Except Stop (List Nat × Nat) :=
  if !d.sWeighted then .ok (uniform x.d f fun j => (dr j).1, 0)
  else if x.d = 0 then .ok ([], 0)
  else
    (List.range f).foldlM (fun (acc : List Nat × Nat) j => do
      let i := pick (dr j).1 x.d
      let e ← s.vword r (g.alias_ + 8 * (x.b + i)) 8
      let thresh := e % 2 ^ 32
      let al := e / 2 ^ 32
      if thresh ≠ 0xFFFFFFFF && thresh ≤ (dr j).2 then
        if al < x.d then pure (acc.1 ++ [al], acc.2) else pure (acc.1 ++ [i], acc.2 + 1)
      else pure (acc.1 ++ [i], acc.2)) ([], 0)

/-! ## The trail (R251–R257) -/

/-- The code of a dropped entry. -/
def missing : Nat := 0xFFFFFFFFFF

/-- The 16 bytes of a node entry (R254). -/
def nodeEntry (parent gid etype level edge : Nat) : List Byte :=
  leBytes 8 (parent * 2 ^ 40 + gid) ++ leBytes 8 (etype * 2 ^ 48 + level * 2 ^ 40 + edge)

/-- The entry of the open segment (R253). -/
def segmentEntry (x : SampleWork) : List Byte :=
  leBytes 8 (x.segNodes * 2 ^ 32 + x.segFirst) ++ leBytes 8 (x.pars * 2 ^ 32 + x.parFirst)

/-- The open segment's entry written. -/
def State.writeSegment (s : State) (i : Item) : Except Stop State :=
  s.vwrite i.req (i.desc.sTrailVa + 64 + 16 * (i.segs - 1)) (segmentEntry i.sample)

/-- The unit would overrun a budget of the open segment (R69). -/
def closesSegment (d : Desc) (x : SampleWork) (nodes edges : Nat) : Bool :=
  d.sNodeBudget + 1 < x.segNodes + nodes || d.sEdgeBudget + 1 < x.segEdges + edges

/-- The entries that a unit places with their bytes: nodes, edges, dropped entries, counts of graph faults, and the unit
record if it is a neighbour-list unit. -/
structure UnitOut where
  entries : List Byte
  nodes   : Nat
  edges   : Nat
  drops   : Nat
  errs    : Nat
  record  : Option (Nat × Nat)

/-- The unit of seed k (R250). -/
def State.seedUnit (s : State) (i : Item) (g : Graph) (k : Nat) : Except Stop UnitOut := do
  let v ← s.vword i.req (i.desc.sSeedsVa + 5 * k) 5
  let lost := decide (g.nodes ≤ v)
  let gid := if lost then missing else v
  pure { entries := nodeEntry 0 gid 0 0 missing, nodes := 1, edges := 0, drops := lost.toNat, errs := 0, record := none }

/-- The neighbour-list unit of entry p at hop h (R245, R250). -/
def State.listUnit (s : State) (i : Item) (g : Graph) (seed : W64) (p h : Nat) : Except Stop UnitOut := do
  let r := i.req
  let d := i.desc
  let w ← s.vword r (d.sTrailVa + 4160 + 16 * p) 8
  let v := w % 2 ^ 40
  if v = missing then
    pure { entries := [], nodes := 0, edges := 0, drops := 0, errs := 0, record := some (p, 0) }
  else
    let (x, e1) ← s.rangeOf r d g v h
    let (ps, e2) ← s.drawRange r d g x (d.sFanout h + 1) (sampleDraw seed i.step d.mb i.seq h p)
    let outs ← ps.mapM fun k => do
      let e := x.b + k
      let n ← s.vword r (g.nbr + 5 * e) 5
      let ty ← (if g.etype ≠ 0 then s.vword r (g.etype + e) 1 else pure (if d.filterOn h then x.type else 0))
      let lost := decide (g.nodes ≤ n)
      pure (nodeEntry p (if lost then missing else n) ty (h + 1) e, lost.toNat)
    pure
      { entries := outs.flatMap (·.1), nodes := outs.length, edges := outs.length
        drops := (outs.map (·.2)).foldl (· + ·) 0, errs := e1 + e2, record := some (p, outs.length) }

/-- The level-0 ancestor of an entry, through the parents in the trail (R257). -/
def State.ancestor (s : State) (i : Item) : Nat → Nat → Nat
  | 0, p => p
  | n + 1, p =>
    match s.vword i.req (i.desc.sTrailVa + 4160 + 16 * p) 8 with
    | .ok w => State.ancestor s i n (w / 2 ^ 40)
    | .error _ => p

/-- The parents of the current level are done: the next level's first entry is known (R252). -/
def SampleWork.level (x : SampleWork) (d : Desc) : SampleWork :=
  if x.next < d.seeds then x
  else
    let p := x.next - d.seeds
    let l := x.lbase.length
    if l = 0 then { x with lbase := [x.nodes] }
    else if p = x.lbase.getD (l - 1) 0 && l < d.hops && p < x.nodes then { x with lbase := x.lbase ++ [x.nodes] }
    else x

/-- Every unit has been placed (R250). -/
def SampleWork.over (x : SampleWork) (d : Desc) : Bool :=
  d.seeds ≤ x.next &&
    match x.lbase.getLast? with
    | none => false
    | some b => decide (x.next - d.seeds = b) && (x.lbase.length = d.hops || b = x.nodes)

/-- PROGRESS of a sampler at a cursor (R257): it stands while no parent is left to expand. -/
def State.sampleProgress (s : State) (i : Item) : Nat :=
  let x := i.sample
  if x.over i.desc then i.progress
  else if x.lbase.length = i.desc.hops && i.desc.seeds ≤ x.next then s.ancestor i (i.desc.hops - 1) (x.next - i.desc.seeds)
  else 0

/-- A unit placed: its entries and record made visible, then counted in `NEXT` (R257). -/
def State.placeUnit (s : State) (i : Item) (u : UnitOut) : Except Stop (State × Item) := do
  let x := i.sample
  let d := i.desc
  let s ← (if u.entries.isEmpty then pure s else s.vwrite i.req (d.sTrailVa + 4160 + 16 * x.nodes) u.entries)
  let s ← (match u.record with
    | none => pure s
    | some (p, n) => s.vwrite i.req (d.sTrailVa + d.unitOff + 8 * p) (leBytes 8 (n * 2 ^ 24 + x.nodes)))
  let x := { x with
    next := x.next + 1, nodes := x.nodes + u.nodes, edges := x.edges + u.edges, drops := x.drops + u.drops
    segNodes := x.segNodes + u.nodes, segEdges := x.segEdges + u.edges, pars := x.pars + u.record.isSome.toNat }
  let c := i.ctx.val
  let s := s.tallyN .sampleDropCnt c .sampleStatus c 1 u.drops
  let s := s.tallyN .graphErrCnt c .sampleStatus c 2 u.errs
  pure (s, { i with sample := x })

/-- The open segment closes and the next opens (R69–R71): its entry, the header, and a series of log entries of its own (R60), whose
started entry holds the item's progress, which counts on over its segments (DESIGN CHOICE 147). -/
def State.nextSegment (s : State) (i : Item) : Except Stop (State × Item) := do
  let s ← s.writeSegment i
  let x := i.sample
  let j := { i with
    segs := i.segs + 1
    sample := { x with segFirst := x.nodes, segNodes := 0, parFirst := x.next - i.desc.seeds, pars := 0, segEdges := 0 } }
  let s ← s.writeHeader j 1
  let s := s.logLast i .committed 0 i.progress
  let s := s.setItem { j with lastLog := ((s.current i).getD i).lastLog }
  let s := (s.logLast j .issued 0 0).logLast j .started 0 j.progress
  pure (s.count .overflowSegCnt i.ctx.val, (s.current j).getD j)

/-- The sampler stops: the header is written as far as it can be, and the item stops (R257, R259). -/
def State.sampleStop (s : State) (i : Item) (why : Stop) : State :=
  let s := s.setItem i
  match why with
  | .fault _ _ _ _ =>
    let s := if i.sample.live then
        (match s.writeHeader i 1 with
          | .ok s => s
          | .error why => s.noteUe why)
      else s
    s.stopItem i why
  | _ => s.stopItem i why

/-- The units from the cursor on, at most so many. -/
def State.sampleFrom (s : State) (g : Graph) (seed : W64) : Nat → Item → State
  | 0, i => s.setItem i
  | n + 1, i =>
    let i := { i with sample := i.sample.level i.desc }
    let x := i.sample
    if x.over i.desc then (s.setItem i).finish i 0
    else
      let made :=
        if x.next < i.desc.seeds then s.seedUnit i g x.next
        else s.listUnit i g seed (x.next - i.desc.seeds) (x.lbase.length - 1)
      match made with
      | .error why => s.sampleStop i why
      | .ok u =>
        match if closesSegment i.desc x u.nodes u.edges then s.nextSegment i else .ok (s, i) with
        | .error why => s.sampleStop i why
        | .ok (s, i) =>
          match s.placeUnit i u with
          | .error why => s.sampleStop i why
          | .ok (s, j) =>
            let j := { j with sample := j.sample.level j.desc }
            let p := s.sampleProgress j
            let s := (s.setItem j).advance j p
            match s.current j with
            | none => s
            | some k => State.sampleFrom s g seed n k

/-- A `SAMPLE` works from its cursor on; it starts with the header that opens the trail (R258), and on resumption writes
the header first (R259). -/
def workSample (i : Item) (s : State) : State :=
  match s.graphAt i.req i.desc.sGraphVa with
  | .error why => s.sampleStop i why
  | .ok g =>
    match s.writeHeader i 1 with
    | .error why => s.sampleStop i why
    | .ok s =>
      let i := { i with sample := { i.sample with live := true } }
      s.sampleFrom g (((s.progOf i.ctx i.ahead).map Program.seed).getD 0) (i.desc.seeds + i.desc.nMax + 2) i

/-- What the commit of a `SAMPLE` makes visible: the last segment's entry, and the header that makes its cursor DONE (R253, R257,
R258). -/
def State.sealSample (s : State) (i : Item) : Except Stop State := do
  let s ← s.writeSegment i
  s.writeHeader i 2

end Sys2Proof.Machine
end

