-- ==== Sys2Proof/Machine/Tile.lean ====
section
/-! DEFINITION. `TILE`: its tables and checks, the value of an output tile, the drain, activity bitmaps, stream-fed
feeders and the conservator's samples (R95–R107, R111–R133, R137–R142, R150–R156, R169–R173). -/

namespace Sys2Proof.Machine

/-! ## What a `TILE` works with -/

/-- An operand or output with its scales (R95, R96): its format, whether it has scale blocks, and their address, encoding,
direction and block code. -/
structure Operand where
  fmt : Nat
  on  : Bool
  va  : Nat
  s16 : Bool
  dir : Nat
  blk : Nat

/-- Block extents of a direction and block code: along the outer and the inner dimension (R95). -/
def blockOf (dir blk : Nat) : Nat × Nat :=
  if dir = 0 then (1, 8 * 2 ^ blk) else if dir = 1 then (8 * 2 ^ blk, 1) else if dir = 2 then (16, 16) else (32, 32)

/-- An entry of the conservator's layer table (R169). -/
structure Layer where
  w0 : W64
  w1 : W64
  w2 : W64
  w3 : W64

/-- `ENABLE`. -/
def Layer.enable (l : Layer) : Bool := bit 0 l.w0
/-- `PROMOTE`. -/
def Layer.promote (l : Layer) : Bool := bit 1 l.w0
/-- `MAXLEVEL`. -/
def Layer.maxLevel (l : Layer) : Nat := bits 7 6 l.w0
/-- `THRESH`. -/
def Layer.thresh (l : Layer) : Nat := bits 63 32 l.w0
/-- `LEVEL`. -/
def Layer.level (l : Layer) : Nat := bits 63 56 l.w3
/-- A format code of a level: weights, activations, output. -/
def Layer.code (l : Layer) (level k : Nat) : Nat :=
  if level = 1 then bits (47 - 8 * k) (40 - 8 * k) l.w3 else bits (23 - 8 * k) (16 - 8 * k) l.w3

/-- Everything that the device reads with a `TILE` descriptor (R96, R125, R150, R170). -/
structure TileCfg where
  d      : Desc
  layer  : Option Layer
  scale  : Option (W64 × W64 × W64)
  w      : Operand
  a      : Operand
  o      : Operand
  oMode  : Nat
  kmask  : Nat
  omask  : Nat
  actVa  : Nat
  cur    : Nat
  pred   : Nat
  bar    : Nat

/-- The format of an operand after substitution at its layer's level (R170). -/
def substitute (l : Option Layer) (k code : Nat) : Nat :=
  match l with
  | none => code
  | some l =>
    if l.level = 0 then code
    else if l.code l.level k = 0xFF then code else l.code l.level k

/-- An operand from a scale-table entry. -/
def operandOf (fmt : Nat) (table : Bool) (va : Nat) (s16 : Bool) (dir blk : Nat) : Operand where
  fmt := fmt
  on := table && isCrilet fmt && va ≠ 0
  va := va
  s16 := s16
  dir := dir
  blk := blk

/-- The tables of a `TILE` read (R96, R125, R150, R170). -/
def State.readTabs (s : State) (r : Req) (c : CtxId) (d : Desc) : Except Stop TileTabs := do
  let words (va n : Nat) : Except Stop (List W64) := do
    let b ← s.vread r va (8 * n)
    pure ((List.range n).map (wordAt b))
  let cons := s.rdN .consTableVa c.val
  let layer ← (if cons = 0 then pure [] else words (cons + 32 * d.tLayer) 4)
  let scale ← (if d.tScaleVa = 0 then pure [] else words d.tScaleVa 8)
  let mask ← (if d.tMaskVa = 0 then pure [] else words d.tMaskVa 8)
  let actVa := bits 47 0 (mask.getD 2 0)
  let act ← (if actVa = 0 then pure [] else words actVa 8)
  pure ⟨layer, scale, mask, act⟩

/-- A reserved bit of the scale, mask or activity table is set. -/
def TileTabs.rsvd (x : TileTabs) : Bool :=
  let t (k : Nat) := x.scale.getD k 0
  let m (k : Nat) := x.mask.getD k 0
  let a (k : Nat) := x.act.getD k 0
  bits 63 48 (t 0) ≠ 0 || bits 63 54 (t 1) ≠ 0 || bits 63 56 (t 2) ≠ 0 || ((rangeFrom 3 5).any fun k => t k ≠ 0) ||
    ((rangeFrom 0 3).any fun k => bits 63 48 (m k) ≠ 0) || ((rangeFrom 3 5).any fun k => m k ≠ 0) ||
    bits 63 48 (a 0) ≠ 0 || bits 63 48 (a 1) ≠ 0 || bits 63 8 (a 2) ≠ 0 || ((rangeFrom 3 5).any fun k => a k ≠ 0)

/-- What a descriptor and its tables say (R96, R125, R150, R170). -/
def TileTabs.cfg (x : TileTabs) (d : Desc) : TileCfg :=
  let layer : Option Layer := match x.layer with
    | [a, b, c, e] => some ⟨a, b, c, e⟩
    | _ => none
  let t (k : Nat) := x.scale.getD k 0
  let on := !x.scale.isEmpty
  { d := d
    layer := layer
    scale := if on then some (t 0, t 1, t 2) else none
    w := operandOf (substitute layer 0 d.tWfmt) on (bits 47 0 (t 0)) d.tS16 d.tDir d.tBlk
    a := operandOf (substitute layer 1 d.tAfmt) on (bits 47 0 (t 1)) (bit 53 (t 1)) (bits 52 51 (t 1)) (bits 50 48 (t 1))
    o := operandOf (substitute layer 2 d.tOfmt) on (bits 47 0 (t 2)) (bit 53 (t 2)) (bits 52 51 (t 2)) (bits 50 48 (t 2))
    oMode := bits 55 54 (t 2)
    kmask := bits 47 0 (x.mask.getD 0 0)
    omask := bits 47 0 (x.mask.getD 1 0)
    actVa := bits 47 0 (x.mask.getD 2 0)
    cur := bits 47 0 (x.act.getD 0 0)
    pred := bits 47 0 (x.act.getD 1 0)
    bar := bits 7 0 (x.act.getD 2 0) }

/-! ## Checks (R54, R95, R96, R107, R114, R128, R150, R170, R230) -/

/-- The activations that a weight format may meet (R114). -/
def pairOk (w a : Nat) : Bool :=
  if w = 3 then a ≤ 2
  else if w ≤ 2 || w = 4 || w = 5 || w = 6 then a ≤ 6 && a ≠ 3
  else false

/-- The pairing rules of the fast path (R114). -/
def badPairing (d : Desc) (w a o : Nat) : Bool :=
  !pairOk w a || 7 < o || o = 3 || (d.tAccum && o ≠ 6 && o ≠ 7) || (d.tSparse24 && (2 < w || 2 < a))

/-- The layer-table entry breaks R170. -/
def badLayer (l : Layer) : Bool :=
  let codes (lv : Nat) : Bool :=
    let w := l.code lv 0
    let a := l.code lv 1
    let o := l.code lv 2
    (w ≠ 0xFF && 6 < w) || (a ≠ 0xFF && (6 < a || a = 3)) || (o ≠ 0xFF && (7 < o || o = 3))
  bits 31 8 l.w0 ≠ 0 || bits 5 3 l.w0 ≠ 0 || bits 63 48 l.w1 ≠ 0 || bits 63 48 l.w2 ≠ 0 || bits 55 48 l.w3 ≠ 0 ||
    !positive32 l.thresh || l.maxLevel = 3 || l.maxLevel < l.level || codes 1 || codes 2

/-- The scale table breaks R95 or R96. From level 1 on, the entry of an operand whose substituted format is BF16 or FP32 is
ignored (R170). -/
def TileCfg.badScale (t : TileCfg) : Bool :=
  match t.scale with
  | none => false
  | some (w0, w1, w2) =>
    let level := (t.layer.map Layer.level).getD 0
    let wide (fmt : Nat) : Bool := !isCrilet fmt && level = 0
    let used (fmt : Nat) : Bool := isCrilet fmt
    (!isCrilet t.w.fmt && !isCrilet t.a.fmt && !isCrilet t.o.fmt &&
        !(isCrilet t.d.tWfmt || isCrilet t.d.tAfmt || isCrilet t.d.tOfmt)) ||
      (wide t.w.fmt && w0 ≠ 0) || (wide t.a.fmt && w1 ≠ 0) || (wide t.o.fmt && w2 ≠ 0) ||
      (used t.a.fmt && (5 < t.a.blk || (2 ≤ t.a.dir && t.a.blk ≠ 0) || (t.a.s16 && t.a.va % 2 = 1))) ||
      (used t.o.fmt && (5 < t.o.blk || (2 ≤ t.o.dir && t.o.blk ≠ 0) || (t.o.s16 && t.o.va % 2 = 1) ||
        1 < t.oMode || (t.oMode ≠ 0 && t.o.va = 0))) ||
      (used t.w.fmt && t.w.s16 && t.w.va % 2 = 1)

/-- A table of a `TILE` is not aligned to 64 bytes (R96, R125, R150). -/
def TileCfg.misaligned (t : TileCfg) : Bool := t.d.tScaleVa % 64 ≠ 0 || t.d.tMaskVa % 64 ≠ 0 || t.actVa % 64 ≠ 0

/-- A field of a `TILE` breaks a rule. -/
def State.badTile (s : State) (c : CtxId) (t : TileCfg) : Bool :=
  let d := t.d
  7 < d.tWfmt || 7 < d.tAfmt || 7 < d.tOfmt || 2 < d.tRnd || 5 < d.tBlk ||
    (if d.tStrict then
      d.tWfmt ≠ 7 || d.tAfmt ≠ 7 || d.tOfmt ≠ 7 || d.tRnd = 2 || d.tSparse24 || d.tSpec || d.tScaleVa ≠ 0 ||
        t.w.fmt ≠ 7 || t.a.fmt ≠ 7 || t.o.fmt ≠ 7
    else badPairing d t.w.fmt t.a.fmt t.o.fmt) ||
    (isCrilet t.w.fmt && 2 ≤ d.tDir && d.tBlk ≠ 0) || t.badScale ||
    (match t.layer with
      | none => false
      | some l => badLayer l) ||
    (t.omask ≠ 0 && isCrilet t.o.fmt && t.o.on && t.o.dir ≠ 0 && !d.tZeroMasked) ||
    (t.bar ≠ 0 && (s.bar c t.bar).st = .uninit)

/-- The checks of a `TILE` body; an activity descriptor whose `CUR_VA` is 0 breaks R150. -/
def checkTile (q : IssueAt) (s : State) (j : Job) : Except Stop BodyCheck := do
  let x ← s.readTabs (.unit q.ctx j.cluster) q.ctx j.d
  let t := x.cfg j.d
  pure
    { reserved := x.rsvd
      field := s.badTile q.ctx t || t.misaligned || (t.actVa ≠ 0 && t.cur = 0)
      last := none, note := fun _ s => s }

/-! ## Geometry (R112, R113, R129, R137) -/

/-- Bytes rounded up to a pitch (R112). -/
def pitch64 (n : Nat) : Nat := ceilDiv n 64 * 64

/-- M. -/
def TileCfg.m (t : TileCfg) : Nat := t.d.tM + 1
/-- N. -/
def TileCfg.n (t : TileCfg) : Nat := t.d.tN + 1
/-- K. -/
def TileCfg.k (t : TileCfg) : Nat := t.d.tK + 1
/-- Column bands. -/
def TileCfg.bands (t : TileCfg) : Nat := ceilDiv t.n 256
/-- Output tiles. -/
def TileCfg.tiles (t : TileCfg) : Nat := ceilDiv t.m 256 * t.bands
/-- Bytes of a weight row (R129). -/
def TileCfg.wBytes (t : TileCfg) : Nat :=
  let q := ceilDiv t.k 4
  if t.d.tSparse24 then packedLen t.w.fmt (2 * q) + ceilDiv q 2 else packedLen t.w.fmt t.k
/-- Bytes of an activation row. -/
def TileCfg.aBytes (t : TileCfg) : Nat := packedLen t.a.fmt t.k
/-- Pitch of an output row. -/
def TileCfg.oPitch (t : TileCfg) : Nat := pitch64 (packedLen t.o.fmt t.n)
/-- Logical K positions of a pass (R113). -/
def TileCfg.slice (t : TileCfg) : Nat := if t.d.tSparse24 || t.w.fmt = 3 then 512 else 256
/-- Passes of an output tile. -/
def TileCfg.passes (t : TileCfg) : Nat := ceilDiv t.k t.slice
/-- The first K position of pass p and the positions of its slice. -/
def TileCfg.part (t : TileCfg) (p : Nat) : Nat × Nat := (p * t.slice, min t.slice (t.k - p * t.slice))
/-- Bytes of a band's activity bits (R151). -/
def TileCfg.actBytes (t : TileCfg) : Nat := 8 * ceilDiv (ceilDiv t.k 32) 64

/-- Rows and columns of output tile `n`: first row, rows, first column, columns. -/
def TileCfg.area (t : TileCfg) (n : Nat) : Nat × Nat × Nat × Nat :=
  let i := n / t.bands
  let j := n % t.bands
  (256 * i, min 256 (t.m - 256 * i), 256 * j, min 256 (t.n - 256 * j))

/-- The bytes of a row that an output tile writes: offset and length, with the padding in the last band (R112). -/
def TileCfg.span (t : TileCfg) (n : Nat) : Nat × Nat :=
  let (_, _, n0, nc) := t.area n
  let off := n0 * fmtBits t.o.fmt / 8
  (off, if n0 + nc = t.n then t.oPitch - off else nc * fmtBits t.o.fmt / 8)

/-- The scale codes that cover a range of an operand: address and length (R95). -/
def Operand.codes (p : Operand) (outer outers inner inners extent : Nat) : Nat × Nat :=
  let (bo, bi) := blockOf p.dir p.blk
  let per := ceilDiv extent bi
  let size := if p.s16 then 2 else 1
  let first := outer / bo * per + inner / bi
  let last := (outer + outers - 1) / bo * per + (inner + inners - 1) / bi + 1
  (p.va + size * first, size * (last - first))

/-- A bit of a bitmap (R119). -/
def mapBit (bs : List Byte) (i : Nat) : Bool := (bs.getD (i / 8) 0).getLsbD (i % 8)

/-- The runs of positions below n that satisfy a condition: start and length. -/
def runsOf (f : Nat → Bool) (n : Nat) : List (Nat × Nat) :=
  ((List.range n).foldl (fun a k =>
    if !f k then a
    else
      match a with
      | (b, l) :: r => if b + l = k then (b, l + 1) :: r else (k, 1) :: a
      | [] => [(k, 1)]) []).reverse

/-- The ranges of the masks of output tile `n` (R125): address and bytes. -/
def TileCfg.maskRanges (t : TileCfg) (n : Nat) : (Nat × Nat) × (Nat × Nat) :=
  let (m0, mc, _, _) := t.area n
  ((t.kmask, ceilDiv t.k 8), (t.omask + m0 / 8, ceilDiv (m0 + mc) 8 - m0 / 8))

/-- The masks of output tile `n`, read as it is translated. -/
def State.tileMasks (s : State) (r : Req) (t : TileCfg) (n : Nat) : Except Stop TileMasks := do
  let (k, o) := t.maskRanges n
  let km ← (if t.kmask = 0 then pure [] else s.vread r k.1 k.2)
  let om ← (if t.omask = 0 then pure [] else s.vread r o.1 o.2)
  pure ⟨km, om⟩

/-- K position k is not masked (R126). -/
def TileCfg.kOn (t : TileCfg) (x : TileMasks) (k : Nat) : Bool := t.kmask = 0 || mapBit x.km k

/-- Row m of the whole output is not masked (R127). -/
def TileCfg.rowOn (t : TileCfg) (x : TileMasks) (m0 m : Nat) : Bool := t.omask = 0 || mapBit x.om (m - m0 / 8 * 8)

/-- Row m of the whole output is written (R127). -/
def TileCfg.rowOut (t : TileCfg) (x : TileMasks) (m0 m : Nat) : Bool := t.rowOn x m0 m || t.d.tZeroMasked

/-- The feeder reads byte b of an activation row: it holds an element that is not masked (R126). -/
def TileCfg.byteOn (t : TileCfg) (x : TileMasks) (b : Nat) : Bool :=
  let w := fmtBits t.a.fmt
  if w ≤ 8 then (List.range (8 / w)).any fun j => b * (8 / w) + j < t.k && t.kOn x (b * (8 / w) + j)
  else t.kOn x (b / (w / 8))

/-- The bytes of an activation row that the feeder reads among so many from an offset: start and length. -/
def TileCfg.rowRuns (t : TileCfg) (x : TileMasks) (off len : Nat) : List (Nat × Nat) :=
  if t.kmask = 0 then [(off, len)] else (runsOf (fun b => t.byteOn x (off + b)) len).map fun e => (off + e.1, e.2)

/-- The output scale codes of a tile (R95): for each row of blocks that is written, address and length. -/
def TileCfg.outCodes (t : TileCfg) (x : TileMasks) (n : Nat) : List (Nat × Nat) :=
  let (m0, mc, n0, nc) := t.area n
  let bo := (blockOf t.o.dir t.o.blk).1
  (List.range (ceilDiv mc bo)).filterMap fun a =>
    if (List.range (min bo (mc - a * bo))).any fun i => t.rowOut x m0 (m0 + a * bo + i)
    then some (t.o.codes (m0 + a * bo) 1 n0 nc t.n) else none

/-- The drain may write output scale codes: it chooses them, or it may have to turn a block into a NaN block (R102). -/
def TileCfg.writesCodes (t : TileCfg) : Bool := t.oMode = 0 || isNarrow t.o.fmt || t.o.s16

/-- Every range that an output tile touches (R132): address, length, and whether it is written. -/
def TileCfg.touches (t : TileCfg) (x : TileMasks) (n : Nat) : List (Nat × Nat × Bool) :=
  let d := t.d
  let (m0, mc, n0, nc) := t.area n
  let wp := pitch64 t.wBytes
  let ap := pitch64 t.aBytes
  let (off, len) := t.span n
  let rows (f : Nat → Bool) : List Nat := ((List.range mc).map (m0 + ·)).filter f
  let out (m : Nat) : Nat := d.tOutVa + m * t.oPitch + off
  let scales (p : Operand) (a b : Nat) : List (Nat × Nat × Bool) :=
    if p.on then [((p.codes a b 0 t.k t.k).1, (p.codes a b 0 t.k t.k).2, false)] else []
  (if t.kmask = 0 then [] else [((t.maskRanges n).1.1, (t.maskRanges n).1.2, false)]) ++
    (if t.omask = 0 then [] else [((t.maskRanges n).2.1, (t.maskRanges n).2.2, false)]) ++
    [(d.tWgtVa + n0 * wp, (nc - 1) * wp + t.wBytes, false)] ++
    (if d.tFed then []
     else if t.kmask = 0 then [(d.tActVa + m0 * ap, (mc - 1) * ap + t.aBytes, false)]
     else (rows fun _ => true).flatMap fun m => (t.rowRuns x 0 t.aBytes).map fun e => (d.tActVa + m * ap + e.1, e.2, false)) ++
    scales t.w n0 nc ++ scales t.a m0 mc ++
    (if t.o.on then (t.outCodes x n).flatMap fun e =>
      (if t.oMode = 0 then [] else [(e.1, e.2, false)]) ++ (if t.writesCodes then [(e.1, e.2, true)] else []) else []) ++
    ([t.cur, t.pred].filterMap fun va =>
      if va = 0 then none else some (va + m0 / 256 * t.actBytes, t.actBytes, false)) ++
    (if d.tAccum then (rows fun m => t.rowOn x m0 m).map fun m => (out m, packedLen t.o.fmt nc, false) else []) ++
    (rows fun m => t.rowOut x m0 m).map fun m => (out m, len, true)

/-! ## Operand values (R95, R103, R104, R126, R129–R131, R151) -/

/-- How the work on an output tile reaches memory: its requester, and the translations that the tile holds (R132). -/
structure Via where
  req   : Req
  pages : List (Nat × Nat)

/-- The way of an engine of an item. -/
def TileRun.via (run : TileRun) (i : Item) : Via := ⟨.unit i.ctx i.cluster, run.pages⟩

/-- A read of a tile. -/
def State.tread (s : State) (v : Via) (va len : Nat) : Except Stop (List Byte) := s.readHeld v.req v.pages va len

/-- A write of a tile. -/
def State.twrite (s : State) (v : Via) (va : Nat) (bs : List Byte) : Except Stop State := s.writeHeld v.req v.pages va bs

/-- Scale codes read for the outer rows from one on. -/
def State.readScales (s : State) (v : Via) (p : Operand) (outer outers extent : Nat) : Except Stop (List Byte) :=
  if p.on then
    let (va, len) := p.codes outer outers 0 extent extent
    s.tread v va len
  else .ok []

/-- The scale code of an element among the codes of `readScales`. -/
def Operand.codeAt (p : Operand) (codes : List Byte) (outer0 outer inner extent : Nat) : Nat :=
  let (bo, bi) := blockOf p.dir p.blk
  let per := ceilDiv extent bi
  let k := (outer / bo - outer0 / bo) * per + inner / bi
  leNat (if p.s16 then (codes.drop (2 * k)).take 2 else (codes.drop k).take 1)

/-- The scale of an element from the codes of `readScales`. -/
def Operand.scaleAt (p : Operand) (codes : List Byte) (outer0 outer inner extent : Nat) : Val :=
  if p.on then scaleVal p.s16 (p.codeAt codes outer0 outer inner extent) else Val.ofNat 1

/-- An element with its governing scale (R103): the value that enters the product, and the group's scale. -/
def Operand.element (p : Operand) (scale : Val) (x : Val) : Val × Val :=
  if !p.on then (x, Val.ofNat 1)
  else if scale = .nan then (.nan, Val.ofNat 1)
  else if scale.isZero then (.zero, Val.ofNat 1)
  else if p.dir = 1 then (x.mul scale, Val.ofNat 1)
  else (x, scale)

/-- The codes of a slice of a compressed weight row by K position, none where 2:4 compression removed it, and the dropped stored
values (R129–R131). -/
def TileCfg.sparseRow (t : TileCfg) (width : Nat) (vals codes : List Byte) : List (Option Nat) × Nat :=
  let q := ceilDiv width 4
  let vals := unpack t.w.fmt (2 * q) vals
  let nibs := unpack 0 q codes
  let at_ (k : Nat) : Option Nat :=
    let nib := nibs.getD (k / 4) 0
    if nib % 4 = k % 4 then some (vals.getD (2 * (k / 4)) 0)
    else if nib / 4 = k % 4 then some (vals.getD (2 * (k / 4) + 1) 0)
    else none
  let drops := ((List.range q).map fun g =>
    let nib := nibs.getD g 0
    let c0 := nib % 4
    let c1 := nib / 4
    (if width ≤ 4 * g + c0 then 1 else 0) + (if c1 = c0 || width ≤ 4 * g + c1 then 1 else 0)).foldl (· + ·) 0
  ((List.range width).map at_, drops)

/-- A weight row's slice of pass p as memory holds it, with its dropped values. -/
def State.weightSlice (s : State) (v : Via) (t : TileCfg) (row p : Nat) : Except Stop (List (Option Nat) × Nat) := do
  let (k0, width) := t.part p
  let base := t.d.tWgtVa + row * pitch64 t.wBytes
  if t.d.tSparse24 then
    let vals ← s.tread v (base + packedLen t.w.fmt (k0 / 2)) (packedLen t.w.fmt (2 * ceilDiv width 4))
    let codes ← s.tread v (base + packedLen t.w.fmt (2 * ceilDiv t.k 4) + k0 / 8) (ceilDiv (ceilDiv width 4) 2)
    pure (t.sparseRow width vals codes)
  else
    let b ← s.tread v (base + packedLen t.w.fmt k0) (packedLen t.w.fmt width)
    pure ((unpack t.w.fmt width b).map some, 0)

/-- The weights of pass p of output tile `n`, with the position codes that they drop and the reserved codes that they hold (R90,
R131). -/
def State.readWeights (s : State) (v : Via) (t : TileCfg) (n p : Nat) : Except Stop (Weights × Nat × Nat) := do
  let (_, _, n0, nc) := t.area n
  let rows ← (List.range nc).mapM fun j => s.weightSlice v t (n0 + j) p
  let codes ← s.readScales v t.w n0 nc t.k
  pure (⟨rows.map (·.1), codes⟩, (rows.map (·.2)).foldl (· + ·) 0,
    if t.w.fmt = 3 then (rows.map fun x => (x.1.filter fun c => c = some 3).length).foldl (· + ·) 0 else 0)

/-- The value of an operand code: strict operands keep their subnormal values (R106). -/
def TileCfg.codeOf (t : TileCfg) (f c : Nat) : Val := if t.d.tStrict then f32Strict c else elemVal f c

/-- A row of an operand, with the scale at each of its positions: per position its value with folded scales and its group scale. -/
def TileCfg.rowVals (t : TileCfg) (p : Operand) (scale : Nat → Val) (row : List (Option Nat)) : List (Option (Val × Val)) :=
  row.zipIdx.map fun (e, j) => e.map fun c => p.element (scale j) (t.codeOf p.fmt c)

/-! ## The feeder's row queues (R116, R130) -/

/-- The activations of one vector that a physical row receives: four under 2:4 compression, two for Crilet-2 weights, else one. -/
def TileCfg.lanes (t : TileCfg) : Nat := if t.d.tSparse24 then 4 else if t.w.fmt = 3 then 2 else 1

/-- Physical rows that share those activations: the two of a group under 2:4 compression (R130). -/
def TileCfg.sharing (t : TileCfg) : Nat := if t.d.tSparse24 then 2 else 1

/-- Bits of an activation in an entry: those of the wider operand, at least 4 (R116). -/
def TileCfg.lane (t : TileCfg) : Nat := max 4 (max (fmtBits t.w.fmt) (fmtBits t.a.fmt))

/-- Vectors that an entry covers (R116). -/
def TileCfg.perEntry (t : TileCfg) : Nat := 64 / (t.lane * t.lanes)

/-- The entry of a physical row for the vectors from one on, of a pass that starts at k0: `act` gives the activation of a vector
at a position of the slice. -/
def TileCfg.entry (t : TileCfg) (m0 mc k0 width : Nat) (act : Nat → Nat → Nat) (codes : List Byte) (row first : Nat) :
    FeedEntry :=
  let n := min t.perEntry (mc - first)
  let ks := (rangeFrom (row / t.sharing * t.lanes) t.lanes).filter (· < width)
  let bo := (blockOf t.a.dir t.a.blk).1
  let cells := (List.range n).flatMap fun v => (List.range t.lanes).map fun e =>
    if row / t.sharing * t.lanes + e < width then act (first + v) (row / t.sharing * t.lanes + e) else 0
  { row := row
    first := first
    count := n * ks.length
    last := decide (mc ≤ first + t.perEntry)
    data := BitVec.ofNat 64 (cells.foldr (fun c a => c + 2 ^ t.lane * a) 0)
    codes :=
      if t.a.on && t.a.dir = 1 then
        ks.map fun k => (rangeFrom ((m0 + first) / bo) ((m0 + first + n - 1) / bo + 1 - (m0 + first) / bo)).map fun b =>
          t.a.codeAt codes m0 (max m0 (b * bo)) (k0 + k) t.k
      else [] }

/-- The entries of a pass in every row queue. -/
def TileCfg.entriesOf (t : TileCfg) (m0 mc k0 width : Nat) (act : Nat → Nat → Nat) (codes : List Byte) : List FeedEntry :=
  (List.range (ceilDiv width t.lanes * t.sharing)).flatMap fun row =>
    (List.range (ceilDiv mc t.perEntry)).map fun b => t.entry m0 mc k0 width act codes row (b * t.perEntry)

/-- The entry that holds the activation of vector i at a position of the slice. -/
def MatEngine.entryOf (e : MatEngine) (t : TileCfg) (i k : Nat) : Option FeedEntry :=
  e.entries.find? fun x => x.row = k / t.lanes * t.sharing && x.first ≤ i && decide (i < x.first + t.perEntry)

/-- The activation code of vector i at a position of the slice. -/
def MatEngine.actCode (e : MatEngine) (t : TileCfg) (i k : Nat) : Option Nat :=
  (e.entryOf t i k).map fun x => x.data.toNat / 2 ^ (t.lane * ((i - x.first) * t.lanes + k % t.lanes)) % 2 ^ t.lane

/-- The scale of that activation: from the entry's tag under `DIR` 1, else from the codes that its segment takes (R120). -/
def MatEngine.actScale (e : MatEngine) (t : TileCfg) (m0 k0 i k : Nat) : Val :=
  if t.a.on && t.a.dir = 1 then
    match e.entryOf t i k with
    | none => Val.ofNat 1
    | some x =>
      let bo := (blockOf t.a.dir t.a.blk).1
      scaleVal t.a.s16 ((x.codes.getD (k % t.lanes) []).getD ((m0 + i) / bo - (m0 + x.first) / bo) 0)
  else t.a.scaleAt e.codes m0 (m0 + i) (k0 + k) t.k

/-! ## The dot product (R103, R106, R120) -/

/-- The length of a group's K positions: G, cut at the scale blocks along K (R103). -/
def TileCfg.group (t : TileCfg) : Nat :=
  let wide := max (fmtBits t.w.fmt) (fmtBits t.a.fmt)
  let g := if wide ≤ 4 then 32 else if wide = 8 then 16 else 8
  let cut (p : Operand) : Nat := if !p.on || p.dir = 1 then g else (blockOf p.dir p.blk).2
  min g (min (cut t.w) (cut t.a))

/-- The integer sum of a window's truncated products (R103). -/
def windowSum (emax : Int) (ps : List Val) : Int :=
  ps.foldl (fun a p =>
    match p with
    | .fin s n d =>
      let (x, y) := overPow n d (emax - 41)
      if s then a - (x / y : Nat) else a + (x / y : Nat)
    | _ => a) 0

/-- The value of one group from its products and the two scales, and whether its rounding overflowed (R103). -/
def groupValue (ps : List Val) (sw sa : Val) : Nat × Bool :=
  if ps.any (· = .nan) then (nan32, false)
  else if ps.any (· = .inf false) && ps.any (· = .inf true) then (nan32, false)
  else if ps.any (· = .inf false) then (0x7F800000, false)
  else if ps.any (· = .inf true) then (0xFF800000, false)
  else
    let qs := ps.filter fun p => !p.isZero
    match qs.map fun p => (match p with
      | .fin _ n d => floorLog2 n d
      | _ => 0) with
    | [] => (0, false)
    | e :: es =>
      let emax := es.foldl max e
      let w := windowSum emax qs
      rne32o (((Val.fin (decide (w < 0)) w.natAbs 1).scale (emax - 41)).mul (sw.mul sa))

/-- One group value added to the accumulator. -/
def Acc32.add (a : Acc32) (g : Nat × Bool) : Acc32 :=
  let v := (f32 a.bits).add (f32 g.1)
  let (x, o) := rne32o v
  { a with bits := x, ovf := a.ovf || g.2 || o, tiny := x = 0 && !v.isZero }

/-- The fast-path dot product over the groups from one on. -/
def dotFrom (g : Nat) (take : Nat → Bool) (w a : List (Option (Val × Val))) : Nat → Nat → Acc32 → Acc32
  | 0, _, acc => acc
  | n + 1, k0, acc =>
    let wa := ((List.range g).map fun i =>
      match w.getD i none, a.getD i none with
      | some (x, sw), some (y, sa) => if take (k0 + i) then some (x.mul y, sw, sa) else none
      | _, _ => none).filterMap id
    let one := Val.ofNat 1
    let sw := (wa.map fun e => e.2.1).find? (fun v => v ≠ one)
    let sa := (wa.map fun e => e.2.2).find? (fun v => v ≠ one)
    dotFrom g take (w.drop g) (a.drop g) n (k0 + g)
      (acc.add (groupValue (wa.map fun e => e.1) (sw.getD one) (sa.getD one)))

/-- The strict dot product (R106). -/
def dotStrict (rtz : Bool) (take : Nat → Bool) : List (Option Nat) → List (Option Nat) → Nat → Acc32 → Acc32
  | some w :: ws, some a :: as, k, acc =>
    if take k then
      let r := fmaStrict rtz a w acc.bits
      let flags := r.invalid.toNat * 8 + r.overflow.toNat * 4 + r.underflow.toNat * 2 + r.inexact.toNat
      dotStrict rtz take ws as (k + 1)
        { acc with
          bits := r.bits
          ovf := isInf32 r.bits && (r.overflow || (acc.ovf && isInf32 acc.bits))
          flags := Nat.lor acc.flags flags }
    else dotStrict rtz take ws as (k + 1) acc
  | _ :: ws, _ :: as, k, acc => dotStrict rtz take ws as (k + 1) acc
  | _, _, _, acc => acc

/-! ## One output tile -/

/-- Whether K position k takes part in a pass that starts at k0 and has these activity bits (R104, R126, R151). -/
def TileCfg.take (t : TileCfg) (x : TileMasks) (k0 : Nat) (bits : List Bool) (k : Nat) : Bool :=
  t.kOn x k && bits.getD ((k - k0) / 32) true

/-- The bytes of an activation row from an offset; those that are not read are 0 (R126). -/
def State.readRow (s : State) (v : Via) (t : TileCfg) (x : TileMasks) (m off len : Nat) : Except Stop (List Byte) := do
  let base := t.d.tActVa + m * pitch64 t.aBytes
  let got ← (t.rowRuns x off len).foldlM (fun acc e => do
    let b ← s.tread v (base + e.1) e.2
    pure (acc ++ zeros (e.1 - off - acc.length) ++ b)) []
  pure (got ++ zeros (len - got.length))

/-- The slices of pass p that the load path reads for a row band (`FED` 0), vector after vector. -/
def State.loadSlices (s : State) (v : Via) (t : TileCfg) (x : TileMasks) (n p : Nat) : Except Stop (List Byte) := do
  let (m0, mc, _, _) := t.area n
  let (k0, width) := t.part p
  let rows ← (List.range mc).mapM fun i => s.readRow v t x (m0 + i) (packedLen t.a.fmt k0) (packedLen t.a.fmt width)
  pure rows.flatten

/-- The activation code of vector i at K position k among the slices that a feeder has expanded: passes in ascending K; in
each, the band's vectors, whose slices start on a byte (R118). -/
def TileCfg.gotCode (t : TileCfg) (mc : Nat) (got : List Byte) (i k : Nat) : Nat :=
  let (_, width) := t.part (k / t.slice)
  let before := mc * (k / t.slice) * packedLen t.a.fmt t.slice
  elemCode t.a.fmt (got.drop (before + i * packedLen t.a.fmt width)) (k % t.slice)

/-- The values that an accumulator bank holds at the start of output tile `n`: +0, or under `ACCUM` the existing output, its
subnormal values flushed but in strict mode (R92, R106, R120). -/
def State.startBank (s : State) (v : Via) (t : TileCfg) (x : TileMasks) (n : Nat) : Except Stop (List (List Acc32)) := do
  let (m0, mc, _, nc) := t.area n
  let (off, _) := t.span n
  let value (raw : List Byte) (j : Nat) : Acc32 :=
    let c := elemCode t.o.fmt raw j
    let c := if t.o.fmt = 6 then c * 65536 else c
    ⟨if t.d.tStrict then c else if c % 2 ^ 31 < 0x800000 then 0 else c, false, false, 0⟩
  (List.range mc).mapM fun i =>
    if t.d.tAccum && t.rowOn x m0 (m0 + i) then do
      let raw ← s.tread v (t.d.tOutVa + (m0 + i) * t.oPitch + off) (packedLen t.o.fmt nc)
      pure ((List.range nc).map (value raw))
    else pure (List.replicate nc Acc32.zero)

/-- The accumulators of an engine after pass p, from those in its bank: the weights in its active registers meet the activations
in its row queues. A masked row is fed the idle item and keeps its values (R103, R106, R111, R120, R127). -/
def MatEngine.passAccs (t : TileCfg) (e : MatEngine) (x : TileMasks) (bank : List (List Acc32)) (n p : Nat) (bits : List Bool) :
    List (List Acc32) :=
  let (m0, mc, n0, nc) := t.area n
  let (k0, width) := t.part p
  let g := t.group
  let take := t.take x k0 bits
  let w (j : Nat) : List (Option Nat) := e.active.cells.getD j []
  let a (i : Nat) : List (Option Nat) := (List.range width).map fun k => e.actCode t i k
  let from_ (i j : Nat) : Acc32 := (bank.getD i []).getD j Acc32.zero
  let ws := (List.range nc).map fun j => t.rowVals t.w (fun k => t.w.scaleAt e.active.codes n0 (n0 + j) (k0 + k) t.k) (w j)
  (List.range mc).map fun i =>
    if !t.rowOn x m0 (m0 + i) then (List.range nc).map (from_ i)
    else if t.d.tStrict then
      (List.range nc).map fun j => dotStrict (t.d.tRnd = 1) take (w j) (a i) k0 (from_ i j)
    else
      let av := t.rowVals t.a (fun k => e.actScale t m0 k0 i k) (a i)
      (List.range nc).map fun j => dotFrom g take (ws.getD j []) av (ceilDiv width g) k0 (from_ i j)

/-- The activity bits of pass p of output tile `n` from a bitmap (R151); every block is active where there is none. -/
def State.passBits (s : State) (v : Via) (t : TileCfg) (n p va : Nat) : Except Stop (List Bool) := do
  let (m0, _, _, _) := t.area n
  let (k0, width) := t.part p
  let band ← (if va = 0 then pure [] else s.tread v (va + m0 / 256 * t.actBytes) t.actBytes)
  pure ((List.range (ceilDiv width 32)).map fun b => va = 0 || mapBit band (k0 / 32 + b))

/-! ## The drain (R97–R102, R105, R122, R127) -/

/-- What the drain of a tile counts. -/
structure DrainCount where
  sat   : Nat
  ovf   : Nat
  nan   : Nat
  flush : Nat
  clamp : Nat
  strict : Nat

/-- No counts. -/
def DrainCount.zero : DrainCount := ⟨0, 0, 0, 0, 0, 0⟩

/-- The sum of counts. -/
def DrainCount.plus (a b : DrainCount) : DrainCount :=
  ⟨a.sat + b.sat, a.ovf + b.ovf, a.nan + b.nan, a.flush + b.flush, a.clamp + b.clamp, Nat.lor a.strict b.strict⟩

/-- An element converted with a scale that is finite and not zero (R98, R105). A final sum below 2^−126
is +0 already (R103), and its conversion to BF16 or FP32 counts the flush (R98, R108, DEDUCED 127). -/
def drainElem (f mode r : Nat) (scale : Val) (a : Acc32) : Nat × DrainCount :=
  let v := f32 a.bits
  let c := convert (v.div scale) f mode r
  if v = .nan then (c.code, { DrainCount.zero with nan := 1 })
  else
    let inf := isInf32 a.bits
    (c.code, { DrainCount.zero with
      sat := c.sat.toNat, flush := (c.flush || (6 ≤ f && a.tiny)).toNat, ovf := ((inf && a.ovf) || c.ovf).toNat })

/-- A strict output element (R106); a NaN is written as the canonical one (R102). -/
def drainStrict (a : Acc32) : Nat × DrainCount :=
  let nan := isNan32 a.bits
  (if nan then nan32 else a.bits, { DrainCount.zero with
    nan := nan.toNat, ovf := (isInf32 a.bits && a.ovf).toNat, strict := a.flags })

/-- The codes of one output block from its elements (R97, R102): for each its code, whether it is masked, the scale code
that the block ends with, and the counts. Each element is given with its random bits, none for a masked row that is
zeroed: its code is 0 in a block that is NaN by the scale read too (DESIGN CHOICE 128). A Crilet-8 block that a NaN element
makes a NaN block over a zero scale holds the codes 0x7F (DESIGN CHOICE 129). -/
def drainBlock (f mode : Nat) (s16 : Bool) (oMode old : Nat) (es : List (Option (Acc32 × Nat))) :
    List Nat × Nat × DrainCount :=
  let vals := es.map fun e => (match e with
    | some (a, _) => f32 a.bits
    | none => Val.zero)
  let written := (es.filter Option.isSome).length
  let anyNan := vals.any (· = .nan)
  let allNan (code : Nat) : List Nat × DrainCount :=
    (es.map fun e => if e.isSome then code else 0, { DrainCount.zero with nan := written })
  let go (scale : Val) : List Nat × DrainCount :=
    es.foldl (fun acc e =>
      match e with
      | none => (acc.1 ++ [0], acc.2)
      | some (a, r) =>
        let (c, k) := drainElem f mode r scale a
        (acc.1 ++ [c], acc.2.plus k)) ([], DrainCount.zero)
  if oMode = 0 then
    let (code, clamped) := chooseScale f s16 vals
    if isNarrow f && anyNan then
      let (cs, k) := allNan 0
      (cs, code, k)
    else
      let (cs, k) := go (scaleVal s16 code)
      (cs, code, { k with clamp := clamped.toNat })
  else
    match scaleVal s16 old with
    | .nan =>
      let (cs, k) := allNan (nanCode f)
      (cs, old, k)
    | v =>
      if v.isZero then
        if anyNan then
          let (cs, k) := allNan (nanCode f)
          (cs, nanScale s16, k)
        else (es.map fun _ => 0, old, DrainCount.zero)
      else if isNarrow f && anyNan then
        let (cs, k) := allNan 0
        (cs, nanScale s16, k)
      else
        let (cs, k) := go v
        (cs, old, k)

/-- The counts of a drain made (R105, R164, R178). -/
def State.drainCount (s : State) (c : CtxId) (k : DrainCount) : State :=
  let s := s.precCount c k.sat k.ovf k.nan k.flush
  let s := s.tallyN .scaleClampCnt c.val .precStatus c.val 2 k.clamp
  (List.range 4).foldl (fun s b => if k.strict / 2 ^ b % 2 = 1 then s.setFlag .fmtStatus c.val b else s) s

/-- The element that a tile writes at row i and column j, none where the row is masked. -/
def drainAt (t : TileCfg) (x : TileMasks) (accs : List (List Acc32)) (seed step : W64) (m0 n0 i j : Nat) :
    Option (Acc32 × Nat) :=
  if t.rowOn x m0 (m0 + i) then
    let r := if t.d.tRnd = 2 then draw16 1 t.d.seq ((m0 + i) * t.n + n0 + j) seed step else 0
    some ((accs.getD i []).getD j Acc32.zero, r)
  else none

/-- Blocks of an output tile (R95): for each, its scale code's address and its elements by row and column. -/
def TileCfg.blocks (t : TileCfg) (n : Nat) : List (Nat × List (Nat × Nat)) :=
  let (m0, mc, n0, nc) := t.area n
  let (bo, bi) := blockOf t.o.dir t.o.blk
  let per := ceilDiv t.n bi
  (List.range (ceilDiv mc bo)).flatMap fun a => (List.range (ceilDiv nc bi)).map fun b =>
    (t.o.va + (if t.o.s16 then 2 else 1) * ((m0 / bo + a) * per + n0 / bi + b),
      (List.range (min bo (mc - a * bo))).flatMap fun i => (List.range (min bi (nc - b * bi))).map fun j =>
        (a * bo + i, b * bi + j))

/-- The rows of a tile written with their padding; masked rows only under `ZERO_MASKED` (R112, R127). -/
def State.writeRows (s : State) (v : Via) (t : TileCfg) (x : TileMasks) (n : Nat) (codes : List (List Nat)) :
    Except Stop State :=
  let (m0, mc, _, _) := t.area n
  let (off, len) := t.span n
  (List.range mc).foldlM (fun s i =>
    if t.rowOut x m0 (m0 + i) then
      let b := pack t.o.fmt (codes.getD i [])
      s.twrite v (t.d.tOutVa + (m0 + i) * t.oPitch + off) (b ++ zeros (len - b.length))
    else .ok s) s

/-- An output tile drained: its codes and scale codes written, and what that counts. A NaN element of a narrow output without
scale blocks has no scale to carry it: it is written as code 0 and counted once (DESIGN CHOICE 130). -/
def State.drain (s : State) (v : Via) (t : TileCfg) (x : TileMasks) (n : Nat) (accs : List (List Acc32))
    (seed step : W64) : Except Stop (State × DrainCount) := do
  let (m0, mc, n0, nc) := t.area n
  let f := t.o.fmt
  let at_ (i j : Nat) := drainAt t x accs seed step m0 n0 i j
  if !t.o.on then
    let cells := (List.range mc).map fun i => (List.range nc).map fun j =>
      match at_ i j with
      | none => (0, DrainCount.zero)
      | some (a, q) => if t.d.tStrict then drainStrict a else drainElem f t.d.tRnd q (Val.ofNat 1) a
    let k := (cells.map fun row => (row.map (·.2)).foldl DrainCount.plus DrainCount.zero).foldl DrainCount.plus
      DrainCount.zero
    let s ← s.writeRows v t x n (cells.map fun row => row.map (·.1))
    pure (s, k)
  else
    let (s, codes, k) ← (t.blocks n).foldlM (fun (acc : State × List ((Nat × Nat) × Nat) × DrainCount) (va, es) => do
      let (s, codes, k) := acc
      let on := es.any fun e => t.rowOut x m0 (m0 + e.1)
      if !on then pure (s, codes, k)
      else
        let size := if t.o.s16 then 2 else 1
        let old ← (if t.oMode = 0 then pure 0 else (s.tread v va size).map leNat)
        let (cs, code, k') := drainBlock f t.d.tRnd t.o.s16 t.oMode old (es.map fun e => at_ e.1 e.2)
        let s ← (if t.oMode = 0 || code ≠ old then s.twrite v va (leBytes size code) else pure s)
        pure (s, codes ++ es.zip cs, k.plus k')) (s, [], DrainCount.zero)
    let codeAt (i j : Nat) : Nat := ((codes.find? fun e => e.1 = (i, j)).map (·.2)).getD 0
    let s ← s.writeRows v t x n ((List.range mc).map fun i => (List.range nc).map fun j => codeAt i j)
    pure (s, k)

/-! ## Stream-fed feeders (R117–R119, R205) -/

/-- Valid bytes of a line (R214). -/
def Line.valid (l : Line) : Nat := l.tag.toNat % 128

/-- The bytes that a tile's feeder needs: the slices of every pass and vector. -/
def TileCfg.feedBytes (t : TileCfg) (mc : Nat) : Nat :=
  ((List.range (ceilDiv t.k t.slice)).map fun p => mc * packedLen t.a.fmt (min t.slice (t.k - p * t.slice))).foldl (· + ·) 0

/-- Bytes taken from lines, from an offset in the first: the bytes, the lines used up, the offset left; none when the lines
do not hold enough. -/
def takeBytes : List Line → Nat → Nat → Nat → Option (List Byte × Nat × Nat)
  | _, off, 0, used => some ([], used, off)
  | [], _, _ + 1, _ => none
  | l :: ls, off, n + 1, used =>
    let have_ := (l.payload.take l.valid).drop off
    if n + 1 < have_.length then some (have_.take (n + 1), used, off + n + 1)
    else if n + 1 = have_.length then some (have_, used + 1, 0)
    else
      match takeBytes ls 0 (n + 1 - have_.length) (used + 1) with
      | none => none
      | some (bs, u, o) => some (have_ ++ bs, u, o)

/-- Lines without valid bytes at the front (an end line) are used up before an element is read. -/
def emptyLines (ls : List Line) (off : Nat) : Nat :=
  match ls with
  | l :: rest => if off = 0 && l.valid = 0 then emptyLines rest 0 + 1 else 0
  | [] => 0

/-- The next vector slice of a feeder from its lines: `width` elements in dense form, or the bitmap form (R119): its bytes,
the lines used up, the offset left, and the positions dropped beyond the slice. -/
def takeVector (t : TileCfg) (width : Nat) (ls : List Line) (off : Nat) : Option (List Byte × Nat × Nat × Nat) :=
  let f := t.a.fmt
  match ls with
  | l :: _ =>
    if off = 0 && l.tag.toNat / 4096 = 2 then
      let mapLen := t.slice / 8
      match takeBytes ls 0 mapLen 0 with
      | none => none
      | some (map, _, _) =>
        let ones := (List.range t.slice).filter fun i => mapBit map i
        let len := ceilDiv (ones.length * fmtBits f) 64 * 8
        match takeBytes ls 0 (mapLen + len) 0 with
        | none => none
        | some (bs, used, off') =>
          let vals := unpack f ones.length (bs.drop mapLen)
          let code (i : Nat) : Nat := match ones.findIdx? (· = i) with
            | some j => vals.getD j 0
            | none => 0
          some (pack f ((List.range width).map code), used, off', (ones.filter fun i => width ≤ i).length)
    else
      match takeBytes ls off (packedLen f width) 0 with
      | none => none
      | some (bs, used, off') => some (bs, used, off', 0)
  | [] => none

/-- `MARK` (R220): M ← Rd. -/
def Queue.setMark (x : Queue) : Queue := { x with mark := some x.rd, moff := x.off }

/-- The lines that `RELEASE` may free: up to the mark, or to Rd (R220). -/
def Queue.releasable (x : Queue) : Nat := ((x.mark.getD x.rd) - x.f).toNat

/-- `RELEASE` of n lines that may be freed. -/
def Queue.free (x : Queue) (n : Nat) : Queue := { x with f := x.f + BitVec.ofNat 32 n, lines := x.lines.drop n }

/-- A feeder frees every line that no replay can need: those before its mark, or before Rd (R116). -/
def Queue.freeRead (x : Queue) : Queue := x.free x.releasable

/-- The lines from Rd on. -/
def Queue.fresh (x : Queue) : List Line := x.lines.drop (x.rd - x.f).toNat

/-- Lines read by a feeder, and the bytes expanded of the next. -/
def Queue.take (x : Queue) (n off : Nat) : Queue := { x with rd := x.rd + BitVec.ofNat 32 n, off := off }

/-! ## Feeders (R116–R118, R213) -/

/-- Bytes of slices through pass p. -/
def TileCfg.feedUpto (t : TileCfg) (mc p : Nat) : Nat :=
  ((List.range (p + 1)).map fun k => mc * packedLen t.a.fmt (t.part k).2).foldl (· + ·) 0

/-- A feeder takes vectors of pass p while its lines last: the state, the slices that it has expanded, and the drops
(R118, R119). -/
def State.feedCore (s : State) (t : TileCfg) (core mc p : Nat) : Nat → List Byte → State × List Byte × Nat
  | 0, got => (s, got, 0)
  | n + 1, got =>
    let q := s.queue (sluiceIx core 0)
    if q.prime.isSome || t.feedUpto mc p ≤ got.length then (s, got, 0)
    else
      let skip := emptyLines q.fresh q.off
      match takeVector t (t.part p).2 (q.fresh.drop skip) q.off with
      | none => (s, got, 0)
      | some (bs, used, off, drops) =>
        let s := s.setQueue (sluiceIx core 0) (q.take (skip + used) off).freeRead
        let (s, got, k) := State.feedCore s t core mc p n (got ++ bs)
        (s, got, k + drops)

/-- A stream-fed feeder takes vectors, and its producer goes on, until the pass has all or nothing moves (R118, R198). -/
def State.feedStream (s : State) (i : Item) (t : TileCfg) (core mc p : Nat) : Nat → List Byte → State × List Byte
  | 0, got => (s, got)
  | n + 1, got =>
    let (s, got', drops) := s.feedCore t core mc p (mc + 1) got
    let s := s.tallyN .sparseDropCnt i.ctx.val .arrayStatus i.ctx.val 0 drops
    let s := s.pumpQueue (sluiceIx core 0)
    if got'.length = got.length then (s, got) else State.feedStream s i t core mc p n got'

/-- The engines of a wave that take a row band (R142). -/
def TileWork.takers (t : TileCfg) (w : TileWork) (band : Nat) : List TileRun := w.runs.filter fun run => run.tile / t.bands = band

/-- A line of a band for one of its engines; the last one of an engine's last tile carries `END` (R216). The open line closes at the
end of each output tile (DESIGN CHOICE 131). -/
def BandLoad.lineFor (t : TileCfg) (gang : Nat) (b : BandLoad) (run : TileRun) : Line :=
  lineOf (b.data.take 64) false (t.passes ≤ b.pass && b.data.length ≤ 64 && t.tiles ≤ run.tile + gang)

/-- The load path reads a row band once and delivers its lines to every engine of the wave that holds a tile of it, while each has
credit for one (R142, R213, R215). -/
def State.loadLines (s : State) (i : Item) (t : TileCfg) (takers : List TileRun) : Nat → BandLoad → Except Stop (State × BandLoad)
  | 0, b => .ok (s, b)
  | n + 1, b =>
    match takers.head? with
    | none => .ok (s, b)
    | some run =>
      if b.data.length < 64 && b.pass < t.passes then do
        let bs ← s.loadSlices (run.via i) t run.masks run.tile b.pass
        State.loadLines s i t takers n { b with pass := b.pass + 1, data := b.data ++ bs }
      else if b.data.isEmpty || !takers.all fun x => 0 < (s.queue (sluiceIx x.core 0)).credit then .ok (s, b)
      else
        let gang := (s.gang i.part).length
        let s := takers.foldl (fun s x => s.deliverTo (b.lineFor t gang x) (sluiceIx x.core 0)) s
        State.loadLines s i t takers n { b with data := b.data.drop 64 }

/-- The load path of a `TILE` goes on with the band of one of its engines (R117, R142). -/
def State.loadBand (s : State) (i : Item) (t : TileCfg) (run : TileRun) : Except Stop State := do
  let w := ((s.current i).getD i).tile
  let band := run.tile / t.bands
  let b := (w.bands.find? fun b => b.band = band).getD ⟨band, 0, []⟩
  let (s, b) ← s.loadLines i t (w.takers t band) (t.feedBytes (t.area run.tile).2.1 / 64 + t.passes + 2) b
  let cur := (s.current i).getD i
  pure (s.setItem { cur with tile := { cur.tile with bands := b :: cur.tile.bands.filter fun x => x.band ≠ band } })

/-- A feeder with its own load path takes vectors, and the path goes on, until the pass has all or nothing moves (R117). -/
def State.feedLoad (s : State) (i : Item) (t : TileCfg) (run : TileRun) (mc : Nat) : Nat → List Byte → Except Stop (State × List Byte)
  | 0, got => .ok (s, got)
  | n + 1, got => do
    let s ← s.loadBand i t run
    let (s, got', drops) := s.feedCore t run.core mc run.pass (mc + 1) got
    let s := s.tallyN .sparseDropCnt i.ctx.val .arrayStatus i.ctx.val 0 drops
    if got'.length = got.length then pure (s, got) else State.feedLoad s i t run mc n got'

/-- The vectors of the pass under way brought to an engine. With `FED` its feeder consumes its own line buffer, whatever handle
`ACT_VA` holds (DESIGN CHOICE 143). -/
def State.feed (s : State) (i : Item) (t : TileCfg) (run : TileRun) : Except Stop (State × TileRun) :=
  let mc := (t.area run.tile).2.1
  if t.feedUpto mc run.pass ≤ run.got.length then .ok (s, run)
  else if t.d.tFed then
    let (s, got) := s.feedStream i t run.core mc run.pass (mc + 1) run.got
    .ok (s, { run with got := got })
  else do
    let (s, got) ← s.feedLoad i t run mc (mc + 1) run.got
    pure (s, { run with got := got })

/-- A feeder that lacks a vector misses its deadline (R205): its sluice holds no line that it could go on with, it is primed, a
regular program feeds it, and that program's last line has not been read. -/
def State.feedMiss (s : State) (t : TileCfg) (run : TileRun) : Option (Nat × StreamProg) :=
  let core := run.core
  let q := s.queue (sluiceIx core 0)
  if q.prime.isSome || (takeVector t (t.part run.pass).2 (q.fresh.drop (emptyLines q.fresh q.off)) q.off).isSome then none
  else
    match s.producer (sluiceIx core 0) with
    | some (e, p) => if p.regular && !p.ended then some (e, p) else none
    | none => none

/-- An item aborted with `DEADLINE_MISS`, if there is one. -/
def State.abortMissed (s : State) : Option Item → State
  | some i => s.abortItem i 0x31 true
  | none => s

/-- A deadline miss in a partition (R205): recorded and counted; the consuming and the producing item fail, and with them their
partitions. -/
def State.deadlineMiss (s : State) (c : CtxId) (e : Nat) (p : StreamProg) (consumer : Option Item) (part : Nat) : State :=
  let s := s.wrN .lastMiss c.val 0 (p.sluice.toNat * 65536 + e)
  let s := s.tally .deadlineMissCnt c.val .streamStatus c.val 1
  let s := (s.abortMissed consumer).abortMissed ((s.streamItem p).map fun i => { i with progress := p.done })
  let other := s.partOf p.cluster.val
  let s := s.stopPartition c part false
  if other = part then s else s.stopPartition c other false

/-! ## Passes (R111, R113, R120, R152, R153) -/

/-- The bank in use of a matrix engine. -/
def MatEngine.inUse (e : MatEngine) : List (List Acc32) := if e.bank then e.bank1 else e.bank0

/-- The bank in use replaced. -/
def MatEngine.setInUse (e : MatEngine) (b : List (List Acc32)) : MatEngine :=
  if e.bank then { e with bank1 := b } else { e with bank0 := b }

/-- A new output tile takes the other bank, which starts from the existing output or from +0 (R111, R120). -/
def MatEngine.open_ (e : MatEngine) (start : List (List Acc32)) : MatEngine := { e with bank := !e.bank }.setInUse start

/-- The swap that makes the shadow weights active, as a pass starts with empty row queues (R111). The shadow registers keep what they
hold until the next weights are loaded (DESIGN CHOICE 144). -/
def MatEngine.swap (e : MatEngine) : MatEngine := { e with active := e.shadow, entries := [], codes := [] }

/-- The row queues emptied: no vector in them can be replayed (R116). -/
def MatEngine.release (e : MatEngine) : MatEngine := { e with entries := [], codes := [] }

/-- A weight tile that has been loaded is counted once for the `TILE`, whatever engine loads it (R90, R131). -/
def State.countLoaded (s : State) (i : Item) (key : Nat × Nat) (drops rsvd : Nat) : State :=
  match s.current i with
  | none => s
  | some cur =>
    if cur.tile.loaded.contains key then s
    else
      let s := s.setItem { cur with tile := { cur.tile with loaded := key :: cur.tile.loaded } }
      let s := s.tallyN .sparseDropCnt i.ctx.val .arrayStatus i.ctx.val 0 drops
      s.tallyN .reservedCodeCnt i.ctx.val .fmtStatus i.ctx.val 8 rsvd

/-- The weights of pass p of a tile loaded into the shadow registers of its engine (R111). -/
def State.loadShadow (s : State) (i : Item) (t : TileCfg) (run : TileRun) (p : Nat) : Except Stop State := do
  let (w, drops, rsvd) ← s.readWeights (run.via i) t run.tile p
  pure ((s.setArray run.core { s.array run.core with shadow := w }).countLoaded i (run.tile % t.bands, p) drops rsvd)

/-- A pass starts on its engine (R111, R120): a new tile takes the other bank and loads its first weights; the shadow weights become
active, and those of the next pass are loaded. -/
def State.startPass (s : State) (i : Item) (t : TileCfg) (run : TileRun) : Except Stop State := do
  let s ← (if run.pass = 0 then do
      let start ← s.startBank (run.via i) t run.masks run.tile
      (s.setArray run.core ((s.array run.core).open_ start)).loadShadow i t run 0
    else pure s)
  let s := s.setArray run.core (s.array run.core).swap
  if run.pass + 1 < t.passes then s.loadShadow i t run (run.pass + 1) else pure s

/-- `FINAL_BAR` is open, or the bitmap was final at issue (R150). -/
def State.final (s : State) (i : Item) (t : TileCfg) : Bool := t.bar = 0 || (s.bar i.ctx t.bar).st = .opened

/-- An engine has begun its output tile. -/
def TileRun.begun (run : TileRun) : Bool := run.pass ≠ 0 || run.bits.isSome || !run.got.isEmpty

/-- The engine decides the bits of its next pass (R152, R153): those of `CUR_VA` once it is final, else those of `PRED_VA`
under `SPEC`, with the bank copied and the feeder marked; else it waits. A new tile opens its bank. -/
def State.decide_ (s : State) (i : Item) (t : TileCfg) (run : TileRun) : Except Stop (State × TileRun) := do
  let final := s.final i t
  if !run.begun && (s.ctx i.ctx).st = .preempting then pure (s, run)
  else if !final && !t.d.tSpec then pure (s, { run with wait := true })
  else
    let bits ← s.passBits (run.via i) t run.tile run.pass (if final then t.cur else t.pred)
    let s ← s.startPass i t run
    let e := s.array run.core
    let s := if final then s else s.setArray run.core { e with saved := e.inUse }
    let ix := sluiceIx run.core 0
    let s := if final then s else s.setQueue ix (s.queue ix).setMark
    pure (s, { run with bits := some bits, spec := !final, ran := false, wait := !final })

/-- The vectors of a pass enter the row queues, with the scale codes of their activations (R116); a replay finds them there. -/
def State.expand (s : State) (i : Item) (t : TileCfg) (run : TileRun) : Except Stop State := do
  let e := s.array run.core
  if e.entries.isEmpty then
    let (m0, mc, _, _) := t.area run.tile
    let (k0, width) := t.part run.pass
    let codes ← s.readScales (run.via i) t.a m0 mc t.k
    let es := t.entriesOf m0 mc k0 width (fun v k => t.gotCode mc run.got v (k0 + k)) codes
    pure (s.setArray run.core { e with entries := es, codes := codes })
  else pure s

/-- The pass under way runs on its bits, from what the engine's registers and row queues hold (R103, R106, R120, R154). -/
def State.runPass (s : State) (t : TileCfg) (run : TileRun) (bits : List Bool) : State :=
  let e := s.array run.core
  s.setArray run.core (e.setInUse (e.passAccs t run.masks e.inUse run.tile run.pass bits))

/-- The entries of a pass that is done released (R116). -/
def State.releasePass (s : State) (run : TileRun) : State := s.setArray run.core (s.array run.core).release

/-- A pass that is confirmed, or was never in doubt, is done. -/
def TileRun.passed (run : TileRun) : TileRun :=
  { run with pass := run.pass + 1, bits := none, spec := false, ran := false, wait := false }

/-- One move of an engine: the decision of a pass, or the pass itself once its vectors are there; none when it waits. -/
def State.engineMove (s : State) (i : Item) (t : TileCfg) (run : TileRun) : Except Stop (State × TileRun × Bool) :=
  match run.bits with
  | none => do
    let (s, run) ← s.decide_ i t run
    pure (s, run, run.bits.isSome)
  | some bits =>
    if run.ran then .ok (s, run, false)
    else do
      let (s, run) ← s.feed i t run
      if run.got.length < t.feedUpto (t.area run.tile).2.1 run.pass then pure (s, run, false)
      else
        let s ← s.expand i t run
        let s := s.runPass t run bits
        pure (if run.spec then (s, { run with ran := true }, false) else (s.releasePass run, run.passed, true))

/-- An engine works on its tile as far as it can. -/
def State.engineRun (s : State) (i : Item) (t : TileCfg) : Nat → TileRun → Except Stop (State × TileRun)
  | 0, run => .ok (s, run)
  | n + 1, run =>
    if t.passes ≤ run.pass then .ok (s, run)
    else do
      let (s, run, more) ← s.engineMove i t run
      if more then State.engineRun s i t n run else pure (s, run)

/-! ## Waves (R137–R139) -/

/-- The item's program, for its seed. -/
def State.seedOf (s : State) (i : Item) : W64 := ((s.progOf i.ctx i.ahead).map Program.seed).getD 0

/-- The engine that computes output tile n: e(n mod A) (R137). -/
def tileCore (gang : List Nat) (n : Nat) : Nat := gang.getD (n % gang.length) 0

/-- The tile is sampled by the conservator (R171). -/
def State.sampled (s : State) (i : Item) (t : TileCfg) (n : Nat) : Bool :=
  match t.layer with
  | none => false
  | some l =>
    l.enable && !t.d.tStrict && !t.d.tAccum && (isCrilet t.w.fmt || isCrilet t.a.fmt || isCrilet t.o.fmt) &&
      (draw 3 (t.d.tLayer * 2 ^ 20 + i.desc.mb * 256 + i.seq % 256) n (s.seedOf i) i.step).1 % 2 ^ s.rdN .consK i.ctx.val = 0

/-- The reference operands of a sampled tile, which are translated with it (R173): address, pitch and row bytes. -/
def TileCfg.refs (t : TileCfg) : Option (Nat × Nat × Nat) × Option (Nat × Nat × Nat) :=
  match t.layer with
  | none => (none, none)
  | some l =>
    let wv := bits 47 0 l.w1
    let av := bits 47 0 l.w2
    let af := if bit 2 l.w0 then 7 else 6
    (if t.d.stage = 3 && wv ≠ 0 then some (wv, pitch64 (packedLen 6 t.k), 6) else none,
     if t.d.stage = 3 && av ≠ 0 then some (av, pitch64 (packedLen af t.k), af) else none)

/-- The reference ranges of a sampled tile (R173). -/
def TileCfg.refRanges (t : TileCfg) (n : Nat) : List (Nat × Nat × Bool) :=
  let (m0, mc, n0, nc) := t.area n
  let of (first count : Nat) (o : Option (Nat × Nat × Nat)) : List (Nat × Nat × Bool) :=
    o.toList.map fun (va, p, f) => (va + first * p, (count - 1) * p + packedLen f t.k, false)
  of n0 nc t.refs.1 ++ of m0 mc t.refs.2

/-- An output tile translated (R132, R173): its engine's work on it, with its masks and the translations that it holds. -/
def State.reachTile (s : State) (i : Item) (t : TileCfg) (run : TileRun) : Except Stop TileRun := do
  let x ← s.tileMasks i.req t run.tile
  let ranges := t.touches x run.tile ++ if s.sampled i t run.tile then t.refRanges run.tile else []
  let pages ← ranges.mapM fun (va, len, w) => s.pagesOf i.req va len w
  pure { run with masks := x, pages := pages.flatten.dedup }

/-- The output tiles of the wave at a progress that are not visible (R137, R139). -/
def TileCfg.wave (t : TileCfg) (gang : List Nat) (p : Nat) (shown : List Nat) : List Nat :=
  (rangeFrom (p / gang.length * gang.length) gang.length).filter fun n => p ≤ n && n < t.tiles && !shown.contains n

/-- The lowest output tile that is not visible, from one on (R132). -/
def lowestHidden (shown : List Nat) : Nat → Nat → Nat
  | 0, p => p
  | n + 1, p => if shown.contains p then lowestHidden shown n (p + 1) else p

/-- An engine's work replaced in its item. -/
def TileWork.setRun (w : TileWork) (run : TileRun) : TileWork :=
  { w with runs := w.runs.map fun x => if x.core = run.core then run else x }

/-- A tile becomes visible: it counts toward progress, and a sampled one waits for its comparison (R52, R173). -/
def State.showTile (s : State) (i : Item) (t : TileCfg) (run : TileRun) : State :=
  match s.current i with
  | none => s
  | some cur =>
    let w := cur.tile
    let shown := run.tile :: w.shown
    let p := lowestHidden shown shown.length cur.progress
    let s := s.setItem { cur with tile := { w with
      runs := w.runs.filter fun x => x.core ≠ run.core
      shown := shown.filter fun n => p ≤ n
      checks := if s.sampled i t run.tile then w.checks ++ [run] else w.checks } }
    s.advance ((s.current i).getD i) p

/-- An engine drains the tile that it has completed (R122, R138). -/
def State.drainTile (s : State) (i : Item) (t : TileCfg) (run : TileRun) : Except Stop State := do
  let (s, k) ← s.drain (run.via i) t run.masks run.tile (s.array run.core).inUse (s.seedOf i) i.step
  pure ((s.drainCount i.ctx k).showTile i t run)

/-- One engine of the wave works as far as it can and drains a tile that it completes. -/
def State.runEngine (i : Item) (t : TileCfg) (s : State) (core : Nat) : State :=
  match s.current i with
  | none => s
  | some cur =>
    if cur.phase ≠ .working then s
    else
      match cur.tile.runs.find? fun x => x.core = core with
      | none => s
      | some run =>
        match s.engineRun cur t (2 * t.passes + 2) run with
        | .error why => s.stopItem cur why
        | .ok (s, run) =>
          let now := (s.current i).getD i
          let s := s.setItem { now with tile := now.tile.setRun run }
          if t.passes ≤ run.pass then
            match s.drainTile cur t run with
            | .error why => s.stopItem ((s.current i).getD i) why
            | .ok s => s
          else s

/-- The wave at an item's progress translated, and its engines given their tiles (R139); what stops a translation stops the
`TILE` before any of them starts. -/
def State.startWave (s : State) (i : Item) (t : TileCfg) (gang wave : List Nat) : State :=
  match wave.mapM fun n => s.reachTile i t
      ((i.tile.runs.find? fun x => x.tile = n).getD ⟨tileCore gang n, n, [], ⟨[], []⟩, 0, [], none, false, false, false⟩) with
  | .error why => s.stopItem i why
  | .ok runs => s.setItem { i with tile := { i.tile with reached := true, runs := runs, bands := [] } }

/-- A stream-fed engine of the wave that misses its deadline. -/
def State.missOf (s : State) (i : Item) (t : TileCfg) : Option (Nat × StreamProg) :=
  if t.d.tFed then
    i.tile.runs.findSome? fun run => if run.bits.isSome && !run.ran then s.feedMiss t run else none
  else none

/-- A `TILE` holds the engines of its wave from the first vector or decision of one of them on. -/
def TileWork.holds (w : TileWork) : Bool := w.reached && (w.runs.any TileRun.begun || !w.bands.isEmpty)

/-- Another `TILE` holds an engine of an item's wave: its tiles wait for it, since an engine computes one output tile at a time
(R33, R113, R153; which of two goes first is DESIGN CHOICE 145). -/
def State.engineTaken (s : State) (i : Item) : Bool :=
  s.items.any fun j => !j.same i && j.phase = .working && j.desc.opcode = 1 && j.tile.holds &&
    j.tile.runs.any fun x => i.tile.runs.any fun y => x.core = y.core

/-- A `TILE` goes on from its progress, wave by wave (R139). It waits for `FINAL_BAR` (R152), for the verification of
speculative passes (R153), for lines (R117) and, at its end, for comparisons (R173). A missed deadline fails it: the
bytes of the tiles from the one in progress on, which are then undetermined (R52), stay as they were (DESIGN CHOICE
132). -/
def State.tileWaves (s : State) (i : Item) (gang : List Nat) : Nat → State
  | 0 => s
  | fuel + 1 =>
    match s.current i with
    | none => s
    | some cur =>
      let t := cur.tile.tabs.cfg cur.desc
      let p := cur.progress
      if cur.phase ≠ .working then s
      else if t.tiles ≤ p then (if cur.tile.checks.isEmpty then s.finish cur 0 else s)
      else if !cur.tile.reached && (s.ctx i.ctx).st = .preempting then s
      else if !cur.tile.reached then
        State.tileWaves (s.startWave cur t gang (t.wave gang p cur.tile.shown)) i gang fuel
      else if cur.tile.runs.isEmpty then
        State.tileWaves (s.setItem { cur with tile := { cur.tile with reached := false } }) i gang fuel
      else if s.engineTaken cur then s
      else
        let s := (cur.tile.runs.map TileRun.core).foldl (State.runEngine cur t) s
        match s.current i with
        | none => s
        | some now =>
          if now.tile.runs.isEmpty || now.tile.runs ≠ cur.tile.runs then State.tileWaves s i gang fuel
          else
            match s.missOf now t with
            | some (e, q) => s.deadlineMiss i.ctx e q (some now) now.part
            | none => s

/-- A `TILE` works as far as it can. While its context is PREEMPTING it starts no wave. What one engine frees another can use, at most
so many times over. -/
def workTile (i : Item) (s : State) : State :=
  let t := i.tile.tabs.cfg i.desc
  s.tileWaves i (s.gang i.part) (t.tiles * (t.passes * 512 + 4) + 3)

/-- A `TILE` starts with the tables that its checks have read (R50). -/
def startTile (i : Item) (s : State) : State :=
  match s.readTabs i.req i.ctx i.desc with
  | .error why => s.stopItem i why
  | .ok x =>
    let cur := (s.current i).getD i
    let i := { cur with tile := { cur.tile with tabs := x } }
    workTile i (s.setItem i)

/-! ## Verification of speculative passes (R153–R155) -/

/-- The counts of a verification: misses and wasted blocks of the pass, a replay with its rewind of the feeder, and the cycles
that the next pass waited (R155, R221). -/
def State.countVerify (s : State) (c : CtxId) (pred cur : List Bool) (waited : Nat) : State :=
  let pairs := cur.zip pred
  let replay := if cur = pred then 0 else 1
  let s := s.tallyN .maskMissCnt c.val .gangStatus c.val 0 (pairs.filter fun e => e.1 && !e.2).length
  let s := s.tallyN .maskWasteCnt c.val .gangStatus c.val 1 (pairs.filter fun e => !e.1 && e.2).length
  let s := s.tallyN .maskReplayCnt c.val .gangStatus c.val 2 replay
  let s := s.tallyN .queueRewindCnt c.val .queueStatus c.val 2 replay
  s.tallyN .specWaitCnt c.val .gangStatus c.val 3 waited

/-- The pass of an engine compared with the final bits (R153): confirmed, or replayed on them from the shadow of the bank, with the
vectors that the feeder has held; either way its entries are released. -/
def State.verifyRun (s : State) (i : Item) (t : TileCfg) (run : TileRun) (waited : Nat) : Except Stop State := do
  let cur ← s.passBits (run.via i) t run.tile run.pass t.cur
  let pred := run.bits.getD []
  let s := s.countVerify i.ctx pred cur waited
  let ix := sluiceIx run.core 0
  let s := s.setQueue ix { s.queue ix with mark := none }.freeRead
  let run' := { run with bits := some cur, spec := false, wait := false }
  if cur = pred then
    let s := if run.ran then s.releasePass run else s
    pure (s.setItem { i with tile := i.tile.setRun (if run.ran then run'.passed else run') })
  else
    let e := s.array run.core
    let s := s.setArray run.core (e.setInUse e.saved)
    pure (s.setItem { i with tile := i.tile.setRun { run' with ran := false } })

/-- An engine of a `TILE` verifies its pass once it sees `FINAL_BAR` open. -/
def State.verifyPass (s : State) (i : Item) (core waited : Nat) : State :=
  let t := i.tile.tabs.cfg i.desc
  match i.tile.runs.find? fun x => x.core = core && x.spec with
  | none => s
  | some run =>
    if !s.final i t then s
    else
      match s.verifyRun i t run waited with
      | .error why => s.stopItem i why
      | .ok s => s

/-! ## Preemption (R156, R343) -/

/-- An engine gives up its tile, which runs in full later. The slices of its confirmed passes, whose lines are freed, stay with
the item (DESIGN CHOICE 133). -/
def TileRun.abandoned (t : TileCfg) (run : TileRun) : TileRun :=
  { run with
    pass := 0, bits := none, spec := false, ran := false, wait := false
    got := if !t.d.tFed || run.pass = 0 then [] else run.got.take (t.feedUpto (t.area run.tile).2.1 (run.pass - 1)) }

/-- Engines with an unverified pass abandon their tile at once: nothing of it is written (R156). -/
def TileWork.abandoned (t : TileCfg) (w : TileWork) : TileWork :=
  { w with runs := w.runs.map fun run => if run.spec then run.abandoned t else run }

/-- Every engine leaves its tile. -/
def TileWork.left (t : TileCfg) (w : TileWork) : TileWork :=
  { w with reached := false, runs := w.runs.map fun run => if run.begun then run.abandoned t else { run with wait := false } }

/-- A stream-fed engine that has begun its tile and whose pass is not in doubt runs to the end of it, as long as a program
delivers into its feeder (R156, R209, R343). -/
def State.runsTile (s : State) (i : Item) : Bool :=
  i.phase = .working && i.desc.opcode = 1 && i.desc.tFed &&
    i.tile.runs.any fun run => run.begun && !run.spec && (s.producer (sluiceIx run.core 0)).isSome

/-! ## The conservator's comparison (R172) -/

/-- The FP32 bits of a value that FP32 holds exactly; the decoded reference operands are such values. -/
def exact32 (v : Val) : Nat := (strictRound false v.sign v).bits

/-- The reference value of an element (R172): the strict procedure from +0 with the reference operands. -/
def refValue (take : Nat → Bool) : List (Option Val) → List (Option Val) → Nat → Nat → Nat
  | some w :: ws, some a :: as, k, acc =>
    if take k then refValue take ws as (k + 1) (fmaStrict false (exact32 a) (exact32 w) acc).bits
    else refValue take ws as (k + 1) acc
  | _ :: ws, _ :: as, k, acc => refValue take ws as (k + 1) acc
  | _, _, _, acc => acc

/-- An operand row as decoded values: code times scale. -/
def TileCfg.decodedRow (t : TileCfg) (p : Operand) (codes : List Byte) (outer0 outer : Nat) (row : List (Option Nat)) :
    List (Option Val) :=
  (t.rowVals p (fun k => p.scaleAt codes outer0 outer k t.k) row).map fun e => e.map fun (x, sc) => x.mul sc

/-- The scale of one output element as it stands in memory (R95). -/
def State.outScale (s : State) (v : Via) (t : TileCfg) (m n : Nat) : Except Stop Val :=
  if t.o.on then do
    let e := t.o.codes m 1 n 1 t.n
    let b ← s.tread v e.1 e.2
    pure (scaleVal t.o.s16 (leNat b))
  else .ok (Val.ofNat 1)

/-- A sampled tile judged on what its engine left of it (R172): none when it is not compared, else whether it diverges. -/
def State.judge (s : State) (i : Item) (t : TileCfg) (l : Layer) (run : TileRun) : Except Stop (Option Bool) := do
  let v := run.via i
  let n := run.tile
  let (m0, mc, n0, nc) := t.area n
  let ws' ← (List.range t.passes).mapM fun p => s.readWeights v t n p
  let wgt (j : Nat) : List (Option Nat) := ws'.flatMap fun e => e.1.cells.getD j []
  let wCodes ← s.readScales v t.w n0 nc t.k
  let aCodes ← s.readScales v t.a m0 mc t.k
  let act (k : Nat) : List (Option Nat) := (List.range t.k).map fun q => some (t.gotCode mc run.got k q)
  let ref (o : Option (Nat × Nat × Nat)) (row : Nat) : Except Stop (Option (List (Option Val))) :=
    match o with
    | none => .ok none
    | some (va, p, f) => do
      let b ← s.tread v (va + row * p) (packedLen f t.k)
      pure (some ((unpack f t.k b).map fun c => some (f32Strict (if f = 6 then c * 65536 else c))))
  let ws ← (List.range nc).mapM fun j => do
    let dec := t.decodedRow t.w wCodes n0 (n0 + j) (wgt j)
    match ← ref t.refs.1 (n0 + j) with
    | some row => pure ((row.zip dec).map fun e => if e.2.isSome then e.1 else none)
    | none => pure dec
  let as ← (List.range mc).mapM fun k => do
    match ← ref t.refs.2 (m0 + k) with
    | some row => pure row
    | none => pure (t.decodedRow t.a aCodes m0 (m0 + k) (act k))
  let bits ← (List.range t.passes).mapM fun p => s.passBits v t n p t.cur
  let take (k : Nat) : Bool := t.take run.masks (k / t.slice * t.slice) (bits.getD (k / t.slice) []) k
  let (off, _) := t.span n
  let rows := (List.range mc).filter fun k => t.rowOn run.masks m0 (m0 + k)
  let pairs ← rows.mapM fun k => do
    let raw ← s.tread v (t.d.tOutVa + (m0 + k) * t.oPitch + off) (packedLen t.o.fmt nc)
    (List.range nc).mapM fun j => do
      let sc ← s.outScale v t (m0 + k) (n0 + j)
      let v := (elemVal t.o.fmt (elemCode t.o.fmt raw j))
      let narrow := if sc = .nan then Val.nan else if t.o.on && sc.isZero then Val.zero else v.mul sc
      pure (exact32 narrow, refValue take (ws.getD j []) (as.getD k []) 0 0)
  let cells := pairs.flatten
  let num := cells.foldl (fun a e => add32 a (let d := rne32 ((f32Strict e.1).sub (f32Strict e.2)); mul32 d d)) 0
  let den := cells.foldl (fun a e => add32 a (rne32 ((f32Strict e.2).mul (f32Strict e.2)))) 0
  let rhs := mul32 (mul32 l.thresh l.thresh) den
  pure (if cells.any (fun e => !finite32 e.2) || !finite32 den then none
    else some (!finite32 num || lt32 rhs num))

/-- The outcome of a comparison counted (R172). -/
def State.compared (s : State) (i : Item) (out : Option Bool) : State :=
  let c := i.ctx.val
  let layer := i.desc.tLayer
  match out with
  | none => s.count .consSkipCnt c
  | some diverges =>
    let s := s.count .consTileCnt c
    if diverges then
      let s := (s.tally .divergeCnt c .precStatus c 3).raise 0x02 (some i.ctx) layer
      s.wr .divergeLocal c (layer / 8) (s.rd .divergeLocal c (layer / 8) ||| BitVec.ofNat 64 (2 ^ (layer % 8)))
    else s

/-- A comparison made: it is counted, and the `TILE` goes on. -/
def State.checked (s : State) (i : Item) (n : Nat) (out : Option Bool) : State :=
  let cur := (s.current i).getD i
  let s := s.setItem { cur with tile := { cur.tile with checks := cur.tile.checks.filter fun e => e.tile ≠ n } }
  let s := s.compared i out
  if cur.phase = .working then workTile i s else s

/-- A sampled tile's reference completes (R172, R173): the tile is judged on the activations that its feeder expanded, and the
`TILE` goes on. An uncorrectable error fails it. -/
def State.compareTile (s : State) (i : Item) (n : Nat) : State :=
  let t := i.tile.tabs.cfg i.desc
  match t.layer, i.tile.checks.find? fun e => e.tile = n with
  | some l, some run =>
    match s.judge i t l run with
    | .error why => s.stopItem i why
    | .ok out => s.checked i n out
  | _, _ => s.checked i n none

end Sys2Proof.Machine
end

