-- ==== Sys2Proof/Machine/Collect.lean ====
section
/-! DEFINITION. Embedding collections, the vitrine and `MIGRATE` (R285–R301). -/

namespace Sys2Proof.Machine

/-! ## Collections (R285–R289) -/

/-- A collection descriptor by its address and its eight words (R285). -/
structure Coln where
  va    : Nat
  words : List W64
deriving DecidableEq, Repr

/-- Word k of a descriptor. -/
def Coln.w (x : Coln) (k : Nat) : W64 := x.words.getD k 0
/-- `KIND`: 0 direct, 1 hashed, 2 composite. -/
def Coln.kind (x : Coln) : Nat := bits 59 56 (x.w 0)
/-- `EFMT`. -/
def Coln.efmt (x : Coln) : Nat := bits 55 48 (x.w 0)
/-- Bytes of a row. -/
def Coln.rowBytes (x : Coln) : Nat := 16 * (bits 43 32 (x.w 0) + 1)
/-- `LOGICAL`. -/
def Coln.logical (x : Coln) : Nat := bits 39 0 (x.w 1)
/-- Physical rows. -/
def Coln.rows (x : Coln) : Nat := bits 31 0 (x.w 2) + 1
/-- `ROW_VA`, or the first subtable's descriptor. -/
def Coln.rowVa (x : Coln) : Nat := bits 47 0 (x.w 3)
/-- `RES_VA`, or the second subtable's descriptor. -/
def Coln.resVa (x : Coln) : Nat := bits 47 0 (x.w 4)
/-- `SLOTMAP_VA`. -/
def Coln.slotVa (x : Coln) : Nat := bits 47 0 (x.w 5)
/-- `VIT_PART`. -/
def Coln.part (x : Coln) : Nat := bits 63 59 (x.w 6)
/-- `VIT_DIE`. -/
def Coln.die (x : Coln) : Nat := bits 58 57 (x.w 6)
/-- `VIT_OFF`, in lines. -/
def Coln.vitOff (x : Coln) : Nat := bits 51 32 (x.w 6)
/-- `VIT_SLOTS`. -/
def Coln.slots (x : Coln) : Nat := bits 31 0 (x.w 6)
/-- `SALT`. -/
def Coln.salt (x : Coln) : Nat := (x.w 7).toNat
/-- `COMBINE` of a composite: product. -/
def Coln.product (x : Coln) : Bool := bit 0 (x.w 7)
/-- Bytes of an element. -/
def Coln.elemBytes (x : Coln) : Nat := if x.efmt = 6 then 2 else 4
/-- E, the elements of a row. -/
def Coln.elems (x : Coln) : Nat := x.rowBytes / x.elemBytes
/-- P_v, the vitrine pitch (R291). -/
def Coln.pitch (x : Coln) : Nat := 64 * ceilDiv x.rowBytes 64

/-- A descriptor read (R286). -/
def State.colnAt (s : State) (r : Req) (va : Nat) : Except Stop Coln := do
  let b ← s.vread r va 64
  pure ⟨va, wordsOf 8 b⟩

/-- A reserved bit of a descriptor is set (R285, R286). -/
def Coln.rsvd (x : Coln) : Bool :=
  bits 63 60 (x.w 0) ≠ 0 || bits 47 44 (x.w 0) ≠ 0 || bits 63 40 (x.w 1) ≠ 0 || bits 63 32 (x.w 2) ≠ 0 ||
    bits 63 48 (x.w 3) ≠ 0 || bits 63 48 (x.w 4) ≠ 0 || bits 63 48 (x.w 5) ≠ 0 || bits 56 52 (x.w 6) ≠ 0 ||
    (x.kind = 0 && x.w 7 ≠ 0) || (x.kind = 2 && bits 63 1 (x.w 7) ≠ 0)

/-- The collection's address stands in a used element of the context's registry (R286, R292, R302); an element names the address of its
low 48 bits (DESIGN CHOICE 157). -/
def State.registered (s : State) (c : CtxId) (x : Coln) : Bool :=
  (s.rdRange .embRegistry c.val 0 16).any fun w => w ≠ 0 && bits 47 0 w = x.va

/-- A descriptor of itself breaks R286; a composite, which cannot be registered (R292), has no vitrine slots. -/
def State.badColn (s : State) (c : CtxId) (x : Coln) : Bool :=
  let zerosOf := countTrue [x.resVa = 0, x.slotVa = 0, x.slots = 0]
  2 < x.kind || !(x.efmt = 6 || x.efmt = 7) || x.logical = 0 || (x.kind = 0 && x.rows ≠ x.logical) ||
    x.va % 64 ≠ 0 || x.rowVa % 64 ≠ 0 || x.resVa % 64 ≠ 0 || x.slotVa % 64 ≠ 0 ||
    (if x.kind = 2 then x.slotVa ≠ 0 else zerosOf ≠ 0 && zerosOf ≠ 3) ||
    (x.slots ≠ 0 && (x.kind = 2 || !s.registered c x)) || 2 ^ 28 < x.slots

/-- A collection with its subtables, which only a composite has. -/
structure EmbTable where
  top  : Coln
  sub1 : Coln
  sub2 : Coln
deriving DecidableEq, Repr

/-- A collection read whole (R286). -/
def State.collAt (s : State) (r : Req) (va : Nat) : Except Stop EmbTable := do
  let t ← s.colnAt r va
  if t.kind = 2 then do
    let a ← s.colnAt r t.rowVa
    let b ← s.colnAt r t.resVa
    pure ⟨t, a, b⟩
  else pure ⟨t, t, t⟩

/-- The collection is a composite. -/
def EmbTable.composite (x : EmbTable) : Bool := x.top.kind = 2

/-- A reserved bit of one of its descriptors is set. -/
def EmbTable.rsvd (x : EmbTable) : Bool := x.top.rsvd || x.sub1.rsvd || x.sub2.rsvd

/-- The collection breaks R286 or R289. -/
def State.badColl (s : State) (c : CtxId) (x : EmbTable) : Bool :=
  s.badColn c x.top ||
    (x.composite &&
      (s.badColn c x.sub1 || s.badColn c x.sub2 || x.sub1.kind ≠ 0 || x.sub2.kind ≠ 0 ||
        x.sub1.efmt ≠ x.top.efmt || x.sub2.efmt ≠ x.top.efmt ||
        x.sub1.rowBytes ≠ x.top.rowBytes || x.sub2.rowBytes ≠ x.top.rowBytes ||
        x.sub1.rows * x.sub2.rows < x.top.logical || x.top.rows ≠ x.sub1.rows + x.sub2.rows))

/-- The index is valid (R287). -/
def EmbTable.valid (x : EmbTable) (i : Nat) : Bool := i < x.top.logical && i ≠ missing

/-- The fold of R288. -/
def fold (salt rows i : Nat) : Nat :=
  let a := Nat.xor i salt * 0x9E3779B97F4A7C15 % 2 ^ 64
  let b := Nat.xor a (a / 2 ^ 29)
  b / 2 ^ 32 * rows / 2 ^ 32

/-- The row of a direct or hashed collection for an index (R287). -/
def Coln.rowOf (x : Coln) (i : Nat) : Nat := if x.kind = 1 then fold x.salt x.rows i else i

/-- The rows of an index in the collection's row space: one, or two for a composite (R287, R289). -/
def EmbTable.rowsOf (x : EmbTable) (i : Nat) : List Nat :=
  if x.composite then [i / x.sub2.rows, x.sub1.rows + i % x.sub2.rows] else [x.top.rowOf i]

/-- The table and the row in it of a row of the row space (R289, R313). -/
def EmbTable.place (x : EmbTable) (row : Nat) : Coln × Nat :=
  if x.composite then (if row < x.sub1.rows then (x.sub1, row) else (x.sub2, row - x.sub1.rows)) else (x.top, row)

/-! ## Residency (R291, R293) -/

/-- The share of a partition in a die: its start and length within the vitrine (R291). -/
def State.shareOf (s : State) (part : Nat) : Nat × Nat :=
  let k := s.partSize
  if 8 ≤ k then (0, 0x2000000) else (part % (8 / k) * 0x400000 * k, 0x400000 * k)

/-- The physical address of a slot (R291, R325). -/
def State.slotPa (s : State) (x : Coln) (t : Nat) : Nat :=
  0x38080000000 + x.die * 0x2000000 + (s.shareOf x.part).1 + 64 * x.vitOff + t * x.pitch

/-- A residency word (R293). -/
structure Resid where
  state : Nat
  done  : Bool
  stale : Bool
  slot  : Nat
deriving DecidableEq, Repr

/-- The word of a residency. -/
def Resid.code (x : Resid) : Nat := x.state * 2 ^ 30 + x.done.toNat * 2 ^ 29 + x.stale.toNat * 2 ^ 28 + x.slot % 2 ^ 28

/-- The residency of a row; a collection without a vitrine has every row in HBM. -/
def State.resid (s : State) (r : Req) (x : Coln) (row : Nat) : Except Stop Resid :=
  if x.slots = 0 then .ok ⟨0, false, false, 0⟩
  else do
    let w ← s.vword r (x.resVa + 4 * row) 4
    pure ⟨w / 2 ^ 30, w / 2 ^ 29 % 2 = 1, w / 2 ^ 28 % 2 = 1, w % 2 ^ 28⟩

/-- A residency word written. -/
def State.setResid (s : State) (r : Req) (x : Coln) (row : Nat) (v : Resid) : Except Stop State :=
  s.vwrite r (x.resVa + 4 * row) (leBytes 4 v.code)

/-- A slot marked taken or free in the slot bitmap (R285). -/
def State.setSlot (s : State) (r : Req) (x : Coln) (t : Nat) (on : Bool) : Except Stop State := do
  let b ← s.vword r (x.slotVa + t / 8) 1
  let m := 2 ^ (t % 8)
  let was := b / m % 2 = 1
  s.vwrite r (x.slotVa + t / 8) [BitVec.ofNat 8 (if on then (if was then b else b + m) else if was then b - m else b)]

/-- The free slots of a collection. -/
def State.freeSlots (s : State) (r : Req) (x : Coln) : Except Stop (List Nat) := do
  let bs ← s.vread r x.slotVa (ceilDiv x.slots 8)
  pure ((List.range x.slots).filter fun t => !mapBit bs t)

/-- Where a row lies in HBM. -/
def Coln.rowAt (x : Coln) (row : Nat) : Nat := x.rowVa + row * x.rowBytes

/-- A look-up of a row (R294): from the vitrine when it is there, else from HBM. -/
def State.lookUp (s : State) (c : CtxId) (r : Req) (x : Coln) (row : Nat) : Except Stop (State × List Byte) := do
  let v ← s.resid r x row
  if 2 ≤ v.state then do
    let bs ← s.fetch [(s.slotPa x v.slot, x.rowBytes)]
    pure (s.count .vitHitCnt c.val, bs)
  else do
    let bs ← s.vread r (x.rowAt row) x.rowBytes
    pure (s, bs)

/-- FP32 bits as the units read them: below 2^−126 as +0, NaN as it is (R92). -/
def read32 (x : Nat) : Nat := if x % 2 ^ 31 < 0x800000 then 0 else x

/-- The elements of a row as FP32 bits (R92). -/
def rowVals (efmt : Nat) (bs : List Byte) : List Nat :=
  if efmt = 6 then (List.range (bs.length / 2)).map fun e => read32 (leNat ((bs.drop (2 * e)).take 2) * 65536)
  else (List.range (bs.length / 4)).map fun e => read32 (leNat ((bs.drop (4 * e)).take 4))

/-- The value of a valid index (R290): its row, or the sum or product of a composite's two rows. -/
def State.lookUpIndex (s : State) (c : CtxId) (r : Req) (x : EmbTable) (i : Nat) : Except Stop (State × List Nat) :=
  match x.rowsOf i with
  | [row] => do
    let (s, bs) ← s.lookUp c r x.top row
    pure (s, rowVals x.top.efmt bs)
  | q :: t :: _ => do
    let (s, a) ← s.lookUp c r (x.place q).1 (x.place q).2
    let (s, b) ← s.lookUp c r (x.place t).1 (x.place t).2
    let f := if x.top.product then mul32 else add32
    pure (s, List.zipWith f (rowVals x.top.efmt a) (rowVals x.top.efmt b))
  | [] => .ok (s, [])

/-! ## Pending entries (R297) -/

/-- The collection of a pending entry. -/
def Pend.coln (p : Pend) : Coln := ⟨p.coll, p.desc⟩

/-- The entries of a share in use. -/
def State.pendIn (s : State) (x : Coln) : Nat :=
  (s.pend.filter fun p => p.coln.die = x.die && p.coln.part = x.part).length

/-- The entries that a share has: 65,536 of a vitrine in proportion to size (R297). -/
def State.pendCap (s : State) (x : Coln) : Nat := 65536 * (s.shareOf x.part).2 / 0x2000000

/-- The entry of a row is the one named. -/
def Pend.isOf (p : Pend) (c : CtxId) (coll row : Nat) : Bool := p.ctx == c && p.coll == coll && p.row == row

/-- The entries replaced, with the mirrors of R302. -/
def State.setPend (s : State) (ps : List Pend) : State :=
  let s := { s with pend := ps }
  (List.range 4).foldl (fun s d => s.wrN .vitPending 0 d (ps.filter fun p => p.coln.die = d).length) s

/-- A pending entry removed. -/
def State.dropPend (s : State) (c : CtxId) (coll row : Nat) : State :=
  s.setPend (s.pend.filter fun p => !p.isOf c coll row)

/-- An entry of an item's row added. -/
def State.addPend (s : State) (i : Item) (x : Coln) (row slot : Nat) : State :=
  s.setPend (s.pend ++ [⟨i.ctx, x.va, x.words, row, slot, i.step, i.cluster⟩])

/-! ## `MIGRATE` (R294, R295, R298) -/

/-- The checks of a `MIGRATE` body (R286, R298). -/
def checkMigrate (q : IssueAt) (s : State) (j : Job) : Except Stop BodyCheck := do
  let x ← s.collAt (.unit q.ctx j.cluster) j.d.mCollVa
  pure
    { reserved := x.rsvd
      field := s.badColl q.ctx x || x.composite || x.top.slots = 0 || (8 ≤ j.d.stage && j.d.stage ≤ 10)
      last := none
      note := fun _ s => s }

/-- What a row of a `MIGRATE` comes to: done, waiting for its copy to finish, or waiting for a pending entry. -/
inductive RowMove where
  | done
  | copying
  | full
deriving DecidableEq, Repr

/-- A copy starts: a slot is taken and the word is COPYING; which free slot is a free value (R294). -/
def State.startCopy (s : State) (i : Item) (x : Coln) (row : Nat) : Except Stop (State × RowMove) := do
  let r := i.req
  let frees ← s.freeSlots r x
  if frees.isEmpty then pure (s.tally .vitFullCnt i.ctx.val .embStatus i.ctx.val 3, .done)
  else if s.pendCap x ≤ s.pendIn x then pure (s, .full)
  else
    let _ ← s.reachAll r (x.rowAt row) x.rowBytes false
    let (f, s) := s.freeW
    let t := frees.getD (f.toNat % frees.length) 0
    let s ← s.setSlot r x t true
    let s ← s.setResid r x row ⟨1, false, false, t⟩
    pure (s.addPend i x row t, .copying)

/-- The load event of R294. -/
def State.loadRow (s : State) (i : Item) (x : Coln) (row : Nat) : Except Stop (State × RowMove) := do
  let r := i.req
  let v ← s.resid r x row
  match v.state with
  | 0 => s.startCopy i x row
  | 1 => do
    let s ← s.setResid r x row { v with done := false, stale := false }
    pure (s.setPend (s.pend.map fun p => if p.isOf i.ctx x.va row then { p with step := i.step } else p), .copying)
  | 2 => .ok (s, .done)
  | _ => do
    let s ← s.setResid r x row { v with state := 2 }
    pure (s.dropPend i.ctx x.va row, .done)

/-- The evict event of R294. -/
def State.evictRow (s : State) (i : Item) (x : Coln) (row : Nat) : Except Stop (State × RowMove) := do
  let r := i.req
  let v ← s.resid r x row
  match v.state with
  | 1 => do
    let s ← s.setSlot r x v.slot false
    let s ← s.setResid r x row ⟨0, false, false, 0⟩
    pure (s.dropPend i.ctx x.va row, .done)
  | 2 =>
    if s.pendCap x ≤ s.pendIn x then .ok (s, .full)
    else do
      let s ← s.setResid r x row { v with state := 3 }
      pure (s.addPend i x row v.slot, .done)
  | _ => .ok (s, .done)

/-- The entries of the list from the item's progress on. `pos` holds 1 and the row while a copy is awaited, 2 while a pending
entry is (counted once, R297). In a context that is PREEMPTING no further row begins (R299). -/
def State.migrateFrom (s : State) (i : Item) (x : Coln) : Nat → State
  | 0 => s
  | n + 1 =>
    match s.current i with
    | none => s
    | some cur =>
      let k := cur.progress
      if cur.desc.mCount < k then s.finish cur 0
      else
        match s.vword cur.req (cur.desc.mListVa + 5 * k) 5 with
        | .error why => s.stopItem cur why
        | .ok row =>
          let next (s : State) : State :=
            State.migrateFrom ((s.setItem { cur with pos := [] }).advance { cur with pos := [] } (k + 1)) i x n
          if cur.pos.headD 0 ≠ 1 && (s.ctx cur.ctx).st = .preempting then s
          else if x.rows ≤ row || row = missing then next (s.tally .vitDropCnt cur.ctx.val .embStatus cur.ctx.val 5)
          else if cur.pos.headD 0 = 1 then
            -- the copy of this row is awaited
            match s.resid cur.req x row with
            | .error why => (s.setItem { cur with pos := [] }).stopItem cur why
            | .ok v => if v.state = 1 && !v.done then s else next s
          else
            match if cur.desc.mEvict then s.evictRow cur x row else s.loadRow cur x row with
            | .error why => s.stopItem cur why
            | .ok (s, .done) => next s
            | .ok (s, .copying) => s.setItem { cur with pos := [1, row] }
            | .ok (s, .full) =>
              let s := if cur.pos = [2] then s else s.tally .vitPendWaitCnt cur.ctx.val .embStatus cur.ctx.val 6
              s.setItem { cur with pos := [2] }

/-- A `MIGRATE` works as far as it can. -/
def workMigrate (i : Item) (s : State) : State :=
  match s.colnAt i.req i.desc.mCollVa with
  | .error why => s.stopItem i why
  | .ok x => s.migrateFrom i x (i.desc.mCount + 2)

/-- The bytes of a row copied from HBM into its slot, with its padding (R291, R294). -/
def State.copyRow (s : State) (p : Pend) : Except Stop State := do
  let x := p.coln
  let bs ← s.vread (.unit p.ctx p.cluster) (x.rowAt p.row) x.rowBytes
  pure (s.poke (s.slotPa x p.slot) (bs ++ zeros (x.pitch - x.rowBytes)))

/-- The copy of a COPYING row completes (R294): the slot holds the row and `DONE` is set. A copy that meets a fault parks
the item that waits for it, which restarts at that row (R299), and leaves the word as it is. -/
def State.copyDone (s : State) (c : CtxId) (coll row : Nat) : State :=
  match s.pend.find? fun p => p.isOf c coll row with
  | none => s
  | some p =>
    let r : Req := .unit p.ctx p.cluster
    let made : Except Stop State := do
      let v ← s.resid r p.coln p.row
      if v.state = 1 && !v.done then do
        let s ← s.copyRow p
        s.setResid r p.coln p.row { v with done := true }
      else pure s
    match made with
    | .ok s => s
    | .error why =>
      match s.items.find? fun i => i.ctx == c && i.desc.opcode = 12 && i.desc.mCollVa = coll && i.phase = .working && i.pos = [1, row] with
      | some i => (s.setItem { i with pos := [] }).stopItem i why
      | none => s.noteUe why

/-! ## The boundary (R296) -/

/-- One pending entry at order 3. An access that fails leaves its entry pending (DESIGN CHOICE 22). -/
def State.flip (s : State) (step : W64) (p : Pend) : State :=
  let r : Req := .unit p.ctx p.cluster
  let x := p.coln
  let c := p.ctx.val
  let home (s : State) (cnt : Obj) (b : Nat) : Except Stop State := do
    let s ← s.setSlot r x p.slot false
    let s ← s.setResid r x p.row ⟨0, false, false, 0⟩
    pure ((s.dropPend p.ctx p.coll p.row).tally cnt c .embStatus c b)
  let made : Except Stop State := do
    let v ← s.resid r x p.row
    match v.state with
    | 3 => home s .vitEvictCnt 0
    | 1 =>
      if v.done then do
        let s ← (if v.stale then (s.copyRow p).map fun s => s.tally .vitRecopyCnt c .embStatus c 2 else pure s)
        let s ← s.setResid r x p.row ⟨2, false, false, p.slot⟩
        pure ((s.dropPend p.ctx p.coll p.row).count .vitLoadCnt c)
      else if p.step.toNat ≤ step.toNat then home s .vitAbandonCnt 4
      else pure s
    | _ => pure (s.dropPend p.ctx p.coll p.row)
  match made with
  | .ok s => s
  | .error why => s.noteUe why

/-- Order 3 of R82: the walk over the pending entries of a context (R296). -/
def State.flipAll (s : State) (c : CtxId) (step : W64) : State :=
  (s.pend.filter fun p => p.ctx == c).foldl (fun s p => s.flip step p) s

/-! ## Update writes (R294, R295, R300) -/

/-- A row's write by a sparse `UPDATE` (R295): HBM first, then the residency word's mark, or the slot. -/
def State.writeRow (s : State) (c : CtxId) (r : Req) (x : Coln) (row : Nat) (bs : List Byte) : Except Stop State := do
  let s ← s.vwrite r (x.rowAt row) bs
  let v ← s.resid r x row
  match v.state with
  | 1 => do
    let s ← s.setResid r x row { v with stale := true }
    pure (s.tally .vitStaleCnt c.val .embStatus c.val 1)
  | 0 => .ok s
  | _ => .ok (s.poke (s.slotPa x v.slot) (bs ++ zeros (x.pitch - bs.length)))

/-! ## Registration (R292) -/

/-- Every row of a collection in HBM: its residency map and slot bitmap zero, its pending entries removed (R292). -/
def State.allHome (s : State) (c : CtxId) (va : Nat) : State :=
  let r := s.stepReq c
  let s := s.setPend (s.pend.filter fun p => !(p.ctx == c && p.coll == va))
  match s.colnAt r va with
  | .error why => s.noteUe why
  | .ok x =>
    let clear (s : State) (a n : Nat) : State :=
      (piecesOf a n).foldl (fun s (a, n) =>
        match s.vwrite r a (zeros n) with
        | .ok s => s
        | .error why => s.noteUe why) s
    if x.slots = 0 then s else clear (clear s x.resVa (4 * x.rows)) x.slotVa (ceilDiv x.slots 8)

/-- The regions of a registered collection: its share, start and length. -/
def Coln.region (x : Coln) : (Nat × Nat) × Nat × Nat := ((x.die, x.part), 64 * x.vitOff, x.slots * x.pitch)

/-- Two regions of the same share overlap. -/
def regionsMeet (a b : (Nat × Nat) × Nat × Nat) : Bool := a.1 == b.1 && a.2.1 < b.2.1 + b.2.2 && b.2.1 < a.2.1 + a.2.2

end Sys2Proof.Machine
end

