-- ==== Sys2Proof/Machine/Flags.lean ====
section
/-! DEFINITION. What a read of an entry returns: the W1C flags of the status entries, the fields and entries that follow
the state (R13, R62, R63, R85, R109, R135, R161, R179, R206, R211, R234, R236, R262, R283, R302, R324, R350, R380, R406,
R431, R459, R484). -/

namespace Sys2Proof.Machine

/-- The W1C flags of a status entry, by its layout; none for an entry that is no status entry. -/
def w1cMask : Obj → Option Nat
  | .ctxStatus => some 0xC
  | .paceStatus => some 0xE
  | .fmtStatus => some 0x30F
  | .arrayStatus => some 0x3
  | .gangStatus => some 0x3F
  | .precStatus => some 0x3F
  | .streamStatus => some 0x7E
  | .queueStatus => some 0x7
  | .sampleStatus => some 0xE
  | .gatherStatus => some 0xF
  | .embStatus => some 0x7F
  | .updStatus => some 0x1F
  | .mmuStatus => some 0xF
  | .memStatus => some 0x7
  | .shxStatus => some 0x5FF
  | .survStatus => some 0x17F
  | .hostCtxStatus => some 0xF
  | .hostStatus => some 0x3
  | .igcorStatus => some 0x3E
  | .pwrStatus => some 0x3FF
  | _ => none

/-- A write to a status entry clears the W1C flags written with 1 (R234), but for those set on the same edge: the set wins
(R13, R235). -/
def State.clearFlags (s : State) (o : Obj) (n : Nat) (v : W64) : State :=
  match w1cMask o with
  | none => s
  | some m => s.wr o n 0 (s.rd o n &&& ~~~ (v &&& BitVec.ofNat 64 m &&& ~~~ s.freshFlags o n))

/-- The code of a context state (R39). -/
def CtxState.code : CtxState → Nat
  | .idle => 0
  | .running => 1
  | .parked => 2
  | .preempting => 3
  | .preempted => 4
  | .faulted => 5

/-- The code of a stream engine's state (R206). -/
def EngState.code : EngState → Nat
  | .idle => 0
  | .starting => 1
  | .running => 2
  | .parked => 3
  | .stopped => 4
  | .halted => 5

/-- The bits of the clusters whose unit of an opcode holds a started item (R262, R323). -/
def State.busyClusters (s : State) (op : Nat) : Nat :=
  ((List.range 32).filter fun k =>
    s.items.any fun i => i.desc.opcode = op && s.holdsItem i && i.cluster.any fun c => c.val = k).foldl (fun a k => a + 2 ^ k) 0

/-- An element of `BAR_TABLE` (R236): barrier b of a context. -/
def State.barWord (s : State) (c : CtxId) (b : Nat) : W64 :=
  let x := s.bar c b
  let st := match x.st with
    | .uninit => 0
    | .closed => 1
    | .opened => 2
  BitVec.ofNat 64 (st * 2 ^ 62 + x.count * 2 ^ 32 + min 255 (s.waiters c b) * 2 ^ 24 + x.arrived)

/-- The context whose bitmap holds a partition of the split in force (R38, R161). -/
def State.partOwner (s : State) (p : Nat) : Option CtxId :=
  if p < s.rdN .dikeSplit then allCtx.find? fun c => s.owns c (p * s.partSize) else none

/-- An element of `DIKE_OWNER` (R161). It reads its Default until a first change has been applied, or the partition shows as faulted;
from then on it follows the ownership in force (DEDUCED 29). -/
def State.dikeWord (s : State) (p : Nat) : W64 :=
  match s.partOwner p with
  | none => 0
  | some c =>
    if s.rdN .applyCnt = 0 && !(s.ctx c).faultParts.contains p then 0
    else BitVec.ofNat 64 (0x80 + (if (s.ctx c).faultParts.contains p then 0x40 else 0) + c.val)

/-- An element of `STREAM_ENGINE_STATE` (R211). -/
def State.engineWord (s : State) (e : Nat) : W64 :=
  let x := s.engine e
  BitVec.ofNat 64 (x.shadow.isSome.toNat * 128 + x.st.code)

/-- A `COMMIT` of the context waits for its token (R81, R85). -/
def State.tokenWait (s : State) (c : CtxId) : Bool :=
  s.items.any fun i => i.ctx == c && i.desc.opcode = 11 && i.phase = .working && i.pos = [1]

/-- The read-only fields of a status entry, as they follow the state. -/
def State.liveBits (s : State) (o : Obj) (n : Nat) : Nat :=
  let c : CtxId := Fin.ofNat 16 n
  let x := s.ctx c
  let on (b : Nat) (v : Bool) : Nat := if v then 2 ^ b else 0
  let items (f : Item → Bool) : Bool := s.items.any fun i => i.ctx == c && f i
  match o with
  | .ctxStatus => x.st.code * 256 + on 1 (items Item.isParked) + on 0 x.prog.isSome
  | .paceStatus => on 4 (s.tokenWait c) + on 0 (x.plan.isSome && x.prog.isSome)
  | .gangStatus => on 8 (items fun i => i.tile.runs.any fun run => run.spec)
  | .streamStatus => on 0 ((List.range 512).any fun e => (s.engine e).shadow.any fun p => p.ctx == c)
  | .queueStatus => on 3 ((rangeFrom 1 255).any fun b => s.waiters c b ≠ 0)
  | .sampleStatus => on 0 (s.trails.any fun t => t.ctx == c && t.ahead)
  | .embStatus => on 7 (s.pend.any fun p => p.ctx == c)
  | .updStatus => on 8 (x.latch.any fun l => l.1)
  | .mmuStatus => on 4 x.inval.isSome
  | .memStatus => on 3 ((List.range 4).any fun d => s.rdN .retireState 0 d = 1)
  | .shxStatus => on 9 s.fabric.locked
  | .survStatus => on 7 (s.rdN .fenceState ≠ 0)
  | .hostCtxStatus => on 4 (!x.waiting.isEmpty)
  | .hostStatus => on 2 (s.rdN .portalMode = 1 || s.rdN .portalMode = 2)
  | .igcorStatus => on 0 s.mgmt.armed.isSome + on 6 s.storing
  | .pwrStatus => on 10 (0 < s.power.h) + on 11 s.sync.latched
  | _ => 0

/-- The bits that word e of `POLDER_TABLE` has (R337); the others read as 0 (R10). -/
def polderBits (e : Nat) : W64 :=
  if e % 4 = 0 then 0x800003FFFFFF0000 else if e % 4 = 1 then 0x000003FFFFFF0000
  else if e % 4 = 2 then 0xFFFF0000FFFFFFFF else 0xF3FF

/-- What a read of an element returns: the applied value, or what follows the state (R234); `PACE_SLOT` once every slot has ended
is the number of slots (DESIGN CHOICE 123), and `SYNC_POS` of a head is 0 (R477). -/
def State.readObj (s : State) (o : Obj) (n e : Nat) : W64 :=
  let c : CtxId := Fin.ofNat 16 n
  let plan := (s.ctx c).plan
  match o with
  | .ctxState => BitVec.ofNat 64 (s.ctx c).st.code
  | .paceSlot => BitVec.ofNat 64 ((plan.map Plan.current).getD 0)
  | .paceBermLeft => BitVec.ofNat 64 ((plan.map fun p => bermAfter p.slots p.current).getD 0)
  | .dikeOwner => s.dikeWord e
  | .streamEngineState => s.engineWord e
  | .barTable => s.barWord c (e + 1)
  | .samplerBusy => BitVec.ofNat 64 (s.busyClusters 5)
  | .sampleTrails => BitVec.ofNat 64 (s.trails.filter fun t => t.ctx == c).length
  | .updBusy => BitVec.ofNat 64 (s.busyClusters 10)
  | .polderTable => s.rd o n e &&& polderBits e
  | .portState => BitVec.ofNat 64 (s.port n).st
  | .stageState => BitVec.ofNat 64 s.mgmt.armed.isSome.toNat
  | .syncPos => if s.rdN .syncHead = 1 then 0 else s.rd .syncPos
  | o => s.rd o n e ||| BitVec.ofNat 64 (s.liveBits o n)

end Sys2Proof.Machine
end

