-- ==== Sys2Proof/Machine/Dictionary.lean ====
section
/-! DEFINITION. The object dictionary: addresses, sections, reads, writes of RW entries and of the staging image
(R11, R434–R438, R444, R448, R453). -/

namespace Sys2Proof.Machine

/-! ## Addresses (R434, R455) -/

/-- The copy of an entry that an index and subindex name, if they name one. -/
def ObjInfo.copyAt (x : ObjInfo) (index sub : Nat) : Option Nat :=
  match x.form with
  | .module => if index = x.index && sub = x.sub then some 0 else none
  | .ctx => if x.index ≤ index && index < x.index + 16 && sub = x.sub then some (index - x.index) else none
  | .port => if x.index ≤ index && index < x.index + 14 && sub = x.sub then some (index - x.index) else none
  | .sub => if index = x.index && sub < 16 then some sub else none
  | .page => none

/-- The entry at an index and subindex, with its copy. -/
def lookup (index sub : Nat) : Option (Obj × Nat) :=
  objTable.findSome? fun r => (r.2.copyAt index sub).map fun n => (r.1, n)

/-- The index of a copy of an entry. -/
def Obj.indexAt (o : Obj) (n : Nat) : Nat :=
  match o.info.form with
  | .ctx | .port => o.info.index + n
  | _ => o.info.index

/-- The context section of a copy of an entry; none for the module section (R434). -/
def sectionOf (o : Obj) (n : Nat) : Option Nat :=
  match o.info.form with
  | .ctx | .sub => some n
  | _ => none

/-- A copy of an entry lies in a scope: a context section, or the whole image (R443). -/
def inScope (scope : Nat) (o : Obj) (n : Nat) : Bool := scope = 0x10 || sectionOf o n = some scope

/-- The bytes of an entry. -/
def ObjInfo.bytes (x : ObjInfo) : Nat := x.size * x.count

/-- The entry is read in part (R435). -/
def ObjInfo.parts (x : ObjInfo) : Bool := x.ty = .array || x.ty = .domain || x.ty = .str

/-! ## Statuses (R444) -/

/-- The status codes. -/
inductive Status where
  | ok | noEntry | access | type_ | range | state | stageChanged | checkFailed | busy | tooLarge | locked | malformed
  | notRun
deriving DecidableEq, Repr

/-- The code of a status. -/
def Status.code : Status → Nat
  | .ok => 0x00
  | .noEntry => 0x01
  | .access => 0x02
  | .type_ => 0x03
  | .range => 0x04
  | .state => 0x05
  | .stageChanged => 0x06
  | .checkFailed => 0x07
  | .busy => 0x08
  | .tooLarge => 0x09
  | .locked => 0x0A
  | .malformed => 0x0B
  | .notRun => 0x0C

/-- The state after an operation: one that is refused is counted (R436). -/
def settle : Status × State → State
  | (.ok, s) => s
  | (.notRun, s) => s
  | (_, s) => s.tally .igcorRefuseCnt 0 .igcorStatus 0 2

/-- The entry at an address, or the status that refuses it (R434, R455). -/
def findEntry (index sub : Nat) : Except Status (Obj × Nat) :=
  if 0xF000 ≤ index then .error .locked
  else
    match lookup index sub with
    | none => .error .noEntry
    | some x => .ok x

/-! ## Reads (R435, R436) -/

/-- Length and offset fit the type of an entry that is read. -/
def ObjInfo.readFits (x : ObjInfo) (off len : Nat) : Bool :=
  len ≤ 1024 &&
    (if x.parts then 0 < len && off % x.size = 0 && len % x.size = 0 && off + len ≤ x.bytes
     else off = 0 && len = x.size)

/-- The bytes of elements of an entry, as a read function gives them. -/
def entryBytes (f : Nat → W64) (x : ObjInfo) (off len : Nat) : List Byte :=
  (rangeFrom (off / x.size) (len / x.size)).flatMap fun e => leBytes x.size (f e).toNat

/-- A read of an entry, or of its staged value. -/
def State.readEntry (s : State) (staged : Bool) (index sub off len : Nat) : Except Status (List Byte) :=
  match findEntry index sub with
  | .error e => .error e
  | .ok (o, n) =>
    let x := o.info
    if staged && x.acc ≠ .rws then .error .access
    else if !x.readFits off len then .error .type_
    else if x.acc = .wo then .ok (zeros len)
    else .ok (entryBytes (fun e => if staged then s.rdStaged o n e else s.readObj o n e) x off len)

/-- The 16 bytes that `DESCRIBE` answers (R443). -/
def ObjInfo.describe (x : ObjInfo) : List Byte :=
  let tyCode : ObjTy → Nat
    | .bool => 1 | .u8 => 2 | .u16 => 3 | .u32 => 4 | .u64 => 5 | .i8 => 6 | .i16 => 7 | .i32 => 8 | .i64 => 9
    | .f32 => 0x0A | .str => 0x0B | .domain => 0x0C | .array => 0x0D
  let acc : Nat := match x.acc with
    | .ro => 0 | .rw => 1 | .wo => 2 | .rws => 3
  let cls : Nat := match x.cls with
    | .volatile => 0 | .persistent => 1 | .strongroom => 2 | .identity => 3
  let count := if x.ty = .array then x.count else 1
  let elTy := if x.ty = .array then tyCode x.elTy else 0
  leBytes 4 (tyCode x.ty + elTy * 2 ^ 8 + acc * 2 ^ 16 + cls * 2 ^ 24) ++ leBytes 4 x.bytes ++ leBytes 4 count ++ zeros 4

/-! ## Writes (R435, R436) -/

/-- The elements that a write gives, each with its value; none when length or offset does not fit the type. -/
def ObjInfo.writeElems (x : ObjInfo) (off : Nat) (data : List Byte) : Option (List (Nat × Nat)) :=
  let n := data.length
  let elems := (List.range (n / x.size)).map fun k => (off / x.size + k, leNat ((data.drop (x.size * k)).take x.size))
  if x.ty = .array then
    if 0 < n && off % x.size = 0 && n % x.size = 0 && off + n ≤ x.bytes then some elems else none
  else if off = 0 && n = x.bytes then some elems else none

/-- A value that the type itself refuses (R435). -/
def ObjInfo.badValue (x : ObjInfo) (v : Nat) : Bool :=
  (x.elTy = .bool && 1 < v) || (x.elTy = .f32 && v / 2 ^ 23 % 256 = 255)

/-- An entry's elements written to the staging image. -/
def State.stageElems (s : State) (o : Obj) (n : Nat) : List (Nat × Nat) → State
  | [] => s
  | (e, v) :: r => State.stageElems (s.wrStaged o n e (BitVec.ofNat 64 v)) o n r

/-- The bits that an element of an RW entry has (R10): the device ignores what is written to the others. The elements of
`EVENT_NOTIFY` have bytes 0 to 9 and bit 0 of byte 15 (R458). -/
def rwBits (o : Obj) (e : Nat) : W64 :=
  if o = .eventNotify then (if e % 16 < 10 then 0xFF else if e % 16 = 15 then 1 else 0) else BitVec.allOnes 64

/-- An entry's elements written at once. -/
def State.writeElems (s : State) (o : Obj) (n : Nat) : List (Nat × Nat) → State
  | [] => s
  | (e, v) :: r => State.writeElems (s.wr o n e (BitVec.ofNat 64 v &&& rwBits o e)) o n r

/-- The values that an RW entry permits, by its meaning (R84, R211, R283, R350, R380, R406, R458, R484). -/
def State.permits_ (s : State) (o : Obj) (v : Nat) : Bool :=
  match o with
  | .paceWindow => 1 ≤ v && v ≤ 8
  | .commitTimeout => v ≠ 0
  | .streamEdfHorizon => 1 ≤ v && v ≤ 65536
  | .gatherPrefetchMib => v ≤ 8
  | .hbmScrubHours => 1 ≤ v && v ≤ 720
  | .shxCollTimeout => v ≠ 0
  | .timeSource => v ≤ 1
  | .laneDisable => v = 0 || v = 1 || v = 2 || v = 4 || v = 8
  | .fenceVoteWindow => v ≠ 0
  | .snapMaxSteps => s.rdN .snapMinSteps ≤ v
  | .plcaNodeId => v ≤ 63 || v = 0xFF
  | .plcaNodeCount => 1 ≤ v && v ≤ 64
  | .plcaToTimer => 1 ≤ v && v ≤ 255
  | .powerCap => 1000 ≤ v && v ≤ 3600
  | .tjThrottleC => 70 ≤ v && v ≤ 100
  | _ => true

/-- The entry is written only while its context is IDLE (R62, R323). -/
def idleOnly (o : Obj) : Bool := o = .ctxStep || o = .updDigest

/-- An RW entry without behaviour of its own written (R11, R234, R436, R438). -/
def State.writeRw (s : State) (o : Obj) (n : Nat) (es : List (Nat × Nat)) : Except Status State :=
  if es.any fun e => !s.permits_ o e.2 then .error .range
  else if idleOnly o && (s.ctx (Fin.ofNat 16 n)).st ≠ .idle then .error .state
  else
    match w1cMask o with
    | some _ => .ok (s.clearFlags o n (BitVec.ofNat 64 ((es.map Prod.snd).getD 0 0)))
    | none =>
      let s := s.writeElems o n es
      let s := if o = .gatherPrefetchMib then s.fitFetched else s
      .ok (if o.info.cls = .persistent then { s with storing := true } else s)

/-- An action of an entry with behaviour of its own: what a write of bytes to a copy of it does. It answers its status with
the state, since a refusal can be counted. -/
abbrev Action := Obj → Nat → List Byte → State → Status × State

/-- The entries whose writes are actions of their own: the WO entries, and `LANE_DISABLE` (R358). -/
def hasAction (o : Obj) : Bool := o.info.acc = .wo || o = .laneDisable

/-- A write to an entry (R436): the staging image for RWS, which an armed image refuses (R453), or its effect at once. -/
def State.writeEntry (s : State) (act : Action) (index sub off : Nat) (data : List Byte) : Status × State :=
  match findEntry index sub with
  | .error e => (e, s)
  | .ok (o, n) =>
    let x := o.info
    if x.acc = .ro then (.access, s)
    else
      match x.writeElems off data with
      | none => (.type_, s)
      | some es =>
        if es.any fun e => x.badValue e.2 then (.range, s)
        else if x.acc = .rws then (if s.mgmt.armed.isSome then (.busy, s) else (.ok, s.stageElems o n es))
        else if hasAction o then act o n data s
        else
          match s.writeRw o n es with
          | .error e => (e, s)
          | .ok s => (.ok, s)

end Sys2Proof.Machine
end

