-- ==== Sys2Proof/Machine/Check.lean ====
section
/-! DEFINITION. `CHECK` (R451): the rules of a staged configuration, and the first that it breaks (R144, R292, R328, R339,
R348, R350, R382, R395, R427, R448). -/

namespace Sys2Proof.Machine

/-! ## The configuration that is checked (R448) -/

/-- The elements of RWS entries in a scope whose staged and applied values differ. -/
def State.changed (s : State) (scope : Nat) : List Nat :=
  let differs (k : Nat) : Bool := Store.get regDefault s.staged k ≠ Store.get regDefault s.regs k
  let mine (k : Nat) : Bool := (regObj k).info.acc = .rws && inScope scope (regObj k) (regCopy k)
  let a := (s.staged.map Prod.fst).filter fun k => mine k && differs k
  let b := (s.regs.map Prod.fst).filter fun k => mine k && differs k && !a.contains k
  a ++ b

/-- Elements of the staging image taken over into the applied values. -/
def State.takeStaged (s : State) : List Nat → State
  | [] => s
  | k :: r => State.takeStaged { s with regs := Store.set regDefault s.regs k (Store.get regDefault s.staged k) } r

/-- The state with the staged values of a scope in force: what `CHECK` judges. -/
def State.candidate (s : State) (scope : Nat) : State := s.takeStaged (s.changed scope)

/-- A rule broken: its set and number, and the entry (R451). -/
structure Broken where
  set  : Nat
  rule : Nat
  idx  : Nat
  sub  : Nat
deriving DecidableEq, Repr

/-- The place of a broken rule in the ascending order of R451. -/
def Broken.key (b : Broken) : Nat := b.set * 2 ^ 32 + b.rule * 2 ^ 24 + b.idx * 2 ^ 8 + b.sub

/-- The first of broken rules. -/
def firstBroken : List Broken → Option Broken
  | [] => none
  | b :: r =>
    match firstBroken r with
    | none => some b
    | some c => if c.key < b.key then some c else some b

/-- The rule code of R451: 0 when every rule holds. -/
def ruleCode : Option Broken → Nat
  | none => 0
  | some b => b.set * 2 ^ 24 + b.rule * 2 ^ 16

/-- A rule broken when a condition holds. -/
def brokenIf (c : Bool) (set rule idx sub : Nat) : List Broken := if c then [⟨set, rule, idx, sub⟩] else []

/-! ## Set 0x01: values -/

/-- The value is a power of two. -/
def isPow2 (v : Nat) : Bool := v ≠ 0 && 2 ^ Nat.log2 v = v

/-- The values that an RWS entry permits, by its meaning. An address whose structure has an alignment is a multiple of it
(DEDUCED 30). -/
def rwsPermits (o : Obj) (v : Nat) : Bool :=
  match o with
  | .paceRunahead => v ≤ 8
  | .consK => v ≤ 16
  | .consLevel => v ≤ 2
  | .dikeSplit => v = 1 || v = 2 || v = 4 || v = 8 || v = 16 || v = 32
  | .ccScratchWays => v ≤ 8
  | .hbmRetire => v / 256 % 8 ≤ 5
  | .portalMode => v ≤ 2
  | .refSelect => v ≤ 2
  | .recoveryReason => v ≤ 2
  | .faultSet => v / 2 ^ 27 % 8 ≤ 5
  | .logRingEntries => 256 ≤ v && v ≤ 65536 && isPow2 v
  | .depotSlotBytes | .saveVa | .faultQueueVa | .outImageVa => v % 65536 = 0
  | .pacePlanVa | .mcastTableVa | .consTableVa => v % 64 = 0
  | _ => true

/-- The reserved bits of an element of an RWS entry. -/
def rwsReserved (o : Obj) : Nat :=
  match o with
  | .rankMap | .loanCoords | .portalGroup => 0x7FFF0000
  | .faultSet => 0x07FF0000
  | .portalSelf => 0x7FC00000
  | .hbmRetire => 0x48C0
  | _ => 0

/-- The entries that must be applied at a global instant (R175, R283, R376, R451). -/
def globalEntry (o : Obj) : Bool :=
  o = .consK || o = .consTableVa || o = .consLevel || o = .splitLen || o = .members || o = .rankMap

/-- `SHX_RANK` differs from the rank that `RANK_MAP` gives `SHX_COORD` (R380): its own element names another coordinate, or is not
valid while another rank's names this one. -/
def State.rankOff (v : State) : Bool :=
  match v.coordOf (v.rdN .shxRank) with
  | none => v.regs.any fun e => regObj e.1 = .rankMap && bit 31 e.2 && bits 15 0 e.2 = v.rdN .shxCoord
  | some c => c ≠ v.rdN .shxCoord

/-- Rule set 0x01. `local_`: the change is made by a local form (R452). -/
def State.checkValues (s v : State) (scope : Nat) (local_ : Bool) : List Broken :=
  let one (k : Nat) (x : W64) : List Broken :=
    let o := regObj k
    let n := regCopy k
    if o.info.acc = .rws && inScope scope o n then
      brokenIf (!rwsPermits o x.toNat) 1 1 (o.indexAt n) o.info.sub ++
        brokenIf (Nat.land x.toNat (rwsReserved o) ≠ 0) 1 2 (o.indexAt n) o.info.sub
    else []
  (v.regs.flatMap fun e => one e.1 e.2) ++
    brokenIf (scope = 0x10 && v.rankOff) 1 1 0x8000 1 ++
    (if local_ && 1 < v.memberList.length then
      ((s.changed scope).filter fun k => globalEntry (regObj k)).map fun k =>
        ⟨1, 4, (regObj k).indexAt (regCopy k), (regObj k).info.sub⟩
    else [])

/-! ## Sets 0x02 to 0x0C -/

/-- The contexts of a scope. -/
def scopeCtxs (scope : Nat) : List CtxId := allCtx.filter fun c => scope = 0x10 || c.val = scope

/-- The context is IDLE. -/
def State.isIdle (s : State) (c : CtxId) : Bool := (s.ctx c).st = .idle

/-- The bitmap of a context. -/
def State.bitmap (s : State) (c : CtxId) : Nat := s.rdN .ctxPartitions c.val

/-- The bitmap of a partition's clusters. -/
def State.partMask (s : State) (p : Nat) : Nat := (2 ^ s.partSize - 1) * 2 ^ (p * s.partSize)

/-- The fuse map retires an engine, or its cluster, for good (R36). -/
def State.fused (s : State) (core : Nat) : Bool :=
  (if core < 64 then s.fuses.enginesLo.getLsbD core else s.fuses.enginesHi.getLsbD (core - 64)) ||
    s.fuses.clusters.getLsbD (core / 4)

/-- An engine is in the gang of a configuration: not excluded, and neither it nor its cluster retired (R36, R157, R159). -/
def State.inGang (v : State) (core : Nat) : Bool :=
  !(if core < 64 then (v.rd .gangExcludeLo).getLsbD core else (v.rd .gangExcludeHi).getLsbD (core - 64)) &&
    !(v.rd .clusterRetire).getLsbD (core / 4) && !v.fused core

/-- Rule set 0x02: dike partitions (R144). -/
def State.checkDikes (s v : State) (scope : Nat) : List Broken :=
  if !rwsPermits .dikeSplit (v.rdN .dikeSplit) then []
  else
    let parts := List.range (v.rdN .dikeSplit)
    let split := v.rdN .dikeSplit ≠ s.rdN .dikeSplit
    ((scopeCtxs scope).flatMap fun c =>
      let p := v.bitmap c
      let idx := 0xB100 + c.val
      let others := allCtx.filter fun d => if scope = 0x10 then d.val < c.val else d ≠ c
      let owned := parts.filter fun q => Nat.land p (v.partMask q) = v.partMask q
      brokenIf (parts.any fun q => Nat.land p (v.partMask q) ≠ 0 && Nat.land p (v.partMask q) ≠ v.partMask q) 2 1 idx 3 ++
        brokenIf (others.any fun d => Nat.land p (v.bitmap d) ≠ 0) 2 2 idx 3 ++
        brokenIf (p ≠ s.bitmap c && !s.isIdle c) 2 3 idx 3 ++
        brokenIf (owned.any fun q =>
          let cls := rangeFrom (q * v.partSize) v.partSize
          !(cls.all fun k => (v.rd .clusterRetire).getLsbD k || v.fuses.clusters.getLsbD k) &&
            !((rangeFrom (4 * q * v.partSize) (4 * v.partSize)).any v.inGang)) 2 4 idx 3) ++
      brokenIf (scope = 0x10 && split && allCtx.any fun c => (v.bitmap c ≠ 0 || s.bitmap c ≠ 0) && !s.isIdle c) 2 3 0x4003 0 ++
      brokenIf (scope = 0x10 && s.rd .clusterRetire &&& ~~~ v.rd .clusterRetire ≠ 0) 2 5 0x4003 1

/-- A retirement is requested by a configuration: die, stack and pseudo-channel. A request is a staged value that differs
from the applied one (DEDUCED 31). -/
def State.retireAsked (s v : State) : Option (Nat × Nat × Nat) :=
  let w := v.rd .hbmRetire
  if bit 15 w && w ≠ s.rd .hbmRetire then some (bits 13 12 w, bits 10 8 w, bits 5 0 w) else none

/-- An enabled polder reaches into the bands of a die from the k-th on (R339, R347). -/
def Polder.meetsBand (p : Polder) (d k : Nat) : Bool :=
  k ≠ 0 && decide (p.base < (d + 1) * dieBytes) && decide (d * dieBytes + bandStart k < p.limit)

/-- The enabled polders of a configuration. -/
def State.polders (v : State) : List Polder := ((List.range 256).map v.polder).filter Polder.enable

/-- The bands of a die in use or staged. -/
def State.bandsOf (s v : State) (d : Nat) : Nat :=
  min 4 ((s.retired d).length + (match s.retireAsked v with
    | some (e, _, _) => (e = d : Bool).toNat
    | none => 0))

/-- Reserved bits of entry j of `POLDER_TABLE`, or a reserved `KIND` (R337). -/
def State.polderRsvd (v : State) (j : Nat) : Bool :=
  let w (k : Nat) := v.rd .polderTable 0 (4 * j + k)
  bits 62 42 (w 0) ≠ 0 || bits 15 0 (w 0) ≠ 0 || bits 63 42 (w 1) ≠ 0 || bits 15 0 (w 1) ≠ 0 || bits 47 32 (w 2) ≠ 0 ||
    bits 63 16 (w 3) ≠ 0 || bits 11 10 (w 3) ≠ 0 || 4 < bits 15 12 (w 3)

/-- Two polders overlap. -/
def Polder.meets (a b : Polder) : Bool := decide (a.base < b.limit) && decide (b.base < a.limit)

/-- Some two elements of a list are in a relation. -/
def anyPair {α : Type} (f : α → α → Bool) : List α → Bool
  | [] => false
  | a :: r => r.any (f a) || anyPair f r

/-- Rule set 0x03: the polder table (R339). -/
def State.checkPolders (s v : State) (scope : Nat) : List Broken :=
  if scope ≠ 0x10 then []
  else
    let ps := v.polders
    let any (f : Polder → Bool) : Bool := ps.any f
    brokenIf (any (fun p => p.limit ≤ p.base || 4 * dieBytes < p.limit) ||
      (List.range 256).any fun j => (v.polder j).enable && v.polderRsvd j) 3 1 0x3000 4 ++
      brokenIf (anyPair Polder.meets ps) 3 2 0x3000 4 ++
      brokenIf (any fun p => (List.range 4).any fun d => p.meetsBand d (s.bandsOf v d)) 3 3 0x3000 4 ++
      brokenIf (any fun p => p.kind = 1 && (!p.grants 4 || p.grants 1 || p.grants 3 || p.grants 6)) 3 4 0x3000 4 ++
      brokenIf (any fun p => p.kind = 4 && (!p.grants 9 || p.grants 1)) 3 5 0x3000 4 ++
      brokenIf (any fun p => p.kind = 3 && (p.grants 1 || p.grants 3 || p.grants 4 || p.grants 6)) 3 6 0x3000 4

/-- Rule set 0x04: pseudo-channel retirement (R348). -/
def State.checkRetire (s v : State) (scope : Nat) : List Broken :=
  match if scope = 0x10 then s.retireAsked v else none with
  | none => []
  | some (d, h, p) =>
    let n := (s.retired d).length
    brokenIf ((s.retired d).contains (h, p)) 4 1 0x3000 2 ++
      brokenIf (4 ≤ n) 4 2 0x3000 2 ++
      brokenIf (s.rdN .retireState 0 d = 1) 4 3 0x3000 2 ++
      brokenIf (n < 4 && v.polders.any fun q => q.meetsBand d (n + 1)) 4 4 0x3000 2

/-- The registered collections of a context in a configuration, as they are read; an element names the address of its low 48 bits
(DESIGN CHOICE 157). -/
def State.registryReads (v : State) (c : CtxId) : List (Except Stop Coln) :=
  ((v.rdRange .embRegistry c.val 0 16).filter (· ≠ 0)).map fun w => v.colnAt (v.stepReq c) (bits 47 0 w)

/-- The registered collections, each as far as it can be read. -/
def State.registry (v : State) (c : CtxId) : List (Option Coln) := (v.registryReads c).map Except.toOption

/-- Rule set 0x05: the vitrine registry (R292). A partition whose clusters are all retired is not owned for it (DESIGN CHOICE 158). -/
def State.checkRegistry (s v : State) (scope : Nat) : List Broken :=
  (scopeCtxs scope).flatMap fun c =>
    let idx := 0x6500 + c.val
    let xs := v.registry c
    let known := xs.filterMap id
    let others := (allCtx.filter fun d => d ≠ c).flatMap fun d => (v.registry d).filterMap id
    let parts := v.ownedParts c
    brokenIf (xs.any fun x =>
      match x with
      | none => true
      | some x => 2 ≤ x.kind || x.rsvd || v.badColn c x || x.slots = 0) 5 1 idx 1 ++
      brokenIf (known.any fun x => !parts.contains x.part ||
        !((v.partClusters x.part).any fun k => k / 8 = x.die)) 5 2 idx 1 ++
      brokenIf (known.any fun x => (v.shareOf x.part).2 < 64 * x.vitOff + x.slots * x.pitch) 5 3 idx 1 ++
      brokenIf (anyPair (fun a b => regionsMeet a.region b.region) known ||
        known.any fun a => others.any fun b => regionsMeet a.region b.region) 5 4 idx 1 ++
      brokenIf ((v.rdRange .embRegistry c.val 0 16 ≠ s.rdRange .embRegistry c.val 0 16) && !s.isIdle c) 5 5 idx 1

/-- The partner of a rank (R395). -/
def State.partnerOf (v : State) (r : Nat) : Nat := v.rdN .partnerMap 0 r

/-- The bytes that the depot polder holds from `DEPOT_PA` on: eight slots and their hash areas (R392). -/
def State.depotBytes (v : State) : Nat := 8 * v.rdN .depotSlotBytes + v.rdN .depotSlotBytes / 1024

/-- The polder grants what a depot needs and no other write (R392). -/
def Polder.isDepot (p : Polder) : Bool :=
  p.kind = 2 && p.grants 5 && p.grants 6 && !p.grants 1 && !p.grants 3 && !p.grants 4 && !p.grants 8

/-- Rule set 0x06: partners and loans (R395). A domain of one has no partners to assign, and no depot unless `DEPOT_PA` names one
(DEDUCED 32). -/
def State.checkPartners (v : State) (scope : Nat) : List Broken :=
  if scope ≠ 0x10 then []
  else
    let ms := v.memberList
    let many := decide (1 < ms.length)
    let label (r : Nat) : Nat := ((v.coordOf r).map fun c => v.rdN .pwrDomain 0 c).getD 0xFFFF
    let mapped (c : Nat) : Bool := v.regs.any fun e => regObj e.1 = .rankMap && bit 31 e.2 && bits 15 0 e.2 = c
    brokenIf (many && ms.any fun r => v.partnerOf r = r || !ms.contains (v.partnerOf r)) 6 1 0x9000 2 ++
      brokenIf (many && ms.any fun r =>
        label r = 0xFFFF || label (v.partnerOf r) = 0xFFFF || label r = label (v.partnerOf r)) 6 2 0x9000 3 ++
      brokenIf (many && ms.any fun q => 4 < (ms.filter fun r => v.partnerOf r = q).length) 6 3 0x9000 2 ++
      brokenIf ((many || v.rdN .depotPa ≠ 0) && !v.polders.any fun p => p.isDepot && p.holds (v.rdN .depotPa) v.depotBytes) 6 4 0x9000 0 ++
      brokenIf ((v.rdRange .loanCoords 0 0 256).any fun w => bit 31 w && mapped (bits 15 0 w)) 6 5 0x9000 4 ++
      brokenIf (v.rdN .sharedStripes = 0 || ms.length < v.rdN .sharedStripes) 6 6 0x9000 5

/-- The valid ranks of `PORTAL_GROUP`. -/
def State.portalRanks (v : State) : List Nat :=
  ((v.rdRange .portalGroup 0 0 64).filter fun w => bit 31 w).map fun w => bits 15 0 w

/-- Rule set 0x07: the portal group (R427). -/
def State.checkPortal (s v : State) (scope : Nat) : List Broken :=
  if scope ≠ 0x10 then []
  else
    let mode := v.rdN .portalMode
    let w := v.rd .portalGroup
    let self := v.rd .portalSelf
    let changed (o : Obj) (n : Nat) : Bool := v.rdRange o 0 0 n ≠ s.rdRange o 0 0 n
    let quiet := allCtx.all fun c => s.isIdle c && !bit 31 (s.rd .sqCfg c.val) && !bit 31 (s.rd .cqCfg c.val)
    brokenIf (mode = 1 && !(bit 31 w && bits 15 0 w = v.rdN .shxRank)) 7 1 0x8000 0x15 ++
      brokenIf (!decide v.portalRanks.Nodup) 7 2 0x8000 0x15 ++
      brokenIf (v.portalRanks.any fun r => (v.coordOf r).isNone) 7 3 0x8000 0x15 ++
      brokenIf (mode = 2 && !(bit 31 self && 1 ≤ bits 21 16 self)) 7 4 0xB000 2 ++
      (if quiet then [] else
        brokenIf (changed .portalMode 1) 7 5 0x8000 0x14 ++ brokenIf (changed .portalGroup 64) 7 5 0x8000 0x15 ++
          brokenIf (changed .portalSelf 1) 7 5 0xB000 2)

/-- Rule set 0x08: the log area (R382); `LOG_PA` 0 names none (DEDUCED 15). -/
def State.checkLog (s v : State) (scope : Nat) : List Broken :=
  (scopeCtxs scope).flatMap fun c =>
    let pa := v.rdN .logPa c.val
    let area := 8192 + 25056 * v.rdN .logRingEntries c.val
    let fits := v.polders.any fun p => p.kind = 1 && p.grants 4 && p.admits c && p.holds pa area
    let idx := 0x9100 + c.val
    brokenIf (pa ≠ 0 && (pa % 65536 ≠ 0 || !fits)) 8 1 idx 0 ++
      (if s.isIdle c then [] else
        brokenIf (pa ≠ s.rdN .logPa c.val) 8 2 idx 0 ++
          brokenIf (v.rdN .logRingEntries c.val ≠ s.rdN .logRingEntries c.val) 8 2 idx 1)

/-- Rule set 0x09: the scratch ways (R328). -/
def State.checkScratch (s v : State) (scope : Nat) : List Broken :=
  brokenIf (scope = 0x10 && v.rd .ccScratchWays ≠ s.rd .ccScratchWays &&
    allCtx.any fun c => !s.clusterless c && !s.isIdle c) 9 1 0x3000 5

/-- Rule set 0x0A: the page-table root (R350). -/
def State.checkRoot (s v : State) (scope : Nat) : List Broken :=
  (scopeCtxs scope).flatMap fun c =>
    let r := v.rdN .ptRoot c.val
    brokenIf (r ≠ s.rdN .ptRoot c.val && !((s.ctx c).st = .idle || (s.ctx c).st = .preempted)) 0x0A 1 (0x3100 + c.val) 1 ++
      brokenIf (r % 4096 ≠ 0 || 2 ^ 42 ≤ r) 0x0A 2 (0x3100 + c.val) 1

/-- The read of a layer's entry. -/
def State.layerRead (v : State) (c : CtxId) (l : Nat) : Except Stop (List Byte) :=
  v.vread (v.stepReq c) (v.rdN .consTableVa c.val + 32 * l) 8

/-- `MAXLEVEL` of a layer, when its entry can be read. -/
def State.maxLevel (v : State) (c : CtxId) (l : Nat) : Option Nat :=
  ((v.layerRead c l).toOption).map fun b => bits 7 6 (wordAt b 0)

/-- Rule set 0x0B: conservator levels (R179). A layer entry that cannot be read shows no `MAXLEVEL` to stay below (DEDUCED 33). -/
def State.checkLevels (v : State) (scope : Nat) : List Broken :=
  (scopeCtxs scope).flatMap fun c =>
    brokenIf (v.rdN .consTableVa c.val ≠ 0 && (List.range 256).any fun l =>
      let x := v.rdN .consLevel c.val l
      x ≠ 0 && ((v.maxLevel c l).map fun m => decide (m < x)).getD true) 0x0B 1 (0x4300 + c.val) 3

/-- Rule set 0x0C: the split length (R283). -/
def State.checkSplit (v : State) (scope : Nat) : List Broken :=
  let x := v.rdN .splitLen
  brokenIf (scope = 0x10 && !(64 ≤ x && x ≤ 65536 && isPow2 x)) 0x0C 1 0x6002 0

/-- The first rule that the staged values of a scope break (R451). -/
def State.checkScope (s : State) (scope : Nat) (local_ : Bool) : Option Broken :=
  let v := s.candidate scope
  firstBroken (s.checkValues v scope local_ ++ s.checkDikes v scope ++ s.checkPolders v scope ++ s.checkRetire v scope ++
    s.checkRegistry v scope ++ v.checkPartners scope ++ s.checkPortal v scope ++ s.checkLog v scope ++
    s.checkScratch v scope ++ s.checkRoot v scope ++ v.checkLevels scope ++ v.checkSplit scope)

/-- The 16-byte result of R451. -/
def checkResult (b : Option Broken) (scope gen : Nat) : List Byte :=
  leBytes 4 (ruleCode b) ++ leBytes 2 ((b.map Broken.idx).getD 0) ++ leBytes 1 ((b.map Broken.sub).getD 0) ++
    leBytes 1 scope ++ leBytes 4 gen ++ zeros 4

/-- What stopped a read. -/
def stopOf {α : Type} : Except Stop α → Option Stop
  | .error why => some why
  | .ok _ => none

/-- What stopped the reads that a check makes: of collection descriptors and of layer entries. -/
def State.checkStops (v : State) (scope : Nat) : List Stop :=
  (allCtx.flatMap fun c => (v.registryReads c).filterMap stopOf) ++
    ((scopeCtxs scope).filter fun c => v.rdN .consTableVa c.val ≠ 0).flatMap fun c =>
      ((List.range 256).filter fun l => v.rdN .consLevel c.val l ≠ 0).filterMap fun l => stopOf (v.layerRead c l)

/-- A check made for a scope (R451): the uncorrectable words that it meets are counted (R330), the result is kept with the generation
that was checked, and a failure counted. `gen` is the one that its frame started with (R449). -/
def State.runCheck (s : State) (gen scope : Nat) (local_ : Bool) : Option Broken × State :=
  let b := s.checkScope scope local_
  let s := ((s.candidate scope).checkStops scope).foldl State.noteUe s
  let s := s.wrBytes .lastCheck 0 0 (checkResult b scope gen)
  (b, if b.isSome then s.tally .checkFailCnt 0 .igcorStatus 0 3 else s)

end Sys2Proof.Machine
end

