-- ==== Sys2Proof/Machine/Vector.lean ====
section
/-! DEFINITION. `VECTOR`: its checks and its blocks, dropout, and operators that reduce across blocks (R53, R140, R166–R168, R340).
The manual gives no operator an encoding: its class and what it computes are free functions of its bytes, the descriptor,
the seed, the step and the source block (DESIGN CHOICE 21). -/

namespace Sys2Proof.Machine

/-! ## Operators -/

/-- The classes of vector operators: dropout with a source format, a destination format, a rounding mode and the position of
its first element in the activation tensor (R168), reduction across blocks (R140), and every other. -/
inductive VecKind where
  | dropout (src dst mode base : Nat)
  | reduce
  | other
deriving DecidableEq, Repr

/-- Bits of an element of a size code. -/
def elemBits (code : Nat) : Nat := 4 * 2 ^ code

/-- The first bytes of the operator at `PROG_VA`. -/
def State.vecOp (s : State) (r : Req) (d : Desc) : Except Stop (List Byte) := s.vread r d.vProgVa 64

/-- The words of a descriptor as bytes. -/
def Desc.bytes (d : Desc) : List Byte := bytesOf [d.w0, d.w1, d.w2, d.w3, d.w4, d.w5, d.w6, d.w7]

/-- The class of an operator; a dropout operator's formats have the element sizes of the descriptor (R53). -/
def vecKind (op : List Byte) (d : Desc) : VecKind :=
  let k := Config.vecKind op
  let src := k / 4 % 8
  let dst := k / 32 % 8
  if k % 4 = 0 && fmtBits src = elemBits d.vSesz && fmtBits dst = elemBits d.vDesz then
    .dropout src dst (k / 256 % 3) (Config.vecBase (op ++ d.bytes))
  else if k % 4 = 1 then .reduce else .other

/-- `KEEP`, the site and the layer of a dropout operator's `ARG` (R168). -/
def Desc.vKeep (d : Desc) : Nat := bits 31 16 d.w6
/-- The site. -/
def Desc.vSite (d : Desc) : Nat := bits 15 8 d.w6
/-- The layer. -/
def Desc.vLayer (d : Desc) : Nat := bits 7 0 d.w6

/-- A reserved element size (R53), or a dropout operator with `KEEP` 0 (R168). -/
def checkVector (q : IssueAt) (s : State) (j : Job) : Except Stop BodyCheck := do
  let op ← s.vecOp (.unit q.ctx j.cluster) j.d
  let drop := match vecKind op j.d with
    | .dropout .. => true
    | _ => false
  pure (BodyCheck.fieldIf (4 < j.d.vSesz || 4 < j.d.vDesz || (j.d.vKeep = 0 && drop)))

/-! ## Dropout (R166–R168) -/

/-- The factor of a kept element: RNE_FP32(65,536 / `KEEP`). -/
def keepFactor (keep : Nat) : Nat := rne32 (.fin false 65536 keep)

/-- The sample of element i of a micro-batch's activation tensor: purpose 2, identifier from layer, `MB` and site. -/
def dropSample (d : Desc) (seed step : W64) (i : Nat) : Nat :=
  draw16 2 (d.vLayer * 2 ^ 20 + d.mb * 256 + d.vSite) i seed step

/-- An element under dropout: kept and scaled when its sample is below `KEEP`, else +0. -/
def dropElem (d : Desc) (seed step : W64) (src dst mode i code : Nat) : Conv :=
  if dropSample d seed step i < d.vKeep then
    convert (f32 (rne32 ((elemVal src code).mul (f32 (keepFactor d.vKeep))))) dst mode
      (if mode = 2 then draw16 1 d.seq i seed step else 0)
  else ⟨0, false, false, false, false⟩

/-! ## Blocks (R140) -/

/-- Blocks of a `VECTOR`. -/
def Desc.vBlocks (d : Desc) : Nat := ceilDiv (d.vCount + 1) 4096

/-- The elements of block b. -/
def Desc.vElems (d : Desc) (b : Nat) : Nat := min 4096 (d.vCount + 1 - 4096 * b)

/-- Source and destination of block b: address and bytes (R140). -/
def Desc.vSource (d : Desc) (b : Nat) : Nat × Nat :=
  (d.vSrcVa + 512 * elemBits d.vSesz * b, ceilDiv (elemBits d.vSesz * d.vElems b) 8)

/-- The destination of block b. -/
def Desc.vDest (d : Desc) (b : Nat) : Nat × Nat :=
  (d.vDstVa + 512 * elemBits d.vDesz * b, ceilDiv (elemBits d.vDesz * d.vElems b) 8)

/-- The core whose vector unit runs block b: e(b mod A) (R140). -/
def vecCore (gang : List Nat) (b : Nat) : Nat := gang.getD (b % gang.length) 0

/-- The seed of an item's step. -/
def State.vecSeed (s : State) (i : Item) : W64 := ((s.progOf i.ctx i.ahead).map Program.seed).getD 0

/-- Everything that the result of a block is a function of (R33): the operator, the descriptor, the seed, the step, the block's
number and its source. -/
def State.vecInput (s : State) (i : Item) (op src : List Byte) (b : Nat) : List Byte :=
  op ++ i.desc.bytes ++ leBytes 8 (s.vecSeed i).toNat ++ leBytes 8 i.step.toNat ++ leBytes 8 b ++ src

/-- The free counts of n elements that an operator writes. -/
def vecCounts (x : List Byte) (n : Nat) : Nat × Nat × Nat × Nat × Nat :=
  let of (k : Nat) : Nat := Config.vecCount x k % (n + 1)
  (of 0, of 1, of 2, of 3, of 4)

/-- The counts of written elements: saturated, overflowed, NaN, flushed and clamped. -/
def State.vecTally (s : State) (i : Item) : Nat × Nat × Nat × Nat × Nat → State
  | (sat, ovf, nan, flush, clamp) =>
    (s.precCount i.ctx sat ovf nan flush).tallyN .scaleClampCnt i.ctx.val .precStatus i.ctx.val 2 clamp

/-- The bytes that block b gives, with its counts: saturated, overflowed, NaN, flushed and clamped elements (R105, R178). -/
def State.vecBlock (s : State) (i : Item) (op src : List Byte) (b : Nat) : List Byte × (Nat × Nat × Nat × Nat × Nat) :=
  let d := i.desc
  let n := d.vElems b
  match vecKind op d with
  | .dropout f g mode base =>
    let cs := (unpack f n src).zipIdx.map fun (c, j) => dropElem d (s.vecSeed i) i.step f g mode (base + 4096 * b + j) c
    let of (p : Conv → Bool) : Nat := (cs.filter p).length
    (pack g (cs.map Conv.code), of Conv.sat, of Conv.ovf, of Conv.nan, of Conv.flush, 0)
  | _ =>
    let x := s.vecInput i op src b
    ((List.range (d.vDest b).2).map (Config.vecByte x), vecCounts x n)

/-- One block (R340): its ranges translated, its source read, and its destination written with what the operator gives; a
reducing operator keeps its partial result, with the core that formed it. -/
def State.vectorBlock (s : State) (i : Item) (gang : List Nat) (b : Nat) : Except Stop State := do
  let (sv, sn) := i.desc.vSource b
  let (dv, dn) := i.desc.vDest b
  let _ ← s.reachAll i.req dv dn true
  let src ← s.vread i.req sv sn
  let op ← s.vecOp i.req i.desc
  match vecKind op i.desc with
  | .reduce =>
    let part := (Config.vecPart (s.vecInput i op src b)).toNat
    pure (s.setItem { i with pos := i.pos ++ [vecCore gang b, part] })
  | _ =>
    let (out, counts) := s.vecBlock i op src b
    let s ← s.vwrite i.req dv out
    pure (s.vecTally i counts)

/-- The partial results that an item holds, in ascending block order. -/
def partials : List Nat → List W64
  | _ :: v :: r => BitVec.ofNat 64 v :: partials r
  | _ => []

/-- The lead sequencer's vector unit combines the partial results of a reducing operator in ascending block order and writes the
one element of the result (R140): at `DST_VA`, the destinations of the blocks staying as they were, since R140 gives a combined
result no place of its own (DESIGN CHOICE 155). It counts as every written element does (R178). -/
def State.vectorCombine (s : State) (i : Item) : Except Stop State := do
  let op ← s.vecOp i.req i.desc
  match partials i.pos with
  | [] => pure s
  | p :: ps =>
    let v := ps.foldl (Config.vecFold op) p
    let n := ceilDiv (elemBits i.desc.vDesz) 8
    let x := op ++ i.desc.bytes ++ leBytes 8 v.toNat
    let s ← s.vwrite i.req i.desc.vDstVa ((List.range n).map (Config.vecByte x))
    pure (s.vecTally i (vecCounts x 1))

/-- The blocks from the item's progress on. -/
def State.vectorFrom (s : State) (i : Item) (gang : List Nat) : Nat → State
  | 0 => s
  | fuel + 1 =>
    match s.current i with
    | none => s
    | some cur =>
      if i.desc.vBlocks ≤ cur.progress then
        match s.vectorCombine cur with
        | .error why => s.stopItem cur why
        | .ok s => s.finish cur 0
      else
        match s.vectorBlock cur gang cur.progress with
        | .error why => s.stopItem cur why
        | .ok s => State.vectorFrom (s.advance ((s.current cur).getD cur) (cur.progress + 1)) i gang fuel

/-- A `VECTOR` works as far as it can. -/
def workVector (i : Item) (s : State) : State := s.vectorFrom i (s.gang i.part) (i.desc.vBlocks + 1)

end Sys2Proof.Machine
end

