-- ==== Sys2Proof/Machine/Gather.lean ====
section
/-! DEFINITION. `GATHER`, `SCATTER` and `COALESCE`: destinations and sources, reductions, item queues and merged-row stores
(R264–R284). -/

namespace Sys2Proof.Machine

/-! ## The trail as its readers see it (R252–R255, R265, R266) -/

/-- A trail header read. -/
structure TrailHead where
  step  : W64
  mb    : Nat
  segs  : Nat
  cur   : Nat
  nodes : Nat
  lb    : List Nat
  units : Nat
  va    : Nat

/-- The header at an address. -/
def State.trailAt (s : State) (r : Req) (va : Nat) : Except Stop TrailHead := do
  let b ← s.vread r va 64
  let w := wordAt b
  pure
    { step := w 0, mb := bits 63 52 (w 1), segs := bits 47 40 (w 1), cur := bits 35 34 (w 1), nodes := bits 31 0 (w 2)
      lb := [0, bits 31 0 (w 4), bits 63 32 (w 4), bits 31 0 (w 5), bits 63 32 (w 5), bits 31 0 (w 2)]
      units := bits 31 0 (w 6), va := va }

/-- The first entry of a level: `LBASE`0 is 0 and `LBASE`5 is `NODES` (R265). -/
def TrailHead.base (t : TrailHead) (l : Nat) : Nat := t.lb.getD l t.nodes

/-- The counts are final: the cursor is DONE or COMMITTED. -/
def TrailHead.final (t : TrailHead) : Bool := 2 ≤ t.cur

/-- Level h + 1 holds an entry. -/
def TrailHead.deeper (t : TrailHead) (h : Nat) : Bool := t.base (h + 1) < t.nodes

/-- Unit records are read for hop h under a `REDUCE` code (R265). -/
def TrailHead.useUnits (t : TrailHead) (red h : Nat) : Bool := red ≠ 0 && t.deeper h

/-- D, the destinations of an item. -/
def TrailHead.dests (t : TrailHead) (h : Nat) : Nat := t.base (h + 1) - t.base h

/-- The destinations of segment k, ascending (R266). -/
def State.segDests (s : State) (r : Req) (t : TrailHead) (red h k : Nat) : Except Stop (List Nat) := do
  let b ← s.vread r (t.va + 64 + 16 * k) 16
  let w := if t.useUnits red h then wordAt b 1 else wordAt b 0
  let lo := max (bits 31 0 w) (t.base h)
  let hi := min (bits 31 0 w + bits 63 32 w) (t.base (h + 1))
  pure (rangeFrom lo (hi - lo))

/-- The sources of a destination (R265). -/
def State.sources (s : State) (r : Req) (t : TrailHead) (red h p : Nat) : Except Stop (List Nat) :=
  if red = 0 then .ok [p]
  else if t.deeper h then do
    let w ← s.vword r (t.va + t.units + 8 * p) 8
    pure (rangeFrom (w % 2 ^ 24) (w / 2 ^ 24 % 2 ^ 11))
  else .ok []

/-- `GLOBAL` of an entry. -/
def State.globalOf (s : State) (r : Req) (t : TrailHead) (q : Nat) : Except Stop Nat := do
  let w ← s.vword r (t.va + 4160 + 16 * q) 8
  pure (w % 2 ^ 40)

/-! ## Row geometry (R264) -/

/-- Bytes of a table row by `ROW_UNITS`. -/
def Desc.gRowBytes (d : Desc) : Nat := 16 * (d.gRowUnits + 1)

/-- E, with the collection of an item that names one. -/
def elemsOf (d : Desc) (x : Option EmbTable) : Nat :=
  match x with
  | none => 8 * (d.gRowUnits + 1)
  | some x => x.top.elems

/-- Q, the pitch of a result row of E elements. -/
def rowPitch (e : Nat) : Nat := 64 * ceilDiv (4 * e) 64

/-- FP32 elements as bytes of a result row, padded with +0. -/
def resultRow (e : Nat) (vs : List Nat) : List Byte := (vs.flatMap (leBytes 4)) ++ zeros (rowPitch e - 4 * vs.length)

/-- The source is dropped (R272). -/
def isDropped (d : Desc) (x : Option EmbTable) (g : Nat) : Bool :=
  match x with
  | none => g = missing || d.gRows < g
  | some x => !x.valid g

/-! ## Reductions (R268–R270) -/

/-- The operator + of R268 on FP32 bits. -/
def sum32 (a b : Nat) : Nat := add32 a b

/-- max and min of R268 on FP32 bits with the index each came from. -/
def pick32 (less : Bool) (a b : Nat × Nat) : Nat × Nat :=
  if isNan32 a.1 || isNan32 b.1 then (nan32, 0xFFFFFFFF)
  else if (if less then lt32 b.1 a.1 else lt32 a.1 b.1) then b else a

/-- Neighbours joined pairwise; a last one without a neighbour stays. -/
def pairUp {α : Type} (op : α → α → α) : List α → List α
  | a :: b :: r => op a b :: pairUp op r
  | r => r

/-- The rounds that join the parts pairwise. -/
def joinParts {α : Type} (op : α → α → α) : Nat → List α → List α
  | 0, ps => ps
  | n + 1, ps => if ps.length ≤ 1 then ps else joinParts op n (pairUp op ps)

/-- `reduce` of R268 with chunks of `len`: none of an empty list. -/
def reduceBy {α : Type} (op : α → α → α) (len : Nat) (vs : List α) : Option α :=
  let chunk (j : Nat) : Option α :=
    match (vs.drop (j * len)).take len with
    | [] => none
    | a :: r => some (r.foldl op a)
  (joinParts op vs.length ((List.range (ceilDiv vs.length len)).filterMap chunk)).head?

/-- FP32 bits of a result: NaN canonical, zero +0 (R101, R102, R269). -/
def canon32 (x : Nat) : Nat := if isNan32 x then nan32 else if x % 2 ^ 31 = 0 then 0 else x

/-- A fixed-point number with 256 fraction bits squared, cut toward zero. -/
def fixSquare (x : Nat) : Nat := x * x / 2 ^ 256

/-- The Taylor terms of e^z from term k on, in fixed point; `neg` is the sign of z. -/
def expTerms (z : Nat) (neg : Bool) : Nat → Nat → Nat → Int → Int
  | 0, _, _, acc => acc
  | n + 1, k, term, acc =>
    let t := term * z / 2 ^ 256 / k
    expTerms z neg n (k + 1) t (acc + (if neg && k % 2 = 1 then -(t : Int) else t))

/-- exp of R270 on FP32 bits: the binary32 exponential, to nearest, from 256 fraction bits; results below 2^−126 are +0. -/
def exp32 (x : Nat) : Nat :=
  match f32 x with
  | .nan => nan32
  | .inf neg => if neg then 0 else 0x7F800000
  | .fin neg n d =>
    if n = 0 then 0x3F800000
    else if 128 * d ≤ n then (if neg then 0 else 0x7F800000)
    else
      -- e^x = (e^(x / 128))^128
      let z := n * 2 ^ 256 / (d * 128)
      let y := (expTerms z neg 70 1 (2 ^ 256) (2 ^ 256)).toNat
      let v := (List.range 7).foldl (fun a _ => fixSquare a) y
      rne32 (.fin false v (2 ^ 256))

/-- A reduction longer than `SPLIT_LEN` is counted (R268). -/
def State.countSplit (s : State) (c : CtxId) (n times : Nat) : State :=
  if s.rdN .splitLen < n then s.tallyN .splitSegCnt c.val .gatherStatus c.val 2 times else s

/-- A column of rows: element e of each. -/
def columnOf (rows : List (List Nat)) (e : Nat) : List Nat := rows.map fun r => r.getD e 0

/-- The output row of a reduction over rows with their trail indices, its argument row, and the weights of code 5
(R269, R270). -/
def reduceRows (red len e : Nat) (rows : List (Nat × List Nat)) (logits : List Nat) : List Nat × List Nat × List Nat :=
  let n := rows.length
  let vals := rows.map (·.2)
  if n = 0 then (List.replicate e 0, List.replicate e 0xFFFFFFFF, [])
  else if red = 1 || red = 2 then
    let sum (k : Nat) : Nat := (reduceBy sum32 len (columnOf vals k)).getD 0
    ((List.range e).map fun k => canon32 (if red = 1 then sum k else rne32 ((f32 (sum k)).div (Val.ofNat n))), [], [])
  else if red = 3 || red = 4 then
    let best (k : Nat) : Nat × Nat :=
      (reduceBy (pick32 (red = 4)) len (rows.map fun x => (x.2.getD k 0, x.1))).getD (0, 0xFFFFFFFF)
    ((List.range e).map fun k => canon32 (best k).1,
     (List.range e).map fun k => if isNan32 (best k).1 then 0xFFFFFFFF else (best k).2, [])
  else
    let m := ((reduceBy (pick32 false) len (logits.map fun a => (a, 0))).getD (0, 0)).1
    let ws := logits.map fun a => exp32 (sub32 a m)
    let total := (reduceBy sum32 len ws).getD 0
    let out (k : Nat) : Nat :=
      let ys := List.zipWith mul32 ws (columnOf vals k)
      canon32 (div32 ((reduceBy sum32 len ys).getD 0) total)
    ((List.range e).map out, [], ws.map fun w => canon32 (div32 w total))

/-! ## Checks at issue (R267, R278, R286) -/

/-- The collection that a `GATHER` or `SCATTER` names. -/
def State.gColl (s : State) (r : Req) (d : Desc) : Except Stop (Option EmbTable) :=
  if d.gEmb then (s.collAt r (if d.opcode = 6 then d.gTableVa else d.gCollVa)).map some else .ok none

/-- The rules of the trail header and the fields that a `GATHER` and a `SCATTER` share. -/
def State.badGather (s : State) (c : CtxId) (j : Job) (t : TrailHead) (x : Option EmbTable) : Bool :=
  let d := j.d
  5 < d.gReduce || t.step ≠ j.prog.step || t.mb ≠ d.mb || t.cur = 0 || (d.opcode = 7 && !t.final) ||
    ((d.gReduce = 5) != decide (d.gAttnVa ≠ 0)) || d.gAttnVa % 64 ≠ 0 || d.gTableVa % 64 ≠ 0 || d.gOutVa % 64 ≠ 0 ||
    ((d.opcode = 7 && d.gEmb) != decide (d.gCollVa ≠ 0)) ||
    (match x with
      | none => false
      | some x =>
        s.badColl c x || x.top.rowBytes ≠ d.gRowBytes || d.gRows ≠ 0 || (d.opcode = 6 && d.gReduce = 0 && x.composite))

/-- An item queue header (R277). -/
structure ItemQueue where
  lines : Nat
  tags  : Nat
  cap   : Nat
  rsvd  : Bool
  step  : W64
  mb    : Nat
  segs  : Nat
  units : Nat
  items : Nat
  elems : Nat

/-- The item queue at an address. -/
def State.queueAt (s : State) (r : Req) (va : Nat) : Except Stop ItemQueue := do
  let b ← s.vread r va 64
  let w := wordAt b
  pure
    { lines := bits 47 0 (w 0), tags := bits 47 0 (w 1), cap := bits 31 0 (w 2)
      rsvd := bits 63 48 (w 0) ≠ 0 || bits 63 48 (w 1) ≠ 0 || bits 63 32 (w 2) ≠ 0
      step := w 3, mb := bits 63 52 (w 4), segs := bits 51 44 (w 4), units := bits 43 32 (w 4), items := bits 31 0 (w 4)
      elems := bits 63 32 (w 5) }

/-- Lines of an item of E elements. -/
def itemLines (e : Nat) : Nat := 1 + ceilDiv (4 * e) 64

/-- The checks of a `GATHER` or `SCATTER` body. -/
def checkGather (q : IssueAt) (s : State) (j : Job) : Except Stop BodyCheck := do
  let r : Req := .unit q.ctx j.cluster
  let d := j.d
  let t ← s.trailAt r d.gTrailVa
  -- a SCATTER with EMB 1 and COLL_VA 0 names no descriptor
  let x ← (if d.opcode = 7 && d.gCollVa = 0 then pure none else s.gColl r d)
  let noColl := d.opcode = 7 && d.gEmb && d.gCollVa = 0
  if d.opcode = 6 then
    pure { reserved := (x.map EmbTable.rsvd).getD false, field := s.badGather q.ctx j t x, last := none, note := fun _ s => s }
  else do
    let h ← s.queueAt r d.gOutVa
    let e := elemsOf d x
    let two := if (x.map EmbTable.composite).getD false then 2 else 1
    let most := (if t.useUnits d.gReduce d.gHop then t.base (d.gHop + 2) - t.base (d.gHop + 1) else t.dests d.gHop) * two
    let room := h.cap < most * itemLines e + t.segs
    pure
      { reserved := h.rsvd || (x.map EmbTable.rsvd).getD false
        field := noColl || s.badGather q.ctx j t x || h.lines % 64 ≠ 0 || h.tags % 2 ≠ 0 || room
        last := none
        note := fun _ s => s }

/-! ## Prefetch (R274, R275) -/

/-- The pieces of a table row of an item: physical address and bytes of each. -/
def State.rowPa (s : State) (i : Item) (g : Nat) : Except Stop (List (Nat × Nat)) :=
  s.reachAll i.req (i.desc.gTableVa + g * i.desc.gRowBytes) i.desc.gRowBytes false

/-- The cluster whose cache holds an item's prefetch area. -/
def Item.area (i : Item) : Nat := (i.cluster.map fun c => c.val).getD 0

/-- A row put into its prefetch area, which holds it already or displaces the oldest rows for lack of space (R274). -/
def State.addFetched (s : State) (x : FetchedRow) : State :=
  if s.prefetched.any fun y => y.area = x.area && y.pieces = x.pieces then s
  else ({ s with prefetched := s.prefetched ++ [x] } : State).fitFetched

/-- The sources of an item that a waiting instance may prefetch: those written so far, by entry (R265, R274). -/
def TrailHead.written (t : TrailHead) (red h : Nat) : List Nat :=
  let l := if red = 0 then h else h + 1
  rangeFrom (t.base l) (min (t.base (l + 1)) t.nodes - t.base l)

/-- One source's row prefetched, where it can be read. -/
def State.prefetchRow (s : State) (i : Item) (t : TrailHead) (q : Nat) : State :=
  let made : Except Stop (List (Nat × Nat)) := do
    let g ← s.globalOf i.req t q
    if isDropped i.desc none g then .error .wait
    else
      let ps ← s.rowPa i g
      let _ ← s.fetch ps
      pure ps
  match made with
  | .error why => s.noteUe why
  | .ok ps => s.addFetched ⟨i.area, i.ctx, i.desc.gTrailVa, ps⟩

/-- A waiting instance prefetches: of the sources in the trail so far, a free number of rows (DESIGN CHOICE 23). -/
def State.prefetch (s : State) (i : Item) : State :=
  if s.rdN .gatherPrefetchMib = 0 || i.desc.gEmb then s
  else
    match s.trailAt i.req i.desc.gTrailVa with
    | .error why => s.noteUe why
    | .ok t =>
      let qs := t.written i.desc.gReduce i.desc.gHop
      let (w, s) := s.freeW
      (qs.take (w.toNat % (qs.length + 1))).foldl (fun s q => s.prefetchRow i t q) s

/-- A table row read by the running instance; a prefetched row that it uses is counted (R274). -/
def State.tableRow (s : State) (i : Item) (g : Nat) : Except Stop (State × List Byte) := do
  let ps ← s.rowPa i g
  let bs ← s.fetch ps
  let hit := s.prefetched.any fun x => x.area = i.area && x.pieces = ps
  pure (if hit then s.count .prefetchHitCnt i.ctx.val else s, bs)

/-! ## `GATHER` (R265–R273) -/

/-- The value of a source that is not dropped. -/
def State.sourceVals (s : State) (i : Item) (x : Option EmbTable) (g : Nat) : Except Stop (State × List Nat) :=
  match x with
  | none => do
    let (s, bs) ← s.tableRow i g
    pure (s, rowVals 6 bs)
  | some x => s.lookUpIndex i.ctx i.req x g

/-- The bytes of a table row of a source, for a copy row. -/
def State.sourceBytes (s : State) (i : Item) (x : Option EmbTable) (g : Nat) : Except Stop (State × List Byte) :=
  match x with
  | none => s.tableRow i g
  | some x => s.lookUp i.ctx i.req x.top (x.top.rowOf g)

/-- The sources of a destination with their indices, and which are dropped; each drop is counted (R272). A destination that stops on
a later access counts nothing yet: it counts once, when it is complete (DESIGN CHOICE 148). -/
def State.judged (s : State) (i : Item) (t : TrailHead) (x : Option EmbTable) (p : Nat) :
    Except Stop (State × List (Nat × Nat) × List Nat) := do
  let qs ← s.sources i.req t i.desc.gReduce i.desc.gHop p
  let gs ← qs.mapM fun q => do
    let g ← s.globalOf i.req t q
    pure (q, g)
  let lost := gs.filter fun e => isDropped i.desc x e.2
  let s := s.tallyN .dropIdxCnt i.ctx.val .gatherStatus i.ctx.val 0 lost.length
  pure (s, gs.filter fun e => !isDropped i.desc x e.2, lost.map (·.1))

/-- One destination of a `GATHER`: its output row, and its argument row or its weights (R269, R270). -/
def State.gatherDest (s : State) (i : Item) (t : TrailHead) (x : Option EmbTable) (p : Nat) : Except Stop State := do
  let d := i.desc
  let c := i.ctx
  let row := p - t.base d.gHop
  let (s, live, lost) ← s.judged i t x p
  if d.gReduce = 0 then
    let pitch := 64 * ceilDiv d.gRowBytes 64
    let (s, bs) ← (match live with
      | [] => pure (s, [])
      | (_, g) :: _ => s.sourceBytes i x g)
    s.vwrite i.req (d.gOutVa + row * pitch) (bs ++ zeros (pitch - bs.length))
  else do
    let e := elemsOf d x
    let (s, rows) ← live.foldlM (fun (acc : State × List (Nat × List Nat)) (q, g) => do
      let (s, vs) ← acc.1.sourceVals i x g
      pure (s, acc.2 ++ [(q, vs)])) (s, [])
    let logits ← (if d.gReduce = 5 then live.mapM fun x => (s.vword i.req (d.gAttnVa + 4 * x.1) 4).map read32
      else pure [])
    let (out, args, ws) := reduceRows d.gReduce (s.rdN .splitLen) e rows logits
    let s := s.countSplit c live.length (if d.gReduce = 5 then 3 else 1)
    let s ← s.vwrite i.req (d.gOutVa + row * rowPitch e) (resultRow e out)
    let s ← (if d.gReduce = 3 || d.gReduce = 4 then
        s.vwrite i.req (d.gOutVa + (t.dests d.gHop + row) * rowPitch e) (resultRow e args)
      else pure s)
    let s ← (if d.gReduce = 5 then
        (List.zip (live.map Prod.fst) ws ++ lost.map fun q => (q, 0)).foldlM (fun (s : State) (x : Nat × Nat) =>
          s.vwrite i.req (d.gAttnVa + 4 * (t.nodes + x.1)) (leBytes 4 x.2)) s
      else pure s)
    pure (s.tallyN .gatherNanCnt c.val .gatherStatus c.val 1 (countTrue (out.map isNan32)))

/-- The next overflow segment's instance of an item: its own series of log entries (R60, R70). The started entry that opens it holds
the item's progress, which counts on over its segments (DESIGN CHOICE 147). -/
def State.nextInstance (s : State) (i : Item) : State :=
  let i := (s.current i).getD i
  let s := s.logLast i .committed 0 i.progress
  let j := { i with segs := i.segs + 1, lastLog := ((s.current i).getD i).lastLog }
  let s := s.setItem j
  (s.logLast j .issued 0 0).logLast ((s.current j).getD j) .started 0 j.progress

/-- The first instance of a `GATHER` starts, once its segment entry has been written (R60, R267): its started entry, whose refusal fails
it. -/
def State.startGather (s : State) (i : Item) : State :=
  let j := { i with started := true }
  let (s, ok) := (s.setItem j).log j .started 0 0
  if ok then s else (s.countDenied i.ctx).failItem j 0x30

/-- The segments whose entries have been written: all of a final trail, all but the open one of a trail that is being
sampled (R267). -/
def TrailHead.closed (t : TrailHead) : Nat := if t.final then t.segs else t.segs - 1

/-- The counts that instances of an item need are known: level h + 1 has begun, or the trail is final; code 5 places its
weights by the final `NODES` (R265, R270). -/
def TrailHead.ready (t : TrailHead) (red h : Nat) : Bool := t.final || red = 0 || (red ≠ 5 && t.deeper h)

/-- The destinations of a list, from a number of them on. -/
def State.gatherList (s : State) (i : Item) (t : TrailHead) (x : Option EmbTable) : List Nat → State
  | [] => s
  | p :: rest =>
    match s.current i with
    | none => s
    | some cur =>
      if cur.phase ≠ .working then s
      else
        match s.gatherDest cur t x p with
        | .error why => s.stopItem cur why
        | .ok s => State.gatherList (s.advance cur (cur.progress + 1)) i t x rest

/-- The instances of a `GATHER` from segment k on; `done` counts the destinations of the segments before it. -/
def State.gatherSegs (s : State) (i : Item) (t : TrailHead) (x : Option EmbTable) (done : Nat) : Nat → Nat → State
  | 0, _ => s
  | n + 1, k =>
    if t.segs ≤ k then (if t.final then s.finish i 0 else s.prefetch i)
    else if t.closed ≤ k then s.prefetch i
    else
      match s.segDests i.req t i.desc.gReduce i.desc.gHop k with
      | .error why => s.stopItem i why
      | .ok ps =>
        match s.current i with
        | none => s
        | some cur =>
          let s := if !cur.started then s.startGather cur else if cur.segs ≤ k then s.nextInstance cur else s
          let s := s.gatherList i t x (ps.drop (cur.progress - done))
          match s.current i with
          | none => s
          | some cur =>
            if cur.phase = .working && done + ps.length ≤ cur.progress then
              State.gatherSegs s i t x (done + ps.length) n (k + 1)
            else s

/-- A `GATHER` works as far as it can: a provisional one waits for its confirmation (R275), and an instance for its segment
(R267); while it waits it prefetches (R274). -/
def workGather (i : Item) (s : State) : State :=
  if i.ahead then s.prefetch i
  else
    let made : Except Stop (TrailHead × Option EmbTable) := do
      let t ← s.trailAt i.req i.desc.gTrailVa
      let x ← s.gColl i.req i.desc
      pure (t, x)
    match made with
    | .error why => s.stopItem i why
    | .ok (t, x) => if t.ready i.desc.gReduce i.desc.gHop then s.gatherSegs i t x 0 256 0 else s.prefetch i

/-! ## `SCATTER` (R276–R278) -/

/-- The position of a `SCATTER` beyond its progress: the trail's segments, the lines and items written, and the first line
and the items of the open segment; the last word says that its header has been written. -/
structure ScatterPos where
  total : Nat
  lines : Nat
  items : Nat
  first : Nat
  inSeg : Nat

/-- The position from the item. -/
def Item.scatter (i : Item) : ScatterPos :=
  ⟨i.pos.getD 0 1, i.pos.getD 1 0, i.pos.getD 2 0, i.pos.getD 3 0, i.pos.getD 4 0⟩

/-- The item with a position. -/
def Item.withScatter (i : Item) (p : ScatterPos) : Item := { i with pos := [p.total, p.lines, p.items, p.first, p.inSeg] }

/-- The header and the open segment's entry published (R278). -/
def State.publish (s : State) (i : Item) (e : Nat) : Except Stop State := do
  let p := i.scatter
  let d := i.desc
  let s ← s.vwrite i.req (d.gOutVa + 64 + 8 * i.segment) (leBytes 8 (p.inSeg * 2 ^ 32 + p.first))
  s.vwrite i.req (d.gOutVa + 24)
    (leBytes 8 i.step.toNat ++
      leBytes 8 (d.mb * 2 ^ 52 + i.segs * 2 ^ 44 + d.gRowUnits * 2 ^ 32 + p.items) ++
      leBytes 8 (e * 2 ^ 32 + p.lines) ++ zeros 16)

/-- The lines of one item with their tags (R277). -/
def itemBytes (src row seg dest e : Nat) (vs : List Nat) : List Byte × List Byte :=
  let head := leBytes 8 (src * 2 ^ 40 + row) ++ leBytes 8 (seg * 2 ^ 32 + dest) ++ zeros 48
  let n := ceilDiv (4 * e) 64
  let tags := leBytes 2 0x1010 ++ (List.range n).flatMap fun k =>
    leBytes 2 (if k + 1 = n then 0x1000 + (4 * e - 64 * (n - 1)) else 0x1040)
  (head ++ resultRow e vs, tags)

/-- The gradient that a source of a destination gets (R276). -/
def State.sourceGrad (s : State) (i : Item) (t : TrailHead) (g args : List Nat) (n q : Nat) : Except Stop (List Nat) :=
  match i.desc.gReduce with
  | 2 => .ok (g.map fun v => canon32 (rne32 ((f32 v).div (Val.ofNat n))))
  | 3 | 4 => .ok ((List.range g.length).map fun k => if args.getD k 0 = q then canon32 (g.getD k 0) else 0)
  | 5 => do
    let w ← s.vword i.req (i.desc.gAttnVa + 4 * (t.nodes + q)) 4
    pure (g.map fun v => canon32 (mul32 (read32 w) v))
  | _ => .ok (g.map canon32)

/-- The items of one source: row and gradient, two for a composite (R276, R290). -/
def State.sourceItems (s : State) (i : Item) (x : Option EmbTable) (id : Nat) (g : List Nat) :
    Except Stop (State × List (Nat × List Nat)) :=
  match x with
  | none => .ok (s, [(id, g)])
  | some x =>
    match x.rowsOf id with
    | q :: t :: _ =>
      if x.top.product then do
        let (s, a) ← s.lookUp i.ctx i.req (x.place q).1 (x.place q).2
        let (s, b) ← s.lookUp i.ctx i.req (x.place t).1 (x.place t).2
        let by_ (vs : List Nat) : List Nat := (List.zipWith mul32 g vs).map canon32
        pure (s, [(q, by_ (rowVals x.top.efmt b)), (t, by_ (rowVals x.top.efmt a))])
      else .ok (s, [(q, g), (t, g)])
    | rows => .ok (s, rows.map fun r => (r, g))

/-- FP32 elements read from memory. -/
def State.readElems (s : State) (r : Req) (va e : Nat) : Except Stop (List Nat) := do
  let bs ← s.vread r va (4 * e)
  pure ((List.range e).map fun k => leNat ((bs.drop (4 * k)).take 4))

/-- One destination of a `SCATTER`: its items appended to the queue (R276, R277). -/
def State.scatterDest (s : State) (i : Item) (t : TrailHead) (x : Option EmbTable) (lines tags p : Nat) :
    Except Stop (State × Item) := do
  let d := i.desc
  let e := elemsOf d x
  let row := p - t.base d.gHop
  let (s, live, _) ← s.judged i t x p
  let raw ← s.readElems i.req (d.gTableVa + row * rowPitch e) e
  let g := raw.map read32
  let args ← (if d.gReduce = 3 || d.gReduce = 4 then
      s.readElems i.req (d.gTableVa + (t.dests d.gHop + row) * rowPitch e) e
    else pure [])
  let (s, out) ← live.foldlM (fun (acc : State × List (Nat × Nat × List Nat)) (q, id) => do
    let v ← acc.1.sourceGrad i t g args live.length q
    let (s, its) ← acc.1.sourceItems i x id v
    pure (s, acc.2 ++ its.map fun r => (q, r.1, r.2))) (s, [])
  let made := out.map fun (q, row, v) => itemBytes q row i.segment p e v
  let pos := i.scatter
  let s ← s.vwrite i.req (lines + 64 * pos.lines) (made.flatMap (·.1))
  let s ← s.vwrite i.req (tags + 2 * pos.lines) (made.flatMap (·.2))
  pure (s, i.withScatter { pos with
    lines := pos.lines + out.length * itemLines e, items := pos.items + out.length, inSeg := pos.inSeg + out.length })

/-- The last line of an instance marked with `END`, or its end line written, and the header published (R277, R278). -/
def State.closeScatter (s : State) (i : Item) (e lines tags : Nat) : Except Stop (State × Item) := do
  let pos := i.scatter
  if pos.inSeg = 0 then do
    let s ← s.vwrite i.req (lines + 64 * pos.lines) (zeros 64)
    let s ← s.vwrite i.req (tags + 2 * pos.lines) (leBytes 2 0x1800)
    let i := i.withScatter { pos with lines := pos.lines + 1 }
    let s ← s.publish i e
    pure (s, i)
  else do
    let at_ := tags + 2 * (pos.lines - 1)
    let n := ceilDiv (4 * e) 64
    let s ← s.vwrite i.req at_ (leBytes 2 (0x1800 + (4 * e - 64 * (n - 1))))
    let s ← s.publish i e
    pure (s, i)

/-- A `SCATTER` stops: what its position covers is published as far as it can be (R278), and the item stops. -/
def State.scatterStop (s : State) (i : Item) (e : Nat) (why : Stop) : State :=
  let s := s.setItem i
  let s := match s.publish i e with
    | .ok s => s
    | .error why => s.noteUe why
  s.stopItem i why

/-- The destinations of the open instance; `left` are those still to do. -/
def State.scatterList (s : State) (i : Item) (t : TrailHead) (x : Option EmbTable) (lines tags : Nat) : List Nat → State
  | [] => s
  | p :: rest =>
    match s.current i with
    | none => s
    | some cur =>
      if cur.phase ≠ .working then s
      else
        match s.scatterDest cur t x lines tags p with
        | .error why => s.scatterStop cur (elemsOf cur.desc x) why
        | .ok (s, j) => State.scatterList ((s.setItem j).advance j (j.progress + 1)) i t x lines tags rest

/-- The instances of a `SCATTER`, from the last segment down (R70, R266); `done` counts the destinations of the segments
after the k-th, and k of them are left. -/
def State.scatterSegs (s : State) (i : Item) (t : TrailHead) (x : Option EmbTable) (lines tags : Nat) :
    Nat → Nat → State
  | 0, _ => s.finish i 0
  | k + 1, done =>
    match s.segDests i.req t i.desc.gReduce i.desc.gHop k with
    | .error why => s.scatterStop ((s.current i).getD i) (elemsOf i.desc x) why
    | .ok ps =>
      match s.current i with
      | none => s
      | some cur =>
        -- instance number total − 1 − k; earlier ones have closed
        let turn := t.segs - 1 - k
        if turn + 1 < cur.segs then State.scatterSegs s i t x lines tags k (done + ps.length)
        else
          let s := s.scatterList i t x lines tags (ps.reverse.drop (cur.progress - done))
          match s.current i with
          | none => s
          | some cur =>
            if cur.phase ≠ .working || cur.progress ≠ done + ps.length then s
            else
              let e := elemsOf cur.desc x
              match s.closeScatter cur e lines tags with
              | .error why => s.scatterStop cur e why
              | .ok (s, j) =>
                let s := s.setItem j
                if k = 0 then s.finish i 0
                else
                  let p := j.scatter
                  let s := s.nextInstance j
                  let s := match s.current j with
                    | none => s
                    | some m => s.setItem (m.withScatter { p with first := p.lines, inSeg := 0 })
                  State.scatterSegs s i t x lines tags k (done + ps.length)

/-- A `SCATTER` works as far as it can. -/
def workScatter (i : Item) (s : State) : State :=
  let made : Except Stop (TrailHead × Option EmbTable × ItemQueue) := do
    let t ← s.trailAt i.req i.desc.gTrailVa
    let x ← s.gColl i.req i.desc
    let h ← s.queueAt i.req i.desc.gOutVa
    pure (t, x, h)
  match made with
  | .error why => s.stopItem i why
  | .ok (t, x, h) =>
    let s := s.updCtx i.ctx fun k =>
      { k with
        bound := (k.bound.filter fun e => e.1 ≠ i.desc.gOutVa) ++
          (x.map fun x => (i.desc.gOutVa, bits 31 0 (x.top.w 0))).toList }
    s.scatterSegs i t x h.lines h.tags t.segs 0

/-! ## `COALESCE` (R279–R281) -/

/-- A merged-row store header (R279). -/
structure RowStore where
  va    : Nat
  area0 : Nat
  area1 : Nat
  sort  : Nat
  sortCap : Nat
  cap   : Nat
  rsvd  : Bool
  step  : W64
  mb    : Nat
  seg   : Nat
  units : Nat
  table : Nat
  cur   : Bool
  count : Nat

/-- The store at an address. -/
def State.storeAt (s : State) (r : Req) (va : Nat) : Except Stop RowStore := do
  let b ← s.vread r va 64
  let w := wordAt b
  pure
    { va := va, area0 := bits 47 0 (w 0), area1 := bits 47 0 (w 1), sort := bits 47 0 (w 2), sortCap := bits 63 32 (w 3)
      cap := bits 31 0 (w 3), rsvd := bits 63 48 (w 0) ≠ 0 || bits 63 48 (w 1) ≠ 0 || bits 63 48 (w 2) ≠ 0
      step := w 4, mb := bits 63 52 (w 5), seg := bits 51 44 (w 5), units := bits 43 32 (w 5), table := bits 31 0 (w 5)
      cur := bit 63 (w 6), count := bits 31 0 (w 6) }

/-- The store needs initialising (R280). -/
def RowStore.fresh (x : RowStore) (mb : Nat) (step : W64) : Bool := mb = 0 && !(x.step = step && x.mb = 0)

/-- Segment entry k of an item queue: first line and items. -/
def State.segItems (s : State) (r : Req) (va k : Nat) : Except Stop (Nat × Nat) := do
  let w ← s.vword r (va + 64 + 8 * k) 8
  pure (w % 2 ^ 32, w / 2 ^ 32)

/-- The checks of a `COALESCE` body (R280), and those of R286 for an item queue that a `SCATTER` filled for a collection: its
`TABLE_ID` here, its `ROW_UNITS` by the queue's, which the `SCATTER` took from it (DEDUCED 24). -/
def checkCoalesce (q : IssueAt) (s : State) (j : Job) : Except Stop BodyCheck := do
  let r : Req := .unit q.ctx j.cluster
  let d := j.d
  let x ← s.storeAt r d.cOutVa
  let h ← s.queueAt r d.cItemVa
  let segs ← (List.range h.segs).mapM fun k => s.segItems r d.cItemVa k
  let fresh := x.fresh d.mb j.prog.step
  let stale := !fresh && (x.step ≠ j.prog.step || x.mb ≠ d.mb || x.units ≠ d.cRowUnits || x.table ≠ d.cTableId)
  let field := stale || h.step ≠ j.prog.step || h.mb ≠ d.mb || h.units ≠ d.cRowUnits ||
    ((s.ctx q.ctx).bound.any fun b => b.1 = d.cItemVa && b.2 ≠ d.cTableId) ||
    x.cap < (if fresh then 0 else x.count) + h.items || segs.any fun e => x.sortCap < e.2
  pure { reserved := x.rsvd || h.rsvd, field := field, last := none, note := fun _ s => s }

/-- Words 5 and 6 of a store header: what one 16-byte store writes (R281). -/
def storeWords (mb seg units table : Nat) (cur : Bool) (count : Nat) : List Byte :=
  leBytes 8 (mb * 2 ^ 52 + seg * 2 ^ 44 + units * 2 ^ 32 + table) ++ leBytes 8 (cur.toNat * 2 ^ 63 + count)

/-- A record: its row, the items merged, its elements. -/
abbrev Merged := Nat × Nat × List Nat

/-- Bytes of a record of E elements (R279). -/
def recordBytes (e : Nat) : Nat := 64 * ceilDiv (16 + 4 * e) 64

/-- A record's bytes. -/
def Merged.bytes (e : Nat) (m : Merged) : List Byte :=
  let b := leBytes 8 m.1 ++ leBytes 8 (sat32 m.2.1) ++ m.2.2.flatMap (leBytes 4)
  b ++ zeros (recordBytes e - b.length)

/-- A record read from its bytes. -/
def Merged.ofBytes (e : Nat) (bs : List Byte) : Merged :=
  (bits 39 0 (wordAt bs 0), bits 31 0 (wordAt bs 1), (List.range e).map fun k => leNat ((bs.drop (16 + 4 * k)).take 4))

/-- Records of a list, n of them from an address. -/
def State.readRecords (s : State) (r : Req) (va e n : Nat) : Except Stop (List Merged) :=
  (List.range n).mapM fun k => (s.vread r (va + recordBytes e * k) (recordBytes e)).map (Merged.ofBytes e)

/-- The items of a segment: row, source and gradient. -/
def State.readItems (s : State) (r : Req) (lines e first n : Nat) : Except Stop (List (Nat × Nat × List Nat)) :=
  (List.range n).mapM fun k => do
    let at_ := lines + 64 * (first + k * itemLines e)
    let h ← s.vword r at_ 8
    let vs ← s.readElems r (at_ + 64) e
    pure (h % 2 ^ 40, h / 2 ^ 40, vs)

/-- The items of one row as one partial (R281): sorted, then reduced under R268. -/
def partialOf (len e : Nat) (row : Nat) (its : List (Nat × List Nat)) : Merged :=
  (row, its.length, (List.range e).map fun k => canon32 ((reduceBy sum32 len (its.map fun x => read32 (x.2.getD k 0))).getD 0))

/-- An item put at its place by row and source. -/
def insertItem (x : Nat × Nat × List Nat) : List (Nat × Nat × List Nat) → List (Nat × Nat × List Nat)
  | [] => [x]
  | y :: r => if x.1 < y.1 || (x.1 = y.1 && x.2.1 ≤ y.2.1) then x :: y :: r else y :: insertItem x r

/-- The partials of a segment, ascending by row; and how many of them are longer than `SPLIT_LEN`. -/
def partialsOf (len e : Nat) (its : List (Nat × Nat × List Nat)) : List Merged × Nat :=
  let sorted := its.foldr insertItem []
  let rows := (sorted.map (·.1)).dedup
  let groups := rows.map fun r => (r, (sorted.filter fun x => x.1 = r).map (·.2))
  (groups.map fun g => partialOf len e g.1 g.2, countTrue (groups.map fun g => decide (len < g.2.length)))

/-- The current list merged with partials, ascending by row (R281). -/
def mergeLists : Nat → List Merged → List Merged → List Merged
  | 0, a, b => a ++ b
  | _ + 1, [], b => b
  | _ + 1, a, [] => a
  | n + 1, x :: a, y :: b =>
    if x.1 < y.1 then x :: mergeLists n a (y :: b)
    else if y.1 < x.1 then y :: mergeLists n (x :: a) b
    else (x.1, x.2.1 + y.2.1, (List.zipWith add32 x.2.2 y.2.2).map canon32) :: mergeLists n a b

/-- The records of an instance written from the k-th on: each is a merged row emitted, which counts in progress. `pos` holds
the records of the instance that are visible. -/
def State.emitRecords (s : State) (i : Item) (area e : Nat) : List Merged → Nat → State
  | [], _ => s
  | m :: rest, k =>
    match s.current i with
    | none => s
    | some cur =>
      if cur.phase ≠ .working then s
      else
        match s.vwrite cur.req (area + recordBytes e * k) (m.bytes e) with
        | .error why => s.stopItem cur why
        | .ok s =>
          let j := { cur with pos := [k + 1] }
          let s := (s.setItem j).advance j (j.progress + 1)
          State.emitRecords (s.count .coalRowCnt cur.ctx.val) i area e rest (k + 1)

/-- The sort area of an instance: undetermined contents (R279). -/
def State.fillSort (s : State) (r : Req) (va n : Nat) : Except Stop State := do
  let s ← s.vwrite r va ((rangeFrom s.free (16 * n)).map Config.freeByte)
  pure { s with free := s.free + 16 * n }

/-- One instance of a `COALESCE` (R281): the state once its records are visible and the flip has been made. -/
def State.mergeSegment (s : State) (i : Item) (x : RowStore) (h : ItemQueue) (k : Nat) : State :=
  let e := h.elems
  let r := i.req
  let len := s.rdN .splitLen
  let made : Except Stop (State × List Merged) := do
    let (first, n) ← s.segItems r i.desc.cItemVa k
    let its ← s.readItems r h.lines e first n
    let (ps, splits) := partialsOf len e its
    let old ← s.readRecords r (if x.cur then x.area1 else x.area0) e x.count
    let s ← (if i.pos = [] then (s.fillSort r x.sort n).map fun s =>
        s.tallyN .splitSegCnt i.ctx.val .gatherStatus i.ctx.val 2 splits else pure s)
    pure (s, mergeLists (old.length + ps.length) old ps)
  match made with
  | .error why => s.stopItem i why
  | .ok (s, out) =>
    let seen := i.pos.getD 0 0
    let s := s.emitRecords i (if x.cur then x.area0 else x.area1) e (out.drop seen) seen
    match s.current i with
    | none => s
    | some cur =>
      if cur.phase ≠ .working then s
      else
        match s.vwrite r (x.va + 40) (storeWords x.mb (k + 1) x.units x.table (!x.cur) out.length) with
        | .error why => s.stopItem cur why
        | .ok s => s.setItem { cur with pos := [] }

/-- The instances of a `COALESCE` from `NEXT_SEG` on. -/
def State.mergeFrom (s : State) (i : Item) (h : ItemQueue) : Nat → State
  | 0 => s
  | n + 1 =>
    match s.current i with
    | none => s
    | some cur =>
      if cur.phase ≠ .working then s
      else
        match s.storeAt cur.req cur.desc.cOutVa with
        | .error why => s.stopItem cur why
        | .ok x =>
          if h.segs ≤ x.seg then s.finish cur 0
          else
            let s := if cur.segs ≤ x.seg then (s.setItem { cur with segs := x.seg }).nextInstance cur else s
            State.mergeFrom (s.mergeSegment ((s.current cur).getD cur) x h x.seg) i h n

/-- A `COALESCE` works as far as it can; a store that needs it is initialised first (R280). -/
def workCoalesce (i : Item) (s : State) : State :=
  let d := i.desc
  let made : Except Stop (State × ItemQueue) := do
    let x ← s.storeAt i.req d.cOutVa
    let h ← s.queueAt i.req d.cItemVa
    let s ← (if x.fresh d.mb i.step then
        s.vwrite i.req (d.cOutVa + 32) (leBytes 8 i.step.toNat ++ storeWords 0 0 d.cRowUnits d.cTableId false 0)
      else pure s)
    pure (s, h)
  match made with
  | .error why => s.stopItem i why
  | .ok (s, h) =>
    let s := s.updCtx i.ctx fun x =>
      { x with stores := (x.stores.filter fun e => e.1 ≠ d.cOutVa) ++ [(d.cOutVa, h.elems)] }
    s.mergeFrom i h 257

/-- The commit of a `COALESCE`: `NEXT_MB` rises and `NEXT_SEG` returns to 0 (R281). -/
def State.sealCoalesce (s : State) (i : Item) : Except Stop State := do
  let x ← s.storeAt i.req i.desc.cOutVa
  s.vwrite i.req (x.va + 40) (leBytes 8 ((x.mb + 1) % 4096 * 2 ^ 52 + x.units * 2 ^ 32 + x.table))

end Sys2Proof.Machine
end

