-- ==== Sys2Proof/Machine/Reduce.lean ====
section
/-! DEFINITION. `REDUCE`: its header, the dense and the sparse reduction, and what arrives for it (R174, R316, R367–R371). -/

namespace Sys2Proof.Machine

/-! ## Receiving packets (R360, R364, R366, R376) -/

/-- Every member of the epoch that a broadcast or a unicast packet names acts on it. -/
def State.isHere (s : State) (k : Packet) : Bool :=
  if k.dstRank = 0xFFFF then s.memberList.contains (s.rdN .shxRank) else k.dst = s.rdN .shxCoord

/-- A packet that arrives goes on where others await it (R364, R366): a broadcast along its tree, one in transit on its route. -/
def State.passOn (s : State) (k : Packet) : State :=
  if k.dstRank = 0xFFFF then s.treeSend k else if k.dst ≠ s.rdN .shxCoord then s.forward k else s

/-- A resent packet that the port of its mark had already delivered (R359): by the count of the port here that the failed port is wired
to, as it stood when its link went down. -/
def State.again (s : State) (k : Packet) : Bool :=
  match k.via, k.mark with
  | some _, some (p, n) => decide (n < (s.port (pairedPort p)).gone.getD (s.port (pairedPort p)).got)
  | _, _ => false

/-- A packet counted on the port on which it comes, and the pair of VC and dateline class noted whose buffer it fills (R359,
R362). -/
def State.landed (s : State) (k : Packet) : State × Packet :=
  match k.via with
  | none => (s, k)
  | some (p, _) => (s.setPort p.val { s.port p.val with got := (s.port p.val).got + 1 }, { k with via := some (p, creditIx k) })

/-- A packet in transit: unicast to another module. -/
def State.inTransit (s : State) (k : Packet) : Bool := k.dstRank ≠ 0xFFFF && k.dst ≠ s.rdN .shxCoord

/-- What the fabric does with a packet that arrives: it is counted on its port and goes on where others await it; its buffer is freed
at once, or, of one in transit, when it has left (R362, R364, R366). -/
def State.allowIn (s : State) (k : Packet) : State :=
  let (s, k) := s.landed k
  if s.inTransit k then s.passOn k else (s.passOn { k with via := none }).giveBack k

/-- A packet that the fabric takes no further: a repetition (R359), or one of a reserved type (R361). -/
def State.refusePacket (s : State) (k : Packet) : State :=
  let (s', k') := s.landed k
  let s' := s'.giveBack k'
  if s.again k then s' else s'.fabricDrop

/-- A packet arrives: it goes on, and the module acts on one that is for it when its CRC holds (R359–R361, R364, R366). -/
def State.receive (s : State) (k : Packet) (act : State → State) : State :=
  if s.again k || !knownType k.type then s.refusePacket k
  else
    let s := s.allowIn k
    if !s.isHere k then s
    else if k.good then act s
    else s.fabricDrop

/-- A collective or token packet is of the receiver's epoch and from one of its members (R367, R376). -/
def State.current? (s : State) (k : Packet) : Bool := k.epoch = s.rdN .epoch && s.isMember k.srcRank

/-- A collective packet: one of another epoch, or from a rank that is no member, is discarded (R367, R376). -/
def State.receiveColl (s : State) (k : Packet) (act : State → State) : State :=
  s.receive k fun s => if s.current? k then act s else s.fabricDrop

/-! ## The forms of a slice (R369) -/

/-- The compressed form of elements of a size: a bitmap, and the elements that are not ±0. -/
def compress (size : Nat) (cs : List Nat) : List Byte :=
  let live (c : Nat) : Bool := c % 2 ^ (8 * size - 1) ≠ 0
  let bitmap := (List.range (ceilDiv cs.length 8)).map fun b =>
    BitVec.ofNat 8 (((List.range 8).map fun i => if live (cs.getD (8 * b + i) 0) then 2 ^ i else 0).foldl (· + ·) 0)
  bitmap ++ (cs.filter live).flatMap (leBytes size)

/-- The elements of a compressed slice of n elements; every 0 bit is +0. -/
def expandFrom (size : Nat) (map : List Byte) (n : Nat) : Nat → Nat → List Nat
  | 0, _ => []
  | m + 1, at_ =>
    let k := n - (m + 1)
    if mapBit map k then
      leNat ((map.drop (ceilDiv n 8 + size * at_)).take size) :: expandFrom size map n m (at_ + 1)
    else 0 :: expandFrom size map n m at_

/-- The elements of a slice in either form. -/
def sliceOf (size n : Nat) (packed : Bool) (bs : List Byte) : List Nat :=
  if packed then expandFrom size bs n n 0 else (List.range n).map fun k => leNat ((bs.drop (size * k)).take size)

/-- The data of a slice and whether it is compressed: the shorter form. -/
def slicePacked (size : Nat) (cs : List Nat) : List Byte × Bool :=
  let a := padGranules (cs.flatMap (leBytes size))
  let b := padGranules (compress size cs)
  if b.length < a.length then (b, true) else (a, false)

/-! ## A reduction's geometry (R368) -/

/-- Bytes of an element of `DFMT`. -/
def Desc.rSize (d : Desc) : Nat := if d.rDfmt = 6 then 2 else 4

/-- Dense chunks. -/
def Desc.rChunks (d : Desc) : Nat := ceilDiv d.rBytes 65536

/-- The first byte of a chunk and its bytes. -/
def Desc.rChunk (d : Desc) (k : Nat) : Nat × Nat := (65536 * k, min 65536 (d.rBytes - 65536 * k))

/-- FP32 elements of one packet. -/
def sliceElems : Nat := 1024

/-- The members below a position that send it their partials: p + 2^j for the levels that p closes (R368). -/
def treeChildren (p n : Nat) : List Nat :=
  ((List.range 17).takeWhile fun j => p % 2 ^ (j + 1) = 0).filterMap fun j => if p + 2 ^ j < n then some (p + 2 ^ j) else none

/-- The position that a member's partial goes to. -/
def treeParent (p : Nat) : Nat :=
  match (List.range 17).find? fun j => p / 2 ^ j % 2 = 1 with
  | some j => p - 2 ^ j
  | none => 0

/-! ## What has been received -/

/-- The reduction of a context by its order; an empty one when nothing has arrived. -/
def State.coll (s : State) (c : CtxId) (order : Nat) : Coll :=
  (s.fabric.colls.find? fun x => x.ctx == c && x.order == order).getD ⟨c, order, [], [], false, false⟩

/-- A reduction replaced. -/
def State.setColl (s : State) (x : Coll) : State :=
  { s with fabric := { s.fabric with
    colls := (s.fabric.colls.filter fun y => !(y.ctx == x.ctx && y.order == x.order)) ++ [x] } }

/-- The reductions that satisfy a condition forgotten. -/
def State.dropColls (s : State) (f : Coll → Bool) : State :=
  { s with fabric := { s.fabric with colls := s.fabric.colls.filter fun x => !f x } }

/-- The positions of a step's `REDUCE` commands in its lead list. -/
def State.redSeqs (s : State) (c : CtxId) (p : Program) : List Nat :=
  (List.range (bits 31 0 p.p1)).filter fun k =>
    match s.descAt c p .lead k with
    | some d => d.opcode = 9
    | none => false

/-- `OP_SEQ` of a step's n-th `REDUCE`: the low 16 bits of its `STEP`, and n (DESIGN CHOICE 26). -/
def redSeq (step : W64) (n : Nat) : Nat := step.toNat % 65536 * 65536 + n % 65536

/-- `OP_SEQ` of an item: every member gives its step's `REDUCE` commands the same ones (R367). -/
def State.redOrder (s : State) (i : Item) : Nat :=
  match s.progOf i.ctx i.ahead with
  | none => redSeq i.step 0
  | some p => redSeq i.step ((s.redSeqs i.ctx p).filter (· < i.seq)).length

/-- The `REDUCE` of a step with an `OP_SEQ` has committed here, or its step is over. -/
def State.redOver (s : State) (c : CtxId) (step : W64) (order : Nat) : Bool :=
  match (s.ctx c).prog with
  | none => step.toNat ≤ s.rdN .ctxStep c.val
  | some p =>
    if p.step ≠ step then step.toNat < p.step.toNat
    else
      match (s.redSeqs c p)[order % 65536]? with
      | none => false
      | some k => (s.ctx c).done.contains (.lead, k)

/-- `ARG` of a partial or a result: the byte offset or row, the compressed bit, what it is (0 dense, 1 a part of a row, 2
the end of the rows, with their number), and the part of a row (DESIGN CHOICE 26). -/
def redArg (at_ : Nat) (packed : Bool) (kind part : Nat) : W64 :=
  BitVec.ofNat 64 (part % 2 ^ 20 * 2 ^ 44 + kind % 8 * 2 ^ 41 + packed.toNat * 2 ^ 40 + at_ % 2 ^ 40)

/-- What a packet of a reduction carries. -/
def redKind (k : Packet) : Nat := bits 43 41 k.w2
/-- Its byte offset or row. -/
def redAt (k : Packet) : Nat := bits 39 0 k.w2
/-- Its part of a row. -/
def redPart (k : Packet) : Nat := bits 63 44 k.w2
/-- It is compressed. -/
def redPacked (k : Packet) : Bool := bit 40 k.w2

/-- The FP32 elements of a chunk from a rank's packets of a type: none until every slice is there. -/
def Coll.chunk (x : Coll) (type rank size off elems : Nat) : Option (List Nat) :=
  ((List.range (ceilDiv elems sliceElems)).mapM fun k =>
    let n := min sliceElems (elems - sliceElems * k)
    (x.parts.find? fun p => p.type = type && p.srcRank = rank && redKind p = 0 && redAt p = off + sliceElems * k * size).map
      fun p => sliceOf 4 n (redPacked p) p.data).map List.flatten

/-- The slices of a chunk as packets. -/
def chunkPackets (c : CtxId) (type order size off : Nat) (vs : List Nat) : List Packet :=
  (List.range (ceilDiv vs.length sliceElems)).map fun k =>
    let (data, packed) := slicePacked 4 ((vs.drop (sliceElems * k)).take sliceElems)
    mkPacket type c (redArg (off + sliceElems * k * size) packed 0 0) order data

/-- The rows that a rank has sent in packets of a type, when all of them are there: their record bytes, by row. -/
def Coll.rowsFrom (x : Coll) (type rank e : Nat) : Option (List Merged) :=
  let mine := x.parts.filter fun p => p.type = type && p.srcRank = rank
  match mine.find? fun p => redKind p = 2 with
  | none => none
  | some last =>
    let per := ceilDiv (recordBytes e) 4096
    let pieces := mine.filter fun p => redKind p = 1
    if pieces.length < redAt last * per then none
    else
      let rows := (pieces.filter fun p => redPart p = 0).map redAt
      some (rows.map fun r =>
        Merged.ofBytes e ((List.range per).flatMap fun k =>
          ((pieces.find? fun p => redAt p = r && redPart p = k).map Packet.data).getD []))

/-- Rows as packets of a type, with the end that says how many they are. -/
def rowPackets (c : CtxId) (type order e : Nat) (rows : List Merged) : List Packet :=
  (rows.flatMap fun m =>
    let bs := m.bytes e
    (List.range (ceilDiv bs.length 4096)).map fun k =>
      mkPacket type c (redArg m.1 false 1 k) order ((bs.drop (4096 * k)).take 4096)) ++
    [mkPacket type c (redArg rows.length false 2 0) order []]

/-- What was received for an item forgotten. -/
def State.dropColl (s : State) (i : Item) : State :=
  let order := s.redOrder i
  s.dropColls fun x => x.ctx == i.ctx && x.order == order

/-! ## The header (R174, R316, R367) -/

/-- The elements of the records of the store at `SPARSE_VA`: what the coalescer wrote there, or the elements of a BF16 row
(DESIGN CHOICE 27). -/
def State.storeElems (s : State) (c : CtxId) (va units : Nat) : Nat :=
  (((s.ctx c).stores.find? fun e => e.1 = va).map (·.2)).getD (8 * (units + 1))

/-- The merged rows that a `REDUCE` contributes, with E. -/
def State.redRows (s : State) (i : Item) : Except Stop (List Merged × Nat) :=
  if i.desc.rSparseVa = 0 then .ok ([], 0)
  else do
    let x ← s.storeAt i.req i.desc.rSparseVa
    let e := s.storeElems i.ctx i.desc.rSparseVa x.units
    let rows ← s.readRecords i.req (if x.cur then x.area1 else x.area0) e x.count
    pure (rows, e)

/-- The elements of a chunk of the source as FP32 bits. -/
def State.redSource (s : State) (i : Item) (k : Nat) : Except Stop (List Nat) := do
  let (off, len) := i.desc.rChunk k
  let bs ← s.vread i.req (i.desc.rSrcVa + off) len
  pure ((List.range (len / i.desc.rSize)).map fun e =>
    let c := leNat ((bs.drop (i.desc.rSize * e)).take i.desc.rSize)
    if i.desc.rDfmt = 6 then c * 65536 else c)

/-- Some element that the item reads is NaN or ±∞ (R316). -/
def State.redPoisoned (s : State) (i : Item) : Except Stop Bool := do
  let dense ← (List.range i.desc.rChunks).mapM fun k => (s.redSource i k).map fun vs => vs.any fun v => !finite32 v
  let (rows, _) ← s.redRows i
  pure (dense.any id || rows.any fun m => m.2.2.any fun v => !finite32 v)

/-- The reduction header (R367). -/
def State.redHeader (s : State) (i : Item) (table units : Nat) : List W64 :=
  let d := i.desc
  let rank := s.rdN .shxRank
  let p := (s.ctx i.ctx).poison
  [i.step,
   BitVec.ofNat 64 (s.rdN .epoch * 2 ^ 32 + rank * 2 ^ 16 + i.ctx.val * 2 ^ 12 + p.toNat),
   BitVec.ofNat 64 ((if p then rank else 0xFFFF) * 2 ^ 48 + d.rDfmt * 2 ^ 40 + d.rBytes),
   BitVec.ofNat 64 (table * 2 ^ 32 + units * 2 ^ 8)] ++
    wordsOf 4 (s.rdBytes .divergeLocal i.ctx.val 0 32)

/-- The fields in which headers must agree. -/
def redAgree (h : List W64) : List Nat :=
  [(h.getD 0 0).toNat, bits 63 32 (h.getD 1 0), bits 15 12 (h.getD 1 0), bits 47 0 (h.getD 2 0), bits 63 32 (h.getD 3 0),
   bits 19 8 (h.getD 3 0)]

/-- The headers combined (R174, R367): `DIVERGE_DOMAIN`, and the step's poison flag with its lowest rank. -/
def State.combineHeaders (s : State) (i : Item) (hs : List (List W64)) : State :=
  let orOf (k : Nat) : W64 := hs.foldl (fun a h => a ||| h.getD k 0) 0
  let flagged := hs.filter fun h => bit 0 (h.getD 1 0)
  let rank := (flagged.map fun h => bits 63 48 (h.getD 2 0)).foldl min 0xFFFF
  let s := s.wrBytes .divergeDomain i.ctx.val 0 (bytesOf ((rangeFrom 4 4).map orOf))
  s.updCtx i.ctx fun x => { x with redPoison := (x.redPoison.1 || !flagged.isEmpty, min x.redPoison.2 rank) }

/-- The checks of a `REDUCE` body (R53). -/
def checkReduce (_ : IssueAt) (_ : State) (j : Job) : Except Stop BodyCheck :=
  .ok (BodyCheck.fieldIf (!(j.d.rDfmt = 6 || j.d.rDfmt = 7) || j.d.rBytes % 64 ≠ 0))

/-! ## Aborts (R371) -/

/-- A collective abort broadcast by this module (R371): reason 1 timeout, 2 header mismatch, 3 member lost,
4 unroutable, which its data repeats (DESIGN CHOICE 139). -/
def State.abortColl (s : State) (c : CtxId) (step : W64) (order reason : Nat) : State :=
  let last := reason * 2 ^ 28 + s.rdN .shxRank
  let s := s.broadcast (mkPacket 0x14 c step order (padGranules (leBytes 8 reason)))
  let s := s.wrN .lastCollAbort 0 0 last
  let s := s.tally .collAbortCnt 0 .shxStatus 0 4
  s.raise 0x23 (some c) last

/-- A `REDUCE` of this module fails for a cause that it detects itself (R371), with `FABRIC_LOST`, or with `STEP_MISMATCH`
for headers that disagree, reason 2 (R367; DEDUCED 48). -/
def State.loseColl (s : State) (i : Item) (reason : Nat) : State :=
  let s := s.abortColl i.ctx i.step (s.redOrder i) reason
  (s.dropColl i).stopItem i (if reason = 2 then .mismatch else .lost)

/-! ## The work of a `REDUCE` -/

/-- What a `REDUCE` keeps: its stage (0 new, 1 its header sent, 2 headers combined, 3 its rows sent) and the chunks whose
partial or result it has sent. -/
def Item.redStage (i : Item) : Nat := i.pos.getD 0 0
/-- The chunks sent. -/
def Item.redSent (i : Item) : Nat := i.pos.getD 1 0

/-- The item at a stage. -/
def Item.atStage (i : Item) (stage sent : Nat) : Item := { i with pos := [stage, sent] }

/-- Packets sent to a rank; false when one finds no way. -/
def State.sendAll (s : State) (rank : Nat) : List Packet → State × Bool
  | [] => (s, true)
  | k :: r =>
    match s.sendTo rank k with
    | some s => State.sendAll s rank r
    | none => (s.fabricDrop, false)

/-- The header formed and sent (R367): the poison check is made first (R316). -/
def State.redBegin (s : State) (i : Item) : Except Stop State := do
  let bad ← s.redPoisoned i
  let (table, units) ← (if i.desc.rSparseVa = 0 then pure (0xFFFFFFFF, 0) else do
    let x ← s.storeAt i.req i.desc.rSparseVa
    pure (x.table, x.units))
  let s := if bad && !(s.ctx i.ctx).poison then
      (s.updCtx i.ctx fun x => { x with poison := true }).tally .poisonLocalCnt i.ctx.val .updStatus i.ctx.val 1
    else s
  let order := s.redOrder i
  let h := s.redHeader i table units
  let x := s.coll i.ctx order
  let s := s.setColl { x with headers := x.headers ++ [(s.rdN .shxRank, h)] }
  let s := s.broadcast (mkPacket 0x10 i.ctx 0 order (bytesOf h))
  pure (s.setItem (i.atStage 1 0))

/-- The infinite sums whose inputs are all finite. -/
def overflowed (ins : List (List Nat)) (vs : List Nat) : Nat :=
  countTrue (vs.zipIdx.map fun v => isInf32 v.1 && ins.all fun x => finite32 (x.getD v.2 0))

/-- How many of a chunk's sums overflowed in an addition (R105): counted from the inputs `ins` where the module has done every
addition itself; else every infinite one when no member's values are poisoned, since all inputs are finite then; else a free
number of the infinite ones, for the manual does not say how a member learns which additions of the others overflowed (DESIGN
CHOICE 49). -/
def State.redOvf (s : State) (i : Item) (ins : Option (List (List Nat))) (vs : List Nat) : Nat × State :=
  let n := countTrue (vs.map isInf32)
  match ins with
  | some ins => (overflowed ins vs, s)
  | none =>
    if n = 0 || ((s.coll i.ctx (s.redOrder i)).headers.all fun h => !bit 0 (h.2.getD 1 0)) then (n, s)
    else
      let (f, s) := s.freeW
      (f.toNat % (n + 1), s)

/-- A chunk's sums converted to `DFMT` and written, and counted as every member counts them (R178, R368). -/
def State.redWrite (s : State) (i : Item) (k : Nat) (ins : Option (List (List Nat))) (vs : List Nat) :
    Except Stop State := do
  let (off, _) := i.desc.rChunk k
  if i.desc.rDfmt = 6 then
    let cs := vs.map fun v => toBf16 v
    let s ← s.vwrite i.req (i.desc.rDstVa + off) (cs.flatMap fun c => leBytes 2 c.code)
    let (n, s) := s.redOvf i ins vs
    pure ((s.convCount i.ctx cs).precCount i.ctx 0 n 0 0)
  else
    let s ← s.vwrite i.req (i.desc.rDstVa + off) (vs.flatMap fun v => leBytes 4 (canon32 v))
    let (n, s) := s.redOvf i ins vs
    pure (s.precCount i.ctx 0 n (countTrue (vs.map isNan32)) 0)

/-- What a step of a `REDUCE` comes to: it goes on, waits, stops, or finds no route to a member. -/
inductive RedStep where
  | on (s : State)
  | wait
  | lost (s : State)

/-- One dense chunk (R368): the partials below combined with the module's own, sent up or, at the root, broadcast, and the
result written. -/
def State.redChunk (s : State) (i : Item) (k : Nat) : Except Stop RedStep := do
  let d := i.desc
  let ms := s.memberList
  let p := s.memberPos (s.rdN .shxRank)
  let order := s.redOrder i
  let x := s.coll i.ctx order
  let (off, len) := d.rChunk k
  let elems := len / d.rSize
  let _ ← s.reachAll i.req (d.rDstVa + off) len true
  let own ← s.redSource i k
  let write (s : State) (ins : Option (List (List Nat))) (vs : List Nat) : Except Stop RedStep := do
    let s ← s.redWrite i k ins vs
    let j := (s.current i).getD i
    pure (.on (s.advance j (k + 1)))
  if i.redSent ≤ k then
    match (treeChildren p ms.length).mapM fun q => x.chunk 0x11 (ms.getD q 0) d.rSize off elems with
    | none => pure .wait
    | some below =>
      let ins := own.map read32 :: below
      let sums := below.foldl (fun a b => List.zipWith add32 a b) (own.map read32)
      let j := i.atStage 2 (k + 1)
      if p = 0 then
        let s := (chunkPackets i.ctx 0x13 order d.rSize off sums).foldl State.broadcast s
        write (s.setItem j) (if ms.length ≤ 3 then some ins else none) sums
      else
        let (s, ok) := s.sendAll (ms.getD (treeParent p) 0) (chunkPackets i.ctx 0x11 order d.rSize off sums)
        pure (if ok then .on (s.setItem j) else .lost s)
  else
    match x.chunk 0x13 (ms.getD 0 0) d.rSize off elems with
    | none => pure .wait
    | some sums => write s none sums

/-- The rows of all members reduced at the root (R370): ascending, each over the members that hold it. -/
def reduceRowLists (e : Nat) (lists : List (List Merged)) : List Merged :=
  let rows := (lists.flatMap fun l => l.map (·.1)).foldl (fun a r => insertNat r a) []
  rows.map fun r =>
    let held := lists.filterMap fun l => l.find? fun m => m.1 = r
    (r, sat32 ((held.map (·.2.1)).foldl (· + ·) 0),
      (List.range e).map fun k => canon32 ((reduceBy add32 1 (held.map fun m => read32 (m.2.2.getD k 0))).getD 0))

/-- The rows of the result, once they are known: at the root when every member's rows are there. -/
def State.redResult (s : State) (i : Item) (own : List Merged) (e : Nat) : Option (List Merged) :=
  let ms := s.memberList
  let x := s.coll i.ctx (s.redOrder i)
  if s.memberPos (s.rdN .shxRank) = 0 then
    ((ms.drop 1).mapM fun r => x.rowsFrom 0x12 r e).map fun others => reduceRowLists e (own :: others)
  else x.rowsFrom 0x13 (ms.getD 0 0) e

/-- The reduced row list written from the item's progress on (R370). -/
def State.redList (s : State) (i : Item) (e : Nat) (rows : List Merged) : Except Stop State := do
  let d := i.desc
  let head := d.rDstVa + d.rBytes
  let cap ← s.vword i.req (head + 16) 4
  let kept := rows.take cap
  let done := i.progress - d.rChunks
  match kept[done]? with
  | some m =>
    let s ← s.vwrite i.req (head + 64 + recordBytes e * done) (m.bytes e)
    pure (s.advance i (i.progress + 1))
  | none =>
    let s ← s.vwrite i.req head (leBytes 8 kept.length ++ leBytes 8 ((head + 64) % 2 ^ 48))
    let s := s.tallyN .sparseOvfCnt 0 .shxStatus 0 10 (rows.length - kept.length)
    pure (s.finish i 0)

/-- The sparse part (R370): the module's rows go to the root, the root's result to every member. -/
def State.redSparse (s : State) (i : Item) : Except Stop RedStep := do
  let (own, e) ← s.redRows i
  let ms := s.memberList
  let order := s.redOrder i
  let root := s.memberPos (s.rdN .shxRank) = 0
  if i.redStage < 3 then
    if root then
      match s.redResult i own e with
      | none => pure .wait
      | some rows =>
        let s := (rowPackets i.ctx 0x13 order e rows).foldl State.broadcast s
        pure (.on (s.setItem (i.atStage 3 i.redSent)))
    else
      let (s, ok) := s.sendAll (ms.getD 0 0) (rowPackets i.ctx 0x12 order e own)
      pure (if ok then .on (s.setItem (i.atStage 3 i.redSent)) else .lost s)
  else
    match s.redResult i own e with
    | none => pure .wait
    | some rows => (s.redList i e rows).map .on

/-- A `REDUCE` fails for an abort that a member has broadcast (R371): with `FABRIC_LOST`, or with `STEP_MISMATCH` where the abort
was for headers that disagree, or those that have come do (R367). -/
def State.abortHere (s : State) (i : Item) : State :=
  let x := s.coll i.ctx (s.redOrder i)
  let hs := x.headers.map Prod.snd
  let differ := x.mismatch || !(hs.all fun h => redAgree h = redAgree (hs.getD 0 []))
  (s.dropColl i).stopItem i (if differ then .mismatch else .lost)

/-- A member's header for the same `REDUCE` in its order has come with another `STEP`, and none with this item's (R367). -/
def State.strayHeader (s : State) (i : Item) (r : Nat) : Bool :=
  let order := s.redOrder i
  !((s.coll i.ctx order).headers.any fun h => h.1 = r) &&
    s.fabric.colls.any fun x => x.ctx == i.ctx && x.order % 65536 == order % 65536 &&
      x.headers.any fun h => h.1 = r && h.2.getD 0 0 ≠ i.step

/-- One step of a `REDUCE`. -/
def State.redStep (s : State) (i : Item) : Except Stop RedStep := do
  let ms := s.memberList
  let x := s.coll i.ctx (s.redOrder i)
  if i.redStage = 0 then (s.redBegin i).map .on
  else if !ms.contains (s.rdN .shxRank) then pure .wait
  else if i.redStage = 1 then
    match ms.mapM fun r => (x.headers.find? fun h => h.1 = r).map (·.2) with
    | none => if ms.any (s.strayHeader i) then .error .mismatch else pure .wait
    | some hs =>
      if hs.all fun h => redAgree h = redAgree (hs.getD 0 []) then
        pure (.on ((s.combineHeaders i hs).setItem (i.atStage 2 0)))
      else .error .mismatch
  else if i.progress < i.desc.rChunks then s.redChunk i i.progress
  else if i.desc.rSparseVa = 0 then pure (.on (s.finish i 0))
  else s.redSparse i

/-- A `REDUCE` goes on, at most so many steps. -/
def State.redFrom (s : State) (i : Item) : Nat → State
  | 0 => s
  | n + 1 =>
    match s.current i with
    | none => s
    | some cur =>
      if cur.phase ≠ .working then s
      else if (s.coll cur.ctx (s.redOrder cur)).aborted then s.abortHere cur
      else
        match s.redStep cur with
        | .error why => if why = .mismatch then s.loseColl cur 2 else s.stopItem cur why
        | .ok .wait => s
        | .ok (.lost s) => s.loseColl cur 4
        | .ok (.on s) => State.redFrom s i n

/-- The rows that a `REDUCE` can write. -/
def State.redMost (s : State) (i : Item) : Nat :=
  ((s.coll i.ctx (s.redOrder i)).parts.length + ((s.redRows i).toOption.map fun x => x.1.length).getD 0)

/-- A `REDUCE` works as far as it can. -/
def workReduce (i : Item) (s : State) : State := s.redFrom i (2 * i.desc.rChunks + s.redMost i + 8)

/-- The commit of a `REDUCE`: what was received for it is forgotten. -/
def State.sealReduce (s : State) (i : Item) : State := s.dropColl i

/-! ## Packets of a reduction -/

/-- A `RED_HDR` is kept (R367); a fenced module answers it with an abort (R387). -/
def State.takeHeader (s : State) (k : Packet) : State :=
  s.receiveColl k fun s =>
    if s.rdN .fenceState ≠ 0 then s.send k.srcRank (mkPacket 0x14 k.ctx (wordAt k.data 0) k.opSeq [])
    else
      let x := s.coll k.ctx k.opSeq
      s.setColl { x with headers := (x.headers.filter fun h => h.1 ≠ k.srcRank) ++ [(k.srcRank, wordsOf 8 k.data)] }

/-- A partial or a result is kept (R368–R370). -/
def State.takePart (s : State) (k : Packet) : State :=
  s.receiveColl k fun s =>
    if s.rdN .fenceState ≠ 0 then s
    else
      let x := s.coll k.ctx k.opSeq
      s.setColl { x with parts := x.parts ++ [k] }

/-- A `COLL_ABORT` reaches the reduction that its context, step and `OP_SEQ` name, unless that has committed here (R371); one that
has not issued yet fails when it does. -/
def State.takeAbort (s : State) (k : Packet) : State :=
  s.receiveColl k fun s =>
    if s.redOver k.ctx k.w2 k.opSeq then s
    else
      let s := s.setColl { s.coll k.ctx k.opSeq with aborted := true, mismatch := wordAt k.data 0 = 2 }
      match s.items.find? fun i =>
          i.ctx == k.ctx && i.desc.opcode = 9 && i.step = k.w2 && s.redOrder i = k.opSeq && i.phase ≠ .committed with
      | some i => s.abortHere i
      | none => s

/-- A `REDUCE` that waits longer than `SHX_COLL_TIMEOUT` for a packet fails, and the module aborts it for all (R371). -/
def State.collTimeout (s : State) (c : CtxId) : State :=
  match s.items.find? fun i => i.ctx == c && i.desc.opcode = 9 && (i.phase = .working || i.isParked) with
  | some i => s.loseColl i 1
  | none => s

end Sys2Proof.Machine
end

