-- ==== Sys2Proof/Machine/Apply.lean ====
section
/-! DEFINITION. `APPLY`, arming, cancelling and `DISCARD`, and what an applied change does beside its values (R147, R157–R159,
R174, R292, R328, R347–R349, R371, R382, R397, R403, R438, R448–R454). -/

namespace Sys2Proof.Machine

/-! ## Repair of the gang (R157–R159) -/

/-- A bit of a word set or cleared. -/
def withBit (w : W64) (b : Nat) (on : Bool) : W64 :=
  if on then w ||| BitVec.ofNat 64 (2 ^ b) else w &&& ~~~ BitVec.ofNat 64 (2 ^ b)

/-- A core in or out of the gang. -/
def State.setEngineActive (s : State) (core : Nat) (on : Bool) : State :=
  if core < 64 then s.wr .enginesActiveLo 0 0 (withBit (s.rd .enginesActiveLo) core on)
  else s.wr .enginesActiveHi 0 0 (withBit (s.rd .enginesActiveHi) (core - 64) on)

/-- The gang of one cluster re-formed under the applied exclusions and retirements; the other units of a cluster that is
retired now stop. -/
def State.regangCluster (s : State) (k : Nat) : State :=
  let s := (rangeFrom (4 * k) 4).foldl (fun s i => s.setEngineActive i (s.inGang i)) s
  if (s.rd .clusterRetire).getLsbD k && s.clusterLive k then
    (s.wr .clustersActive 0 0 (withBit (s.rd .clustersActive) k false)).dropStreams k .halted
  else s

/-- The gang of the clusters that satisfy a condition re-formed. -/
def State.regang (s : State) (f : Nat → Bool) : State :=
  ((List.range 32).filter f).foldl State.regangCluster s

/-- The context whose bitmap holds a cluster. -/
def State.clusterOwner (s : State) (k : Nat) : Option CtxId := allCtx.find? fun c => s.owns c k

/-- At `APPLY`, the clusters of no context and of IDLE contexts are re-formed; the others wait for order 3 (R157). -/
def State.regangIdle (s : State) : State :=
  s.regang fun k => match s.clusterOwner k with
    | none => true
    | some c => s.isIdle c

/-- The clusters of a context re-formed at order 3 (R35, R82, R157, R158). -/
def State.regangOf (s : State) (c : CtxId) : State := s.regang fun k => s.owns c k

/-! ## Values that the device itself changes -/

/-- An applied RWS value changed by the device: a staged value that equalled it follows it (DEDUCED 34). -/
def State.wrDevice (s : State) (o : Obj) (n e : Nat) (v : W64) : State :=
  let follows := s.rdStaged o n e = s.rd o n e
  let s := s.wr o n e v
  if follows then s.wrStaged o n e v else s

/-- The next staging generation: it skips 0 (R449). -/
def nextGen (g : Nat) : Nat := if g = 0xFFFFFFFF then 1 else g + 1

/-- The generation increased. -/
def State.bumpGen (s : State) : State := s.wrN .stageGen 0 0 (nextGen (s.rdN .stageGen))

/-! ## What an applied change does -/

/-- The first element of a list by its key is among the changed. -/
def touched (ks : List Nat) (o : Obj) : Bool := ks.any fun k => regObj k = o

/-- The registered collections of a context: its descriptors' addresses. -/
def State.registeredVas (s : State) (c : CtxId) : List Nat :=
  ((s.rdRange .embRegistry c.val 0 16).filter (· ≠ 0)).map fun w => bits 47 0 w

/-- The share of a collection was its partition's before and is after (R147, R291). -/
def State.sameShare (t s : State) (x : Coln) : Bool :=
  t.shareOf x.part == s.shareOf x.part && ((s.partClusters x.part).any fun k => k / 8 = x.die) &&
    ((t.partClusters x.part).any fun k => k / 8 = x.die)

/-- Registries applied: every collection added or removed has all rows in HBM (R292), and so has every registered one whose
share a change of `DIKE_SPLIT` changes (R147). `s` is the state before. -/
def State.applyRegistry (t s : State) : State :=
  allCtx.foldl (fun t c =>
    let old := s.registeredVas c
    let new := t.registeredVas c
    let moved := if t.rdN .dikeSplit = s.rdN .dikeSplit then []
      else new.filter fun va =>
        match (t.colnAt (t.stepReq c) va).toOption with
        | none => false
        | some x => !t.sameShare s x
    (((new.filter fun a => !old.contains a) ++ (old.filter fun a => !new.contains a) ++ moved).dedup).foldl
      (fun t va => t.allHome c va) t) t

/-- A retirement begins (R347–R349). -/
def State.applyRetire (t : State) : Option (Nat × Nat × Nat) → State
  | none => t
  | some (d, h, p) =>
    let k := (t.retired d).length
    let t := t.wrN .hbmRetired 0 (4 * d + k) (0x8000 + h * 256 + p)
    let t := t.wrN .hbmUsable 0 d (t.rdN .hbmUsable 0 d - 0xC0000000)
    (t.wrN .retireState 0 d 1)

/-- The log area of a context starts anew (R382). -/
def State.applyLog (t : State) (c : CtxId) : State :=
  let t := { t with heads := t.heads.filter fun e => e.1 / 1024 ≠ c.val }
  if t.rdN .logPa c.val = 0 then t else t.poke (t.rdN .logPa c.val) (zeros (8 * 783))

/-- The scratch windows after a change of their ways: what they hold is undetermined (R328). -/
def State.applyScratch (t : State) : State :=
  { t with mem := t.mem.filter fun e => !isScratch e.1, scratch := t.scratch + 1 }

/-- `LEVEL` of a layer written to the layer table; a write that fails leaves it (R169, R175, DEDUCED 35). -/
def State.writeLevel (t : State) (c : CtxId) (l v : Nat) : State :=
  let va := t.rdN .consTableVa c.val
  if va = 0 then t
  else
    match t.vwrite (t.stepReq c) (va + 32 * l + 31) [BitVec.ofNat 8 v] with
    | .ok t => t
    | .error why => t.noteUe why

/-- The levels among changed elements written to the layer tables. -/
def State.applyLevels (t : State) (ks : List Nat) : State :=
  (ks.filter fun k => regObj k = .consLevel).foldl (fun t k =>
    t.writeLevel (Fin.ofNat 16 (regCopy k)) (regElem k) (t.rdN .consLevel (regCopy k) (regElem k))) t

/-- `RESTORE_STATE` of a request slot (R406). -/
def State.restoreShow (s : State) (slot st done : Nat) : State :=
  (s.wrN .restoreState 0 (2 * slot) st).wrN .restoreState 0 (2 * slot + 1) done

/-- A restore copy ends: done, or failed at an offset (R398). -/
def State.endRestore (s : State) (x : Restore) (failed : Bool) (at_ : Nat) : State :=
  let s := { s with surv := { s.surv with restores := s.surv.restores.filter fun y => y.slot ≠ x.slot } }
  if failed then (s.restoreShow x.slot 3 at_).tally .restoreFailCnt 0 .survStatus 0 4 else s.restoreShow x.slot 2 at_

/-- The state of the provenance check shown (R406). -/
def State.provShow (s : State) (st : Nat) : State := s.wrBytes .provResult 0 0 (leBytes 1 st)

/-- The provenance check replaced. -/
def State.setProv (s : State) (x : Option Prov) : State := { s with surv := { s.surv with prov := x } }

/-- The provenance check ends: 2 done, 3 failed. -/
def State.endProv (s : State) (st : Nat) : State := (s.setProv none).provShow st

/-- A member whose coordinate has entered `FAULT_SET`; `s` is the state before. -/
def State.newlyLost (t s : State) (r : Nat) : Bool :=
  match t.coordOf r with
  | none => false
  | some c => t.faultCoord c && !s.faultCoord c

/-- Coordinates that entered `FAULT_SET`: the running `REDUCE`s fail when one is a member's (R371), and what is read from a peer that
is lost stops (R398, R399). -/
def State.applyFaults (t s : State) : State :=
  let lost := t.newlyLost s
  let t := (t.surv.restores.filter fun x => lost x.peer).foldl (fun t x => t.endRestore x true x.done) t
  let t := match t.surv.prov with
    | some x => if lost x.peer then t.endProv 3 else t
    | none => t
  if t.memberList.any lost then
    let hit (c : CtxId) : List Item :=
      t.items.filter fun i => i.ctx == c && i.desc.opcode = 9 && i.phase ≠ .committed && !i.isFinished
    (allCtx.flatMap hit).foldl (fun t i =>
      match t.current i with
      | none => t
      | some j => t.loseColl j 3) t
  else t

/-- A port is in use (R356): its dimension has more than one coordinate, or it is an AUX port of a portal ring. -/
def State.portEnabled (s : State) (p : Nat) : Bool :=
  if p < 12 then 1 < s.dim (p % 3) else s.rdN .portalAux = 1

/-- A port under a new configuration (R356): DISABLED while it is not in use; a DISABLED one that is in use, and a FAILED one when
what it verifies has changed, go DOWN. One that leaves UP3 has its whole budget again (R358). -/
def State.reconfigPort (t : State) (verify : Bool) (p : Nat) : State :=
  let x := t.port p
  if !t.portEnabled p then
    let t := if x.st = 6 then t.wrN .portBudget 0 (188 + p) 75294 else t
    t.setPort p { Port.init with st := 0 }
  else if x.st = 0 || (x.st = 7 && verify) then t.setPort p { x with st := 1 }
  else t

/-- The ports after a change of the fabric's configuration. -/
def State.applyPorts (t : State) (ks : List Nat) : State :=
  let verify := touched ks .shxCoord || touched ks .torusDims || touched ks .shxDomainId
  if verify || touched ks .portalAux then (List.range 14).foldl (fun t p => t.reconfigPort verify p) t else t

/-- A configuration image of the strongroom (R466, R467): the applied values of the RWS entries that differ from their defaults. -/
def imageOf (regs : Store W64) : Store W64 := regs.filter fun e => (regObj e.1).info.acc = .rws

/-- The image that is not current is written with the values in force in `u` and their generation (R467). -/
def State.writeImage (t u : State) (gen : Nat) : State :=
  let g : W32 := BitVec.ofNat 32 gen
  if t.strong.current then { t with strong := { t.strong with imageA := imageOf u.regs, genA := g } }
  else { t with strong := { t.strong with imageB := imageOf u.regs, genB := g } }

/-- The image that is not current becomes current (R467). -/
def State.flipImage (t : State) : State := { t with strong := { t.strong with current := !t.strong.current } }

/-- A number of SCLK cycles in seconds, FP32 (R396, R397): 10 ns each. -/
def seconds32 (n : Nat) : Nat := rne32 (.fin false n 100000000)

/-- A failure event (R397). -/
def State.failureEvent (t : State) : State :=
  let now := t.rdN .globalTime
  let delta := if t.surv.firstFail then t.rdN .snapMtbfInit else seconds32 (now - t.rdN .lastFailTime)
  let m := t.rdN .snapMtbf
  let t := t.wrN .snapMtbf 0 0 (add32 m (mul32 (sub32 delta m) 0x3E000000))
  let t := t.wrN .lastFailTime 0 0 now
  let t := t.tally .failureEventCnt 0 .survStatus 0 0
  let t := t.wrDevice .recoveryReason 0 0 0
  { t with surv := { t.surv with firstFail := false } }

/-- The module takes a loan: its coordinate was a spare one and is now its rank's (R403). -/
def State.tookLoan (t s : State) : Bool :=
  ((s.rdRange .loanCoords 0 0 256).any fun w => bit 31 w && bits 15 0 w = s.rdN .shxCoord) &&
    s.coordOf (s.rdN .shxRank) ≠ some (s.rdN .shxCoord) && t.coordOf (t.rdN .shxRank) = some (t.rdN .shxCoord)

/-- The staged values of a scope take effect together (R452); `gen` is the generation that the event carries (DEDUCED 36). -/
def State.applyScope (s : State) (scope gen : Nat) : State :=
  let ks := s.changed scope
  let asked := s.retireAsked (s.candidate scope)
  let t := s.takeStaged ks
  let t := t.regangIdle
  let t := if touched ks .embRegistry || touched ks .dikeSplit then t.applyRegistry s else t
  let t := t.applyRetire asked
  let t := (allCtx.filter fun c => ks.any fun k => (regObj k = .logPa || regObj k = .logRingEntries) && regCopy k = c.val).foldl
    State.applyLog t
  let t := if touched ks .ccScratchWays then t.applyScratch else t
  let t := t.applyLevels ks
  let t := if touched ks .faultSet then t.applyFaults s else t
  let t := if t.tookLoan s then t.count .loanCnt else t
  let t := t.applyPorts ks
  let t := if scope = 0x10 && t.rdN .recoveryReason = 1 then t.failureEvent else t
  let t := if asked.isSome || ks.any fun k => (regObj k).info.cls = .persistent then { t with storing := true } else t
  let t := (t.writeImage t gen).flipImage
  (t.count .applyCnt).raise 0x30 (if scope = 0x10 then none else some (Fin.ofNat 16 scope)) (gen % 2 ^ 24 * 256 + scope)

/-! ## Arming, cancelling, discarding (R453, R454) -/

/-- The image armed; the strongroom's other image is prepared with what it will make of the entries (R467). -/
def State.arm (s : State) (scope form : Nat) (arg : W64) : State :=
  let s := s.writeImage (s.candidate scope) (nextGen (s.rdN .stageGen))
  let s := { s with mgmt := { s.mgmt with armed := some ⟨BitVec.ofNat 8 scope, BitVec.ofNat 8 form, arg⟩ } }
  s.wrBytes .stageArmed 0 0 (leBytes 1 scope ++ leBytes 1 form ++ zeros 6 ++ leBytes 8 arg.toNat)

/-- The image open again. -/
def State.disarm (s : State) : State :=
  let s := { s with mgmt := { s.mgmt with armed := none } }
  s.wrBytes .stageArmed 0 0 (zeros 16)

/-- An armed change applies (R449, R453). -/
def State.fire (s : State) (a : Armed) : State :=
  let s := s.disarm.bumpGen
  s.applyScope a.scope.toNat (s.rdN .stageGen)

/-- The staged values of a scope return to the applied ones (R454). -/
def State.discardScope (s : State) (scope : Nat) : State :=
  (s.changed scope).foldl (fun s k =>
    { s with staged := Store.set regDefault s.staged k (Store.get regDefault s.regs k) }) s

/-- `CHECK` of a scope (R451, R453): its status, result and state; `gen` is the generation that its frame started with (R449). -/
def State.opCheck (s : State) (gen scope : Nat) : Status × List Byte × State :=
  if s.mgmt.armed.isSome then (.busy, [], s)
  else if 0x10 < scope then (.range, [], s)
  else
    let (b, s') := s.runCheck gen scope false
    (if b.isSome then .checkFailed else .ok, checkResult b scope gen, s')

/-- A context has an open step or a submitted successor (R452). -/
def State.hasStep (s : State) (c : CtxId) : Bool :=
  let x := s.ctx c
  x.prog.isSome || x.next.isSome || x.fetching || x.sqTail.toNat ≠ s.rdN .sqHead c.val

/-- `APPLY` of a scope (R452, R453), in a frame that started with a generation (R449). -/
def State.opApply (s : State) (gen scope form : Nat) (arg : W64) : Status × List Byte × State :=
  if s.mgmt.armed.isSome then (.busy, [], s)
  else if 0x10 < scope then (.range, [], s)
  else
    let (b, t) := s.runCheck gen scope true
    let res := checkResult b scope gen
    if b.isSome then (.checkFailed, res, t)
    else if form = 0 then (.ok, res, t.applyScope scope (nextGen (s.rdN .stageGen)))
    else if form = 1 then
      let c := arg.toNat % 65536
      if 15 < c || (scope ≠ 0x10 && c ≠ scope) then (.range, res, t)
      else if !t.hasStep (Fin.ofNat 16 c) then (.state, res, t)
      else (.ok, res, t.arm scope 1 arg)
    else if form = 2 then
      if arg.toNat < t.rdN .globalTime + 1000 then (.state, res, t) else (.ok, res, t.arm scope 2 arg)
    else (.range, res, t)

/-- `DISCARD` of a scope (R453, R454). -/
def State.opDiscard (s : State) (scope : Nat) : Status × State :=
  if s.mgmt.armed.isSome then (.busy, s) else if 0x10 < scope then (.range, s) else (.ok, s.discardScope scope)

/-- Order 3 of R82: a change armed for the boundary of a context applies (R452). -/
def State.fireBoundary (s : State) (c : CtxId) : State :=
  match s.mgmt.armed with
  | none => s
  | some a => if a.form = 1 && a.arg.toNat % 65536 = c.val then s.fire a else s

/-- A time-form change applies on the edge at which the global time is its argument (R452). -/
def State.fireTime (s : State) : State :=
  match s.mgmt.armed with
  | none => s
  | some a => if a.form = 2 && s.rd .globalTime = a.arg then s.fire a else s

end Sys2Proof.Machine
end

