-- ==== Sys2Proof/Machine/Fence.lean ====
section
/-! DEFINITION. The commit token, mismatch reports, the vote and its verdict, and the fenced state (R80, R375, R386,
R387). -/

namespace Sys2Proof.Machine

/-! ## Fencing (R387) -/

/-- Every partition of a context stops as a failure; one that has stopped so already stays as it is. -/
def State.stopCtx (s : State) (c : CtxId) : State :=
  if s.clusterless c then s.stopPartition c 0 true
  else (s.ownedParts c).foldl (fun s p => if (s.ctx c).faultParts.contains p then s else s.stopPartition c p false) s

/-- Every partition of every context that satisfies a condition stops as a failure (R387, R483), but for one whose `RESET` of this
edge has followed its stop already (R41). -/
def State.stopAll (s : State) (which : Ctx → Bool) : State :=
  allCtx.foldl (fun s c => if which (s.ctx c) && (s.ctx c).stopAt ≠ some s.now then s.stopCtx c else s) s

/-- The contexts that a fence stops: those that are not IDLE (R387). -/
def Ctx.fences (x : Ctx) : Bool := x.st ≠ .idle

/-- The module is fenced, with the cause that `FENCE_STATE` shows; a module that is fenced already makes no new entry. -/
def State.fenceNow (s : State) (cause : Nat) : State :=
  if s.rdN .fenceState ≠ 0 then s
  else
    let s := (s.wrN .fenceState 0 0 cause).tally .fenceCnt 0 .survStatus 0 1
    (s.raise 0x04 none cause).stopAll Ctx.fences

/-- The fenced state is left, while every context is IDLE; it answers whether the write is accepted. -/
def State.fenceLeave (s : State) : Bool × State :=
  if allCtx.all fun c => (s.ctx c).st = .idle then (true, s.wrN .fenceState 0 0 0) else (false, s)

/-! ## Tokens (R80, R375) -/

/-- A rank is live: its coordinate does not stand in `FAULT_SET`. -/
def State.isLive (s : State) (r : Nat) : Bool := !(s.coordOf r).any s.faultCoord

/-- The token holder: the live member of lowest rank (R375). -/
def State.holder (s : State) : Option Nat := s.memberList.find? s.isLive

/-- The module is the token holder. -/
def State.isHolder (s : State) : Bool := s.holder = some (s.rdN .shxRank)

/-- The rank of the token holder. -/
def State.holderRank (s : State) : Nat := s.holder.getD 0

/-- A token with the module's values for a step (R80, R386): its digest, poison flag and rank. -/
def State.makeToken (s : State) (c : CtxId) (step : W64) (poison : Bool × Nat) : List W64 :=
  [step, s.rd .updDigest c.val,
   BitVec.ofNat 64 (s.rdN .shxRank * 2 ^ 48 + poison.2 % 65536 * 2 ^ 32 + poison.1.toNat * 2 + poison.1.toNat),
   BitVec.ofNat 64 (s.rdN .epoch * 2 ^ 32 + s.memberList.length % 2 ^ 32), s.rd .globalTime, 0, 0, 0]

/-- The four values of a token that are compared (R81, R386). -/
def tokenVals (t : List W64) : List W64 := [t.getD 0 0, t.getD 1 0, t.getD 2 0 &&& 1, t.getD 3 0 >>> 32]

/-- A token latched in `LAST_TOKEN` (R80). -/
def State.latchToken (s : State) (c : CtxId) (t : List W64) : State :=
  (s.wrBytes .lastToken c.val 0 (bytesOf t)).updCtx c fun x => { x with token := some t }

/-- A `TOKEN` packet of a kind: 0 commit token, 1 report, 2 verdict (R386). -/
def tokenPacket (c : CtxId) (kind op : Nat) (t : List W64) : Packet := mkPacket 0x20 c (BitVec.ofNat 64 kind) op (bytesOf t)

/-- The holder's token of a step kept for its votes; of a step that is run again (R404), what an earlier run left is forgotten. -/
def State.keepSent (s : State) (c : CtxId) (t : List W64) : State :=
  let old (d : CtxId) (step : W64) : Bool := d = c && (t.getD 0 0).toNat ≤ step.toNat
  { s with surv := { s.surv with
      sent := (c, t) :: s.surv.sent.filter fun e => !old e.1 (e.2.getD 0 0)
      votes := s.surv.votes.filter fun v => !old v.ctx v.step } }

/-- The commit token formed: a domain of one forms it locally, the holder of a larger one broadcasts it (R80, R375). -/
def State.formToken (s : State) (c : CtxId) (t : List W64) (alone : Bool) : State :=
  let s := s.latchToken c t
  if alone then s
  else
    let (op, s) := s.nextOp
    (s.keepSent c t).broadcast (tokenPacket c 0 op t)

/-! ## Verdicts (R386) -/

/-- The last comparison made of a context's step. -/
def State.comparedFor (s : State) (c : CtxId) (step : W64) : Option Compared :=
  s.surv.compared.find? fun x => x.ctx == c && x.step == step

/-- The verdict is all zero: no group won. -/
def noWinner (v : List W64) : Bool := v.all fun w => w = 0

/-- A verdict acted on by a member that has made the comparison. -/
def State.actVerdict (s : State) (c : CtxId) (v : List W64) (x : Compared) : State :=
  let s := { s with surv := { s.surv with reported := s.surv.reported.filter fun d => d ≠ c } }
  if noWinner v || tokenVals v ≠ x.vals then s.fenceNow 1
  else if x.failed then s.setFlag .survStatus 0 6
  else s

/-- The open step of a context has not made its comparison yet. -/
def State.uncompared (s : State) (c : CtxId) : Bool :=
  (s.ctx c).prog.any fun p => (s.comparedFor c p.step).isNone

/-- A verdict reaches a member: it acts at once when it has compared the step, else it keeps the verdict. One of all zeros names no
step: a member that has reported takes it as its report's, one whose open step has yet to compare as that step's, and any other as
that of the context's last comparison (DESIGN CHOICE 156). -/
def State.takeVerdict (s : State) (c : CtxId) (v : List W64) : State :=
  let found :=
    if !noWinner v then s.comparedFor c (v.getD 0 0)
    else if s.uncompared c && !s.surv.reported.contains c then none
    else s.surv.compared.find? fun x => x.ctx == c
  match found with
  | some x => s.actVerdict c v x
  | none => { s with surv := { s.surv with verdicts := (c, v) :: s.surv.verdicts.filter fun e => e.1 ≠ c } }

/-- A comparison recorded, and the verdict kept for it acted on. -/
def State.recordCompared (s : State) (x : Compared) : State :=
  let s := { s with surv := { s.surv with compared := x :: s.surv.compared } }
  match s.surv.verdicts.find? fun e => e.1 = x.ctx && (noWinner e.2 || e.2.getD 0 0 = x.step) with
  | none => s
  | some e =>
    ({ s with surv := { s.surv with verdicts := s.surv.verdicts.filter fun f => f.1 ≠ x.ctx } } : State).actVerdict x.ctx e.2 x

/-! ## Reports and the vote (R386) -/

/-- A report takes no part in a vote. -/
def State.lateReport (s : State) : State := s.tally .lateReportCnt 0 .survStatus 0 8

/-- A report reaches the holder. -/
def State.takeReport (s : State) (c : CtxId) (rank : Nat) (t : List W64) : State :=
  let step := t.getD 0 0
  if !(s.surv.sent.any fun e => e.1 = c && e.2.getD 0 0 = step) then s.lateReport
  else
    match s.surv.votes.find? fun v => v.ctx == c && v.step == step with
    | none => { s with surv := { s.surv with votes := s.surv.votes ++ [⟨c, step, [(rank, tokenVals t)], true⟩] } }
    | some v =>
      if v.isOpen then
        { s with surv := { s.surv with votes := s.surv.votes.map fun u =>
            if u.ctx == c && u.step == step then { u with reports := (rank, tokenVals t) :: u.reports.filter fun e => e.1 ≠ rank }
            else u } }
      else s.lateReport

/-- The reporting of a failed comparison: sent to the holder, or joined to the module's own vote. -/
def State.report (s : State) (c : CtxId) (t : List W64) : State :=
  let s := s.count .mismatchReportCnt
  let waits := if s.surv.reported.contains c then s.surv.reported else s.surv.reported ++ [c]
  let s := { s with surv := { s.surv with reported := waits } }
  if s.isHolder then s.takeReport c (s.rdN .shxRank) t
  else
    let (op, s) := s.nextOp
    s.send s.holderRank (tokenPacket c 1 op t)

/-- The values of a vote's groups, each with its size: members that did not report stand in the holder's group. -/
def State.voteGroups (s : State) (v : Vote) : List (List W64 × Nat) :=
  let own := tokenVals (((s.surv.sent.find? fun e => e.1 = v.ctx && e.2.getD 0 0 = v.step).map (·.2)).getD [])
  let valsOf (r : Nat) : List W64 := ((v.reports.find? fun e => e.1 = r).map (·.2)).getD own
  let all := s.memberList.map valsOf
  all.dedup.map fun g => (g, (all.filter (· = g)).length)

/-- The verdict of a vote: the winning values as a token, or all zeros. -/
def State.verdictOf (s : State) (v : Vote) : List W64 :=
  match (s.voteGroups v).find? fun g => s.memberList.length < 2 * g.2 with
  | some (g, _) => [g.getD 0 0, g.getD 1 0, g.getD 2 0, g.getD 3 0 <<< 32, 0, 0, 0, 0]
  | none => List.replicate 8 0

/-- The window of the oldest open vote closes: the verdict is broadcast, and the holder acts on it as a member. -/
def State.closeVote (s : State) : State :=
  match s.surv.votes.find? Vote.isOpen with
  | none => s
  | some v =>
    let t := s.verdictOf v
    let shut (u : Vote) : Vote := if u.ctx == v.ctx && u.step == v.step then { u with isOpen := false } else u
    let s := { s with surv := { s.surv with votes := s.surv.votes.map shut } }
    let (op, s) := s.nextOp
    (s.broadcast (tokenPacket v.ctx 2 op t)).takeVerdict v.ctx t

/-- A reporter that has received no verdict in time fences. -/
def State.verdictLate (s : State) (c : CtxId) : State :=
  if s.surv.reported.contains c then
    ({ s with surv := { s.surv with reported := s.surv.reported.filter fun d => d ≠ c } } : State).fenceNow 1
  else s

end Sys2Proof.Machine
end

