-- ==== Sys2Proof/Machine/Domain.lean ====
section
/-! DEFINITION. The domain-wide apply: its write, the vote, the decision and the instant (R376, R401, R453). -/

namespace Sys2Proof.Machine

/-! ## What stands in the state -/

/-- The domain-wide change at this module replaced. -/
def State.setDom (s : State) (d : Option DomApply) : State := { s with fabric := { s.fabric with apply := d } }

/-- `DOMAIN_APPLY_RESULT` (R380): identifier, state, refusing rank and rule. -/
def State.domResult (s : State) (id : W32) (st rank rule : Nat) : State :=
  s.wrBytes .domainApplyResult 0 0
    (leBytes 4 id.toNat ++ leBytes 1 st ++ zeros 1 ++ leBytes 2 rank ++ leBytes 4 rule ++ zeros 4)

/-- The staged image changes `MEMBERS` or `RANK_MAP`. -/
def State.changesMembers (s : State) : Bool :=
  (s.changed 0x10).any fun k => regObj k = .members || regObj k = .rankMap

/-- The packets of an apply (DESIGN CHOICE 37): `APPLY_PREP` carries the 16 bytes of `DOMAIN_APPLY` as data, `APPLY_VOTE` the
identifier in `ARG` [31:0] and the rule, 0 when ready, in [63:32], and `APPLY_GO` the identifier and the cancel bit. -/
def voteArg (id : W32) (rule : Nat) : W64 := BitVec.ofNat 64 (rule % 2 ^ 32 * 2 ^ 32 + id.toNat)

/-- `ARG` of `APPLY_GO`. -/
def goArg (id : W32) (cancel : Bool) : W64 := BitVec.ofNat 64 (cancel.toNat * 2 ^ 63 + id.toNat)

/-! ## A member's part -/

/-- A member judges its staged image (R376): 0 when it is ready. A different identifier, an image that is armed already, and
a change of membership in the time form are refused as well (DESIGN CHOICE 37). -/
def State.judgePrep (s : State) (id : W32) (form : Byte) : Nat × State :=
  if s.mgmt.armed.isSome || (s.rdStaged .stageId).truncate 32 ≠ id then (0xFFFFFFFF, s)
  else
    let (b, s) := s.runCheck (s.rdN .stageGen) 0x10 false
    match b with
    | some _ => (ruleCode b, s)
    | none => if form ≠ 0 && s.changesMembers then (0x01040000, s) else (0, s)

/-- A member prepares a change (R376, R453): ready, its image is armed. It answers the rule it votes with. -/
def State.prepare (s : State) (id : W32) (form : Byte) (arg : W64) (holder : Bool) : Nat × State :=
  let (rule, s) := s.judgePrep id form
  let s := s.domResult id 1 0 0
  let s := if rule = 0 then s.arm 0x10 0xFF arg else s
  (rule, s.setDom (some { id := id, form := form, arg := arg, holder := holder, votes := [], prepared := rule = 0, decided := none }))

/-- The prepared image takes effect (R376): a change of `MEMBERS` or `RANK_MAP` increments `EPOCH`. -/
def State.domFire (s : State) (d : DomApply) : State :=
  let members := s.changesMembers
  match s.mgmt.armed with
  | none => s.setDom none
  | some a =>
    let s := s.fire a
    let s := if members then s.count .epoch else s
    (s.domResult d.id 2 0 0).setDom none

/-- Every context is IDLE, and the step is committed here (R401). -/
def State.quiet (s : State) (step : W64) : Bool :=
  (allCtx.all fun c => s.isIdle c) && allCtx.any fun c => step.toNat ≤ s.rdN .ctxStep c.val

/-- A member receives a go (R376, R401). -/
def State.domGo (s : State) (id : W32) : State :=
  match s.fabric.apply with
  | none => s
  | some d =>
    if d.id ≠ id || !d.prepared then s
    else if d.form = 0 && s.quiet d.arg then s.domFire d
    else s.setDom (some { d with decided := some true })

/-- A member receives a cancel (R376, R449, R453): it discards its staged image, which was armed if it was ready. -/
def State.domCancel (s : State) (id : W32) (rank rule : Nat) : State :=
  match s.fabric.apply with
  | none => s
  | some d =>
    if d.id ≠ id then s
    else
      let s := s.setDom none
      let s := if d.prepared then
          let s := (s.disarm.discardScope 0x10).bumpGen
          let s := s.tally .applyCancelCnt 0 .igcorStatus 0 4
          s.raise 0x31 none (s.rdN .stageGen % 2 ^ 24 * 256 + 0x10)
        else if s.mgmt.armed.isSome then s
        else (s.discardScope 0x10).bumpGen
      s.domResult id 3 rank rule

/-! ## The holder's part -/

/-- The decision of the holder (R376): a go when every member is ready, else a cancel with the lowest refusing rank and its
rule; with votes missing and none refused, the rank is 0xFFFF. -/
def State.decideVotes (s : State) : State :=
  match s.fabric.apply with
  | none => s
  | some d =>
    if !d.holder || d.decided.isSome then s
    else
      let all := s.memberList.all fun r => d.votes.any fun v => v.1 = r
      let refusals := d.votes.filter fun v => v.2 ≠ 0
      let (op, s) := s.nextOp
      if all && refusals.isEmpty then
        (s.broadcast (mkPacket 0x23 0 (goArg d.id false) op [])).domGo d.id
      else
        let low := refusals.foldl (fun (a : Nat × Nat) v => if v.1 < a.1 then (v.1, v.2.toNat) else a) (0xFFFF, 0)
        (s.broadcast (mkPacket 0x23 0 (goArg d.id true) op [])).domCancel d.id low.1 low.2

/-- A vote reaches the holder; with the last one it decides. -/
def State.takeVote (s : State) (rank : Nat) (id : W32) (rule : W32) : State :=
  match s.fabric.apply with
  | none => s
  | some d =>
    if !d.holder || d.id ≠ id || d.decided.isSome then s
    else
      let votes := (rank, rule) :: d.votes.filter fun v => v.1 ≠ rank
      let s := s.setDom (some { d with votes := votes })
      if s.memberList.all fun r => votes.any fun v => v.1 = r then s.decideVotes else s

/-- The write of `DOMAIN_APPLY` (R376, R380): the holder alone accepts it, one change at a time. -/
def State.domStart (s : State) (w0 w1 : W64) : Status × State :=
  let id : W32 := w0.truncate 32
  let form : Byte := (w0 >>> 32).truncate 8
  if !s.isHolder then (.state, s)
  else if 1 < form.toNat then (.range, s)
  else if s.fabric.apply.isSome || s.mgmt.armed.isSome then (.busy, s)
  else if form = 1 && w1.toNat < s.rdN .globalTime + s.rdN .shxApplyGuard then (.state, s)
  else if form = 1 && s.changesMembers then (.state, s)
  else
    let (op, s) := s.nextOp
    let s := s.broadcast (mkPacket 0x21 0 0 op (bytesOf [w0, w1]))
    let (rule, s) := s.prepare id form w1 true
    (.ok, s.takeVote (s.rdN .shxRank) id (BitVec.ofNat 32 rule))

/-- An `APPLY_PREP` reaches a member: it prepares and votes; while an earlier change stands it votes a refusal (DESIGN CHOICE 37). A
fenced module sends no vote (R387). -/
def State.takePrep (s : State) (k : Packet) : State :=
  if s.rdN .fenceState ≠ 0 then s
  else
    let w0 := wordAt k.data 0
    let id : W32 := w0.truncate 32
    let (rule, s) :=
      if s.fabric.apply.isSome then (0xFFFFFFFF, s) else s.prepare id ((w0 >>> 32).truncate 8) (wordAt k.data 1) false
    let (op, s) := s.nextOp
    s.send k.srcRank (mkPacket 0x22 0 (voteArg id rule) op [])

/-- Votes are awaited no longer (R376): in the time form half a guard before *T*, in the step form before the token. -/
def State.voteDeadline (s : State) : State := s.decideVotes

/-- *T* is reached (R376): a go takes effect; a prepared change without a decision is missed. -/
def State.domInstant (s : State) : State :=
  match s.fabric.apply with
  | none => s
  | some d =>
    if d.form ≠ 1 || !d.prepared || s.rd .globalTime ≠ d.arg then s
    else if d.decided = some true then s.domFire d
    else
      let s := (s.setDom none).disarm
      let s := s.tally .applyMissCnt 0 .shxStatus 0 6
      (s.domResult d.id 4 0 0).raise 0x25 none d.id.toNat

/-- Order 3 of R82 for a step: a step-form change with a go takes effect (R376). -/
def State.domBoundary (s : State) (step : W64) : State :=
  match s.fabric.apply with
  | none => s
  | some d => if d.form = 0 && d.arg = step && d.decided = some true then s.domFire d else s

/-- Before the holder sends the token of a step, it decides a change of that step (R376). -/
def State.decideBefore (s : State) (step : W64) : State :=
  match s.fabric.apply with
  | none => s
  | some d => if d.form = 0 && d.arg = step && d.decided.isNone then s.decideVotes else s

end Sys2Proof.Machine
end

