-- ==== Sys2Proof/Machine/Submit.lean ====
section
/-! DEFINITION. The rings of a context: host reads, fetches, the check of an entry, and the doorbells (R47, R409–R413,
R417–R421, R426). -/

namespace Sys2Proof.Machine

/-! ## Host reads -/

/-- A memory read on behalf of function f (R410); behind a portal a `TUN_DMA_RD` with the bus address in `ARG` and the length
as data (R426, DESIGN CHOICE 14). `kind`: 1 a ring fetch, 2 `DMA` data. -/
def State.hostRead (s : State) (f : CtxId) (addr len kind : Nat) : State :=
  if s.isMemberMode then
    let (n, s) := s.nextOp
    let s := { s with fabric := { s.fabric with tunnels := s.fabric.tunnels.concat ⟨BitVec.ofNat 32 n, f, len, kind⟩ } }
    s.send s.portalRank (mkPacket 0x53 f (BitVec.ofNat 64 addr) n (leBytes 8 len))
  else s.postReads f addr len

/-- A doorbell or a ring configuration write that is refused (R413, R418, R420, R428). -/
def State.doorbellErr (s : State) (c : CtxId) : State := s.tally .doorbellErrCnt c.val .hostCtxStatus c.val 0

/-! ## Fetches (R418) -/

/-- The context holds a fetched entry beside its open step: a successor, or one that waits for the end of a preemption. -/
def Ctx.holdsNext (x : Ctx) : Bool := x.next.isSome || x.succ.isSome

/-- The next entry is fetched when one is ready and the context holds at most its open step. -/
def State.fetchMore (s : State) (c : CtxId) : State :=
  let x := s.ctx c
  let cfg := s.rd .sqCfg c.val
  let head := s.rdN .sqHead c.val
  if s.fnServed c && bit 31 cfg && !x.fetching && !x.holdsNext && x.sqTail.toNat ≠ head then
    (s.updCtx c fun x => { x with fetching := true }).hostRead c
      (s.rdN .sqBase c.val + 32 * (head % 2 ^ bits 3 0 cfg)) 32 1
  else s

/-! ## The check of an entry (R47, R419) -/

/-- What an unreadable header or program counts: a refusal, or an uncorrectable error. -/
def State.noteRead (s : State) (c : CtxId) : Stop → State
  | .denied => s.countDenied c
  | why => s.noteUe why

/-- `STEP` of the header that an entry names, when it can be read. -/
def State.entryStep (s : State) (c : CtxId) (e : Fetched) : W64 :=
  match s.vread (s.stepReq c) (bits 47 0 e.w1) 256 with
  | .ok h => wordAt h 0
  | .error _ => 0

/-- An entry judged: its program, or the `STEP` of its rejection. -/
def State.judgeEntry (s : State) (c : CtxId) (e : Fetched) : State × Except W64 Program :=
  if !e.good then (s, .error 0)
  else
    match s.readProgram c e with
    | .error why => (s.noteRead c why, .error (s.entryStep c e))
    | .ok p => (s, if s.checkProgram c p then .ok p else .error p.step)

/-- An entry of an IDLE context read at once: the step opens or is rejected. -/
def State.openEntry (s : State) (c : CtxId) (e : Fetched) : State :=
  match s.judgeEntry c e with
  | (s, .ok p) => s.openStep c p
  | (s, .error step) => s.rejectHeader c e.tag step

/-- The read of a submission entry completes (R418, R419). -/
def State.fetched (s : State) (c : CtxId) (r : FetchResult) : State :=
  if !(s.ctx c).fetching then s
  else
    let e : Fetched := match r with
      | .entry w0 w1 w2 w3 => ⟨w0, w1, w2, w3, false⟩
      | .error => ⟨0, 0, 0, 0, true⟩
    let s := (s.updCtx c fun x => { x with fetching := false }).count .sqHead c.val
    let s := if e.failed then s.hostError c else s
    let s := if (s.ctx c).st = .idle then s.openEntry c e else s.updCtx c fun x => { x with next := some e }
    s.fetchMore c

/-! ## Doorbells and ring configuration (R413, R418, R420) -/

/-- `SQ_TAIL` written (R418). -/
def State.writeSqTail (s : State) (c : CtxId) (v : W32) : State :=
  let cfg := s.rd .sqCfg c.val
  let head : W32 := (s.rd .sqHead c.val).truncate 32
  let declared : W32 := (s.ctx c).sqTail - head
  if !bit 31 cfg || 2 ^ bits 3 0 cfg < (v - head).toNat || (v - head).toNat < declared.toNat then s.doorbellErr c
  else (s.updCtx c fun x => { x with sqTail := v }).fetchMore c

/-- `CQ_HEAD` written (R420, R421): waiting records follow into the room it makes. -/
def State.writeCqHead (s : State) (c : CtxId) (v : W32) : State :=
  let cfg := s.rd .cqCfg c.val
  let tail : W32 := (s.rd .cqTail c.val).truncate 32
  let held : W32 := tail - (s.ctx c).cqHead
  if !bit 31 cfg || 2 ^ bits 4 0 cfg < (tail - v).toNat || held.toNat < (tail - v).toNat then s.doorbellErr c
  else (s.updCtx c fun x => { x with cqHead := v }).drainRecs c

/-- A ring configuration write is accepted (R413): `log` is the width of `LOG2`, from `lo` to `hi`. -/
def ringWriteOk (idle : Bool) (old v : W64) (log lo hi : Nat) : Bool :=
  let was := bit 31 old
  let will := bit 31 v
  let l := bits (log - 1) 0 v
  let both := !was && !will
  (!(was && !will) || idle) && (bits (log - 1) 0 old = l || both) && (lo ≤ l && l ≤ hi || !will)

/-- `SQ_CFG` written (R413). -/
def State.writeSqCfg (s : State) (c : CtxId) (v : W32) : State :=
  let old := s.rd .sqCfg c.val
  let v64 := v.zeroExtend 64
  if !ringWriteOk ((s.ctx c).st = .idle) old v64 4 1 12 then s.doorbellErr c
  else
    let s := s.wrN .sqCfg c.val 0 (bits 31 31 v64 * 2 ^ 31 + bits 3 0 v64)
    if !bit 31 old && bit 31 v64 then (s.wr .sqHead c.val 0 0).updCtx c fun x => { x with sqTail := 0, fetching := false }
    else s

/-- `CQ_CFG` written (R413, R421). -/
def State.writeCqCfg (s : State) (c : CtxId) (v : W32) : State :=
  let old := s.rd .cqCfg c.val
  let v64 := v.zeroExtend 64
  if !ringWriteOk ((s.ctx c).st = .idle) old v64 5 4 16 then s.doorbellErr c
  else
    let s := s.wrN .cqCfg c.val 0 (bits 31 31 v64 * 2 ^ 31 + bits 4 0 v64)
    let s := if !bit 31 old && bit 31 v64 then (s.wr .cqTail c.val 0 0).updCtx c fun x => { x with cqHead := 0 } else s
    s.drainRecs c

end Sys2Proof.Machine
end

