-- ==== Sys2Proof/Machine/Snapshot.lean ====
section
/-! DEFINITION. Snapshots and recovery: manifests, the freeze, `SNAPSHOT`, the depot, restore copies and the provenance check
(R388–R394, R396, R398, R399). -/

namespace Sys2Proof.Machine

/-! ## Manifests (R388) -/

/-- The regions of a manifest: address and length; none where it breaks its layout. -/
def State.manifest (s : State) (r : Req) (va : Nat) : Except Stop (Option (List (Nat × Nat))) := do
  let h ← s.vread r va 64
  let n := bits 15 0 (wordAt h 0)
  let body ← s.vread r (va + 64) (16 * n)
  let rows := (List.range n).map fun k => (wordAt body (2 * k), wordAt body (2 * k + 1))
  let ok := 1 ≤ n && n ≤ 255 && bits 63 16 (wordAt h 0) = 0 && ((rangeFrom 1 7).all fun k => wordAt h k = 0) &&
    rows.all fun (a, l) => bits 63 48 a = 0 && bits 15 0 a = 0 && bits 63 40 l = 0 && bits 15 0 l = 0 && l ≠ 0
  pure (if ok then some (rows.map fun (a, l) => (a.toNat, l.toNat)) else none)

/-- The blocks of a stream. -/
def streamBlocks (rs : List (Nat × Nat)) : Nat := (rs.map fun e => e.2 / 65536).foldl (· + ·) 0

/-- The address of block b of a stream. -/
def blockVa : List (Nat × Nat) → Nat → Option Nat
  | [], _ => none
  | (va, len) :: r, b => if b < len / 65536 then some (va + 65536 * b) else blockVa r (b - len / 65536)

/-! ## The freeze (R389, R390, R392) -/

/-- The stripe of this module at snapshot k: its number and blocks, or none. -/
def State.stripeOf (s : State) (k blocks : Nat) : Option (Nat × Nat) :=
  let n := s.memberList.length
  let width := s.rdN .sharedStripes
  let j := (s.memberPos (s.rdN .shxRank) + k) % n
  let bs := ceilDiv blocks width
  if j < width then some (j, min blocks ((j + 1) * bs) - min blocks (j * bs)) else none

/-- The slot header of a frozen step. -/
def State.slotHeader (s : State) (p : Program) (k unique : Nat) (stripe : Option (Nat × Nat)) (frozen : Bool) : List Byte :=
  bytesOf
    [p.step, BitVec.ofNat 64 (s.rdN .shxRank * 2 ^ 48 + s.rdN .epoch), BitVec.ofNat 64 k,
     BitVec.ofNat 64 ((stripe.map (·.2)).getD 0 * 2 ^ 32 + unique), BitVec.ofNat 64 ((stripe.map (·.1)).getD 0xFFFF),
     p.seed, BitVec.ofNat 64 (2 * frozen.toNat), 0]

/-- Blocks of the unique stream copied to the image, from block b on; it stops at the first access that fails. -/
def State.copyBlocks (s : State) (r : Req) (rs : List (Nat × Nat)) (image : Nat) : Nat → Nat → State × Option Stop
  | 0, _ => (s, none)
  | n + 1, b =>
    match blockVa rs b with
    | none => (s, none)
    | some va =>
      match s.vread r va 65536 with
      | .error why => (s, some why)
      | .ok bs =>
        match s.vwrite r (image + 65536 * (b + 1)) bs with
        | .error why => (s, some why)
        | .ok s => State.copyBlocks s r rs image n (b + 1)

/-- The image of snapshot k: a header with `FROZEN` 0 before anything is read, the unique stream, then the header with `FROZEN`. -/
def State.freezeImage (s : State) (c : CtxId) (p : Program) (k : Nat) : State × Option Stop :=
  let r := s.stepReq c
  let image := s.rdN .outImageVa c.val
  match s.vwrite r image (s.slotHeader p k 0 none false) with
  | .error why => (s, some why)
  | .ok s =>
    match s.manifest r (s.rdN .uniqueManifestVa c.val), s.manifest r (s.rdN .sharedManifestVa c.val) with
    | .ok (some us), .ok (some sh) =>
      match s.copyBlocks r us image (streamBlocks us) 0 with
      | (s, some why) => (s, some why)
      | (s, none) =>
        match s.vwrite r image (s.slotHeader p k (streamBlocks us) (s.stripeOf k (streamBlocks sh)) true) with
        | .error why => (s, some why)
        | .ok s => (s, none)
    | .error why, _ => (s, some why)
    | _, .error why => (s, some why)
    | _, _ => (s, some .wait)

/-- Order 4 of R82 (R389): an abandoned freeze is counted, and `SNAP_SEQ` advances all the same. -/
def State.freeze (s : State) (c : CtxId) (p : Program) : State :=
  let s := s.count .snapSeq
  let s := { s with surv := { s.surv with froze := (c, s.now) :: s.surv.froze.filter fun e => e.1 ≠ c } }
  let failed (s : State) : State := s.tally .freezeFailCnt 0 .survStatus 0 2
  if s.rdN .outImageVa c.val = 0 then failed s
  else
    match s.freezeImage c p (s.rdN .snapSeq) with
    | (s, none) => s
    | (s, some why) => failed (s.noteRead c why)

/-! ## `SNAPSHOT` (R391, R393) -/

/-- The checks of a `SNAPSHOT` body (R53). -/
def checkSnapshot (_ : IssueAt) (_ : State) (j : Job) : Except Stop BodyCheck :=
  .ok (BodyCheck.fieldIf (j.d.nDepotOff % 65536 ≠ 0 || j.d.nBytes % 65536 ≠ 0))

/-- The packets of a chunk at an offset of the partner's depot. -/
def chunkWrites (c : CtxId) (off op : Nat) (bs : List Byte) : List Packet :=
  (List.range 16).map fun j => mkPacket 0x40 c (BitVec.ofNat 64 (off + 4096 * j)) op ((bs.drop (4096 * j)).take 4096)

/-- A `SNAPSHOT` sends its next chunk, and waits for the partner's answer; `pos` holds the chunk's operation then. A chunk
that finds no way to the partner fails the item with `FABRIC_LOST` (DESIGN CHOICE 38). -/
def workSnapshot (i : Item) (s : State) : State :=
  match s.current i with
  | none => s
  | some cur =>
    if cur.desc.nBytes / 65536 ≤ cur.progress then s.finish cur 0
    else if !cur.pos.isEmpty then s
    else
      match s.vread cur.req (cur.desc.nSrcVa + 65536 * cur.progress) 65536 with
      | .error why => s.stopItem cur why
      | .ok bs =>
        let (op, s) := s.nextOp
        let (s, ok) := s.sendAll cur.desc.nPartner (chunkWrites cur.ctx (cur.desc.nDepotOff + 65536 * cur.progress) op bs)
        if ok then s.setItem { cur with pos := [op] } else s.failItem cur 0x34

/-- The partner answers a chunk: visible with its hash, or refused; while the context is PREEMPTING the item stops at the
chunk boundary (R343). -/
def State.chunkAnswered (s : State) (i : Item) (refused : Bool) : State :=
  if refused then s.failItem i 0x30
  else
    let i := { i with pos := [] }
    let s := (s.setItem i).advance i (i.progress + 1)
    if (s.ctx i.ctx).st = .preempting && i.progress + 1 < i.desc.nBytes / 65536 then s.preemptItem i else workSnapshot i s

/-- The commit of a `SNAPSHOT`: the one that wrote a header chunk records its step, and its cost (R393, R396). -/
def State.sealSnapshot (s : State) (i : Item) : State :=
  let image := s.rdN .outImageVa i.ctx.val
  if i.desc.nSrcVa ≠ image || i.desc.nBytes = 0 then s
  else
    let (s, step) := match s.vread i.req image 8 with
      | .ok b => (s, wordAt b 0)
      | .error why => (s.noteUe why, i.step - 1)
    let s := s.wr .lastSnapStep 0 0 step
    match s.surv.froze.find? fun e => e.1 = i.ctx with
    | none => s
    | some e => { s with surv := { s.surv with cost := some (s.now - e.2), froze := s.surv.froze.filter fun e => e.1 ≠ i.ctx } }

/-! ## The depot of a partner (R392, R393) -/

/-- The source index of a rank: the ranks below it that name the same partner. -/
def State.sourceIndex (s : State) (r : Nat) : Nat :=
  ((List.range r).filter fun q => s.partnerOf q = s.partnerOf r).length

/-- The slot that an offset of the depot lies in, with the offset in it, when the slot is the rank's. -/
def State.slotAt (s : State) (rank off len : Nat) : Option (Nat × Nat) :=
  let sb := s.rdN .depotSlotBytes
  let i := off / sb
  if sb ≠ 0 && i < 8 && i / 2 = s.sourceIndex rank && off % sb + len ≤ sb then some (i, off % sb) else none

/-- The physical address of a slot, and of a chunk's hash. -/
def State.depotSlot (s : State) (i : Nat) : Nat := s.rdN .depotPa + i * s.rdN .depotSlotBytes
/-- The hash of a chunk. -/
def State.hashPa (s : State) (i chunk : Nat) : Nat :=
  s.rdN .depotPa + 8 * s.rdN .depotSlotBytes + i * (s.rdN .depotSlotBytes / 8192) + 8 * chunk

/-- A depot write refused: counted, and answered with the refusal bit (R338, R393). -/
def State.depotRefuse (s : State) (k : Packet) : State :=
  (s.tally .depotRefuseCnt 0 .survStatus 0 3).send k.srcRank (mkPacket 0x42 k.ctx (BitVec.ofNat 64 (2 ^ 63)) k.opSeq [])

/-- A chunk that has arrived whole: its hash, the seal of a frozen header chunk, and the acknowledgement; a hash that no polder lets
it write refuses the chunk (R338). -/
def State.chunkWhole (s : State) (k : Packet) (i chunk : Nat) : State :=
  if !s.fabricOk true (s.hashPa i chunk) 8 then s.depotRefuse k
  else
  let base := s.depotSlot i
  let bs := s.bytesAt (base + 65536 * chunk) 65536
  let s := s.poke (s.hashPa i chunk) (leBytes 8 (crc64 bs))
  let s :=
    if chunk = 0 && bit 1 (wordAt bs 6) then
      let head := patch (bs.take 64) 48 (leBytes 8 ((wordAt bs 6 ||| 1).toNat))
      let s := s.poke base (patch head 62 (leBytes 2 (crc16 (head.take 62))))
      s.count .snapshotCnt
    else s
  s.send k.srcRank (mkPacket 0x42 k.ctx (BitVec.ofNat 64 (2 ^ 62)) k.opSeq [])

/-- A `DEPOT_WR` reaches the partner (R393, R338). What an earlier operation brought of a chunk does not complete it (DEDUCED 166). -/
def State.takeDepotWrite (s : State) (k : Packet) : State :=
  let off := bits 47 0 k.w2
  let len := k.data.length
  let slot := s.slotAt k.srcRank off len
  let ok := bits 63 48 k.w2 = 0 && s.partnerOf k.srcRank = s.rdN .shxRank && k.epoch = s.rdN .epoch &&
    s.fabricOk true (s.rdN .depotPa + off) len
  match if ok then slot else none with
  | none => s.depotRefuse k
  | some (i, at_) =>
    let base := s.depotSlot i
    let s := if at_ = 0 then s
      else s.poke (base + 48) [(s.byteAt (base + 48)) &&& 0xFE]
    let s := s.poke (base + at_) k.data
    let chunk := at_ / 65536
    let was := ((s.surv.depot.find? fun e => e.slot = i && e.chunk = chunk && e.op = k.opSeq).map DepotPart.mask).getD 0
    let mask := Nat.lor was ((2 ^ (len / 32) - 1) * 2 ^ (at_ % 65536 / 32))
    let rest := s.surv.depot.filter fun e => !(e.slot = i && e.chunk = chunk)
    if mask = 2 ^ 2048 - 1 then ({ s with surv := { s.surv with depot := rest } } : State).chunkWhole k i chunk
    else { s with surv := { s.surv with depot := rest ++ [⟨i, chunk, k.opSeq, mask⟩] } }

/-! ## Serving reads (R393, R398, R399) -/

/-- The physical address that a context's tables give a block of its shared stream, for a FABRIC read (R338). -/
def State.sharedPa (s : State) (c : CtxId) (off : Nat) (write : Bool) : Except Stop Nat := do
  match ← s.manifest (s.stepReq c) (s.rdN .sharedManifestVa c.val) with
  | none => .error .denied
  | some rs =>
    match blockVa rs (off / 65536) with
    | none => .error .denied
    | some va =>
      match s.walk c (va + off % 65536) write with
      | .ok pa _ => if s.fabricOk write pa 4096 then .ok pa else .error .denied
      | .ue pa => .error (.walkUe pa)
      | .fault reason level => .error (.fault (va + off % 65536) reason level write)

/-- A read of bytes, or its error where a word is poisoned (R330). -/
def State.readPa (s : State) (pa len : Nat) : Except Stop (List Byte) :=
  match s.poisonIn pa len with
  | some w => .error (.ue (4 * w))
  | none => .ok (s.bytesAt pa len)

/-- The hash of a shared block of this module. -/
def State.sharedHash (s : State) (c : CtxId) (block : Nat) : Except Stop W64 := do
  let bs ← (List.range 16).mapM fun j => do
    let pa ← s.sharedPa c (65536 * block + 4096 * j) false
    s.readPa pa 4096
  pure (BitVec.ofNat 64 (crc64 bs.flatten))

/-- A `DEPOT_RD` reaches a peer (R398, R399): mode 1 in `ARG` [63], a hash request in [62], the generation of a mode-0 read in
[48] (DESIGN CHOICE 39). A refusal of memory is counted (R338). -/
def State.takeDepotRead (s : State) (k : Packet) : State :=
  let off := bits 47 0 k.w2
  let answer (s : State) (arg : Nat) (data : List Byte) : State :=
    s.send k.srcRank (mkPacket 0x42 k.ctx (BitVec.ofNat 64 arg) k.opSeq data)
  let refuse (s : State) : State := answer s (2 ^ 63 + off) []
  if bit 63 k.w2 then
    if (s.ctx k.ctx).st ≠ .idle || s.rdN .fenceState ≠ 0 then refuse s
    else if bit 62 k.w2 then
      match s.sharedHash k.ctx (off / 65536) with
      | .error why => refuse (s.noteUe why).fabricDrop
      | .ok h => answer s (2 ^ 62 + off) (leBytes 8 h.toNat)
    else
      match (s.sharedPa k.ctx off false).bind fun pa => s.readPa pa 4096 with
      | .error why => refuse (s.noteUe why).fabricDrop
      | .ok bs => answer s off bs
  else
    let i := 2 * s.sourceIndex k.srcRank + bits 48 48 k.w2
    let pa := s.depotSlot i + off
    if s.partnerOf k.srcRank ≠ s.rdN .shxRank || 8 ≤ i || s.rdN .depotSlotBytes < off + 4096 then refuse s
    else if !s.fabricOk false pa 4096 || !s.fabricOk false (s.hashPa i (off / 65536)) 8 then refuse s.fabricDrop
    else
      let read : Except Stop (List Byte × List Byte) := do
        let hash ← (if off % 65536 = 0 then s.readPa (s.hashPa i (off / 65536)) 8 else pure [])
        let bs ← s.readPa pa 4096
        pure (hash, bs)
      match read with
      | .error why => refuse (s.noteUe why)
      | .ok (hash, bs) => answer (if hash.isEmpty then s else answer s (2 ^ 62 + off) hash) off bs

/-! ## Restore copies (R398) -/

/-- A copy replaced in its slot. -/
def State.setRestore (s : State) (x : Restore) : State :=
  { s with surv := { s.surv with restores := (s.surv.restores.filter fun y => y.slot ≠ x.slot) ++ [x] } }

/-- The next 4 KiB asked for (R398): a chunk starts a new operation (DESIGN CHOICE 39). -/
def State.restoreAsk (s : State) (x : Restore) : State :=
  if x.len ≤ x.done then s.endRestore x false x.done
  else
    let (op, s) := if x.done % 65536 = 0 then s.nextOp else (x.op, s)
    let s := (s.setRestore { x with op := op }).restoreShow x.slot 1 x.done
    let arg := x.mode * 2 ^ 63 + x.gen * 2 ^ 48 + x.src + x.done
    match s.sendTo x.peer (mkPacket 0x41 x.ctx (BitVec.ofNat 64 arg) op []) with
    | some s => s
    | none => s.fabricDrop.endRestore x true x.done

/-- A chunk copied in mode 0 judged by its hash, once that is there. -/
def State.restoreJudge (s : State) (x : Restore) : State :=
  if x.mode ≠ 0 || x.done % 65536 ≠ 0 then s.restoreAsk x
  else
    match x.hash with
    | none => s.setRestore x
    | some h =>
      if h.toNat = crc64 (s.bytesAt (x.dst + x.done - 65536) 65536) then s.restoreAsk { x with hash := none }
      else s.endRestore x true (x.done - 65536)

/-- What a peer sends for a copy. -/
def State.restoreTake (s : State) (x : Restore) (k : Packet) : State :=
  let off := bits 47 0 k.w2
  if bit 63 k.w2 then s.endRestore x true x.done
  else if bit 62 k.w2 then
    let x := { x with hash := some (wordAt k.data 0) }
    if x.src + x.done = off + 65536 then s.restoreJudge x else s.setRestore x
  else if off ≠ x.src + x.done then s
  else if !s.fabricOk true (x.dst + x.done) 4096 then s.endRestore x true x.done
  else
    let s := s.poke (x.dst + x.done) k.data
    let x := { x with done := x.done + 4096 }
    (s.restoreShow x.slot 1 x.done).restoreJudge x

/-- The copy that 32 bytes of `RESTORE_REQ` ask for (R398): peer rank, mode, context, generation of the slot in mode 0, request
slot, source offset, local address and count. -/
def restoreOf (bs : List Byte) : Restore :=
  let n (off len : Nat) : Nat := leNat ((bs.drop off).take len)
  { slot := n 5 1, peer := n 0 2, mode := n 2 1, gen := if n 2 1 = 0 then n 4 1 else 0, ctx := Fin.ofNat 16 (n 3 1)
    src := n 8 8, dst := n 16 8, len := n 24 8, done := 0, op := 0, hash := none }

/-- A request breaks a condition of R398: a mode, a generation of mode 0, a context of mode 1 or a slot that does not exist, an offset,
address or count that is not a multiple of 64 KiB, or a local range that FABRIC writes do not reach. -/
def State.restoreBad (s : State) (bs : List Byte) : Bool :=
  let n (off len : Nat) : Nat := leNat ((bs.drop off).take len)
  let x := restoreOf bs
  1 < x.mode || (x.mode = 1 && 15 < n 3 1) || (x.mode = 0 && 1 < n 4 1) || 11 < x.slot || x.src % 65536 ≠ 0 || x.dst % 65536 ≠ 0 || x.len % 65536 ≠ 0 ||
    !s.fabricOk true x.dst x.len

/-- `RESTORE_REQ` written (R398): refused when it breaks a condition or its slot is busy. -/
def State.restoreStart (s : State) (bs : List Byte) : Status × State :=
  let x := restoreOf bs
  if s.restoreBad bs then (.range, s)
  else if s.surv.restores.any fun y => y.slot = x.slot then (.state, s)
  else (.ok, s.restoreAsk x)

/-! ## The provenance check (R399) -/

/-- The k-th count of `PROV_RESULT`: 0 checked, 1 mismatched, 2 recopied, 3 still differing, raised by one. -/
def State.provCount (s : State) (k : Nat) : State :=
  s.wrBytes .provResult 0 (8 + 8 * k) (leBytes 8 (leNat (s.rdBytes .provResult 0 (8 + 8 * k) 8) + 1))

/-- A packet of the check sent to the peer: a hash request, or a read of the block. -/
def State.provSend (s : State) (x : Prov) (hash : Bool) : State :=
  let arg := 2 ^ 63 + hash.toNat * 2 ^ 62 + 65536 * x.block + x.got
  match s.sendTo x.peer (mkPacket 0x41 x.ctx (BitVec.ofNat 64 arg) x.op []) with
  | some s => s.setProv (some x)
  | none => s.fabricDrop.endProv 3

/-- The next block asked for, or the end of the check. -/
def State.provAsk (s : State) (x : Prov) : State :=
  match s.manifest (s.stepReq x.ctx) (s.rdN .sharedManifestVa x.ctx.val) with
  | .error why => (s.noteUe why).endProv 3
  | .ok none => s.endProv 3
  | .ok (some rs) =>
    if streamBlocks rs ≤ x.block then s.endProv 2
    else
      let (op, s) := s.nextOp
      s.provSend { x with op := op, got := 0, want := none } true

/-- What a peer sends for the check. -/
def State.provTake (s : State) (x : Prov) (k : Packet) : State :=
  if bit 63 k.w2 then s.endProv 3
  else if bit 62 k.w2 then
    let want := wordAt k.data 0
    match s.sharedHash x.ctx x.block with
    | .error why => (s.noteUe why).endProv 3
    | .ok own =>
      let s := s.provCount 0
      if own = want then s.provAsk { x with block := x.block + 1 }
      else
        let s := (s.provCount 1).tally .provMismatchCnt 0 .survStatus 0 5
        if x.recopy then s.provSend { x with want := some want, got := 0 } false
        else (s.provCount 3).provAsk { x with block := x.block + 1 }
  else if bits 47 0 k.w2 ≠ 65536 * x.block + x.got then s
  else
    match s.sharedPa x.ctx (65536 * x.block + x.got) true with
    | .error why => (s.noteUe why).endProv 3
    | .ok pa =>
      let s := s.poke pa k.data
      if x.got + 4096 < 65536 then s.provSend { x with got := x.got + 4096 } false
      else
        let s := (s.provCount 2).count .provRecopyCnt
        let s := match s.sharedHash x.ctx x.block with
          | .error why => (s.noteUe why).provCount 3
          | .ok own => if some own = x.want then s else s.provCount 3
        s.provAsk { x with block := x.block + 1 }

/-- `PROV_REQ` written (R399): refused while a check runs. -/
def State.provStart (s : State) (w : W32) : Status × State :=
  let c := w.toNat / 65536 % 256
  if 15 < c then (.range, s)
  else if s.surv.prov.isSome then (.state, s)
  else
    let s := s.wrBytes .provResult 0 0 (leBytes 1 1 ++ zeros 39)
    (.ok, s.provAsk
      { peer := w.toNat % 65536, ctx := Fin.ofNat 16 c, recopy := w.getLsbD 24, op := 0, block := 0, got := 0, want := none })

/-! ## `DEPOT_DATA` -/

/-- A `DEPOT_DATA` reaches the module that asked, by its operation. -/
def State.takeDepotData (s : State) (k : Packet) : State :=
  match s.items.find? fun i => i.desc.opcode = 13 && i.phase = .working && i.pos = [k.opSeq] && i.desc.nPartner = k.srcRank with
  | some i => s.chunkAnswered i (bit 63 k.w2)
  | none =>
    match s.surv.restores.find? fun x => x.op = k.opSeq && x.peer = k.srcRank with
    | some x => s.restoreTake x k
    | none =>
      match s.surv.prov with
      | some x => if x.op = k.opSeq && x.peer = k.srcRank then s.provTake x k else s
      | none => s

end Sys2Proof.Machine
end

