-- ==== Sys2Proof/Machine/Boundary.lean ====
section
/-! DEFINITION. `COMMIT` and the step boundary (R45, R58, R66, R67, R80–R83, R174, R175, R258, R296, R318, R376, R386, R389, R396,
R482). -/

namespace Sys2Proof.Machine

/-! ## `COMMIT` (R58, R81) -/

/-- The checks of a `COMMIT` body (R58). -/
def checkCommit (_ : IssueAt) (_ : State) (j : Job) : Except Stop BodyCheck :=
  .ok (BodyCheck.fieldIf (j.d.w2 ≠ j.prog.step))

/-- The domain poison flag and rank of the open step, once latched (R316); the service sequencer's is 0 (R45). -/
def State.stepPoison (s : State) (i : Item) : Bool × Nat :=
  if i.service then (false, 0xFFFF) else ((s.ctx i.ctx).latch.getD (false, 0xFFFF))

/-- The token is formed locally: on the service sequencer, and in a domain of one (R45, R80). -/
def State.alone (s : State) (i : Item) : Bool := i.service || s.memberList.length = 1

/-- The token that the module itself would send for an item's step; formed locally it counts one member. -/
def State.ownToken (s : State) (i : Item) : List W64 :=
  let t := s.makeToken i.ctx i.step (s.stepPoison i)
  if s.alone i then t.set 3 (BitVec.ofNat 64 (s.rdN .epoch * 2 ^ 32 + 1)) else t

/-- The comparison of R81: it agrees, or the item fails with `STEP_MISMATCH` and is reported (R386). -/
def State.compareToken (s : State) (i : Item) (t : List W64) : State :=
  let own := s.ownToken i
  let agree := tokenVals t = tokenVals own
  let s := s.updCtx i.ctx fun x => { x with token := none }
  let s :=
    if agree then (s.setItem { i with pos := [2] }).finish i 0
    else ((s.count .stepMismatchCnt i.ctx.val).stopItem i .mismatch).report i.ctx own
  if s.alone i then s else s.recordCompared { ctx := i.ctx, step := i.step, vals := tokenVals own, failed := !agree }

/-- A `COMMIT` goes on (R81): it waits for the step's items, then for the token; `pos` is 1 while it waits for that. -/
def workCommit (i : Item) (s : State) : State :=
  match s.current i, s.progOf i.ctx i.ahead with
  | some cur, some p =>
    if !s.stagesDone cur.ctx p 9 cur.seq then s
    else
      let s :=
        if s.alone cur then s.formToken cur.ctx (s.ownToken cur) true
        else if s.isHolder && cur.pos.isEmpty then
          let s := s.decideBefore cur.step
          s.formToken cur.ctx (s.ownToken cur) false
        else s
      match (s.ctx cur.ctx).token with
      | some t => s.compareToken cur t
      | none => s.setItem { cur with pos := [1] }
  | _, _ => s

/-- `COMMIT` issues: every slot that has not ended ends at this instant (R75). -/
def startCommit (i : Item) (_ : Job) (s : State) : State := workCommit i (s.closeSlots i.ctx true)

/-- The token has not arrived in time (R81); its clock stands while the context is PREEMPTED (R83). -/
def State.commitLate (s : State) (c : CtxId) : State :=
  match s.items.find? fun i => i.ctx == c && i.desc.opcode = 11 && i.phase = .working && i.pos = [1] with
  | some i => if (s.ctx c).st = .preempted then s else s.stopItem i .lost
  | none => s

/-! ## Order 2 (R82, R258, R318, R482) -/

/-- The trails of a step become COMMITTED and are the sampler's no longer (R258). -/
def State.commitTrails (s : State) (c : CtxId) : State :=
  let mine (t : Trail) : Bool := t.ctx == c && !t.ahead
  let s' := (s.trails.filter mine).foldl (fun s t => s.rewriteTrail t 3 false) s
  { s' with trails := s'.trails.filter fun t => !mine t }

/-- A step whose token carries the poison flag is skipped (R318). -/
def State.skippedStep (s : State) (c : CtxId) (step : W64) (rank : Nat) : State :=
  let s := s.raise 0x03 (some c) (step.toNat % 2 ^ 32)
  let s := s.tally .skippedStepCnt c.val .updStatus c.val 0
  (s.wr .lastSkippedStep c.val 0 step).wrN .lastPoisonRank c.val 0 rank

/-- The chain's head marks a step that context 0 commits (R482). -/
def State.markStep (s : State) (c : CtxId) (step : W64) : State :=
  if c = 0 && s.rdN .syncHead = 1 then s.emit (.syncFrame true (syncBytes 2 0 step)) else s

/-- Order 2, once the committed entry is in the log. -/
def State.commitStep (s : State) (c : CtxId) (step : W64) : State :=
  let s := (s.wr .ctxStep c.val 0 step).commitTrails c
  let t := s.rdBytes .lastToken c.val 0 64
  let s := if bit 0 (wordAt t 2) then s.skippedStep c step (bits 47 32 (wordAt t 2)) else s
  s.markStep c step

/-! ## Order 3 (R174–R176, R296, R376, R452) -/

/-- The elements that a change timed for this boundary takes over. -/
def State.timedHere (s : State) (c : CtxId) (step : W64) : List Nat :=
  match s.mgmt.armed with
  | none => []
  | some a =>
    let dom := s.fabric.apply.any fun d => d.form = 0 && d.arg = step && d.decided = some true
    if (a.form = 1 && a.arg.toNat % 65536 = c.val) || (a.form = 0xFF && dom) then s.changed a.scope.toNat else []

/-- One layer whose bit stands in `DIVERGE_DOMAIN` (R174); an entry that cannot be read is not promoted and counts nothing
(DESIGN CHOICE 124). -/
def State.promote (s : State) (c : CtxId) (l : Nat) : State :=
  match s.vread (s.stepReq c) (s.rdN .consTableVa c.val + 32 * l) 32 with
  | .error why => s.noteUe why
  | .ok b =>
    let x : Layer := ⟨wordAt b 0, wordAt b 1, wordAt b 2, wordAt b 3⟩
    if !(x.enable && x.promote) then s
    else if x.level < x.maxLevel then
      let s := (s.writeLevel c l (x.level + 1)).wrDevice .consLevel c.val l (BitVec.ofNat 64 (x.level + 1))
      s.tally .promoteCnt c.val .precStatus c.val 4
    else s.count .consCapCnt c.val

/-- The promotions of a boundary; a staged level that takes effect at it replaces the layer's (R175). -/
def State.promoteAll (s : State) (c : CtxId) (timed : List Nat) : State :=
  if s.rdN .consTableVa c.val = 0 then s
  else
    ((List.range 256).filter fun l =>
      mapBit (s.rdBytes .divergeDomain c.val 0 32) l && !timed.contains (regCode .consLevel c.val l)).foldl
      (fun s l => s.promote c l) s

/-- Order 3: promotions, vitrine flips, staged changes and the gang. -/
def State.boundaryChanges (s : State) (c : CtxId) (step : W64) : State :=
  let timed := s.timedHere c step
  let s := (s.promoteAll c timed).flipAll c step
  let s := (s.fireBoundary c).domBoundary step
  s.regangOf c

/-! ## Order 5 (R66, R67) -/

/-- A program of a context's confirmed step belongs to the open step. -/
def StreamProg.confirmed (c : CtxId) (p : StreamProg) : StreamProg := if p.ctx == c then { p with ahead := false } else p

/-- The programs of a context confirmed. -/
def State.confirmEngines (s : State) (c : CtxId) : State :=
  { s with engines := s.engines.map fun e =>
      (e.1, { e.2 with active := e.2.active.map (StreamProg.confirmed c), shadow := e.2.shadow.map (StreamProg.confirmed c) }) }

/-- Provisional items of a context confirmed (R67, R258): their trails lose `PROV`, and those that committed are gone. -/
def State.confirmAhead (s : State) (c : CtxId) : State :=
  let mine (t : Trail) : Bool := t.ctx == c && t.ahead
  let s := (s.trails.filter mine).foldl (fun s t => s.rewriteTrail t (if t.done then 2 else 1) false) s
  let s := s.confirmEngines c
  { s with
    trails := s.trails.map fun t => if mine t then { t with ahead := false, hdr := t.hdr.set 1 (trailW1 (t.hdr.getD 1 0) (if t.done then 2 else 1) false) } else t
    items := (s.items.filter fun i => !(i.ctx == c && i.ahead && i.phase = .committed)).map fun i =>
      if i.ctx == c then { i with ahead := false } else i }

/-- The context's state after a boundary that opened a step (R39, R83): PARKED while an item is parked. -/
def State.runState (s : State) (c : CtxId) : State :=
  let parked := (s.items.any fun i => i.ctx == c && i.isParked) || !(s.ctx c).seqStops.isEmpty
  s.updCtx c fun x =>
    if x.st = .running || x.st = .parked then
      { x with st := if parked then .parked else .running, parkedAt := if x.st = .parked then x.parkedAt else s.now + 1 }
    else x

/-- The successor's copy: latched already, or read now with what its rejection needs. -/
def State.successor (s : State) (c : CtxId) (e : Fetched) : State × Except W64 Program :=
  match (s.ctx c).succ with
  | some p => (s, if s.checkProgram c p then .ok p else .error p.step)
  | none => s.judgeEntry c e

/-- A context without an open step (R39): IDLE, or FAULTED until its `RESET`. -/
def Ctx.closed (x : Ctx) : Ctx :=
  { x with st := if x.st = .faulted then .faulted else .idle, prog := none, next := none, succ := none, issued := [], done := [],
           issuedA := [], doneA := [], started := false, plan := none, planA := none, latch := none, redPoison := (false, 0xFFFF),
           groups := [], poison := false, seqStops := [] }

/-- Order 5: the successor is confirmed and opens, or is rejected, or there is none and the context is IDLE (R39, R67). A FAULTED
context, whose step has committed in another partition, opens nothing new (R41). -/
def State.boundaryNext (s : State) (c : CtxId) : State :=
  let idle (s : State) : State := s.updCtx c Ctx.closed
  if (s.ctx c).st = .faulted then idle s
  else
  match (s.ctx c).next with
  | none => idle s
  | some e =>
    match s.successor c e with
    | (s, .ok p) =>
      let held := (s.ctx c).held
      let s := (s.confirmAhead c).updCtx c fun x => { x with held := [] }
      let s := held.foldl (fun s r => s.postRec c r) s
      (((s.openStep c p).closeSlots c false).runState c)
    | (s, .error step) => idle ((s.rejectHeader c e.tag step).discardAhead c true)

/-! ## Order 6 (R84, R174, R396) -/

/-- An average moved towards a value by a fraction, FP32; the first value sets it. -/
def average32 (first : Bool) (old v part : Nat) : Nat := if first then v else add32 old (mul32 (sub32 v old) part)

/-- `SNAP_INTERVAL` (R396). Where I / `STEP_TIME` is 0/0 the manual states no result: a free value (DESIGN CHOICE 40). -/
def State.snapInterval (s : State) : State :=
  let quiet := seconds32 (s.rdN .globalTime - s.rdN .lastFailTime)
  let mtbf := s.rdN .snapMtbf
  let meff := if lt32 mtbf quiet then quiet else mtbf
  let i := sqrt32 (mul32 (mul32 0x40000000 (s.rdN .snapCost)) meff)
  let q := div32 i (s.rdN .stepTime)
  if isNan32 q then
    let (f, s) := s.freeW
    s.wrN .snapInterval 0 0 f.toNat
  else s.wrN .snapInterval 0 0 (min (s.rdN .snapMaxSteps) (max (s.rdN .snapMinSteps) (floor32 q)))

/-- The averages of order 6: of a snapshot's cost when there is one, and of the step's time from T0 to T0. -/
def State.boundaryTimes (s : State) (t0 : Nat) : State :=
  let s := match s.surv.cost with
    | none => s
    | some n =>
      let s := s.wrN .snapCost 0 0 (average32 (!s.surv.snapped) (s.rdN .snapCost) (seconds32 n) 0x3E800000)
      { s with surv := { s.surv with cost := none, snapped := true } }
  let s := s.wrN .stepTime 0 0 (average32 (!s.surv.timed) (s.rdN .stepTime) (seconds32 (s.now - t0)) 0x3D800000)
  ({ s with surv := { s.surv with timed := true } } : State).snapInterval

/-! ## The boundary -/

/-- Orders 3 to 7 of R82, for the step that has committed. A context that is PREEMPTING stays so (R83). -/
def State.boundaryRest (s : State) (c : CtxId) (p : Program) (t0 : Nat) : State :=
  let s := s.boundaryChanges c p.step
  let s := if p.snap then s.freeze c p else s
  let stopping := (s.ctx c).st = .preempting
  let s := s.boundaryNext c
  let s := if stopping then s.updCtx c fun x => { x with st := .preempting } else s
  let s := s.wrBytes .divergeLocal c.val 0 (zeros 32)
  let s := (s.wrN .paceMaxLag c.val 0 0).boundaryTimes t0
  s.fetchMore c

/-- The commit of a `COMMIT`: orders 2 to 7 of R82. Its committed entry, arrival and record come first; a refused entry fails
it before order 2. -/
def State.sealCommit (s : State) (i : Item) : State :=
  match s.progOf i.ctx i.ahead with
  | none => s
  | some p =>
    let t0 := (s.ctx i.ctx).t0
    let s := s.commitItem i 0 1
    if (s.ctx i.ctx).done.contains (i.list, i.seq) then
      (s.commitStep i.ctx p.step).boundaryRest i.ctx p t0
    else s

end Sys2Proof.Machine
end

