-- ==== Sys2Proof/Machine/Dma.lean ====
section
/-! DEFINITION. `DMA`, the host DMA engine's command, and `NOP` (R51, R53, R340, R429). -/

namespace Sys2Proof.Machine

/-- A `NOP` has nothing to do. -/
def startNop (i : Item) (_ : Job) (s : State) : State := s.finish i 0

/-- The checks of a `NOP` body: none. -/
def checkNop (_ : IssueAt) (_ : State) (_ : Job) : Except Stop BodyCheck := .ok BodyCheck.ok

/-- The checks of a `DMA` body (R53): both addresses and the count are multiples of 4 KiB. -/
def checkDma (_ : IssueAt) (_ : State) (j : Job) : Except Stop BodyCheck :=
  .ok (BodyCheck.fieldIf (j.d.w2.toNat % 4096 ≠ 0 || j.d.dDevVa % 4096 ≠ 0 || j.d.dBytes % 4096 ≠ 0))

/-- The 4 KiB units of a `DMA`. -/
def Desc.dUnits (d : Desc) : Nat := d.dBytes / 4096

/-- A PCI Express error at the unit that received it (R429). -/
def State.dmaError (s : State) (i : Item) : State := (s.hostError i.ctx).failItem i 0x32

/-- One unit of a `DMA` whose device side has been translated (R429): what the host's completions carry for it, `pos` holding
the unit of an error and one more, or 0. Behind a portal the data is asked for, and `pos` holds the operation (R426). -/
def State.dmaUnit (s : State) (i : Item) (k : Nat) : Except Stop (Option State) :=
  let d := i.desc
  let va := d.dDevVa + 4096 * k
  let host := d.w2.toNat + 4096 * k
  if d.dToHost then do
    let bs ← s.vread (.host i.ctx) va 4096
    pure (some ((s.hostWriteTo i.ctx host bs).getD s))
  else if s.isMemberMode then do
    let _ ← s.reachAll (.host i.ctx) va 4096 true
    if i.data.length = 4096 then do
      let s ← s.vwrite (.host i.ctx) va i.data
      pure (some (s.setItem { i with data := [], pos := [0] }))
    else pure none
  else do
    let s := s.hostRead i.ctx host 4096 2
    let s ← s.vwrite (.host i.ctx) va ((i.data.drop (4096 * k)).take 4096)
    pure (some s)

/-- A unit fails: an error at it, data that ends before it, whose read times out, or a write that cannot reach the portal (R426, R429). -/
def Item.dmaBad (i : Item) (s : State) (k : Nat) : Bool :=
  i.pos.headD 0 = k + 1 || (i.desc.dToHost && (s.hostWriteTo i.ctx (i.desc.w2.toNat + 4096 * k) []).isNone) || (!i.desc.dToHost && !s.isMemberMode && i.data.length < 4096 * (k + 1))

/-- The units of a `DMA` from its progress on; while the context is PREEMPTING it stops between units (R343). -/
def State.dmaFrom (s : State) (i : Item) : Nat → State
  | 0 => s
  | n + 1 =>
    match s.current i with
    | none => s
    | some cur =>
      let k := cur.progress
      if cur.desc.dUnits ≤ k then s.finish cur 0
      else if (s.ctx cur.ctx).st = .preempting && cur.data.isEmpty && cur.pos.length < 2 then s.preemptItem cur
      else
        match s.reachAll (.host cur.ctx) (cur.desc.dDevVa + 4096 * k) 4096 (!cur.desc.dToHost) with
        | .error why => s.stopItem cur why
        | .ok _ =>
          if cur.pos.length < 2 && cur.dmaBad s k then s.dmaError cur
          else
            match s.dmaUnit cur k with
            | .error why => s.stopItem cur why
            | .ok (some s) => State.dmaFrom (s.advance ((s.current cur).getD cur) (k + 1)) i n
            | .ok none =>
              if cur.pos.length = 2 then s
              else
                let op := s.fabric.opSeq.toNat
                (s.setItem { cur with pos := [0, op] }).hostRead cur.ctx (cur.desc.w2.toNat + 4096 * k) 4096 2

/-- A `DMA` works as far as it can. -/
def workDma (i : Item) (s : State) : State := s.dmaFrom i (i.desc.dUnits + 1)

/-- A `DMA` starts with what the host's completions carry and the unit of an error; writes to the host are posted, and nothing
answers them. -/
def startDma (hostData : List Byte) (errUnit : Option Nat) (i : Item) (_ : Job) (s : State) : State :=
  let i := { i with data := if s.isMemberMode || i.desc.dToHost then [] else hostData
                    pos := [if i.desc.dToHost then 0 else (errUnit.map (· + 1)).getD 0] }
  workDma i (s.setItem i)

/-- A completion for a `DMA` of a member (R426, R429): a unit's data, or an error. -/
def State.dmaData (s : State) (op : Nat) (data : Option (List Byte)) : State :=
  match s.items.find? fun i => i.desc.opcode = 14 && i.phase = .working && i.pos = [0, op] with
  | none => s
  | some i =>
    match data with
    | none => s.dmaError i
    | some bs =>
      let i := { i with pos := [0], data := (bs ++ zeros 4096).take 4096 }
      workDma i (s.setItem i)

end Sys2Proof.Machine
end

