-- ==== Sys2Proof/Machine/Halt.lean ====
section
/-! DEFINITION. Units at their preemption points (R156, R209, R223, R343). -/

namespace Sys2Proof.Machine

/-- The first byte that a program has yet to bring to a consumer that has not freed it (R209): `unfreed` of its delivered lines
have not been freed. -/
def StreamProg.restartAt (p : StreamProg) (unfreed : Nat) : StreamPos :=
  ((p.sent.drop (p.sent.length - unfreed)) ++ (p.closed.map Prod.snd) ++ (if p.buf.isEmpty then [] else [p.start])).headD p.here

/-- A program set back to a position; its lines and its translations are dropped. -/
def StreamProg.restart (p : StreamProg) (at_ : StreamPos) : StreamProg :=
  { p with
    iter := at_.iter, body := at_.body, skip := if at_ = p.here then p.skip else 0, transfer := at_.transfer, drop := at_.off,
    buf := [], bitmap := false, closed := [], sent := [], ended := false, pages := [],
    made := decide (sIters p.instrs ≤ at_.iter), counts := p.counts.filter fun k => k.1 < at_.transfer }

/-- The lines of a program's sluices that no consumer has freed; a port, which does not stop, sends what it has. -/
def State.unfreed (s : State) (p : StreamProg) : Nat :=
  ((p.queues.filter (· < 512)).map fun q => ((s.queue q).p - (s.queue q).f).toNat).foldl max 0

/-- A program delivers into the feeder of an engine that runs to the end of its tile. -/
def State.feedsOn (s : State) (p : StreamProg) : Bool :=
  s.items.any fun i => s.runsTile i && i.tile.runs.any fun run =>
    run.begun && !run.spec && p.queues.contains (sluiceIx run.core 0)

/-- An engine stops with its active program at the first byte not freed (R209), once no consumer of it runs on. A program that has
brought everything and whose lines are all freed is left to end. -/
def State.stopEngine (s : State) (c : CtxId) (e : Nat) : State :=
  let x := s.engine e
  match x.active with
  | none => s
  | some p =>
    if p.ctx ≠ c || x.st = .stopped || x.st = .halted || (p.through && s.unfreed p = 0) || s.feedsOn p then s
    else s.setEngine e { x with st := .stopped, active := some (p.restart (p.restartAt (s.unfreed p))) }

/-- The queues of a context's stopped consumers discard their unfreed lines (R223): those of its clusters' cores, but for the
feeders of engines that run on. What the load path brought comes again from the start of its tile. -/
def State.discardLines (s : State) (c : CtxId) : State :=
  let busy (core : Nat) : Bool := s.items.any fun i =>
    s.runsTile i && i.tile.runs.any fun run => run.core = core && run.begun && !run.spec
  ((List.range 128).filter fun core => s.owns c (core / 4) && !busy core).foldl (fun s core =>
    (List.range 3).foldl (fun s t =>
      let q := s.queue (sluiceIx core t)
      s.setQueue (sluiceIx core t) (if (s.producer (sluiceIx core t)).isSome then q.rewound else q.emptied)) s) s

/-- The engine whose active program is an item's. -/
def State.engineOfItem (s : State) (i : Item) : Option (Nat × Engine × StreamProg) :=
  s.engines.findSome? fun (e, x) =>
    match x.active with
    | some p => if p.ctx == i.ctx && p.list == i.list && p.seq = i.seq && p.ahead == i.ahead then some (e, x, p) else none
    | none => none

/-- An item cannot stop yet (R299, R343): a `REDUCE`, a `SNAPSHOT` or a `DMA` whose answer is on its way, a `MIGRATE` whose row is
being copied, and a stream program that is left to end. -/
def State.runsOn (s : State) (i : Item) : Bool :=
  match i.desc.opcode with
  | 0x09 => true
  | 0x0C => i.pos.headD 0 = 1
  | 0x0D => !i.pos.isEmpty
  | 0x0E => i.pos.length = 2
  | 0x01 => s.runsTile i
  | 0x03 => (s.engineOfItem i).any fun (_, x, _) => x.st = .running
  | _ => false

/-- A `TILE` gives up the tiles whose pass is not verified (R156). -/
def State.abandonTile (s : State) (i : Item) : State :=
  match s.current i with
  | none => s
  | some cur =>
    if cur.phase ≠ .working || cur.desc.opcode ≠ 1 then s
    else s.setItem { cur with tile := cur.tile.abandoned (cur.tile.tabs.cfg cur.desc) }

/-- An item reaches its preemption point (R343): a `SAMPLE` writes its header, and a `TILE` leaves the tiles that it has not
completed. -/
def State.stopAtPoint (s : State) (i : Item) : State :=
  match s.current i with
  | none => s
  | some cur =>
    if cur.phase ≠ .working || s.runsOn cur then s
    else (s.stopHeader cur).preemptItem { cur with tile := cur.tile.left (cur.tile.tabs.cfg cur.desc) }

/-- The engines and items of a context run to their preemption points (R209, R223, R343). -/
def State.stopUnits (s : State) (c : CtxId) : State :=
  let mine := s.items.filter fun i => i.ctx == c
  let s := mine.foldl State.abandonTile s
  let s := s.engines.foldl (fun s e => s.stopEngine c e.1) s
  let s := mine.foldl State.stopAtPoint s
  s.discardLines c

/-- What stops late in a context that is PREEMPTING: an item that has run on to its point, and the engines that fed it (R209,
R343). -/
def State.stopLate (s : State) : State :=
  allCtx.foldl (fun s c => if (s.ctx c).st = .preempting then s.stopUnits c else s) s

end Sys2Proof.Machine
end

