-- ==== Sys2Proof/Machine/Update.lean ====
section
/-! DEFINITION. `UPDATE`: coefficients, the recurrence, residues, passes and skipping (R176, R177, R304–R322). -/

namespace Sys2Proof.Machine

/-! ## Coefficients (R307, R308) -/

/-- A coefficient table entry with its coefficients resolved. -/
structure Coef where
  a1     : Nat
  b1     : Nat
  a2     : Nat
  b2     : Nat
  eps    : Nat
  lam    : Nat
  eta    : Nat
  trust  : Nat
  frozen : Bool
  h      : Nat
  phi    : Nat
  rho    : Bool
  bc     : Bool
  decay  : Bool
  store  : Bool
  t      : Nat
  rsvd   : Bool
  /-- A selector holds a reserved value; the resolved `LR_MUL`. -/
  badSel : Bool
  lrMul  : Nat

/-- A coefficient by its selector (R308). -/
def resolve (p : Program) (sel own : Nat) : Nat := if 0x10 ≤ sel then p.sched (sel - 0x10) else own

/-- An entry of the coefficient table by its words, resolved from the latched header. -/
def coefOf (p : Program) (w : Nat → W64) : Coef :=
  let sel (k : Nat) : Nat := bits (5 * k + 4) (5 * k) (w 4)
  let lr := resolve p (sel 0) (bits 63 32 (w 3))
  { a1 := resolve p (sel 6) (bits 63 32 (w 0)), b1 := resolve p (sel 5) (bits 31 0 (w 0))
    a2 := resolve p (sel 4) (bits 63 32 (w 1)), b2 := resolve p (sel 3) (bits 31 0 (w 1))
    eps := resolve p (sel 2) (bits 63 32 (w 2)), lam := resolve p (sel 1) (bits 31 0 (w 2))
    eta := mul32 p.eta lr, trust := bits 31 0 (w 3), frozen := bit 63 (w 5), h := bits 55 54 (w 5)
    phi := bits 53 52 (w 5), rho := bit 51 (w 5), bc := bit 50 (w 5), decay := bit 49 (w 5), store := bit 48 (w 5)
    t := (w 6).toNat, rsvd := bits 63 35 (w 4) ≠ 0 || bits 62 56 (w 5) ≠ 0 || bits 47 0 (w 5) ≠ 0
    badSel := (List.range 7).any fun k => 1 ≤ sel k && sel k ≤ 0xF
    lrMul := lr }

/-- FP32 bits, as read (R92), lie in [0, 1). -/
def unitRange (x : Nat) : Bool := read32 x < 0x3F800000

/-- The entry breaks R309; its coefficients are judged as R92 reads them. -/
def Coef.bad (x : Coef) : Bool :=
  x.badSel || x.h = 3 || (2 ≤ x.phi && x.h = 0) ||
    [x.a1, x.b1, x.a2, x.b2, x.eps, x.lam, x.lrMul, x.eta].any (fun v => !finite32 v) ||
    (2 ^ 31 < read32 x.eps) || isNan32 x.trust || 2 ^ 31 ≤ read32 x.trust || read32 x.trust = 0 ||
    (x.bc && (!unitRange x.a1 || (x.h ≠ 0 && !unitRange x.a2)))

/-- The bits of a number, most significant first. -/
def bitsDown (n : Nat) : List Bool := ((List.range (Nat.log2 n + 1)).reverse).map fun k => n / 2 ^ k % 2 = 1

/-- The bias-correction factor of a decay rate for n applied steps (R310). -/
def biasFactor (a n : Nat) : Nat :=
  let one := 0x3F800000
  let p := (bitsDown n).foldl (fun p b =>
    let q := mul32 p p
    if b then mul32 q a else q) one
  div32 one (sub32 one p)

/-- c1 and c2 of a group (R310). -/
def Coef.factors (x : Coef) : Nat × Nat :=
  let one := 0x3F800000
  let n := (x.t + 1) % 2 ^ 64
  if !x.bc then (one, one) else (biasFactor x.a1 n, if x.h = 0 then one else biasFactor x.a2 n)

/-! ## The recurrence (R304) -/

/-- What R304 gives of an element before ρ: the new states and d. -/
structure Moved where
  u1 : Nat
  u2 : Nat
  d  : Nat

/-- R304 up to d, without ρ. -/
def Coef.move (x : Coef) (c : Nat × Nat) (loss w u1 u2 gr : Nat) : Moved :=
  let g0 := div32 gr loss
  let g := if x.decay then add32 g0 (mul32 x.lam w) else g0
  let n1 := if x.store then add32 (mul32 x.a1 u1) (mul32 x.b1 g) else mul32 x.b1 g
  let hg := if x.h = 1 then mul32 g g else rne32 (f32 (g % 2 ^ 31))
  let n2 := if x.h = 0 then 0 else add32 (mul32 x.a2 u2) (mul32 x.b2 hg)
  let m := mul32 n1 c.1
  let v := mul32 n2 c.2
  let phi :=
    match x.phi with
    | 0 => m
    | 1 => if isNan32 m then nan32 else if m % 2 ^ 31 = 0 then 0 else m / 2 ^ 31 * 2 ^ 31 + 0x3F800000
    | 2 => div32 m (add32 (sqrt32 v) x.eps)
    | _ => div32 m (add32 v x.eps)
  let d := if x.decay then phi else add32 phi (mul32 x.lam w)
  ⟨n1, n2, d⟩

/-- Δ of a d with ρ (R304). -/
def Coef.delta (x : Coef) (rho d : Nat) : Nat :=
  let y := mul32 x.eta (mul32 d rho)
  if isNan32 y || y % 2 ^ 31 = 0 then y else Nat.xor y (2 ^ 31)

/-- The counts of a weight's write: overflow, NaN, clamped residue. -/
structure WCount where
  ovf   : Nat
  nan   : Nat
  clamp : Nat

/-- u(w) of a BF16 code of finite value (R176), as a power of two. -/
def unitExp (w : Nat) : Int :=
  let e := w / 128 % 256
  (if e = 0 then -133 else (e : Int) - 134) - 8

/-- The signed value of a residue code. -/
def residueVal (q : Nat) : Val := if 128 ≤ q then .fin true (256 - q) 1 else .fin false q 1

/-- A signed whole number as an 8-bit code. -/
def residueCode (neg : Bool) (n : Nat) : Nat := if neg && n ≠ 0 then 256 - n else n

/-- The procedure of R177: the new weight and residue codes. -/
def applyDelta (w q delta : Nat) : Nat × Nat × WCount :=
  let odd := w / 128 % 256 = 255
  let t := if odd then Val.zero else (residueVal q).scale (unitExp w)
  let S := rne32 (((bf16 w).add t).add (f32 delta))
  if isNan32 S then (0x7FC0, 0, ⟨0, 1, 0⟩)
  else if isInf32 S then (S / 65536, 0, ⟨(!odd).toNat, 0, 0⟩)
  else
    let c := toBf16 S
    if c.code % 0x8000 = 0x7F80 then (c.code, 0, ⟨c.ovf.toNat, 0, 0⟩)
    else
      match ((f32 S).sub (bf16 c.code)).scale (-(unitExp c.code)) with
      | .fin neg n d =>
        let k := roundEven n d
        (c.code, residueCode neg (min k 127), ⟨c.ovf.toNat, 0, (127 < k : Bool).toNat⟩)
      | _ => (c.code, 0, ⟨c.ovf.toNat, 0, 0⟩)

/-- An FP32 weight's write (R305). -/
def applyDelta32 (w delta : Nat) : Nat × WCount :=
  let S := add32 w delta
  if isNan32 S then (nan32, ⟨0, 1, 0⟩)
  else (S, ⟨(isInf32 S && finite32 w).toNat, 0, 0⟩)

/-! ## Group records (R312, R313) -/

/-- A group record with its collection when it is sparse. -/
structure Group where
  g      : Nat
  wfmt   : Nat
  gfmt   : Nat
  wVa    : Nat
  sparse : Bool
  qVa    : Nat
  u1Va   : Nat
  u2Va   : Nat
  gOff   : Nat
  ublk   : Nat
  count  : Nat
  rsvd   : Bool
  coll   : Option EmbTable
  coef   : Coef
  coefVa : Nat

/-- What group j of an item is read as (R309): the words of its coefficient entry, of its record, and of a sparse group's
descriptor with its subtables'. -/
def State.groupWords (s : State) (r : Req) (d : Desc) (j : Nat) : Except Stop (List W64) := do
  let cb ← s.vread r (d.uCoefVa + 64 * (d.uFirst + j)) 64
  let b ← s.vread r (d.uParamVa + 64 * j) 64
  let ds ← (if bit 0 (wordAt b 1) then
      (s.collAt r (bits 47 0 (wordAt b 0))).map fun e => e.top.words ++ e.sub1.words ++ e.sub2.words
    else pure [])
  pure (wordsOf 8 cb ++ wordsOf 8 b ++ ds)

/-- A collection from the words of its descriptor and of its subtables'. -/
def collOf (va : Nat) (ws : List W64) : EmbTable :=
  let t : Coln := ⟨va, ws.take 8⟩
  if t.kind = 2 then ⟨t, ⟨t.rowVa, (ws.drop 8).take 8⟩, ⟨t.resVa, (ws.drop 16).take 8⟩⟩ else ⟨t, t, t⟩

/-- Group j of an item from what was read of it, its coefficients resolved from the latched header (R308). -/
def groupOf (p : Program) (d : Desc) (j : Nat) (ws : List W64) : Group :=
  let g := d.uFirst + j
  let coef := coefOf p fun k => ws.getD k 0
  let w := fun k => ws.getD (8 + k) 0
  let sparse := bit 0 (w 1)
  let coll := if sparse then some (collOf (bits 47 0 (w 0)) (ws.drop 16)) else none
  { g := g, wfmt := bits 63 56 (w 0), gfmt := bits 55 48 (w 0), wVa := bits 47 0 (w 0), sparse := sparse
    qVa := bits 47 0 (w 2), u1Va := bits 47 0 (w 3), u2Va := bits 47 0 (w 4), gOff := bits 47 0 (w 5)
    ublk := bits 42 40 (w 6), count := bits 39 0 (w 6)
    rsvd := bits 63 1 (w 1) ≠ 0 || bits 63 48 (w 2) ≠ 0 || bits 63 48 (w 3) ≠ 0 || bits 63 48 (w 4) ≠ 0 ||
      bits 63 48 (w 5) ≠ 0 || bits 63 43 (w 6) ≠ 0 || w 7 ≠ 0
    coll := coll, coef := coef, coefVa := d.uCoefVa + 64 * g }

/-- The group record breaks R312. -/
def State.badGroup (s : State) (c : CtxId) (d : Desc) (x : Group) : Bool :=
  !(x.wfmt = 6 || x.wfmt = 7) || !(x.gfmt = 6 || x.gfmt = 7) || x.sparse ≠ d.uSparse || (x.wfmt = 7 && x.qVa ≠ 0) ||
    (x.coef.store != decide (x.u1Va ≠ 0)) || (decide (x.coef.h ≠ 0) != decide (x.u2Va ≠ 0)) ||
    x.wVa % 64 ≠ 0 || x.qVa % 64 ≠ 0 || x.u1Va % 64 ≠ 0 || x.u2Va % 64 ≠ 0 || (d.uGradVa + x.gOff) % 64 ≠ 0 ||
    (match x.coll with
      | some e =>
        s.badColl c e || e.top.efmt ≠ x.wfmt || x.gfmt ≠ 7 || x.ublk ≠ 0 || x.count ≠ 0 || x.coef.rho
      | none => 5 < x.ublk || x.count = 0)

/-- The checks of an `UPDATE` body (R309). -/
def checkUpdate (q : IssueAt) (s : State) (j : Job) : Except Stop BodyCheck := do
  let d := j.d
  let r : Req := .unit q.ctx j.cluster
  let tooMany := 65535 < d.uFirst + d.uGroups
  let ks := (List.range (d.uGroups + 1)).filter fun k => d.uFirst + k ≤ 65535
  let gs ← ks.mapM fun k => (s.groupWords r d k).map (groupOf j.prog d k)
  let twice := gs.any fun x => (s.ctx q.ctx).groups.contains x.g
  pure
    { reserved := gs.any fun x => x.rsvd || x.coef.rsvd || (x.coll.map EmbTable.rsvd).getD false
      field := tooMany || d.uCoefVa % 64 ≠ 0 || d.uParamVa % 64 ≠ 0 || twice ||
        gs.any fun x => x.coef.bad || s.badGroup q.ctx d x
      last := none
      note := fun _ s => s }

/-! ## Blocks (R313, R314, R320) -/

/-- Elements of a dense update block. -/
def Group.size (x : Group) : Nat := 8 * 2 ^ x.ublk

/-- The record count and the records' address of a sparse group's list (R313). -/
def State.rowList (s : State) (r : Req) (d : Desc) (x : Group) : Except Stop (Nat × Nat) := do
  let b ← s.vread r (d.uGradVa + x.gOff) 16
  pure (bits 31 0 (wordAt b 0), bits 47 0 (wordAt b 1))

/-- The update blocks of a group. -/
def State.blocksOf (s : State) (r : Req) (d : Desc) (x : Group) : Except Stop Nat :=
  if x.sparse then (s.rowList r d x).map (·.1) else .ok (ceilDiv x.count x.size)

/-- FP32 bits of a stored element of a format. -/
def load32 (fmt code : Nat) : Nat := if fmt = 6 then code * 65536 else code

/-- Bytes of an element of a weight or gradient format. -/
def fmtBytes (fmt : Nat) : Nat := if fmt = 6 then 2 else 4

/-- Elements of little-endian codes of a size. -/
def codesOf (size : Nat) (bs : List Byte) : List Nat :=
  (List.range (bs.length / size)).map fun k => leNat ((bs.drop (size * k)).take size)

/-- The operands of a block: where its weights lie and its element range for the other tensors. -/
structure BlockData where
  n    : Nat
  /-- The table and row of a sparse block; the weights' address. -/
  row  : Option (Coln × Nat)
  wAt  : Nat
  at_  : Nat
  ws   : List Nat
  qs   : List Nat
  u1s  : List Nat
  u2s  : List Nat
  grs  : List Nat

/-- The operands of block b of a group read; none for a dropped record (R313). -/
def State.blockData (s : State) (r : Req) (d : Desc) (x : Group) (b : Nat) : Except Stop (Option BlockData) := do
  let rest (n first wAt : Nat) (row : Option (Coln × Nat)) (grs : List Nat) : Except Stop (Option BlockData) := do
    let wb ← s.vread r wAt (n * fmtBytes x.wfmt)
    let qb ← (if x.qVa ≠ 0 then s.vread r (x.qVa + first) n else pure (zeros n))
    let ab ← (if x.u1Va ≠ 0 then s.vread r (x.u1Va + 4 * first) (4 * n) else pure (zeros (4 * n)))
    let vb ← (if x.u2Va ≠ 0 then s.vread r (x.u2Va + 4 * first) (4 * n) else pure (zeros (4 * n)))
    pure (some
      { n := n, row := row, wAt := wAt, at_ := first, ws := codesOf (fmtBytes x.wfmt) wb, qs := codesOf 1 qb
        u1s := codesOf 4 ab, u2s := codesOf 4 vb, grs := grs })
  match x.coll with
  | none =>
    let first := b * x.size
    let n := min x.size (x.count - first)
    let gb ← s.vread r (d.uGradVa + x.gOff + first * fmtBytes x.gfmt) (n * fmtBytes x.gfmt)
    rest n first (x.wVa + first * fmtBytes x.wfmt) none ((codesOf (fmtBytes x.gfmt) gb).map (load32 x.gfmt))
  | some e =>
    let n := e.top.elems
    let (_, recs) ← s.rowList r d x
    let rb ← s.vread r (recs + 64 * ceilDiv (16 + 4 * n) 64 * b) (64 * ceilDiv (16 + 4 * n) 64)
    let row := bits 39 0 (wordAt rb 0)
    if e.top.rows ≤ row then pure none
    else
      let (t, k) := e.place row
      rest n (row * n) (t.rowAt k) (some (t, k)) (codesOf 4 ((rb.drop 16).take (4 * n)))

/-- The ranges that a block writes are translated before any byte is written (R320). -/
def State.reachBlock (s : State) (r : Req) (x : Group) (b : BlockData) (last : Bool) : Except Stop Unit := do
  let _ ← s.reachAll r b.wAt (b.n * fmtBytes x.wfmt) true
  let _ ← (if x.qVa ≠ 0 then s.reachAll r (x.qVa + b.at_) b.n true else pure [])
  let _ ← (if x.u1Va ≠ 0 then s.reachAll r (x.u1Va + 4 * b.at_) (4 * b.n) true else pure [])
  let _ ← (if x.u2Va ≠ 0 then s.reachAll r (x.u2Va + 4 * b.at_) (4 * b.n) true else pure [])
  let _ ← (match b.row with
    | some (t, k) => if t.slots ≠ 0 then s.reachAll r (t.resVa + 4 * k) 4 true else pure []
    | none => pure [])
  let _ ← (if last then s.reachAll r (x.coefVa + 48) 16 true else pure [])
  pure ()

/-- A block's new values (R304, R305, R177). -/
structure NewBlock where
  ws    : List Nat
  qs    : List Nat
  u1s   : List Nat
  u2s   : List Nat
  count : WCount

/-- The new values of a block with ρ. -/
def Group.newBlock (x : Group) (loss rho : Nat) (b : BlockData) : NewBlock :=
  let c := x.coef.factors
  let each := (List.range b.n).map fun k =>
    let w := b.ws.getD k 0
    let m := x.coef.move c loss (load32 x.wfmt w) (b.u1s.getD k 0) (b.u2s.getD k 0) (b.grs.getD k 0)
    let delta := x.coef.delta rho m.d
    if x.wfmt = 7 then
      let (w', k) := applyDelta32 w delta
      (w', 0, m, k)
    else
      let (w', q', k') := applyDelta w (if x.qVa = 0 then 0 else b.qs.getD k 0) delta
      (w', q', m, k')
  let total (f : WCount → Nat) : Nat := (each.map fun e => f e.2.2.2).foldl (· + ·) 0
  { ws := each.map (·.1), qs := each.map (·.2.1), u1s := each.map (·.2.2.1.u1), u2s := each.map (·.2.2.1.u2)
    count := ⟨total WCount.ovf, total WCount.nan, if x.qVa = 0 then 0 else total WCount.clamp⟩ }

/-- Codes as bytes of a size each. -/
def codeBytes (size : Nat) (cs : List Nat) : List Byte := cs.flatMap (leBytes size)

/-- A block written (R295, R304, R320): weights, residues and states, and what that counts. -/
def State.writeBlock (s : State) (c : CtxId) (r : Req) (x : Group) (b : BlockData) (n : NewBlock) : Except Stop State := do
  let wb := codeBytes (fmtBytes x.wfmt) n.ws
  let s ← (match b.row with
    | some (t, k) => s.writeRow c r t k wb
    | none => s.vwrite r b.wAt wb)
  let s ← (if x.qVa ≠ 0 then s.vwrite r (x.qVa + b.at_) (codeBytes 1 n.qs) else pure s)
  let s ← (if x.u1Va ≠ 0 then s.vwrite r (x.u1Va + 4 * b.at_) (codeBytes 4 n.u1s) else pure s)
  let s ← (if x.u2Va ≠ 0 then s.vwrite r (x.u2Va + 4 * b.at_) (codeBytes 4 n.u2s) else pure s)
  let s := s.precCount c 0 n.count.ovf n.count.nan 0
  pure (s.tallyN .residueClampCnt c.val .precStatus c.val 5 n.count.clamp)

/-! ## Passes (R314, R315) -/

/-- The trust ratio of a group's layer pass (R314): ρ and whether the guard counts. -/
def State.layerPass (s : State) (r : Req) (d : Desc) (x : Group) (loss blocks : Nat) : Except Stop (Nat × Bool) := do
  let one := 0x3F800000
  let c := x.coef.factors
  let (w2, d2) ← (List.range blocks).foldlM (fun (acc : Nat × Nat) b => do
    match ← s.blockData r d x b with
    | none => pure acc
    | some y =>
      let ds := (List.range y.n).map fun k =>
        (x.coef.move c loss (load32 x.wfmt (y.ws.getD k 0)) (y.u1s.getD k 0) (y.u2s.getD k 0) (y.grs.getD k 0)).d
      let w2 := (y.ws.map fun w => mul32 (load32 x.wfmt w) (load32 x.wfmt w)).foldl add32 0
      let d2 := (ds.map fun v => mul32 v v).foldl add32 0
      pure (add32 acc.1 w2, add32 acc.2 d2)) (0, 0)
  pure
    (if !finite32 w2 || !finite32 d2 then (one, true)
     else if w2 = 0 || d2 = 0 then (one, false)
     else
       let q := div32 (sqrt32 w2) (sqrt32 d2)
       (if lt32 x.coef.trust q then x.coef.trust else q, false))

/-- The position of an `UPDATE`: the group, the block, blocks written, frozen groups passed, and ρ plus one once known. -/
structure UpdPos where
  group   : Nat
  block   : Nat
  written : Nat
  frozen  : Nat
  rho     : Nat

/-- The position from the item. -/
def Item.upd (i : Item) : UpdPos := ⟨i.pos.getD 0 0, i.pos.getD 1 0, i.pos.getD 2 0, i.pos.getD 3 0, i.pos.getD 4 0⟩

/-- The item with a position. -/
def Item.withUpd (i : Item) (p : UpdPos) : Item := { i with pos := [p.group, p.block, p.written, p.frozen, p.rho] }

/-- A group's update is complete (R311): `T`, `RHO_LAST` and the digest. -/
def State.closeGroup (s : State) (c : CtxId) (r : Req) (x : Group) (rho : Nat) : Except Stop State := do
  let s ← s.vwrite r (x.coefVa + 48) (leBytes 8 ((x.coef.t + 1) % 2 ^ 64) ++ leBytes 8 (rho * 2 ^ 32))
  pure (s.wrN .updDigest c.val 0 (s.rdN .updDigest c.val + x.g + 1))

/-- One block of the block pass: the item with its new position. -/
def State.updBlock (s : State) (i : Item) (x : Group) (loss blocks rho : Nat) : Except Stop (State × Item) := do
  let p := i.upd
  let d := i.desc
  let r := i.req
  let last := p.block + 1 = blocks
  let (s, wrote) ← (do
    match ← s.blockData r d x p.block with
    | none =>
      let _ ← (if last then s.reachAll r (x.coefVa + 48) 16 true else pure [])
      pure (s.tally .dropIdxCnt i.ctx.val .gatherStatus i.ctx.val 0, 0)
    | some b =>
      s.reachBlock r x b last
      let odd := countTrue (b.grs.map fun v => !finite32 v)
      let s ← s.writeBlock i.ctx r x b (x.newBlock loss rho b)
      pure (s.tallyN .updNonfiniteCnt i.ctx.val .updStatus i.ctx.val 3 odd, 1) : Except Stop (State × Nat))
  let s ← (if last then s.closeGroup i.ctx r x rho else pure s)
  pure (s, i.withUpd { p with block := p.block + 1, written := p.written + wrote })

/-- The next piece of an `UPDATE`: a frozen group passed, a layer pass, a block, or an empty group closed. It answers the
item with its new position and the blocks done. -/
def State.updStep (s : State) (i : Item) (prog : Program) : Except Stop (State × Item × Nat) := do
  let p := i.upd
  let r := i.req
  let x := groupOf prog i.desc p.group (i.groups.getD p.group [])
  let nextGroup (p : UpdPos) : UpdPos := { p with group := p.group + 1, block := 0, rho := 0 }
  if x.coef.frozen then pure (s, i.withUpd { nextGroup p with frozen := p.frozen + 1 }, 0)
  else do
    let blocks ← s.blocksOf r i.desc x
    let loss := prog.lossScale
    if p.rho = 0 then
      if x.coef.rho then do
        let (rho, guard) ← s.layerPass r i.desc x loss blocks
        let s := if guard then s.tally .trustGuardCnt i.ctx.val .updStatus i.ctx.val 4 else s
        pure (s, i.withUpd { p with rho := rho + 1 }, 0)
      else pure (s, i.withUpd { p with rho := 0x3F800000 + 1 }, 0)
    else if blocks = 0 then do
      let s ← s.closeGroup i.ctx r x (p.rho - 1)
      pure (s, i.withUpd (nextGroup p), 0)
    else do
      let (s, j) ← s.updBlock i x loss blocks (p.rho - 1)
      let q := j.upd
      pure (s, if q.block = blocks then j.withUpd (nextGroup q) else j, 1)

/-- The pieces of an `UPDATE` from its position on, at most so many. -/
def State.updFrom (s : State) (i : Item) (prog : Program) : Nat → State
  | 0 => s
  | n + 1 =>
    match s.current i with
    | none => s
    | some cur =>
      if cur.phase ≠ .working then s
      else if cur.desc.uGroups < cur.upd.group then s.finish cur 0
      else
        match s.updStep cur prog with
        | .error why => s.stopItem cur why
        | .ok (s, j, k) => State.updFrom ((s.setItem j).advance j (j.progress + k)) i prog n

/-- The pieces that an `UPDATE` can have: for each group its blocks and two more. -/
def State.updPieces (s : State) (i : Item) (prog : Program) : Nat :=
  ((List.range (i.desc.uGroups + 1)).map fun j =>
    match s.blocksOf i.req i.desc (groupOf prog i.desc j (i.groups.getD j [])) with
    | .error _ => 2
    | .ok n => n + 2).foldl (· + ·) 2

/-- A `SNAPSHOT` that issued earlier in the item's step has not committed (R391). -/
def State.behindSnapshot (s : State) (i : Item) : Bool :=
  (s.items.takeWhile fun k => !k.same i).any fun k => k.ctx == i.ctx && k.step == i.step && k.desc.opcode = 13

/-- An `UPDATE` works as far as it can; on a poisoned step it changes nothing (R317), and its block pass waits for the
step's `SNAPSHOT`s (R391). -/
def workUpdate (i : Item) (s : State) : State :=
  match (s.ctx i.ctx).latch, s.progOf i.ctx i.ahead with
  | some (true, _), _ => s.finish i 1
  | some (false, _), some prog => if s.behindSnapshot i then s else s.updFrom i prog (s.updPieces i prog)
  | _, _ => s

/-- The groups of an accepted `UPDATE` are named and kept as read (R308, R309), and its work starts. -/
def startUpdate (i : Item) (_ : Job) (s : State) : State :=
  let read := (List.range (i.desc.uGroups + 1)).map fun k => (s.groupWords i.req i.desc k).toOption.getD []
  let i := { (s.current i).getD i with groups := read }
  workUpdate i ((s.setItem i).updCtx i.ctx fun x => { x with groups := x.groups ++ rangeFrom i.desc.uFirst (i.desc.uGroups + 1) })

/-- The commit of an `UPDATE` that applied: its frozen groups and its blocks are counted (R315, R323). -/
def State.sealUpdate (s : State) (i : Item) : State :=
  let c := i.ctx.val
  if (s.ctx i.ctx).latch.any (·.1) then s
  else (s.tallyN .frozenSkipCnt c .updStatus c 2 i.upd.frozen).count .updBlockCnt c 0 i.upd.written

end Sys2Proof.Machine
end

