-- ==== Sys2Proof/Machine/Progress.lean ====
section
/-! DEFINITION. What goes on by itself: the work of the items that wait for something another command has brought, and the
commit of a finished item (R39, R52, R56). -/

namespace Sys2Proof.Machine

/-- A stream program is an item's. -/
def StreamProg.isOf (p : StreamProg) (i : Item) : Bool :=
  p.ctx == i.ctx && p.list == i.list && p.seq = i.seq && p.ahead == i.ahead

/-- The active program of a `STREAM_ARM` goes on; a shadow that had to wait for its own item takes over (R206). -/
def workStream (i : Item) (s : State) : State :=
  let e := 16 * (i.cluster.getD 0).val + i.desc.aEngine
  match (s.engine e).active, (s.engine e).shadow with
  | some p, _ => if p.isOf i then s.pump e else s
  | none, some p => if p.isOf i then s.activate e p else s
  | none, none => s

/-- An item works as far as it can, by its opcode (R51). -/
def workItem (i : Item) (s : State) : State :=
  match i.desc.opcode with
  | 0x01 => workTile i s
  | 0x02 => workVector i s
  | 0x03 => workStream i s
  | 0x05 => workSample i s
  | 0x06 => workGather i s
  | 0x07 => workScatter i s
  | 0x08 => workCoalesce i s
  | 0x09 => workReduce i s
  | 0x0A => workUpdate i s
  | 0x0B => workCommit i s
  | 0x0C => workMigrate i s
  | 0x0D => workSnapshot i s
  | 0x0E => workDma i s
  | _ => s.finish i 0

/-- One item goes on, if it is still at work. -/
def State.kickItem (s : State) (i : Item) : State :=
  match s.current i with
  | some cur => if cur.phase = .working then workItem cur s else s
  | none => s

/-- A context whose last parked item has gone on is RUNNING (R39). -/
def State.unpark (s : State) : State :=
  allCtx.foldl (fun s c => if (s.ctx c).st = .parked then s.runState c else s) s

/-- Every item at work goes on as far as it can, at most n times over. -/
def State.kickFor (s : State) : Nat → State
  | 0 => s
  | n + 1 => State.kickFor (s.items.foldl State.kickItem s) n

/-- Every item at work goes on: what one brings another can use; in a context that is PREEMPTING, what has reached its point
stops. -/
def State.kick (s : State) : State := (s.kickFor (s.items.length + 1)).unpark.stopLate

/-- What a finished item's commit makes visible beside its entry and record, by its opcode; an access that stops it stops its
commit. -/
def State.sealItem (s : State) (i : Item) : Except Stop State :=
  match i.desc.opcode with
  | 0x05 => s.sealSample i
  | 0x08 => s.sealCoalesce i
  | 0x09 => .ok (s.sealReduce i)
  | 0x0A => .ok (s.sealUpdate i)
  | 0x0D => .ok (s.sealSnapshot i)
  | _ => .ok s

/-- A unit completes an item (R56): its results become visible, then it commits. The commit of a `COMMIT` is the step
boundary (R82). -/
def State.completeItem (s : State) (i : Item) : State :=
  match i.phase with
  | .finished status =>
    if i.desc.opcode = 0x0B then s.sealCommit i
    else
      match s.sealItem i with
      | .error why =>
        let i := { i with phase := .working }
        if i.desc.opcode = 5 then s.sampleStop i why else s.stopItem i why
      | .ok s =>
        let cur := (s.current i).getD i
        let s := s.commitItem cur status.toNat (if i.desc.opcode = 5 then i.desc.seeds else cur.progress)
        -- the edges count as the item commits (R257)
        if i.desc.opcode = 5 && ((s.ctx i.ctx).doneOf i.ahead).contains (i.list, i.seq) then
          s.count .sampledEdgeCnt i.ctx.val 0 i.sample.edges
        else s
  | _ => s

end Sys2Proof.Machine
end

