-- ==== Sys2Proof/Machine/Control.lean ====
section
/-! DEFINITION. Context control: `PREEMPT`, the save area, `RESUME`, `RESET`, and the resumption of parked items (R39–R41, R67,
R78, R83, R156, R209, R210, R223, R224, R342–R346, R421). -/

namespace Sys2Proof.Machine

/-- A refused control write (R40). -/
def State.refuseControl (s : State) (c : CtxId) : Status × State := (.state, s.count .cmdRejectCnt c.val)

/-! ## `PREEMPT` -/

/-- `PREEMPT` (R40, R343, R383): it precedes a page fault of the same edge (R41), so that one parked on it was not parked when
preemption began. It is refused while there is no save area, or none that can be translated. -/
def State.preempt (s : State) (c : CtxId) : Status × State :=
  let x := s.ctx c
  let va := s.rdN .saveVa c.val
  if !(x.st = .running || x.st = .parked) || va = 0 then s.refuseControl c
  else
    match s.reachAll (.log c) va 0x40000 true with
    | .error why => (s.noteUe why).refuseControl c
    | .ok pages =>
      let s := s.setCtx c
        { x with st := .preempting, wasParked := x.st = .parked && x.parkedAt ≠ s.now + 1, preemptAt := s.now, savePa := pages.map Prod.fst }
      (.ok, s.stopUnits c)

/-! ## The save area (R344, R345) -/

/-- `STEP` of the open step, or `CTX_STEP` if none is open. -/
def State.saveStep (s : State) (c : CtxId) : W64 := ((s.ctx c).prog.map Program.step).getD (s.rd .ctxStep c.val)

/-- 64 bytes with their `CHECK` in the last two (R59, R344). -/
def withCheck (ws : List W64) : List Byte :=
  let body := (bytesOf ws).take 62
  body ++ leBytes 2 (crc16 body)

/-- The `CHECK` of 64 bytes is good. -/
def checkGood (bs : List Byte) : Bool := leNat (bs.drop 62) = crc16 (bs.take 62)

/-- A save record from its fields (R345). -/
def saveRecord (w0 unit seg kind tag progress : Nat) (pos : List W64) : List Byte :=
  withCheck ([BitVec.ofNat 64 w0, BitVec.ofNat 64 (unit * 2 ^ 48 + seg % 256 * 2 ^ 40 + kind * 2 ^ 38 + tag),
    BitVec.ofNat 64 (progress % 2 ^ 48)] ++ pos ++ [0])

/-- The position words of a list: bit j for `SEQ` + 1 + j issued. -/
def listPos (issued : List (ListId × Nat)) (l : ListId) (low : Nat) : List W64 :=
  (List.range 4).map fun w => BitVec.ofNat 64
    (((List.range 64).filter fun j => issued.contains (l, low + 1 + 64 * w + j)).foldl (fun a j => a + 2 ^ j) 0)

/-- The lowest position of a list that has not issued. -/
def lowUnissued (issued : List (ListId × Nat)) (l : ListId) : Nat :=
  ((List.range (issued.length + 1)).find? fun k => !issued.contains (l, k)).getD 0

/-- The record of a list: its sequencer's unit and position. -/
def State.listRecord (s : State) (c : CtxId) (l : ListId) : List Byte :=
  let issued := (s.ctx c).issued
  let low := lowUnissued issued l
  let unit := match l with
    | .cluster k => 4 * k.val
    | .lead => if s.clusterless c then 0x7000 else 4 * (s.leadCluster ((s.ownedParts c).headD 0)).val
  saveRecord (listCode l * 2 ^ 40 + low) unit 0 3 0 0 (listPos issued l low)

/-- The positions of a `COALESCE` in its current list and in its partials, after the records that it has written (R345). -/
def State.coalescePos (s : State) (i : Item) : Nat × Nat :=
  let k := i.pos.getD 0 0
  let at_ : Except Stop (Nat × Nat) := do
    let x ← s.storeAt i.req i.desc.cOutVa
    let h ← s.queueAt i.req i.desc.cItemVa
    let (first, n) ← s.segItems i.req i.desc.cItemVa x.seg
    let its ← s.readItems i.req h.lines h.elems first n
    let (ps, _) := partialsOf (s.rdN .splitLen) h.elems its
    let old ← s.readRecords i.req (if x.cur then x.area1 else x.area0) h.elems x.count
    match (mergeLists (old.length + ps.length) old ps)[k - 1]? with
    | none => pure (0, 0)
    | some m => pure ((old.filter fun r => r.1 ≤ m.1).length, (ps.filter fun r => r.1 ≤ m.1).length)
  if k = 0 then (0, 0) else at_.toOption.getD (0, 0)

/-- An `UPDATE` stands in a group's layer pass (R345). -/
def State.inLayerPass (s : State) (i : Item) : Bool :=
  i.upd.rho = 0 &&
    match s.progOf i.ctx i.ahead with
    | none => false
    | some p =>
      let x := groupOf p i.desc i.upd.group (i.groups.getD i.upd.group [])
      x.coef.rho && !x.coef.frozen

/-- The position words of an item (R345). Where `RATE` and `REGULAR` are given the same bit, it is set when either has it. -/
def State.itemPos (s : State) (i : Item) : List W64 :=
  let w (n : Nat) : W64 := BitVec.ofNat 64 n
  let d := i.desc
  match d.opcode with
  | 0x03 =>
    let (n, off) := match s.engineOfItem i with
      | some (_, _, p) => (p.transfer, p.drop)
      | none => (0, 0)
    [w n, w off, w d.aProgVa, w (d.aRate * 2 ^ 32 + d.aSluice) ||| w (d.aRegular.toNat * 2 ^ 32)]
  | 0x05 => [w d.sTrailVa, 0, 0, 0]
  | 0x06 => [w (i.segment % 256), 0, 0, 0]
  | 0x07 => [w (i.segment % 256), w i.scatter.lines, 0, 0]
  | 0x08 =>
    let (a, b) := s.coalescePos i
    [w a, w b, w (i.pos.getD 0 0), 0]
  | 0x0A => [w ((d.uFirst + i.upd.group) % 65536 + (s.inLayerPass i).toNat * 65536), w i.upd.block, w (i.upd.rho - 1), 0]
  | _ => [0, 0, 0, 0]

/-- The record of an item, of kind 2 while its program is an engine's shadow. -/
def State.itemRecord (s : State) (i : Item) : List Byte :=
  let d := i.desc
  let shadow := d.opcode = 3 && (s.engineOfItem i).isNone
  saveRecord (d.mb * 2 ^ 52 + d.stage * 2 ^ 48 + listCode i.list * 2 ^ 40 + d.opcode * 2 ^ 32 + i.seq)
    i.unit.toNat i.segment (if shadow then 2 else if i.started then 0 else 1) d.tag i.progress (s.itemPos i)

/-- The records of a context: its lists, then the items that its units hold. -/
def State.saveRecords (s : State) (c : CtxId) : List (List Byte) :=
  let lists := match (s.ctx c).prog with
    | none => []
    | some p => p.lists.map fun l => s.listRecord c l
  (lists ++ ((s.items.filter fun i => i.ctx == c && i.phase ≠ .committed).map fun i => s.itemRecord i)).take 4095

/-- The header of a save area. -/
def State.saveHeader (s : State) (c : CtxId) (n : Nat) : List Byte :=
  let x := s.ctx c
  let prior := if x.wasParked then 2 else 1
  withCheck [s.saveStep c, BitVec.ofNat 64 (n * 2 ^ 32 + c.val * 16 + prior), (x.succ.map Program.step).getD 0,
    BitVec.ofNat 64 s.now, 0, 0, 0, 0]

/-- The physical address of an offset in the save area (R383). -/
def Ctx.saveAt (x : Ctx) (off : Nat) : Nat := x.savePa.getD (off / 65536) 0 + off % 65536

/-- Every unit of a context has stopped (R343): no item works or waits for its commit, no `REDUCE` is parked, and no comparison of
a conservator is outstanding. -/
def State.allStopped (s : State) (c : CtxId) : Bool :=
  s.items.all fun i => i.ctx ≠ c ||
    match i.phase with
    | .working => false
    | .finished _ => false
    | .parked _ => i.desc.opcode ≠ 9 && i.tile.checks.isEmpty
    | .stopped => i.tile.checks.isEmpty
    | .committed => true

/-- The save area is written, its header last, and the context is PREEMPTED (R344). A page that LOG requests no longer reach leaves
the context PREEMPTING. -/
def State.saved (s : State) (c : CtxId) : State :=
  let x := s.ctx c
  if x.st ≠ .preempting || !s.allStopped c then s
  else if !x.savePa.all fun pa => s.logOk c pa 65536 then s.countDenied c
  else
    let recs := s.saveRecords c
    let s := (recs.zipIdx).foldl (fun s e => s.poke (x.saveAt (64 * (e.2 + 1))) e.1) s
    let s := s.poke (x.saveAt 0) (s.saveHeader c recs.length)
    let s := s.wrN .preemptLat c.val 0 (sat32 (s.now - x.preemptAt))
    (s.updCtx c fun x => { x with st := .preempted, stopTime := s.now }).count .preemptCnt c.val

/-! ## `RESUME` (R346) -/

/-- A unit of a save record lies in the context's clusters, or belongs to no cluster (R346). -/
def State.unitOwned (s : State) (c : CtxId) (unit : Nat) : Bool :=
  let k := unit % 4096
  match unit / 4096 with
  | 0 => s.owns c (k / 4)
  | 1 => s.owns c (k / 16)
  | 2 | 3 | 4 | 5 => s.owns c k
  | 6 | 7 => true
  | _ => false

/-- The 64 bytes at an offset of the save area, when a LOG request may have them. -/
def State.saveRead (s : State) (c : CtxId) (off : Nat) : Option (List Byte) :=
  let pa := (s.ctx c).saveAt off
  if s.logOk c pa 64 && (s.poisonIn pa 64).isNone then some (s.bytesAt pa 64) else none

/-- A poisoned word of the save area that its check meets: in the header, or in one of its records (R330, R346). -/
def State.savePoison (s : State) (c : CtxId) : Option Nat :=
  let n := match s.saveRead c 0 with
    | none => 0
    | some h => bits 47 32 (wordAt h 1)
  (List.range (n + 1)).findSome? fun k =>
    let pa := (s.ctx c).saveAt (64 * k)
    if s.logOk c pa 64 then s.poisonIn pa 64 else none

/-- The checks of a save area (R346). -/
def State.saveGood (s : State) (c : CtxId) : Bool :=
  match s.saveRead c 0 with
  | none => false
  | some h =>
    checkGood h && bits 7 4 (wordAt h 1) = c.val && wordAt h 0 = s.saveStep c &&
      (List.range (bits 47 32 (wordAt h 1))).all fun k =>
        match s.saveRead c (64 * (k + 1)) with
        | none => false
        | some b => checkGood b && s.unitOwned c (bits 63 48 (wordAt b 1))

/-- An engine that stopped starts again: translating and priming when its program is regular (R209). -/
def State.restartEngine (s : State) (c : CtxId) (e : Nat) : State :=
  let x := s.engine e
  match x.active with
  | some p =>
    if x.st = .stopped && p.ctx = c then
      (s.openSluices p).setEngine e { x with st := if p.regular then .starting else .running }
    else s
  | none => s

/-- The items of a context that stopped or parked go on (R41, R346). -/
def State.wake (s : State) (f : Item → Bool) : State :=
  { s with items := s.items.map fun i => if f i && (i.isParked || i.phase = .stopped) then { i with phase := .working } else i }

/-- The state that a resumed context is in (R39, R346). -/
def Ctx.resumeTo (x : Ctx) : CtxState := if x.prog.isNone then .idle else if x.wasParked then .parked else .running

/-- A unit reads the descriptor of its item again from the step program (R346): what stops that read parks or fails the item (R330,
R338, R340). What the records hold is what the units stopped with: software leaves the save area as it is (DEDUCED 149). -/
def State.reread (s : State) (i : Item) : State :=
  match s.current i, s.progOf i.ctx i.ahead with
  | some cur, some p =>
    if cur.phase ≠ .working then s
    else
      match s.descBy i.ctx p i.list i.seq ⟨i.part, 0, i.cluster⟩ with
      | .ok d => s.setItem { cur with desc := d }
      | .error why => s.stopItem cur why
  | _, _ => s

/-- A context resumed (R39, R78, R346): its clock goes on, its units read their descriptors again, its engines start again and its
items go on. -/
def State.resumed (s : State) (c : CtxId) : State :=
  let x := s.ctx c
  let s := s.setCtx c
    { x with st := x.resumeTo, wasParked := false, t0 := x.t0 + (s.now - x.stopTime), savePa := [], seqStops := [] }
  let s := s.wake fun i => i.ctx == c
  let s := (s.items.filter fun i => i.ctx == c).foldl State.reread s
  let s := (s.engines.foldl (fun s e => s.restartEngine c e.1) s).kick
  let s := if x.resumeTo = .idle then (match (s.ctx c).next with
    | some e => (s.updCtx c fun x => { x with next := none }).openEntry c e
    | none => s) else s
  s.fetchMore c

/-- `RESUME` (R39, R40, R78, R346). -/
def State.resume (s : State) (c : CtxId) : Status × State :=
  if (s.ctx c).st ≠ .preempted then s.refuseControl c
  else if !s.saveGood c then
    let s := match s.savePoison c with
      | none => s
      | some w => s.foundUe (4 * w)
    (.state, ((s.tally .saveBadCnt c.val .mmuStatus c.val 3).count .cmdRejectCnt c.val))
  else (.ok, s.resumed c)

/-! ## `RESET` (R40, R224) -/

/-- The queues, engines, trails and barriers of a context as after `RESET` (R210, R223, R224, R258). -/
def State.resetUnits (s : State) (c : CtxId) : State :=
  let s := ((List.range 32).filter fun k => s.owns c k && s.clusterLive k).foldl (fun s k => s.dropStreams k .idle) s
  let s := s.rewindTrails fun t => t.ctx == c
  { s with bars := s.bars.filter fun b => b.1 / 256 ≠ c.val }

/-- What the fabric and the recovery keep of a context goes (R386). -/
def State.resetFabric (s : State) (c : CtxId) : State :=
  { s with
    fabric := { s.fabric with colls := s.fabric.colls.filter fun k => k.ctx ≠ c }
    surv := { s.surv with verdicts := s.surv.verdicts.filter fun e => e.1 ≠ c } }

/-- A context's own record after `RESET`: IDLE, with nothing of a step; its rings and fault numbers stay. -/
def Ctx.cleared (x : Ctx) : Ctx :=
  { Ctx.init with
    waiting := x.waiting, lag := x.lag, sqTail := x.sqTail, cqHead := x.cqHead, faults := x.faults, faultRecs := x.faultRecs,
    inval := x.inval }

/-- `RESET` of a context (R40): `records` tells whether the aborted items write completion records; those of a function reset
do not (R430). -/
def State.resetCtx (s : State) (c : CtxId) (records : Bool) : State :=
  let s := s.discardAhead c records
  let s := s.abortItems (fun i => i.ctx == c) records
  let s := (s.resetUnits c).cancelArmed c
  let s := s.resetFabric c
  let s := s.updCtx c Ctx.cleared
  s.wrN .sqHead c.val 0 (s.ctx c).sqTail.toNat
/-! ## Parked items (R342, R343) -/

/-- An item that a resumption may name: parked under the identifier, or under any for 0xFFFF_FFFF. -/
def Item.parkedAs (i : Item) (id : W32) : Bool :=
  match i.phase with
  | .parked n => n = id || id = 0xFFFFFFFF
  | _ => false

/-- A parked engine whose item goes on. -/
def State.unparkEngine (s : State) (i : Item) : State :=
  match s.engineOfItem i with
  | some (e, x, p) =>
    if x.st = .parked then s.setEngine e { x with st := if p.regular && p.pages.isEmpty then .starting else .running } else s
  | none => s

/-- An item that a `FAULT_RESUME` lets go on: while the context is PREEMPTING, a `REDUCE` alone (R342, R343). -/
def State.mayResume (s : State) (c : CtxId) (id : W32) (i : Item) : Bool :=
  i.ctx == c && i.parkedAs id && ((s.ctx c).st ≠ .preempting || i.desc.opcode = 9)

/-- `FAULT_RESUME` written (R342): refused when it names no parked item that may go on. -/
def State.faultResume (s : State) (c : CtxId) (id : W32) : Status × State :=
  let may := s.mayResume c id
  let named := s.items.filter may
  let goes (k : SeqStop) : Bool := (s.ctx c).st ≠ .preempting && (k.id = id || id = 0xFFFFFFFF)
  if (s.ctx c).st = .preempted || (named.isEmpty && !(s.ctx c).seqStops.any goes) then s.refuseControl c
  else
    let s := s.updCtx c fun x => { x with seqStops := x.seqStops.filter fun k => !goes k }
    let s := named.foldl (fun s i => s.unparkEngine i) s
    (.ok, (s.wake may).kick)

/-! ## Events on one edge (R41) -/

/-- A `RESET` of a context waits on this edge. -/
def State.resetSoon (s : State) (c : CtxId) : Bool := s.pending.contains (.reset c)

/-- A `PREEMPT` of a context waits on this edge, and has not acted yet. -/
def State.preemptSoon (s : State) (c : CtxId) : Bool := s.pending.contains (.preempt c) && (s.ctx c).preAt ≠ some s.now

/-- A fault event of every context waits on this edge: the conditions of the contexts that it will stop. -/
def State.stopSoon (s : State) : Option (Ctx → Bool) :=
  let stop (i : Instr) : Bool := match i with
    | .estop f _ => frameGood f && frameType f = 3 && !s.power.bypass && !s.sync.latched
    | .estopRaise => !s.sync.latched
    | _ => false
  if s.pending.any stop then some fun _ => true
  else if s.pending.contains .fence && s.rdN .fenceState = 0 then some Ctx.fences
  else none

/-- A fault event of this edge that stops a context comes before what acts on it now. -/
def State.stoppedSoon (s : State) (c : CtxId) : Bool := s.stopSoon.any fun which => which (s.ctx c)

/-! ## The commands -/

/-- `PREEMPT`: after a fault event and a `RESET` of the same edge (R41), which leave it nothing to preempt; it may have acted ahead
of a completion. -/
def execPreempt (c : CtxId) (s : State) : Host.Outcome State Fault Refusal :=
  if (s.ctx c).preAt = some s.now then .next (s.updCtx c fun x => { x with preAt := none })
  else if s.resetSoon c || s.stoppedSoon c then .next (s.refuseControl c).2
  else .next (s.preempt c).2

/-- `RESUME`. -/
def execResume (c : CtxId) (s : State) : Host.Outcome State Fault Refusal := .next (s.resume c).2

/-- `RESET`: after a fault event of the same edge (R41). -/
def execReset (c : CtxId) (s : State) : Host.Outcome State Fault Refusal :=
  if s.stoppedSoon c then .next (((s.stopCtx c).resetCtx c true).updCtx c fun x => { x with stopAt := some s.now })
  else .next (s.resetCtx c true)

/-- `SAVE_AREA_WRITTEN`. -/
def execSaveAreaWritten (c : CtxId) (s : State) : Host.Outcome State Fault Refusal := .next (s.saved c)

/-- `FAULT_RESUME`. -/
def execFaultResume (c : CtxId) (id : W32) (s : State) : Host.Outcome State Fault Refusal := .next (settle (s.faultResume c id))

end Sys2Proof.Machine
end

