-- ==== Sys2Proof/Machine/Events.lean ====
section
/-! DEFINITION. The events of the units: arrivals, the pacer, timeouts of `COMMIT`, verification, comparison, stream engines, queue
operations and vitrine copies (R76, R81, R153, R172, R204–R206, R208, R217, R220–R222, R228, R294). -/

namespace Sys2Proof.Machine

/-! ## Barriers and the pacer -/

/-- `BARRIER_ARRIVAL` (R228): the arrival of a committed item is registered. -/
def execBarrierArrival (c : CtxId) (bar : Byte) (s : State) : Host.Outcome State Fault Refusal :=
  if (s.ctx c).arrivals.contains bar then
    .next (((s.updCtx c fun x => { x with arrivals := x.arrivals.erase bar }).arrive c bar.toNat).kick)
  else .next s

/-- `PACE_RELEASE` (R76). -/
def execPaceRelease (c : CtxId) (s : State) : Host.Outcome State Fault Refusal := .next (s.pace c).kick

/-- `COMMIT_TIMEOUT` (R81). -/
def execCommitTimeout (c : CtxId) (s : State) : Host.Outcome State Fault Refusal := .next (s.commitLate c)

/-! ## Verification and comparison -/

/-- `SPEC_VERIFY` (R153–R155): the engine has seen `FINAL_BAR` open and compares the bits of its pass; with the last of them the
`TILE` goes on. -/
def execSpecVerify (r : ItemRef) (core : CoreId) (waited : Nat) (s : State) : Host.Outcome State Fault Refusal :=
  match s.item r with
  | none => .next s
  | some i =>
    if i.phase ≠ .working then .next s
    else .next ((s.verifyPass i core.val waited).kickItem i)

/-- `CONSERVATOR_COMPARE` (R172, R173). -/
def execConservatorCompare (r : ItemRef) (tile : Nat) (s : State) : Host.Outcome State Fault Refusal :=
  match s.item r with
  | none => .next s
  | some i => if i.tile.checks.any fun e => e.tile = tile then .next (s.compareTile i tile) else .next s

/-! ## Stream engines -/

/-- The translation of a regular program completes (R208): the active one runs, or the one in the shadow holds its pages; a fault
parks the engine, or the shadow's item alone. -/
def State.translated (s : State) (e : Nat) : State :=
  let x := s.engine e
  match x.st, x.active, x.shadow with
  | .starting, some p, _ =>
    if !s.atWork p then s
    else match s.translateAll p with
    | .ok pages => (s.setEngine e { x with st := .running, active := some { p with pages := pages } }).pump e
    | .error why => s.streamStop e p why
  | _, _, some q =>
    match s.streamItem q with
    | none => s
    | some i =>
      if !q.regular || !q.pages.isEmpty || i.phase ≠ .working then s
      else
        match s.translateAll q with
        | .ok pages => s.setEngine e { x with shadow := some { q with pages := pages } }
        | .error why => s.stopItem i why
  | _, _, _ => s

/-- `STREAM_TRANSLATED`. -/
def execStreamTranslated (e : EngineId) (s : State) : Host.Outcome State Fault Refusal := .next (s.translated e.val).kick

/-- `STREAM_PROGRAM_END` (R206). -/
def execStreamProgramEnd (e : EngineId) (s : State) : Host.Outcome State Fault Refusal := .next (s.endProgram e.val).kick

/-- `ARBITRATION_WINDOW` (R204): arbitration changes only timing, never results. -/
def execArbitrationWindow (s : State) : Host.Outcome State Fault Refusal := .next s

/-! ## Queue operations (R217, R220–R222) -/

/-- The number of a queue. -/
def queueIx (q : QueueId) : Nat :=
  match q with
  | .sluice core kind => sluiceIx core.val kind.val
  | .send port => 512 + port.val

/-- The context that owns a queue: its cluster's, or for a send queue the one whose lines it holds, or whose program delivers
into it. -/
def State.queueCtx (s : State) (q : QueueId) : Option CtxId :=
  match q with
  | .sluice core _ => s.clusterOwner (core.val / 4)
  | .send port =>
    match (s.queue (512 + port.val)).lines.findSome? Line.source with
    | some (c, _) => some c
    | none => (s.producer (512 + port.val)).map fun e => e.2.ctx

/-- A clamped or refused operation counted for the owning context (R220). -/
def State.misuse (s : State) (q : QueueId) : State :=
  match s.queueCtx q with
  | some c => s.tally .queueMisuseCnt c.val .queueStatus c.val 1
  | none => s

/-- The opcode of the items that consume a sluice type: a `TILE` from its feeder, a `VECTOR` from the others (R213). -/
def consumerOp (kind : Nat) : Nat := if kind = 0 then 1 else 2

/-- The consumer of a regular sluice that needs a line and finds none misses its deadline (R205): the consuming and the producing
item fail, and with them their partitions. -/
def State.missedRead (s : State) (q : QueueId) : State :=
  match q, s.producer (queueIx q) with
  | .sluice core kind, some (e, p) =>
    if p.regular && !p.ended then
      let part := s.partOf (core.val / 4)
      s.deadlineMiss p.ctx e p
        (s.items.find? fun i => i.ctx == p.ctx && i.part = part && i.phase = .working && i.desc.opcode = consumerOp kind.val) part
    else s
  | _, _ => s

/-- `MARK` (R220). -/
def State.actMark (s : State) (q : QueueId) : State := s.setQueue (queueIx q) (s.queue (queueIx q)).setMark

/-- `UNMARK` (R220). -/
def State.actUnmark (s : State) (q : QueueId) : State :=
  s.setQueue (queueIx q) { s.queue (queueIx q) with mark := none }

/-- `REWIND` (R220): Rd ← M, with what was expanded of the line there, and the mark stays; without a mark it does nothing and is
counted. -/
def State.actRewind (s : State) (q : QueueId) : State :=
  let x := s.queue (queueIx q)
  match x.mark with
  | none => s.misuse q
  | some m =>
    let s := s.setQueue (queueIx q) { x with rd := m, off := x.moff }
    match s.queueCtx q with
    | some c => s.tally .queueRewindCnt c.val .queueStatus c.val 2
    | none => s

/-- `RELEASE` (R220): as many lines as it may free. -/
def State.actRelease (s : State) (q : QueueId) (n : W32) : State :=
  let x := s.queue (queueIx q)
  let k := min n.toNat x.releasable
  let s := s.setQueue (queueIx q) (x.free k)
  if k < n.toNat then s.misuse q else s

/-- A read (R217): the line at Rd with its tag, or the idle item. A regular consumer that needs a line and finds none misses its
deadline (R205), or waits while it is not primed (R197); an irregular one waits and reads again (R218); the non-blocking read of a
vector operator gets the idle item and no more. -/
def State.actRead (s : State) (q : QueueId) (need : Bool) : State :=
  let k := queueIx q
  let x := s.queue k
  if x.prime.isSome then (if need then s.setQueue k { x with waits := true } else s)
  else
    let s' := s.emit (.queueItem x.front.payload x.front.tag)
    if x.unread ≠ 0 then s'.setQueue k x.step
    else if !need then s'
    else if (s.producer k).any fun e => e.2.regular then s'.missedRead q
    else s'.setQueue k { x with waits := true }

/-- One operation at a queue. -/
def State.act (s : State) (e : QueueId × QueueAct) : State :=
  match e.2 with
  | .release n => s.actRelease e.1 n
  | .unmark => s.actUnmark e.1
  | .rewind => s.actRewind e.1
  | .mark => s.actMark e.1
  | .read need => s.actRead e.1 need

/-- The place of an operation in the order of one edge (R222). -/
def QueueAct.rank : QueueAct → Nat
  | .release _ => 0
  | .unmark => 1
  | .rewind => 2
  | .mark => 3
  | .read _ => 4

/-- The next command is an operation on the same queue and edge. -/
def State.joined (s : State) (q : QueueId) : Bool :=
  match s.pending with
  | .mark o :: _ | .unmark o :: _ | .rewind o :: _ | .release o _ :: _ => o.queue = q && o.joins
  | .queueRead o :: _ => o.queue = q && o.joins
  | _ => false

/-- An operation at a queue: those of one edge act together, in the order of R222 whatever order they are given in, and the credit
that they free is usable after it. -/
def State.queueAct (s : State) (q : QueueId) (a : QueueAct) : State :=
  let s := { s with acts := s.acts ++ [(q, a)] }
  if s.joined q then s
  else
    let mine := s.acts.filter fun e => e.1 = q
    let s := { s with acts := s.acts.filter fun e => e.1 ≠ q }
    let s := (List.range 5).foldl (fun s k => (mine.filter fun e => e.2.rank = k).foldl State.act s) s
    if mine.any fun e => e.2.rank = 0 then (s.pumpQueue (queueIx q)).kick else s

/-- `MARK`. -/
def execMark (q : QueueOp) (s : State) : Host.Outcome State Fault Refusal := .next (s.queueAct q.queue .mark)

/-- `UNMARK`. -/
def execUnmark (q : QueueOp) (s : State) : Host.Outcome State Fault Refusal := .next (s.queueAct q.queue .unmark)

/-- `REWIND`. -/
def execRewind (q : QueueOp) (s : State) : Host.Outcome State Fault Refusal := .next (s.queueAct q.queue .rewind)

/-- `RELEASE`. -/
def execRelease (q : QueueOp) (n : W32) (s : State) : Host.Outcome State Fault Refusal :=
  .next (s.queueAct q.queue (.release n))

/-- `QUEUE_READ`. -/
def execQueueRead (q : QueueAsk) (s : State) : Host.Outcome State Fault Refusal := .next (s.queueAct q.queue (.read q.need))

/-! ## Vitrine copies -/

/-- `VITRINE_COPY_DONE` (R294). -/
def execVitrineCopyDone (c : CtxId) (coll : BitVec 48) (row : W32) (s : State) : Host.Outcome State Fault Refusal :=
  .next (s.copyDone c coll.toNat row.toNat).kick

end Sys2Proof.Machine
end

