-- ==== Sys2Proof/Machine/Fabric.lean ====
section
/-! DEFINITION. Fabric multicast at its receivers and the time exchange (R366, R372–R374, R377). -/

namespace Sys2Proof.Machine

/-! ## Multicast (R373, R374) -/

/-- A line's group in its context, as `MCAST` and `PRUNE` carry it. -/
def lineGroup (k : Packet) : Nat := bits 11 0 k.w2

/-- A line's program number. -/
def lineProgram (k : Packet) : Nat := bits 31 16 k.w2

/-- The source and group that a program number belongs to. -/
def lineStream (k : Packet) : Nat × Nat := (k.srcRank, 4096 * k.ctx.val + lineGroup k)

/-- Two lines are of one program. -/
def sameProgram (a b : Packet) : Bool := lineStream a = lineStream b && lineProgram a = lineProgram b

/-- The physical address of the receive ring of a packet's group when the module is one of its receivers: by its own table of
the packet's context (DESIGN CHOICE 42). -/
def State.mcastRing (s : State) (k : Packet) : Option Nat :=
  let va := s.rdN .shxMcastVa k.ctx.val
  if va = 0 then none
  else
    match s.vread (s.stepReq k.ctx) (va + 32 * lineGroup k) 32 with
    | .error _ => none
    | .ok bs =>
      let w1 := wordAt bs 1
      let r := s.rdN .shxRank
      let lo := bits 15 0 w1
      if fabricEntryOk bs && r ≠ k.srcRank && lo ≤ r && r ≤ bits 31 16 w1 && (r - lo) % bits 63 48 w1 = 0 &&
          s.memberList.contains r then some (bits 41 0 (wordAt bs 0))
      else none

/-- The program of a line stands among those that the module has pruned itself from. -/
def State.isPruned (s : State) (k : Packet) : Bool := s.fabric.pruned.contains (k.srcRank, (lineStream k).2, lineProgram k)

/-- The first line of a later program clears `PRUNED`. -/
def State.unprune (s : State) (k : Packet) (ring : Nat) : State :=
  let mine (e : Nat × Nat × Nat) : Bool := e.1 = k.srcRank && e.2.1 = (lineStream k).2
  if s.fabric.pruned.any mine then
    let s := { s with fabric := { s.fabric with pruned := s.fabric.pruned.filter fun e => !mine e } }
    s.poke (ring + 23) [s.byteAt (ring + 23) &&& 0x7F]
  else s

/-- A line written to its ring, when the ring has room: line and tag, then `P` and `PROG`. A ring that FABRIC requests do not
reach discards it (R338). -/
def State.mcastWrite (s : State) (ring : Nat) (k : Packet) : Option State :=
  if !s.fabricOk true ring 64 then some s.fabricDrop
  else
    let h (i : Nat) : Nat := leNat (s.bytesAt (ring + 8 * i) 4)
    let cap := h 0
    let p := h 2
    if cap < (p + 2 ^ 32 - h 1) % 2 ^ 32 + 1 then none
    else
      let line := ring + 64 + 64 * (p % cap)
      let tag := ring + 64 + 64 * cap + 2 * (p % cap)
      if !s.fabricOk true line 64 || !s.fabricOk true tag 2 then some s.fabricDrop
      else
        let s := (s.poke line (k.data.take 64)).poke tag ((k.data.drop 64).take 2)
        some ((s.poke (ring + 16) (leBytes 4 (p + 1))).poke (ring + 24) (leBytes 4 (lineProgram k)))

/-- The held lines of a port written while their rings have room; those of a ring stay in order. -/
def State.retryLines (s : State) : List Packet → List Packet → State × List Packet
  | [], kept => (s, kept)
  | k :: rest, kept =>
    if kept.any fun h => h.ctx = k.ctx && lineGroup h = lineGroup k then State.retryLines s rest (kept ++ [k])
    else
      match s.mcastRing k with
      | none => State.retryLines s rest kept
      | some ring =>
        match s.mcastWrite ring k with
        | some s => State.retryLines s rest kept
        | none => State.retryLines s rest (kept ++ [k])

/-- A port's delivery buffer is tried again. -/
def State.retryMcast (s : State) (p : Nat) : State :=
  if (s.port p).mcast.isEmpty then s
  else
    let (s, kept) := s.retryLines (s.port p).mcast []
    s.setPort p { s.port p with mcast := kept }

/-- The module prunes itself from the program of a line (R374). -/
def State.pruneFrom (s : State) (k : Packet) : State :=
  let s := (List.range 14).foldl (fun s p =>
    s.setPort p { s.port p with mcast := (s.port p).mcast.filter fun h => !sameProgram h k }) s
  let s := { s with fabric := { s.fabric with
    pruned := s.fabric.pruned.concat (k.srcRank, (lineStream k).2, lineProgram k) } }
  let s := match s.mcastRing k with
    | some ring => if s.fabricOk true ring 64 then s.poke (ring + 23) [s.byteAt (ring + 23) ||| 0x80] else s
    | none => s
  let s := s.tally .mcastPrunedCnt 0 .shxStatus 0 5
  let s := s.raise 0x24 (some k.ctx) (lineGroup k)
  let (op, s) := s.nextOp
  s.send k.srcRank (mkPacket 0x31 k.ctx (BitVec.ofNat 64 (lineGroup k + lineProgram k * 65536)) op [])

/-- A line reaches a receiver (R373, R374): written, held, or discarded as of a pruned program. A line for which the delivery
buffer has no place prunes at once (DESIGN CHOICE 42). -/
def State.takeLine (s : State) (p : Nat) (k : Packet) : State :=
  let s := s.retryMcast p
  match s.mcastRing k with
  | none => s
  | some ring =>
    if s.isPruned k then s
    else
      let s := s.unprune k ring
      let behind := (s.port p).mcast.any fun h => h.ctx = k.ctx && lineGroup h = lineGroup k
      match if behind then none else s.mcastWrite ring k with
      | some s => s
      | none =>
        let x := s.port p
        if 64 ≤ x.mcast.length then s.pruneFrom k else s.setPort p { x with mcast := x.mcast.concat k }

/-- `MCAST`. -/
def execMcast (p : PortId) (k : Packet) (s : State) : Host.Outcome State Fault Refusal :=
  .next (s.receive { k with via := some (p, 0) } fun s => s.takeLine p.val k)

/-- `MCAST_PRUNE_TIMEOUT`: the oldest line that a port holds is still unwritten in time. -/
def execMcastPruneTimeout (p : PortId) (s : State) : Host.Outcome State Fault Refusal :=
  let old := (s.port p.val).mcast.head?
  let s := s.retryMcast p.val
  match (s.port p.val).mcast with
  | [] => .next s
  | k :: _ => if some k = old then .next (s.pruneFrom k) else .next s

/-- `PRUNE`: the source counts the notice. -/
def execPrune (k : Packet) (s : State) : Host.Outcome State Fault Refusal :=
  .next (s.receive k fun s => s.tally .mcastPruneCnt 0 .shxStatus 0 5)

/-! ## Time (R377) -/

/-- An integer saturated to I32. -/
def satI32 (x : Int) : Int := max (-2147483648) (min 2147483647 x)

/-- `GLOBAL_TIME` stepped by SCLK cycles, counted and raised with the offset (R377, R479). -/
def State.stepTime (s : State) (d offset : Int) : State :=
  let s := s.wr .globalTime 0 0 (s.rd .globalTime + BitVec.ofInt 64 d)
  let s := { s with fabric := { s.fabric with slew := 0 } }
  (s.tally .timeStepCnt 0 .shxStatus 0 7).raise 0x26 none (BitVec.ofInt 32 (satI32 offset)).toNat

/-- A lag in ROOT cycles removed: at most 64 SCLK cycles by slewing, more at once; `sign` gives the sign of the offset that the
lag was measured as. -/
def State.discipline (s : State) (lag sign : Int) : State :=
  if lag.natAbs ≤ 64 * 68 then { s with fabric := { s.fabric with slew := lag } }
  else s.stepTime (lag.tdiv 68) (sign * lag.tdiv 68)

/-- `SHX_TIME_PACKET`: the offset to the parent; with `TIME_SOURCE` 0 it is only reported. -/
def execShxTimePacket (t1 t2 t3 t4 : W64) (s : State) : Host.Outcome State Fault Refusal :=
  let offset := ((t2 - t1).toInt - (t4 - t3).toInt).fdiv 2
  let s := s.wr .timeOffset 0 0 ((BitVec.ofInt 32 (satI32 offset)).zeroExtend 64)
  let s := { s with fabric := { s.fabric with locked := offset.natAbs ≤ 2 * 68, acquired := true } }
  if s.rdN .timeSource = 1 then .next (s.discipline offset 1) else .next s

/-- The direction of a module's parent in the tree of R366 from a root; none at the root. -/
def State.treeParent (s : State) (root : Nat) : Option (Nat × Bool) :=
  let here := s.rdN .shxCoord
  let back (d : Nat) : Nat × Bool :=
    let n := s.dim d
    let up := (coordAt here d + n - coordAt root d) % n
    (d, decide (up ≤ s.ringReach (withCoord here d (coordAt root d)) d false))
  if coordAt here 2 ≠ coordAt root 2 then some (back 2)
  else if coordAt here 1 ≠ coordAt root 1 then some (back 1)
  else if coordAt here 0 ≠ coordAt root 0 then some (back 0)
  else none

/-- A `TIME` packet to a neighbour in a direction of the tree (R361, R377). -/
def State.sendTime (s : State) (d : Nat) (minus : Bool) (stamps : List W64) : State :=
  let here := s.rdN .shxCoord
  let peer := s.hop here d minus
  let rank := (s.memberList.find? fun r => s.coordOf r = some peer).getD 0
  let (op, s) := s.nextOp
  let k := mkPacket 0x24 0 0 op (bytesOf stamps)
  let k : Packet := { k with
    w0 := k.w0 ||| BitVec.ofNat 64 (minus.toNat * 2 ^ (44 - d) + peer % 65536 * 2 ^ 16 + here % 65536)
    w1 := BitVec.ofNat 64 (s.rdN .shxRank * 2 ^ 48 + rank * 2 ^ 32 + s.rdN .epoch) }
  s.forwardOn k.sealed d minus true

/-- A timestamp in ROOT cycles (R377): of the codeword boundary at which a packet of this SCLK cycle starts, whose place within the cycle
is free (DESIGN CHOICE 113). -/
def State.stamp (s : State) : W64 × State :=
  let (f, s) := s.freeW
  (BitVec.ofNat 64 (68 * s.rdN .globalTime + f.toNat % 68), s)

/-- The request of a child answered in the exchange of its edge (DESIGN CHOICE 135): with the child's instant of sending, which its
packet brought and which is free here, and those of receipt and of the answer. -/
def State.answerTime (s : State) (e : Nat × Bool) : State :=
  let (t1, s) := s.freeW
  let (t2, s) := s.stamp
  let (t3, s) := s.stamp
  s.sendTime e.1 e.2 [t1, t2, t3]

/-- `SHX_TIME_EXCHANGE`: an exchange on each edge of the tree. The module sends `TIME` to its parent with the instant of sending, and
answers its children. -/
def execShxTimeExchange (s : State) : Host.Outcome State Fault Refusal :=
  match s.coordOf s.holderRank with
  | none => .next s
  | some root =>
    let children := s.treeDirs root
    let s := match s.treeParent root with
      | none => s
      | some (d, minus) =>
        let (t1, s) := s.stamp
        s.sendTime d minus [t1]
    .next (children.foldl State.answerTime s)

end Sys2Proof.Machine
end

