-- ==== Sys2Proof/Machine/Packets.lean ====
section
/-! DEFINITION. The packets of reductions, tokens, votes, domain-wide changes and recovery, and the commands of those units
(R367–R371, R375, R376, R386, R387, R393, R398, R399). -/

namespace Sys2Proof.Machine

/-! ## Reductions (R367–R371) -/

/-- `RED_HDR`. -/
def execRedHdr (k : Packet) (s : State) : Host.Outcome State Fault Refusal := .next (s.takeHeader k).kick

/-- `RED_DENSE`. -/
def execRedDense (k : Packet) (s : State) : Host.Outcome State Fault Refusal := .next (s.takePart k).kick

/-- `RED_SPARSE`. -/
def execRedSparse (k : Packet) (s : State) : Host.Outcome State Fault Refusal := .next (s.takePart k).kick

/-- `RED_RESULT`. -/
def execRedResult (k : Packet) (s : State) : Host.Outcome State Fault Refusal := .next (s.takePart k).kick

/-- `COLL_ABORT`. -/
def execCollAbort (k : Packet) (s : State) : Host.Outcome State Fault Refusal := .next (s.takeAbort k).kick

/-- `SHX_COLL_TIMEOUT`. -/
def execShxCollTimeout (c : CtxId) (s : State) : Host.Outcome State Fault Refusal := .next (s.collTimeout c)

/-! ## Tokens, reports and verdicts (R375, R386) -/

/-- `COMMIT_TOKEN` (R375): a commit token is latched, and the `COMMIT` that waits for it goes on. -/
def execCommitToken (k : Packet) (s : State) : Host.Outcome State Fault Refusal :=
  .next (s.receiveColl k fun s => (s.latchToken k.ctx (wordsOf 8 k.data)).kick)

/-- `MISMATCH_REPORT`. -/
def execMismatchReport (k : Packet) (s : State) : Host.Outcome State Fault Refusal :=
  .next (s.receiveColl k fun s => s.takeReport k.ctx k.srcRank (wordsOf 8 k.data))

/-- `VERDICT`. -/
def execVerdict (k : Packet) (s : State) : Host.Outcome State Fault Refusal :=
  .next (s.receiveColl k fun s => s.takeVerdict k.ctx (wordsOf 8 k.data))

/-- `FENCE_VOTE_CLOSE`. -/
def execFenceVoteClose (s : State) : Host.Outcome State Fault Refusal := .next s.closeVote

/-- `VERDICT_TIMEOUT`. -/
def execVerdictTimeout (c : CtxId) (s : State) : Host.Outcome State Fault Refusal := .next (s.verdictLate c)

/-! ## Fencing (R387) -/

/-- `FENCE_CONTROL` written (R387): 1 fences, 2 clears, other values are refused. -/
def State.fenceControl (s : State) (v : Nat) : Status × State :=
  if v = 1 then (.ok, s.fenceNow 2)
  else if v = 2 then
    match s.fenceLeave with
    | (true, s) => (.ok, s)
    | (false, s) => (.state, s)
  else (.range, s)

/-- `FENCE`. -/
def execFence (s : State) : Host.Outcome State Fault Refusal := .next (settle (s.fenceControl 1))

/-- `FENCE_CLEAR`. -/
def execFenceClear (s : State) : Host.Outcome State Fault Refusal := .next (settle (s.fenceControl 2))

/-! ## Domain-wide changes (R376) -/

/-- `APPLY_PREP`. -/
def execApplyPrep (k : Packet) (s : State) : Host.Outcome State Fault Refusal := .next (s.receive k fun s => s.takePrep k)

/-- `APPLY_VOTE`. -/
def execApplyVote (k : Packet) (s : State) : Host.Outcome State Fault Refusal :=
  .next (s.receive k fun s => s.takeVote k.srcRank (k.w2.truncate 32) ((k.w2 >>> 32).truncate 32))

/-- An `APPLY_GO` packet: its cancel bit decides. -/
def State.takeGo (s : State) (k : Packet) : State :=
  s.receive k fun s => if bit 63 k.w2 then s.domCancel (k.w2.truncate 32) 0 0 else s.domGo (k.w2.truncate 32)

/-- `APPLY_GO`. -/
def execApplyGo (k : Packet) (s : State) : Host.Outcome State Fault Refusal := .next (s.takeGo k)

/-- `APPLY_GO` with the cancel bit. -/
def execApplyGoCancel (k : Packet) (s : State) : Host.Outcome State Fault Refusal := .next (s.takeGo k)

/-- `DOMAIN_APPLY`. -/
def execDomainApply (w0 w1 : W64) (s : State) : Host.Outcome State Fault Refusal := .next (settle (s.domStart w0 w1))

/-- `APPLY_VOTE_DEADLINE`. -/
def execApplyVoteDeadline (s : State) : Host.Outcome State Fault Refusal := .next s.voteDeadline

/-- `DOMAIN_APPLY_INSTANT`. -/
def execDomainApplyInstant (s : State) : Host.Outcome State Fault Refusal := .next s.domInstant

/-! ## Depots, restores and provenance (R393, R398, R399) -/

/-- `DEPOT_WR`. -/
def execDepotWr (k : Packet) (s : State) : Host.Outcome State Fault Refusal := .next (s.receive k fun s => s.takeDepotWrite k)

/-- `DEPOT_RD`. -/
def execDepotRd (k : Packet) (s : State) : Host.Outcome State Fault Refusal := .next (s.receive k fun s => s.takeDepotRead k)

/-- `DEPOT_DATA`: an `UPDATE` that waits for a `SNAPSHOT` can go on with it. -/
def execDepotData (k : Packet) (s : State) : Host.Outcome State Fault Refusal :=
  .next (s.receive k fun s => (s.takeDepotData k).kick)

/-- `RESTORE_REQ`. -/
def execRestoreReq (w0 w1 w2 w3 : W64) (s : State) : Host.Outcome State Fault Refusal :=
  .next (settle (s.restoreStart (bytesOf [w0, w1, w2, w3])))

/-- `PROV_REQ`. -/
def execProvReq (w : W32) (s : State) : Host.Outcome State Fault Refusal := .next (settle (s.provStart w))

end Sys2Proof.Machine
end

