-- ==== Sys2Proof/Machine/Link.lean ====
section
/-! DEFINITION. The Shexon links: codewords, the states of a port, verification, widths, credits, and holding for a link (R354–R359,
R362, R365). -/

namespace Sys2Proof.Machine

/-! ## Ports and what they hold -/

/-- Packets handed to a port one after another. -/
def State.portSendAll (s : State) (p : Nat) (ks : List Packet) : State := ks.foldl (fun s k => s.portSend p k) s

/-- The granules of a round that VC1, VC2 and VC3 may send (R362). -/
def shareOf (vc : Nat) : Nat := if vc = 1 then 4 else 2

/-- The first held packet of each VC, where the port can send it. -/
def Port.heads (x : Port) (vcs : List Nat) : List Packet :=
  vcs.filterMap fun v => (x.held.find? fun k => k.vc = v).bind fun k => if x.fits k then some k else none

/-- The rounds until the share of a packet's VC holds the packet. -/
def Port.rounds (x : Port) (k : Packet) : Nat := ceilDiv (1 + k.len - x.shares.getD (k.vc - 1) 0) (shareOf k.vc)

/-- The shares after so many rounds in which these packets stood at the heads, and one of them went (R362): a VC with nothing to send
leaves its share to the others. -/
def Port.sharesAfter (x : Port) (ks : List Packet) (n : Nat) (sent : Packet) : List Nat :=
  [1, 2, 3].map fun v =>
    if ks.any fun k => k.vc = v then x.shares.getD (v - 1) 0 + n * shareOf v - (if sent.vc = v then 1 + sent.len else 0) else 0

/-- The packet that goes next, with the shares then: VC0 before all, else by weighted round robin (R362). -/
def Port.nextOut (x : Port) : Option (Packet × List Nat) :=
  match x.heads [0] with
  | k :: _ => some (k, x.shares)
  | [] =>
    let ks := x.heads [1, 2, 3]
    match ks with
    | [] => none
    | k :: r =>
      let best := r.foldl (fun a b => if x.rounds b < x.rounds a then b else a) k
      some (best, x.sharesAfter ks (x.rounds best) best)

/-- What a port holds is sent as far as it now can, at most n packets (R362). -/
def State.drainFor (s : State) (p : Nat) : Nat → State
  | 0 => s
  | n + 1 =>
    let x := s.port p
    match x.nextOut with
    | none => s
    | some (k, shares) => State.drainFor ((s.setPort p { x with held := x.held.erase k, shares := shares }).sendNow p k) p n

/-- What a port holds is sent as far as it now can. -/
def State.drainPort (s : State) (p : Nat) : State := s.drainFor p (s.port p).held.length

/-- The packets that wait at the sibling of a port, while that is not up, move to it (R359). -/
def State.takeOver (s : State) (p : Nat) : State :=
  match siblingOf p with
  | none => s
  | some q =>
    if s.portUp q then s
    else
      let x := s.port q
      (s.setPort q { x with held := [] }).portSendAll p x.held

/-- The send queues go on where their lines have left (R199, R372). -/
def State.drainSends (s : State) : State :=
  (List.range 14).foldl (fun s p =>
    if (s.queue (512 + p)).lines.isEmpty then s else (s.drainSend p 1024).pumpQueue (512 + p)) s

/-- A port's traffic goes on after it came up or got credit. -/
def State.portGoes (s : State) (p : Nat) : State :=
  if s.portUp p then (((s.drainPort p).takeOver p).drainSends).kick else s

/-! ## States (R356, R358) -/

/-- Lanes that a port does not use: disabled, or lost. -/
def State.lanesOff (s : State) (p : Nat) : BitVec 4 := (s.rd .laneDisable p).truncate 4 ||| (s.port p).lost

/-- The number of lanes in a mask. -/
def laneCount (m : BitVec 4) : Nat := m.toNat % 2 + m.toNat / 2 % 2 + m.toNat / 4 % 2 + m.toNat / 8

/-- `PORT_BUDGET` of a port at a width (R358). -/
def State.setBudget (s : State) (p n : Nat) : State := s.wrN .portBudget 0 (188 + p) n

/-- `LANE_DEGRADED` raised for a lane of a port (R358). -/
def State.laneDegraded (s : State) (p lane : Nat) : State :=
  (s.setFlag .shxStatus 0 1).raise 0x22 none (p * 256 + lane)

/-- A port goes over to three lanes (R358). -/
def State.toUp3 (s : State) (p lane : Nat) : State :=
  let s := (s.setPort p { s.port p with st := 6, lanes := ~~~ BitVec.ofNat 4 (2 ^ lane) }).setBudget p 56449
  (s.count .laneSpareCnt).laneDegraded p lane

/-- A port goes over to four lanes. -/
def State.toUp (s : State) (p : Nat) : State := (s.setPort p { s.port p with st := 5, lanes := 0xF }).setBudget p 75294

/-- The lowest lane of a mask. -/
def lowLane (m : BitVec 4) : Nat := ((List.range 4).find? fun i => m.getLsbD i).getD 0

/-- The packets that a port has sent and that are not acknowledged, each marked with its number on the port (R359). -/
def Port.toResend (x : Port) (p : Nat) : List Packet :=
  let ks := (x.unacked.flatMap SentWord.packets).filter fun k => 3 < k.type
  ks.zipIdx.map fun k => { k.1 with mark := some (p, x.sent - ks.length + k.2) }

/-- The packets of an AUX port whose link has gone down go by the torus, before any that are sent later (R378, R379). -/
def State.leaveAux (s : State) (ks : List Packet) : State :=
  ks.foldl (fun s k => (s.onTorus k).getD ((s.giveBack k).fabricDrop)) s

/-- A link goes down (R356, R359): the event, and what was not acknowledged or waits is sent on the sibling port, if that is up. -/
def State.linkDown (s : State) (p : Nat) : State :=
  let x := s.port p
  let ks := x.toResend p ++ x.held
  let s := s.setPort p { Port.init with mcast := x.mcast, signal := x.signal, got := x.got, gone := some x.got }
  let s := (s.setBudget p 75294).tally .linkDownCnt p .shxStatus 0 0
  let s := s.raise 0x20 none p
  match siblingOf p with
  | some q => if s.portUp q then s.portSendAll q ks else s.setPort p { s.port p with held := ks }
  | none => s.leaveAux ks

/-- `IDENT` of this end (R357): domain, coordinate, dimensions and port number (DESIGN CHOICE 41). -/
def State.sendIdent (s : State) (p : PortId) : State :=
  s.linkLocal p 0x03 (BitVec.ofNat 64 (p.val * 2 ^ 32 + s.rdN .torusDims * 2 ^ 16 + s.rdN .shxCoord))
    (leBytes 8 (s.rdN .shxDomainId))

/-- A `LANE_CHANGE` packet (R358): a codeword's sequence, and the lanes in use from it on (DESIGN CHOICE 41). -/
def State.tellLanes (s : State) (p : PortId) (seq : BitVec 10) (lanes : BitVec 4) : State :=
  s.linkLocal p 0x02 (BitVec.ofNat 64 (lanes.toNat * 2 ^ 16 + seq.toNat)) []

/-- This end asks for a change of width from the eighth codeword on that it sends (R358, DESIGN CHOICE 41). -/
def State.sendLaneChange (s : State) (p : PortId) (lanes : BitVec 4) : State :=
  let seq := (s.port p.val).txNext + 8
  let s := s.tellLanes p seq lanes
  s.setPort p.val { s.port p.val with asked := some (seq, lanes) }

/-- A port in TRAIN again, with its codeword sequences at their start (DESIGN CHOICE 41). -/
def Port.training (x : Port) : Port :=
  { x with st := 2, rxNext := 0, rxSkip := false, txNext := 0, lastAck := 1023, ackRun := 0, unacked := [], credits := Port.init.credits
           asked := none, change := none, room := 0, openAt := 0, sent := 0, got := 0 }

/-- A DOWN port that is in use trains when it has signal on all four lanes, or on three with one disabled (R356). -/
def State.tryTrain (s : State) (p : Nat) : State :=
  let x := s.port p
  let off : BitVec 4 := (s.rd .laneDisable p).truncate 4
  if x.st = 1 && s.portEnabled p && (x.signal ||| off) = 0xF then s.setPort p x.training else s

/-- A port moved from one state to another, if it is in the first. -/
def State.portMove (s : State) (p from_ to_ : Nat) : State :=
  if (s.port p).st = from_ then s.setPort p { s.port p with st := to_ } else s

/-- `SIGNAL_DETECT`. -/
def execSignalDetect (p : PortId) (lanes : BitVec 4) (s : State) : Host.Outcome State Fault Refusal :=
  .next ((s.setPort p.val { s.port p.val with signal := lanes }).tryTrain p.val)

/-- `LINK_RETRY_TIMER`. -/
def execLinkRetryTimer (p : PortId) (s : State) : Host.Outcome State Fault Refusal := .next (s.tryTrain p.val)

/-- `TRAIN_CONVERGED`. -/
def execTrainConverged (p : PortId) (s : State) : Host.Outcome State Fault Refusal := .next (s.portMove p.val 2 3)

/-- `TRAIN_TIMEOUT`. -/
def execTrainTimeout (p : PortId) (s : State) : Host.Outcome State Fault Refusal := .next (s.portMove p.val 2 1)

/-- `ALIGN_DONE`: the port goes to VERIFY and sends its `IDENT`. -/
def execAlignDone (p : PortId) (s : State) : Host.Outcome State Fault Refusal :=
  if (s.port p.val).st = 3 then .next ((s.portMove p.val 3 4).sendIdent p) else .next s

/-- `ALIGN_TIMEOUT`. -/
def execAlignTimeout (p : PortId) (s : State) : Host.Outcome State Fault Refusal := .next (s.portMove p.val 3 1)

/-! ## Verification (R357) -/

/-- Verification fails. -/
def State.miswired (s : State) (p : Nat) : State :=
  let s := s.setPort p { s.port p with st := 7 }
  (s.tally .linkMiswireCnt 0 .shxStatus 0 2).raise 0x21 none p

/-- The peer's identity agrees with this end (R357). -/
def State.identOk (s : State) (p : Nat) (domain : W64) (coord dims : BitVec 16) (peerPort : Byte) : Bool :=
  domain = s.rd .shxDomainId && dims.toNat = s.rdN .torusDims && peerPort.toNat = pairedPort p &&
    (12 ≤ p || coord.toNat = s.hop (s.rdN .shxCoord) (p % 3) (p / 3 % 2 = 1))

/-- `IDENT`: the link is accepted or the port FAILED. -/
def execIdent (p : PortId) (domain : W64) (coord dims : BitVec 16) (peerPort : Byte) (s : State) :
    Host.Outcome State Fault Refusal :=
  if (s.port p.val).st ≠ 4 then .next s
  else if !s.identOk p.val domain coord dims peerPort then .next (s.miswired p.val)
  else
    let s := s.wrN .portPeer p.val 0 (2 ^ 31 + peerPort.toNat % 16 * 2 ^ 16 + coord.toNat)
    let off := s.lanesOff p.val
    let s := if off = 0 then s.toUp p.val else s.toUp3 p.val (lowLane off)
    .next (s.portGoes p.val)

/-- `VERIFY_TIMEOUT`: an exchange that has not agreed in time is a verification failure. -/
def execVerifyTimeout (p : PortId) (s : State) : Host.Outcome State Fault Refusal :=
  if (s.port p.val).st = 4 then .next (s.miswired p.val) else .next s

/-! ## Widths (R358) -/

/-- Lanes off that a port has in use (R356, R358): one of an UP port starts an exchange for UP3; two of it, or any of an UP3 port, take
the link down. -/
def State.loseLanes (s : State) (p : PortId) : State :=
  let x := s.port p.val
  let off := s.lanesOff p.val &&& x.lanes
  if (x.st ≠ 5 && x.st ≠ 6) || off = 0 then s
  else if x.st = 6 || 2 ≤ laneCount off then s.linkDown p.val
  else if x.asked.isSome || x.change.isSome then s
  else s.sendLaneChange p (~~~ off)

/-- A change of width that is agreed takes effect once its codeword is the next (R358): the next that this end sends, or receives. -/
def State.widthDue (s : State) (p : PortId) : State :=
  let x := s.port p.val
  match x.change with
  | none => s
  | some (own, seq, lanes) =>
    if 512 ≤ ((if own then x.txNext else x.rxNext) - seq).toNat then s
    else
      let s := s.setPort p.val { x with change := none }
      if laneCount lanes = 3 then (s.toUp3 p.val (lowLane (~~~ lanes))).loseLanes p else (s.toUp p.val).portGoes p.val

/-- `LANE_LOCK_LOSS` (R356, R358): one lane lost takes an UP port to UP3 by an exchange, a further one takes the link down. -/
def execLaneLockLoss (p : PortId) (lane : Fin 4) (s : State) : Host.Outcome State Fault Refusal :=
  let x := s.port p.val
  let s := s.setPort p.val { x with lost := x.lost ||| BitVec.ofNat 4 (2 ^ lane.val) }
  .next (s.loseLanes p)

/-- `LANE_RESTORED` (R358): with every lane there again the port asks for the change back. -/
def execLaneRestored (p : PortId) (lane : Fin 4) (s : State) : Host.Outcome State Fault Refusal :=
  let x := s.port p.val
  let s := s.setPort p.val { x with lost := x.lost &&& ~~~ BitVec.ofNat 4 (2 ^ lane.val) }
  if x.st = 6 && s.lanesOff p.val = 0 then .next (s.sendLaneChange p 0xF) else .next s

/-- `LANE_DISABLE` written (R356, R358): other values are refused; a FAILED port goes DOWN; a lane disabled starts the change of
width, and a lane enabled again retrains first. -/
def State.laneDisable (s : State) (p : PortId) (v : Byte) : Status × State :=
  if !(v = 0 || v = 1 || v = 2 || v = 4 || v = 8) then (.range, s)
  else
    let x := s.port p.val
    let old : BitVec 4 := (s.rd .laneDisable p.val).truncate 4
    let freed := old &&& ~~~ v.truncate 4
    let s := s.wrN .laneDisable p.val 0 v.toNat
    if x.st = 7 then (.ok, s.setPort p.val { x with st := 1 })
    else
      let s := if x.st = 6 then s.setPort p.val { x with lost := x.lost ||| freed } else s
      (.ok, s.loseLanes p)

/-- `LANE_DISABLE`. -/
def execLaneDisable (p : PortId) (v : Byte) (s : State) : Host.Outcome State Fault Refusal := .next (settle (s.laneDisable p v))

/-- A change of width agreed: at a codeword that this end sends, or one that it receives. -/
def State.agreeLanes (s : State) (p : PortId) (own : Bool) (seq : BitVec 10) (lanes : BitVec 4) : State :=
  (s.setPort p.val { s.port p.val with asked := none, change := some (own, seq, lanes) }).widthDue p

/-- `LANE_CHANGE` received (R358): the peer's answer, which agrees the change that this end asked for, or its own wish, which this end
answers with the same codeword and lanes where it can follow. -/
def execLaneChange (p : PortId) (seq : BitVec 10) (lanes : BitVec 4) (s : State) : Host.Outcome State Fault Refusal :=
  let x := s.port p.val
  if x.asked = some (seq, lanes) then .next (s.agreeLanes p true seq lanes)
  else if (x.st = 5 && laneCount lanes = 3) || (x.st = 6 && lanes = 0xF && s.lanesOff p.val = 0) then
    .next ((s.tellLanes p seq lanes).agreeLanes p false seq lanes)
  else .next s

/-- `LANE_SYMBOL_RATE_WINDOW` (R358). -/
def execLaneSymbolRateWindow (p : PortId) (l0 l1 l2 l3 : W32) (s : State) : Host.Outcome State Fault Refusal :=
  .next ([l0, l1, l2, l3].zipIdx.foldl (fun s e =>
    if s.rdN .laneDegradeThresh < e.1.toNat then s.laneDegraded p.val e.2 else s) s)

/-! ## Codewords (R354, R355) -/

/-- The codewords after an acknowledged one. -/
def afterAck (ack : BitVec 10) (us : List SentWord) : List SentWord :=
  if us.any fun u => u.seq = ack then (us.dropWhile fun u => u.seq ≠ ack).drop 1 else us

/-- A codeword sent again with its packets; it carries the acknowledgement of now (R355). -/
def State.sendAgain (s : State) (p : PortId) (w : SentWord) : State :=
  w.packets.foldl (fun s k => s.emit (.packet p k)) (s.emit (.codeword p w.seq ((s.port p.val).rxNext - 1)))

/-- Everything unacknowledged is sent again; a ninth resend takes the link down (R355). -/
def State.resend (s : State) (p : PortId) : State :=
  let x := s.port p.val
  let us := x.unacked.map fun u => { u with times := u.times + 1 }
  let s := (s.setPort p.val { x with unacked := us, ackRun := 0 }).count .replayCnt p.val
  if us.any fun u => 9 ≤ u.times then s.linkDown p.val else us.foldl (fun s u => s.sendAgain p u) s

/-- An acknowledgement (R355): the fourth in a row of the same codeword, with later ones outstanding, makes the sender resend. -/
def State.acknowledge (s : State) (p : PortId) (ack : BitVec 10) : State :=
  let x := s.port p.val
  let us := afterAck ack x.unacked
  let run := if us.isEmpty then 0 else if ack = x.lastAck then x.ackRun + 1 else 1
  let s := s.setPort p.val { x with unacked := us, lastAck := ack, ackRun := run }
  if 4 ≤ run then s.resend p else s

/-- A port whose link is trained answers a codeword with one of its own, of idle granules: it shows the acknowledgement, and repeats it
while codewords are discarded (R355); what is agreed for this codeword takes effect (R358). -/
def State.answerWord (s : State) (p : PortId) : State :=
  let st := (s.port p.val).st
  if st < 3 || 7 ≤ st then s else (s.sendWords p.val [] 1).widthDue p

/-- `CODEWORD` (R354, R355). -/
def execCodeword (p : PortId) (seq ack : BitVec 10) (decoded : Bool) (corrected : BitVec 4) (s : State) :
    Host.Outcome State Fault Refusal :=
  let x := s.port p.val
  if x.st < 3 || 7 ≤ x.st then .next s
  else if !decoded then .next (((s.setPort p.val { x with rxSkip := true }).count .fecUncorrCnt p.val).answerWord p)
  else
    let s := s.count .fecCorrSymCnt p.val 0 corrected.toNat
    if seq ≠ x.rxNext then .next ((s.setPort p.val { x with rxSkip := true }).answerWord p)
    else .next (((s.setPort p.val { x with rxSkip := false, rxNext := x.rxNext + 1 }).acknowledge p ack).answerWord p)

/-! ## Credit and holding (R362, R365) -/

/-- `CREDIT`: link credit of one pair comes back, at most what the buffer has. -/
def execCredit (p : PortId) (vc : BitVec 2) (dl : Bool) (granules : Nat) (s : State) : Host.Outcome State Fault Refusal :=
  let x := s.port p.val
  let i := 2 * vc.toNat + dl.toNat
  let n := min 1024 (x.credits.getD i 0 + granules)
  .next ((s.setPort p.val { x with credits := x.credits.set i n }).portGoes p.val)

/-- `SHX_HOP_TIMEOUT` (R365): with both ports of the direction down, the oldest packet held for it is discarded. -/
def execShxHopTimeout (p : PortId) (s : State) : Host.Outcome State Fault Refusal :=
  let x := s.port p.val
  let other := match siblingOf p.val with
    | some q => s.portUp q
    | none => false
  match x.held with
  | [] => .next s
  | k :: rest =>
    if s.portUp p.val || other then .next s
    else .next ((((s.setPort p.val { x with held := rest }).giveBack k).fabricDrop).drainSends).kick

end Sys2Proof.Machine
end

