-- ==== Sys2Proof/Machine/Mmu.lean ====
section
/-! DEFINITION. Invalidations, scrub passes and the copy of a retirement (R330, R331, R336, R349). -/

namespace Sys2Proof.Machine

/-- `MMU_INVAL` written (R336, R350, R436): refused while an invalidation of the context is in progress, or when the start is
not a multiple of 64 KiB. -/
def State.mmuInvalidate (s : State) (c : CtxId) (va count : Nat) : Status × State :=
  if (s.ctx c).inval.isSome then (.state, s)
  else if va % 65536 ≠ 0 then (.range, s)
  else (.ok, s.updCtx c fun x => { x with inval := some (va % 2 ^ 48, count) })

/-- `MMU_INVAL`. -/
def execMmuInval (c : CtxId) (va count : W64) (s : State) : Host.Outcome State Fault Refusal :=
  .next (settle (s.mmuInvalidate c va.toNat count.toNat))

/-- Ranges of virtual addresses overlap. -/
def rangesMeet (a n b m : Nat) : Bool := decide (a < b + m) && decide (b < a + n)

/-- A regular program of a context, active or in the shadow, holds a translation of a range (R208, R336). -/
def State.streamHolds (s : State) (c : CtxId) (va len : Nat) : Bool :=
  s.engines.any fun (_, x) =>
    (x.active.toList ++ x.shadow.toList).any fun p => p.ctx == c && p.pages.any fun e => rangesMeet va len (e.1 * 65536) 65536

/-- A `TILE` of a context holds a translation of a range: for an engine of its wave that has not drained, or for a comparison that is
still to be made (R132, R173, R336). -/
def State.tileHolds (s : State) (c : CtxId) (va len : Nat) : Bool :=
  s.items.any fun i =>
    i.ctx == c && i.phase = .working && i.desc.opcode = 1 &&
      ((if i.tile.reached then i.tile.runs else []) ++ i.tile.checks).any fun run =>
        run.pages.any fun e => rangesMeet va len (e.1 * 65536) 65536

/-- Translations of a range are held by what runs on them (R336). -/
def State.holdsPages (s : State) (c : CtxId) (va units : Nat) : Bool :=
  s.streamHolds c va (units * 65536) || s.tileHolds c va (units * 65536)

/-- `INVAL_DONE`: every cached translation of the range is gone; those that a program holds go with its end. -/
def execInvalDone (c : CtxId) (s : State) : Host.Outcome State Fault Refusal :=
  match (s.ctx c).inval with
  | none => .next s
  | some (va, units) =>
    if s.holdsPages c va units then .next s
    else
      let s := s.updCtx c fun x => { x with inval := none }
      .next { s with purged := s.purged ++ [(c, va, units * 65536, s.writes)] }

/-- One finding of a scrub pass (R331). -/
def State.scrubbed (s : State) : ScrubFinding → State
  | .corrected pa =>
    let s := s.foundCorrected pa.toNat
    s.count .hbmPcCorr 0 (s.servingPc pa.toNat)
  | .uncorrectable pa => (s.foundUe pa.toNat).poisonWord (pa.toNat / 4)

/-- The address of a finding. -/
def findingPa : ScrubFinding → Nat
  | .corrected pa => pa.toNat
  | .uncorrectable pa => pa.toNat

/-- The findings of a pass that lie in HBM. -/
def hbmFindings (found : List ScrubFinding) : List ScrubFinding := found.filter fun f => findingPa f < 0x24000000000

/-- The pseudo-channels of a pass's corrected words, one for each. -/
def State.correctedPcs (s : State) (found : List ScrubFinding) : List Nat :=
  (hbmFindings found).filterMap fun f => match f with
    | .corrected pa => some (s.servingPc pa.toNat)
    | .uncorrectable _ => none

/-- The pseudo-channels to which a pass added more corrected words than the threshold. -/
def State.degradedPcs (s : State) (pcs : List Nat) : List Nat :=
  ((List.range 1536).filter fun i => pcs.contains i).filter fun i => s.rdN .pcDegradeThresh < (pcs.filter (· = i)).length

/-- `HBM_PC_DEGRADED` raised for a pseudo-channel (R331). -/
def State.raiseDegraded (s : State) (i : Nat) : State := (s.setFlag .memStatus 0 2).raise 0x10 none i

/-- `HBM_SCRUB_PASS`: what a pass over HBM found, and the pseudo-channels to which it added more than the threshold. -/
def execHbmScrubPass (found : List ScrubFinding) (s : State) : Host.Outcome State Fault Refusal :=
  let t := (hbmFindings found).foldl State.scrubbed s
  .next ((t.degradedPcs (s.correctedPcs found)).foldl State.raiseDegraded t)

/-- The poisoned words that a die's last retirement has copied: each was written to its target as a poisoned word (R349). -/
def State.copiedPoison (s : State) (d : Nat) : Nat :=
  let ret := s.retired d
  (s.poison.filter fun w =>
    let g := 4 * w % dieBytes / 256
    4 * w < 0x24000000000 && 4 * w / dieBytes = d && granuleAt ret g ≠ granuleAt ret.dropLast g).length

/-- `RETIRE_COPY_DONE`: the copy is whole, and its poisoning writes are counted (R330, R349). -/
def execRetireCopyDone (d : DieId) (s : State) : Host.Outcome State Fault Refusal :=
  if s.rdN .retireState 0 d.val = 1 then
    .next ((s.count .hbmPoisonCnt 0 0 (s.copiedPoison d.val)).wrN .retireState 0 d.val 2)
  else .next s

end Sys2Proof.Machine
end

