-- ==== Sys2Proof/Machine/Power.lean ====
section
/-! DEFINITION. Power states, the critical save and its record, the thermal sample, module reset, the reference clock and the pins
(R460–R475, R485, R486, R495, R496). -/

namespace Sys2Proof.Machine

/-! ## Power states (R462) -/

/-- The power state that no entry holds, replaced. -/
def State.setPower (s : State) (w : Power) : State := { s with power := w }

/-- `PWR_STATE` written: 0 OFF, 1 STANDBY, 2 POWERING, 3 ON, 4 SAVING. -/
def State.toPwr (s : State) (st : Nat) : State := s.wrN .pwrState 0 0 st

/-- The module is ON, and no module reset is in progress. -/
def State.running (s : State) : Bool := s.rdN .pwrState = 3 && !s.power.resetting

/-- `MOD_READY` (R495): high, low, or undriven in OFF. -/
def State.modReady (s : State) : Option Bool := if s.rdN .pwrState = 0 then none else some s.running

/-- `FAULT#` is driven low (R495). -/
def State.faultLow (s : State) : Bool := s.power.tripLatch || s.power.overLatch || s.power.exhausted

/-- The slot straps sampled (R496). -/
def State.sampleStraps (s : State) : State := s.wrN .slotId 0 0 s.power.straps.toNat

/-- An event of this chapter with its flag of `PWR_STATUS` (R485, R486). -/
def State.pwrEvent (s : State) (code arg bit_ : Nat) : State := (s.setFlag .pwrStatus 0 bit_).raise code none arg

/-- The PCI Express link is down (R430, R432). -/
def State.linkLost (s : State) : State := (s.wrN .hostLink 0 0 0).markFlag .hostStatus 0 0

/-- All work stops (R465, R472): contexts, units, ports and what they hold are as after reset, the bypass is closed, and the host link is
down. -/
def State.stopWork (s : State) : State :=
  ({ s with
    ctxs := [], items := [], trails := [], pend := [], heads := [], bars := [], engines := [], queues := [], acts := [], arrays := []
    msiHeld := []
    fabric := State.reset.fabric
    surv := State.reset.surv
    power := { s.power with bypass := true, h := 0 } } : State).linkLost

/-- The persistence class of the entry under a number. -/
def codeClass (k : Nat) : Persist := (regObj k).info.cls

/-- Measured values, which a reset does not change (R484). -/
def isReading (o : Obj) : Bool :=
  o = .inputMv || o = .inputMw || o = .stbyMv || o = .holdupMv || o = .tjMaxC || o = .coolantInC

/-- The bytes of a store copy that its CRC covers (DESIGN CHOICE 125). -/
def StoreCopy.bytes (x : StoreCopy) : List Byte :=
  leBytes 8 x.seq ++ x.vals.flatMap fun e => leBytes 8 e.1 ++ leBytes 8 e.2.toNat

/-- A copy of values closed by its CRC (R438). -/
def StoreCopy.closed (vals : Store W64) (seq : Nat) : StoreCopy :=
  let x : StoreCopy := ⟨vals, seq, 0⟩
  { x with crc := crc32 x.bytes }

/-- The CRC of a copy matches. -/
def StoreCopy.valid (x : StoreCopy) : Bool := x.crc = crc32 x.bytes

/-- A copy whose write did not come to its end: its CRC does not match. -/
def StoreCopy.torn (x : StoreCopy) : StoreCopy := { x with crc := crc32 x.bytes + 1 }

/-- The second copy is the newer valid one. -/
def State.newerB (s : State) : Bool := s.copyB.valid && (!s.copyA.valid || s.copyA.seq < s.copyB.seq)

/-- The persistent values in force at power-up: those of the newer copy whose CRC matches, else none (R438). -/
def State.stored (s : State) : Store W64 :=
  if s.newerB then s.copyB.vals else if s.copyA.valid then s.copyA.vals else []

/-- The copy that is not the newer valid one, replaced: the copy that a store write writes. -/
def State.setOldCopy (s : State) (f : StoreCopy → StoreCopy) : State :=
  if s.newerB then { s with copyA := f s.copyA } else { s with copyB := f s.copyB }

/-- The number of the newest store write. -/
def State.storeSeq (s : State) : Nat := if s.newerB then s.copyB.seq else if s.copyA.valid then s.copyA.seq else 0

/-- The dictionary as R437 loads it: stored persistent values, the strongroom's, the measured ones, and defaults. -/
def State.loadRegs (s : State) : Store W64 :=
  s.stored.foldl (fun m e => Store.set regDefault m e.1 e.2)
    (s.regs.filter fun e => codeClass e.1 = .strongroom || isReading (regObj e.1))

/-- The units that the fuse map retires are out of service (R36). -/
def State.applyFuses (s : State) : State :=
  let lo (k : Nat) : W64 := BitVec.ofNat 64 (((rangeFrom k 64).filter fun i => !s.fused i).map fun i => 2 ^ (i - k)).sum
  let s := s.wr .clustersActive 0 0 (s.rd .clustersActive &&& ~~~ s.fuses.clusters.zeroExtend 64)
  let s := s.wr .enginesActiveLo 0 0 (s.rd .enginesActiveLo &&& lo 0)
  s.wr .enginesActiveHi 0 0 (s.rd .enginesActiveHi &&& lo 64)

/-- The dictionary loaded, with the applied values staged. -/
def State.loadDict (s : State) : State :=
  ({ s with
    regs := s.loadRegs
    staged := s.loadRegs.filter fun e => (regObj e.1).info.acc = .rws } : State).applyFuses

/-- The module without power: what the non-volatile store and the strongroom hold stays; a store write under way is torn (R438). -/
def State.off (s : State) : State :=
  let t := s.sealEvents
  let u := if s.storing then s.setOldCopy StoreCopy.torn else s
  ({ State.reset with
      pending := s.pending
      fuses := s.fuses
      free := s.free
      regs := s.regs.filter fun e => codeClass e.1 = .strongroom
      copyA := u.copyA
      copyB := u.copyB
      out := t.out
      power :=
        { State.reset.power with
          standby := false, qualified := s.power.qualified, lastSave := s.power.lastSave, perst := s.power.perst,
          refclk := s.power.refclk, bypass := true, straps := s.power.straps }
      strong := s.strong } : State).toPwr 0

/-- Power-up starts when the input is qualified, no latch is held and no retry is awaited (R462, R463). -/
def State.tryPower (s : State) : State :=
  let w := s.power
  if s.rdN .pwrState = 1 && w.qualified && !w.tripLatch && !w.overLatch && !w.retryWait && !w.exhausted then
    ({ s with power := { w with group := 0, unprot := false } } : State).toPwr 2
  else s

/-- STANDBY is entered, or OFF when standby power is absent (R462, R496). -/
def State.toStandby (s : State) : State :=
  if s.power.standby then ((s.toPwr 1).sampleStraps).tryPower else s.off

/-! ## Module reset (R471, R472) -/

/-- A module reset begins, in any state in which the module has power. -/
def State.beginReset (s : State) (cause : Nat) (cold : Bool) : State :=
  let s := s.stopWork
  ({ s with power := { s.power with
      resetting := true, cause := cause, cold := cold, resetAt := s.now, perstHold := s.power.perst } } : State).sampleStraps

/-- A reset source (R471). Of the sources that arrive on the edge on which a reset begins, the lowest code is recorded, and its kind is the
reset's. In SAVING the source waits for power-down (R465). While a reset is in progress since an earlier edge, a loss of ROOT lock, and a
cold source during a warm reset, start it anew; any other leaves it as it is (DESIGN CHOICE 163). -/
def State.startReset (s : State) (cause : Nat) (cold : Bool) : State :=
  let w := s.power
  if s.rdN .pwrState = 0 then s
  else if s.rdN .pwrState = 4 then { s with power := { w with after := w.after.concat (cause, cold) } }
  else if !w.resetting then s.beginReset cause cold
  else if w.resetAt = s.now then
    (if cause < w.cause then { s with power := { w with cause := cause, cold := cold } } else s)
  else if cause = 5 || (cold && !w.cold) then s.beginReset cause cold
  else s

/-- Both latches cleared (R462). -/
def State.clearLatches (s : State) : State :=
  ({ s with power := { s.power with tripLatch := false, overLatch := false } } : State).tryPower

/-- A reset source of a save acts (R465): a `MODULE_RESET` of 2 clears a latch that is held, any other source resets. -/
def State.actAfter (s : State) (e : Nat × Bool) : State :=
  if e.1 = 9 && (s.power.tripLatch || s.power.overLatch) then s.clearLatches else s.startReset e.1 e.2

/-- Power-down (R464): HBM contents are lost; then the reset sources that came during the save act (R465). -/
def State.powerDown (s : State) : State :=
  let late := s.power.after
  let s := s.stopWork
  let s := { s with mem := [], prior := [], poison := [], scratch := 0, power := { s.power with resetting := false, after := [] } }
  late.foldl State.actAfter s.toStandby

/-- `REF_STATE` as the reference is chosen (R473). -/
def State.refChoice (s : State) : Nat :=
  let ext := s.power.refclk.toNat
  let sel := s.rdN .refSelect
  (if sel = 2 || (sel = 0 && ext = 1) then 2 else 1) + 4 * ext

/-- The bytes that a module reset keeps: HBM's, unless it is a cold one (R472). -/
def State.resetKeeps (s : State) (pa : Nat) : Bool := !s.power.cold && pa < 0x24000000000

/-- What a module reset leaves before the straps and the reference are sampled (R437, R448, R472). A store write that was
outstanding is dropped: `PERSIST_BUSY` reads 0 after reset (R459, DESIGN CHOICE 125). -/
def State.afterLoad (s : State) : State :=
  { State.reset with
    pending := s.pending
    fuses := s.fuses
    free := s.free
    regs := s.loadRegs
    staged := s.loadRegs.filter fun e => (regObj e.1).info.acc = .rws
    copyA := s.copyA
    copyB := s.copyB
    mem := s.mem.filter fun e => s.resetKeeps e.1
    prior := []
    poison := s.poison.filter fun w => s.resetKeeps (4 * w)
    out := s.sealEvents.out
    power :=
      { s.power with
        resetting := false, lastSave := 0, h := 0, tripRun := [0, 0, 0, 0], hotRun := 0, holdover := false
        bypass := s.rdN .pwrState ≠ 3 }
    strong := s.strong }

/-- The state that a module reset leaves, in its power state; the bypass opens in ON alone (R481). -/
def State.afterReset (s : State) : State :=
  let t := ((s.afterLoad.toPwr (s.rdN .pwrState)).applyFuses.wrN .resetCause 0 0 s.power.cause).sampleStraps
  (List.range 14).foldl (fun t p => t.reconfigPort false p) (t.wrN .refState 0 0 t.refChoice)

/-! ## Sag records (R468, R469) -/

/-- The CRC of a record, its own field taken as zero. -/
def recordCrc (r : List Byte) : Nat := crc32 (patch r 60 (zeros 4))

/-- A record is valid. -/
def recordValid (r : List Byte) : Bool := 64 ≤ r.length && leNat ((r.drop 60).take 4) = recordCrc r

/-- The last record: the newer valid one. -/
def State.lastRecord (s : State) : Option (List Byte) := s.strong.records.find? recordValid

/-- The last record is reported at power-up when it has not been (R469). -/
def State.reportSag (s : State) : State :=
  match s.lastRecord with
  | none => s
  | some r =>
    let seq := (wordAt r 0).toNat
    if seq ≤ s.rdN .srReported then s
    else
      let s := s.wrBytes .srSummary 0 0 (r.take 64)
      (s.pwrEvent 0x41 (seq % 2 ^ 32) 2).wr .srReported 0 0 (wordAt r 0)

/-- A module reset completes (R472): not while `REF_SELECT` 2 lacks its reference, nor, where it began with `PERST#` asserted, before the
deassertion (R494). -/
def State.resetDone (s : State) : State :=
  if !s.power.resetting || (s.rdN .refSelect = 2 && !s.power.refclk) || (s.power.perstHold && s.power.perst) then s
  else
    let t := s.afterReset
    let t := if s.power.cause ≤ 4 then t.reportSag else t
    t.raise 0x4B none s.power.cause

/-- The section of a context (DESIGN CHOICE 44): its values as 64-bit words in the order of R468, then the trails omitted. -/
def State.ctxSection (s : State) (c : CtxId) : List Byte :=
  let x := s.ctx c
  let n (k : Nat) : W64 := BitVec.ofNat 64 k
  let step (p : Option Program) : List W64 :=
    match p with
    | none => [0, 0, 0]
    | some p => [p.step, p.seed, n p.mbCount]
  bytesOf ([n x.st.code, s.rd .ctxStep c.val] ++ step x.prog ++ step x.succ ++
    [s.rd .updDigest c.val, s.rd .paceLag c.val, s.readObj .paceSlot c.val 0, s.rd .logPa c.val, s.rd .saveVa c.val,
     n ((s.trails.filter fun t => t.ctx == c).length - 1024)]) ++ zeros 144

/-- The cursor of a trail in the record (DESIGN CHOICE 44): address; step; `SEQ`, `MB` and `CUR_STATE` as in w1 of its header with
`SEGS`; `NEXT` and `NODES`. -/
def trailCursor (t : Trail) : List Byte :=
  bytesOf [BitVec.ofNat 64 t.va, t.step, t.hdr.getD 1 0,
    BitVec.ofNat 64 (bits 31 0 (t.hdr.getD 2 0) * 2 ^ 32 + bits 31 0 (t.hdr.getD 3 0))]

/-- The cursors of a context, 1,024 places. -/
def State.cursorSection (s : State) (c : CtxId) : List Byte :=
  let ts := ((s.trails.filter fun t => t.ctx == c).take 1024).flatMap trailCursor
  ts ++ zeros (1024 * 32 - ts.length)

/-- The log heads of a context, as last written (R383). -/
def State.headSection (s : State) (c : CtxId) : List Byte :=
  if s.rdN .logPa c.val = 0 then zeros (783 * 8) else s.bytesAt (s.rdN .logPa c.val) (783 * 8)

/-- The copies of an entry. -/
def ObjInfo.copies (x : ObjInfo) : List Nat :=
  match x.form with
  | .module => [0]
  | .ctx | .sub => List.range 16
  | .port => List.range 14
  | .page => []

/-- The bytes of a copy of an entry. -/
def State.objBytes (s : State) (o : Obj) (n : Nat) : List Byte := entryBytes (s.readObj o n) o.info 0 o.info.bytes

/-- The RW entries, each with index, subindex, length and value (DESIGN CHOICE 44). -/
def State.rwSection (s : State) : List Byte :=
  (objTable.filter fun r => r.2.acc = .rw).flatMap fun r => r.2.copies.flatMap fun n =>
    leBytes 2 (r.1.indexAt n) ++ leBytes 1 (if r.2.form = .sub then n else r.2.sub) ++ leBytes 2 r.2.bytes ++ s.objBytes r.1 n

/-- The counters of the 0xA000 range in index order (DESIGN CHOICE 44). -/
def State.counterSection (s : State) : List Byte :=
  (rangeFrom 0xA000 0x108).flatMap fun ix =>
    (objTable.filter fun r => r.2.index = ix && r.2.form ≠ .page && r.1 ≠ .eventNextSeq).flatMap fun r =>
      r.2.copies.flatMap fun n => s.objBytes r.1 n

/-- The sections of a record as the dies send them. -/
def State.collect (s : State) : List Byte :=
  let events := (s.events.drop (s.events.length - 64)).flatMap EventRec.bytes
  (allCtx.flatMap s.ctxSection) ++ (allCtx.flatMap s.cursorSection) ++ (allCtx.flatMap s.headSection) ++ s.rwSection ++
    s.counterSection ++ events ++ zeros (1024 - events.length)

/-- The record of the save in progress, closed after a number of SCLK cycles (R468). -/
def State.sagRecord (s : State) (cycles : Nat) : List Byte :=
  let w (n : Nat) : W64 := BitVec.ofNat 64 n
  let body := s.power.collected
  let gen := if s.strong.current then s.strong.genB else s.strong.genA
  let head := bytesOf
    [s.rd .sagSeq, s.power.saveTime,
     w ((64 + body.length) * 2 ^ 32 + s.power.saveCause * 2 ^ 24 + s.power.unprot.toNat * 2 ^ 16 + s.rdN .shxRank),
     w (gen.toNat * 2 ^ 32 + cycles), 0, 0, 0, 0]
  let r := head ++ body
  patch r 60 (leBytes 4 (recordCrc r))

/-! ## The save (R465) -/

/-- A save of a cause starts: the critical state is collected, and all work stops. A reset in progress ends with it. -/
def State.beginSave (s : State) (cause : Nat) : State :=
  if s.rdN .pwrState ≠ 3 then s
  else
    let s := s.count .sagSeq
    let body := s.collect
    let time := s.rd .globalTime
    let s := s.stopWork
    ({ s with power := { s.power with saveCause := cause, saveTime := time, collected := body, resetting := false } } : State).toPwr 4

/-- The save ends with a record, whole or torn, and power-down follows. -/
def State.endSave (s : State) (r : List Byte) : State :=
  if s.rdN .pwrState ≠ 4 then s
  else
    ({ s with
        strong := { s.strong with records := (r :: s.strong.records).take 2 }
        power := { s.power with lastSave := s.power.saveCause, collected := [] } } : State).powerDown

/-! ## The commands of power -/

/-- The interface identifier of the module: the modified EUI-64 of `MGMT_MAC`, its first octet most significant (R439). -/
def State.ownIid (s : State) : W64 :=
  let m := s.rdN .mgmtMac
  BitVec.ofNat 64 (Nat.xor (m / 2 ^ 24) 0x020000 * 2 ^ 40 + 0xFFFE * 2 ^ 24 + m % 2 ^ 24)

/-- `STANDBY_POWER`, with the straps as they then are: OFF to STANDBY; the dictionary is loaded, and the management controller comes up
and probes its address (R439). -/
def execStandbyPower (straps : BitVec 6) (s : State) : Host.Outcome State Fault Refusal :=
  let s := s.setPower { s.power with standby := true, straps := straps }
  if s.rdN .pwrState ≠ 0 then .next s
  else .next (s.loadDict.emit (.addressProbe s.loadDict.ownIid)).toStandby

/-- `STANDBY_LOST`: a module in STANDBY goes OFF; in a later state the loss shows when that state ends. -/
def execStandbyLost (s : State) : Host.Outcome State Fault Refusal :=
  let s := s.setPower { s.power with standby := false }
  if s.rdN .pwrState ≤ 1 then .next s.off else .next s

/-- `MAIN_INPUT_QUALIFIED`. -/
def execMainInputQualified (s : State) : Host.Outcome State Fault Refusal :=
  .next ({ s with power := { s.power with qualified := true } } : State).tryPower

/-- `HOLDUP_LOW` raised (R461). -/
def State.holdupLow (s : State) : State :=
  let s := s.pwrEvent 0x42 (s.rdN .holdupUf) 3
  { s with power := { s.power with unprot := true } }

/-- `HOLDUP_CHARGED`: the capacitance is measured when 50 V is reached, and power-up goes on to rail group 1. -/
def execHoldupCharged (micros : W32) (reached : Bool) (s : State) : Host.Outcome State Fault Refusal :=
  if s.rdN .pwrState = 0 then .next s
  else
    let s := if reached then s.wrN .holdupUf 0 0 (micros.toNat / 20) else s
    let s := if !reached || s.rdN .holdupUf < 1350 then s.holdupLow else s
    if s.rdN .pwrState = 2 && s.power.group = 0 then .next { s with power := { s.power with group := 1 } } else .next s

/-- The code of `RESET_CAUSE` at a power-up (R471). -/
def powerUpCause (lastSave : Nat) : Nat := if lastSave = 1 then 2 else if lastSave = 2 then 3 else if lastSave = 4 then 4 else 1

/-- `RAIL_GROUP_REGULATED`: the next group, or ON with a cold module reset. -/
def execRailGroupRegulated (g : Fin 5) (s : State) : Host.Outcome State Fault Refusal :=
  if s.rdN .pwrState ≠ 2 || g.val = 0 || g.val ≠ s.power.group then .next s
  else if g.val < 4 then .next { s with power := { s.power with group := g.val + 1 } }
  else .next ((s.toPwr 3).beginReset (powerUpCause s.power.lastSave) true)

/-- `PWR_FAULT`: power-up stops; it is tried again at most three times in a standby session. -/
def execPwrFault (g : Fin 5) (s : State) : Host.Outcome State Fault Refusal :=
  if s.rdN .pwrState ≠ 2 || g.val = 0 || g.val ≠ s.power.group then .next s
  else
    let s := s.pwrEvent 0x4C g.val 0
    let more := s.power.retries < 3
    .next ({ s with power := { s.power with retryWait := more, exhausted := !more } } : State).powerDown

/-- `PWR_RETRY_TIMER`. -/
def execPwrRetryTimer (s : State) : Host.Outcome State Fault Refusal :=
  if s.power.retryWait then
    .next ({ s with power := { s.power with retryWait := false, retries := s.power.retries + 1 } } : State).tryPower
  else .next s

/-- `SUPPLY_WARN`. -/
def execSupplyWarn (mv : W32) (s : State) : Host.Outcome State Fault Refusal :=
  if s.rdN .pwrState = 0 then .next s
  else
    let s := (s.wrN .inputMv 0 0 mv.toNat).count .supplyWarnCnt
    .next (s.pwrEvent 0x40 mv.toNat 0)

/-- `SAG`: a save of cause 1 from ON, power-down without one from POWERING. -/
def execSag (s : State) : Host.Outcome State Fault Refusal :=
  let s := s.setPower { s.power with qualified := false }
  if s.rdN .pwrState = 2 then .next s.powerDown else .next (s.beginSave 1)

/-- `SAG_GLITCH`. -/
def execSagGlitch (s : State) : Host.Outcome State Fault Refusal :=
  if s.rdN .pwrState = 0 then .next s else .next (s.tally .sagGlitchCnt 0 .pwrStatus 0 1)

/-- `OVERVOLTAGE`: a save of cause 4, with its latch; ignored while a save is in progress. -/
def execOvervoltage (mv : W32) (s : State) : Host.Outcome State Fault Refusal :=
  if s.rdN .pwrState ≠ 3 then .next s
  else
    let s := (s.wrN .inputMv 0 0 mv.toNat).raise 0x4D none mv.toNat
    .next (({ s with power := { s.power with overLatch := true } } : State).beginSave 4)

/-- `SAVE_DONE`: the record is closed. -/
def execSaveDone (cycles : W32) (s : State) : Host.Outcome State Fault Refusal := .next (s.endSave (s.sagRecord cycles.toNat))

/-- `SAVE_TIMEOUT`: the record stays torn, which no CRC matches. -/
def execSaveTimeout (s : State) : Host.Outcome State Fault Refusal := .next (s.endSave [])

/-! ## The thermal sample (R470) -/

/-- The junction temperatures of a sample. -/
def tjList (t : ThermalData) : List (BitVec 16) := [t.tj0, t.tj1, t.tj2, t.tj3]

/-- The readings of a sample. -/
def State.takeReadings (s : State) (t : ThermalData) : State :=
  let s := (tjList t).zipIdx.foldl (fun s e => s.wrN .tjMaxC 0 e.2 e.1.toNat) s
  let s := (s.wrN .coolantInC 0 0 t.coolant.toNat).wrN .inputMv 0 0 t.inMv.toNat
  ((s.wrN .inputMw 0 0 t.inMw.toNat).wrN .stbyMv 0 0 t.stbyMv.toNat).wrN .holdupMv 0 0 t.holdMv.toNat

/-- The throttle: h rises while a cause holds, and falls once both causes are clear by their margins. With both causes the event
names the temperature (DESIGN CHOICE 45). -/
def State.throttle (s : State) (t : ThermalData) : State :=
  let limit : Int := 10 * s.rdN .tjThrottleC
  let cap := 1000 * s.rdN .powerCap
  let hot := (tjList t).any fun x => limit ≤ x.toInt
  let heavy := cap < t.inMw.toNat
  let cool := ((tjList t).all fun x => x.toInt + 30 ≤ limit) && 100 * t.inMw.toNat ≤ 98 * cap
  let h := s.power.h
  let h' := if hot || heavy then min 7 (h + 1) else if cool then h - 1 else h
  let s := s.setPower { s.power with h := h' }
  if h = 0 && 0 < h' then s.pwrEvent 0x43 (if hot then 1 else 2) 4 else s

/-- The coolant: above 40 °C for 10,000 samples, one second. -/
def State.coolant (s : State) (t : ThermalData) : State :=
  let n := if 400 < t.coolant.toInt then s.power.hotRun + 1 else 0
  let s := s.setPower { s.power with hotRun := n }
  if n = 10000 then s.pwrEvent 0x45 t.coolant.toNat 5 else s

/-- The trip: a die at or above 105 °C for two samples. -/
def State.trip (s : State) (t : ThermalData) : State :=
  let runs := (tjList t).zipIdx.map fun e => if 1050 ≤ e.1.toInt then s.power.tripRun.getD e.2 0 + 1 else 0
  let s := s.setPower { s.power with tripRun := runs }
  match runs.findIdx? (2 ≤ ·) with
  | none => s
  | some d =>
    if s.rdN .pwrState ≠ 3 || s.power.tripLatch then s
    else
      let s := s.raise 0x44 none d
      ({ s with power := { s.power with tripLatch := true } } : State).beginSave 2

/-- `THERMAL_SAMPLE`: the readings while the controller has power, the throttle and the trip while the module is ON. -/
def execThermalSample (t : ThermalData) (s : State) : Host.Outcome State Fault Refusal :=
  if s.rdN .pwrState = 0 then .next s
  else
    let s := s.takeReadings t
    .next (((if s.running then s.throttle t else s).trip t).coolant t)

/-! ## Reset sources (R462, R471, R472) -/

/-- A latch may be cleared: every die at most at 85 °C, and the input at most at 60 V. -/
def State.latchClearable (s : State) : Bool :=
  ((List.range 4).all fun d => ((s.rd .tjMaxC 0 d).truncate 16 : BitVec 16).toInt ≤ 850) && s.rdN .inputMv ≤ 60000

/-- `MODULE_RESET` written: 1 warm, 2 cold; 2 clears a held latch instead (R462), in SAVING once power-down is over (R465). -/
def State.moduleReset (s : State) (v : Nat) : Status × State :=
  let w := s.power
  if v ≠ 1 && v ≠ 2 then (.range, s)
  else if v = 2 && (w.tripLatch || w.overLatch) then
    if !s.latchClearable then (.state, s)
    else if s.rdN .pwrState = 4 then (.ok, { s with power := { w with after := w.after.concat (9, true) } })
    else (.ok, s.clearLatches)
  else (.ok, { s with power := { w with asked := w.asked.concat (7 + v, decide (v = 2)) } })

/-- `MODULE_RESET_WARM`. -/
def execModuleResetWarm (s : State) : Host.Outcome State Fault Refusal := .next (settle (s.moduleReset 1))

/-- `MODULE_RESET_COLD`. -/
def execModuleResetCold (s : State) : Host.Outcome State Fault Refusal := .next (settle (s.moduleReset 2))

/-- `MODULE_RESET_DELAY`: the reset that was asked for first begins. -/
def execModuleResetDelay (s : State) : Host.Outcome State Fault Refusal :=
  match s.power.asked with
  | [] => .next s
  | e :: rest => .next (({ s with power := { s.power with asked := rest } } : State).startReset e.1 e.2)

/-- `WATCHDOG_EXPIRY`. -/
def execWatchdogExpiry (s : State) : Host.Outcome State Fault Refusal := .next (s.startReset 6 false)

/-- `PERST_ASSERT`: a warm reset; the endpoint is held. -/
def execPerstAssert (s : State) : Host.Outcome State Fault Refusal :=
  .next (({ s with power := { s.power with perst := true } } : State).startReset 7 false)

/-- `PERST_DEASSERT`. -/
def execPerstDeassert (s : State) : Host.Outcome State Fault Refusal := .next { s with power := { s.power with perst := false } }

/-- `PLL_UNLOCK`. -/
def execPllUnlock (s : State) : Host.Outcome State Fault Refusal :=
  if s.rdN .pwrState = 0 then .next s else .next ((s.raise 0x47 none 0).startReset 5 true)

/-- `MODULE_RESET_DONE`. -/
def execModuleResetDone (s : State) : Host.Outcome State Fault Refusal := .next s.resetDone

/-! ## The reference (R473, R475) -/

/-- `REF_LOST`: ROOT locked to the reference enters holdover. -/
def execRefLost (s : State) : Host.Outcome State Fault Refusal :=
  let v := s.rdN .refState
  let s := s.setPower { s.power with refclk := false }
  if v % 4 = 2 && !s.power.holdover && s.rdN .pwrState ≠ 0 then
    let s := s.setPower { s.power with holdover := true }
    .next ((s.wrN .refState 0 0 (2 + 8)).pwrEvent 0x46 0 6)
  else .next (s.wrN .refState 0 0 (v % 4 + v / 8 % 2 * 8))

/-- `REFCLK_PRESENT`. -/
def execRefclkPresent (s : State) : Host.Outcome State Fault Refusal :=
  let v := s.rdN .refState
  .next (({ s with power := { s.power with refclk := true } } : State).wrN .refState 0 0 (v % 4 + 4 + v / 8 % 2 * 8))

/-! ## Export and the store (R438, R469) -/

/-- `SR_EXPORT` written (R338, R469): the last record is copied to the enabled polder of kind 3. -/
def State.srExport (s : State) (v : Nat) : Status × State :=
  if v ≠ 1 then (.range, s)
  else
    match ((List.range 256).map s.polder).find? fun p => p.enable && p.kind = 3, s.lastRecord with
    | some p, some r =>
      if p.limit < p.base + r.length || !s.mgmtOk true p.base r.length then (.state, s) else (.ok, s.poke p.base r)
    | _, _ => (.state, s)

/-- `SR_EXPORT`. -/
def execSrExport (s : State) : Host.Outcome State Fault Refusal := .next (settle (s.srExport 1))

/-- `PERSIST_WRITE`: the persistent values stored as one record in the older copy; a failed read-back is retried once. -/
def execPersistWrite (readBack retry : Bool) (s : State) : Host.Outcome State Fault Refusal :=
  if !s.storing then .next s
  else if readBack || retry then
    let x := StoreCopy.closed (s.regs.filter fun e => codeClass e.1 = .persistent) (s.storeSeq + 1)
    .next (({ s with storing := false } : State).setOldCopy fun _ => x)
  else
    .next ((({ s with storing := false } : State).setOldCopy StoreCopy.torn).tally .persistFailCnt 0 .igcorStatus 0 5)

end Sys2Proof.Machine
end

