-- ==== Sys2Proof/Machine/Sync.lean ====
section
/-! DEFINITION. The sync chain: time, step marks, echoes and the emergency stop (R476–R483). -/

namespace Sys2Proof.Machine

/-! ## Frames and positions (R476, R477) -/

/-- The module heads its chain. -/
def State.isHead (s : State) : Bool := s.rdN .syncHead = 1

/-- The position of the module in its chain: 0 at the head. -/
def State.chainPos (s : State) : Nat := if s.isHead then 0 else s.rdN .syncPos

/-- A frame of the module's own: its type, its direction and bytes 3 to 10; none while the bypass is closed (R481). -/
def State.syncSend (s : State) (type : Nat) (down : Bool) (body : W64) : State :=
  if s.power.bypass then s else s.emit (.syncFrame down (syncBytes type s.chainPos body))

/-- A frame that is discarded for its CRC or a code violation. -/
def State.badFrame (s : State) : State := s.tally .syncCrcCnt 0 .pwrStatus 0 8

/-- A frame of a type on a pair: passed on as it is while the bypass is closed (R481), discarded and counted when it is bad, discarded when
it is of another type (R476); one on SYNC_DN_IN gives the position (R477). -/
def State.takeFrame (s : State) (type : Nat) (f : SyncFrame) (onDn : Bool) (act : State → State) : State :=
  if s.power.bypass then s.emit (.syncFrame onDn f.bytes)
  else if !frameGood f then s.badFrame
  else if frameType f ≠ type then s
  else if onDn then
    let s := { s with sync := { s.sync with lostDn := false } }
    act (if s.isHead then s else s.wrN .syncPos 0 0 (framePos f + 1))
  else act { s with sync := { s.sync with lostUp := false } }

/-- `SYNC_FRAME_DISCARD`. -/
def execSyncFrameDiscard (crcBad : Bool) (s : State) : Host.Outcome State Fault Refusal :=
  if crcBad && !s.power.bypass then .next s.badFrame else .next s

/-! ## Time (R478–R480) -/

/-- A `TIME` frame at a member: the first after a module reset sets the time, later ones discipline it; with `TIME_SOURCE` 1 the
chain does not. The receive time is taken at its SCLK edge. -/
def State.takeTime (s : State) (body : W64) : State :=
  if s.isHead || s.rdN .timeSource ≠ 0 then s
  else
    let delay := s.rdN .syncHopDelay
    if !s.sync.acquired then
      ({ s with sync := { s.sync with acquired := true } } : State).wr .globalTime 0 0 (body + BitVec.ofNat 64 (delay / 68))
    else s.discipline (-((s.rd .globalTime - body).toInt * 68 - delay)) (-1)

/-- `SYNC_TIME_FRAME`. -/
def execSyncTimeFrame (f : SyncFrame) (s : State) : Host.Outcome State Fault Refusal :=
  .next (s.takeFrame 1 f true fun s => s.takeTime (frameBody f))

/-- `SYNC_TIME_TIMER`: the head, and a member that has the chain's time, send `TIME`. -/
def execSyncTimeTimer (s : State) : Host.Outcome State Fault Refusal :=
  if !s.power.bypass && (s.isHead || (s.sync.acquired && s.rdN .timeSource = 0)) then
    .next (s.syncSend 1 true (s.rd .globalTime))
  else .next s

/-- `SYNC_ECHO_TIMER`: a member sends `ECHO_REQ` with the next sequence. -/
def execSyncEchoTimer (s : State) : Host.Outcome State Fault Refusal :=
  if s.isHead || s.power.bypass then .next s
  else
    let q := s.sync.echoSeq + 1
    .next (({ s with sync := { s.sync with echoSeq := q } } : State).syncSend 4 false (q.zeroExtend 64))

/-- `ECHO_REQ`: answered downstream with its sequence and the turnaround. -/
def execEchoReq (f : SyncFrame) (turnaround : W32) (s : State) : Host.Outcome State Fault Refusal :=
  .next (s.takeFrame 4 f false fun s =>
    s.syncSend 5 true (BitVec.ofNat 64 (turnaround.toNat * 2 ^ 8 + (frameBody f).toNat % 256)))

/-- `ECHO_RSP`: the delay of the upstream link, from the answer to the last request. -/
def execEchoRsp (f : SyncFrame) (t1 t4 : W64) (s : State) : Host.Outcome State Fault Refusal :=
  .next (s.takeFrame 5 f true fun s =>
    if (frameBody f).toNat % 256 ≠ s.sync.echoSeq.toNat then s
    else s.wrN .syncHopDelay 0 0 (((t4 - t1).toNat - bits 39 8 (frameBody f)) / 2))

/-- `SYNC_LOSS` of a pair: raised once until a valid frame comes. -/
def execSyncLoss (up : Bool) (s : State) : Host.Outcome State Fault Refusal :=
  if s.power.bypass || (if up then s.sync.lostUp else s.sync.lostDn) then .next s
  else
    let s := { s with sync := { s.sync with lostDn := s.sync.lostDn || !up, lostUp := s.sync.lostUp || up } }
    .next ((s.count .syncLossCnt).pwrEvent 0x49 up.toNat 8)

/-! ## Step marks (R482) -/

/-- A `STEP` frame at a member: recorded, sent on, and compared with context 0. -/
def State.takeStepMark (s : State) (step : W64) : State :=
  if s.isHead then s
  else
    let s := (s.wr .syncStep 0 0 step).syncSend 2 true step
    if s.rdN .ctxStep + s.rdN .syncStepLag < step.toNat && s.sync.lagStep ≠ some step then
      let s := { s with sync := { s.sync with lagStep := some step } }
      (s.count .stepLagCnt).pwrEvent 0x4A (step.toNat % 2 ^ 32) 9
    else s

/-- `SYNC_STEP_FRAME`. -/
def execSyncStepFrame (f : SyncFrame) (s : State) : Host.Outcome State Fault Refusal :=
  .next (s.takeFrame 2 f true fun s => s.takeStepMark (frameBody f))

/-! ## Emergency stop (R483) -/

/-- The stop is latched: every partition of every context stops, of those that are IDLE too, and it is raised. A module that has latched it already does nothing more. -/
def State.latchStop (s : State) (pos : BitVec 16) : State :=
  if s.sync.latched then s
  else
    let s := { s with sync := { s.sync with latched := true, estopPos := pos } }
    ((s.stopAll fun _ => true).count .estopCnt).pwrEvent 0x48 pos.toNat 7

/-- `ESTOP` received: latched, and one frame goes on with the origin's position. -/
def execEstop (f : SyncFrame) (onDn : Bool) (s : State) : Host.Outcome State Fault Refusal :=
  .next (s.takeFrame 3 f onDn fun s =>
    let pos : BitVec 16 := (frameBody f).truncate 16
    let s := { s with sync := { s.sync with estopAt := some s.now } }
    (s.latchStop pos).syncSend 3 onDn (pos.zeroExtend 64))

/-- The origin sends `ESTOP` on both outputs. -/
def State.sendStop (s : State) : State :=
  let body : W64 := s.sync.estopPos.zeroExtend 64
  (s.syncSend 3 true body).syncSend 3 false body

/-- An `ESTOP` frame has arrived in the last 100 µs. -/
def State.stopRecent (s : State) : Bool :=
  match s.sync.estopAt with
  | none => false
  | some t => s.now < t + 10000

/-- `ESTOP_CONTROL` written: 1 raises, 2 clears, which an `ESTOP` frame of the last 100 µs refuses. -/
def State.estopControl (s : State) (v : Nat) : Status × State :=
  if v = 1 then
    let s := s.latchStop (BitVec.ofNat 16 s.chainPos)
    (.ok, ({ s with sync := { s.sync with origin := true, estopPos := BitVec.ofNat 16 s.chainPos } } : State).sendStop)
  else if v = 2 then
    if s.stopRecent then (.state, s)
    else (.ok, { s with sync := { s.sync with latched := false, origin := false } })
  else (.range, s)

/-- `ESTOP_RAISE`. -/
def execEstopRaise (s : State) : Host.Outcome State Fault Refusal := .next (settle (s.estopControl 1))

/-- `ESTOP_CLEAR`. -/
def execEstopClear (s : State) : Host.Outcome State Fault Refusal := .next (settle (s.estopControl 2))

/-- `ESTOP_REPEAT`: the origin repeats its frame while its latch is held. -/
def execEstopRepeat (s : State) : Host.Outcome State Fault Refusal :=
  if s.sync.latched && s.sync.origin then .next s.sendStop else .next s

end Sys2Proof.Machine
end

