-- ==== Sys2Proof/Machine/Igcor.lean ====
section
/-! DEFINITION. The management controller: operations, who may ask for them, frames, the mailbox's side of them, and the segment
(R11, R40, R62, R234, R428, R434–R459). -/

namespace Sys2Proof.Machine

/-! ## Writes with behaviour of their own -/

/-- `CTX_CONTROL` written (R40, R62): other values than 1, 2 and 3 are refused. -/
def State.control (s : State) (c : CtxId) (v : Nat) : Status × State :=
  if v = 1 then s.preempt c
  else if v = 2 then s.resume c
  else if v = 3 then (.ok, s.resetCtx c true)
  else (.range, s.count .cmdRejectCnt c.val)

/-- What a write to an entry with an action does: `n` is its context or port. -/
def entryAction : Action := fun o n data s =>
  let c : CtxId := Fin.ofNat 16 n
  let v := leNat data
  match o with
  | .ctxControl => s.control c v
  | .faultResume => s.faultResume c (BitVec.ofNat 32 v)
  | .mmuInval => s.mmuInvalidate c (wordAt data 0).toNat (wordAt data 1).toNat
  | .laneDisable => s.laneDisable (Fin.ofNat 14 n) (BitVec.ofNat 8 v)
  | .domainApply => s.domStart (wordAt data 0) (wordAt data 1)
  | .fenceControl => s.fenceControl v
  | .restoreReq => s.restoreStart data
  | .provReq => s.provStart (BitVec.ofNat 32 v)
  | .moduleReset => s.moduleReset v
  | .srExport => s.srExport v
  | .estopControl => s.estopControl v
  | _ => (.ok, s)

/-! ## Operations (R436, R443, R457) -/

/-- An operation record of a request (R443). -/
structure IgOp where
  op    : Nat
  index : Nat
  sub   : Nat
  arg   : Nat
  off   : Nat
  len   : Nat
  data  : List Byte
deriving DecidableEq, Repr

/-- The management controller serves frames: in every power state but OFF (R499). -/
def State.mgmtUp (s : State) : Bool := s.rdN .pwrState ≠ 0

/-- The module presents its termination on the segment (R499). -/
def State.terminates (s : State) : Bool := s.mgmtUp && s.rdN .plcaNodeId = 0

/-- A function's mailbox can be reached: its function serves (R409). -/
def State.asks (s : State) (who : Requester) : Bool :=
  match who with
  | .segment _ => true
  | .mailbox f => s.fnServed f

/-- Operations that only read (R441). -/
def isReadOp (op : Nat) : Bool := op = 1 || op = 3 || op = 7 || op = 8

/-- Operations without an entry (R443). -/
def noIndex (op : Nat) : Bool := op = 4 || op = 5 || op = 6 || op = 8

/-- The scope byte of an operation's data. -/
def IgOp.scope (x : IgOp) : Nat := (x.data.getD 0 0).toNat

/-- What a virtual function's mailbox may read of the module section (R428, R442). -/
def vfModuleEntry (o : Obj) : Bool := o = .globalTime || o = .eventNextSeq || o = .stageState || o = .stageGen

/-- The requester may ask for an operation (R428, R441, R442). An absent or locked entry is no one's: it is answered as such. -/
def State.mayRun (s : State) (who : Requester) (x : IgOp) : Bool :=
  match who with
  | .segment iid =>
    let ws := (s.rdRange .mgmtWriters 0 0 8).filter (· ≠ 0)
    isReadOp x.op || ws.isEmpty || ws.contains iid
  | .mailbox f =>
    if f.val = 0 || x.op = 8 then true
    else if noIndex x.op then x.scope = f.val
    else
      match findEntry x.index x.sub with
      | .error _ => true
      | .ok (o, n) =>
        sectionOf o n = some f.val ||
          ((x.op = 1 || x.op = 7) && ((0x1000 ≤ x.index && x.index < 0x2000) || vfModuleEntry o))

/-- The records that `EVENT_READ` returns (R442, R457): from the wanted sequence, or the oldest held, onward. -/
def State.eventRead (s : State) (who : Requester) (first most : Nat) : List Byte :=
  let mine (e : EventRec) : Bool := match who with
    | .mailbox f => f.val = 0 || (!e.ofModule && e.ctx.toNat = f.val)
    | .segment _ => true
  let oldest := ((s.events.head?).map fun e => e.seq.toNat).getD (s.rdN .eventNextSeq)
  let from_ := max first oldest
  let es := ((s.events.filter fun e => mine e && from_ ≤ e.seq.toNat)).take most
  leBytes 8 (((es.head?).map fun e => e.seq.toNat).getD from_) ++ es.flatMap EventRec.bytes

/-- What an operation answers: its status, its data, the state, and whether the frame increments `STAGE_GEN` for it (R449). -/
structure OpResult where
  status  : Status
  data    : List Byte
  state   : State
  touched : Bool

/-- A refused write to `CTX_CONTROL` counted (R40, R436): what its action refuses, with `RANGE` or `STATE`, it has counted itself. -/
def State.countControl (s : State) (x : IgOp) (st : Status) : State :=
  if x.op = 2 && (st = .access || st = .type_) then
    match findEntry x.index x.sub with
    | .ok (.ctxControl, n) => s.count .cmdRejectCnt n
    | _ => s
  else s

/-- A `WRITE` (R436). -/
def State.opWrite (s : State) (x : IgOp) : OpResult :=
  let (st, t) := s.writeEntry entryAction x.index x.sub x.off x.data
  ⟨st, [], t, st = .ok && decide (t.staged ≠ s.staged)⟩

/-- What a read of the records of an `EVENT_READ` leaves: the events read are numbered for good (R456). -/
def State.opEventRead (s : State) (who : Requester) (x : IgOp) : OpResult :=
  if 1 ≤ x.arg && x.arg ≤ 64 then
    let s := s.sealEvents
    ⟨.ok, s.eventRead who (wordAt x.data 0).toNat x.arg, s, false⟩
  else ⟨.range, [], s, false⟩

/-- An operation, which the requester may ask for, executed (R436, R451–R454, R457). `want` is the generation that the frame expects,
`gen` the one it started with (R449), and `at_` the state that a `READ` reads: its own, or that of the edge of a `SNAP` frame (R445). -/
def State.runOp (s at_ : State) (who : Requester) (want gen : Nat) (x : IgOp) : OpResult :=
  if (x.op = 4 || x.op = 5 || x.op = 6) && want ≠ 0 && want ≠ gen then ⟨.stageChanged, [], s, false⟩
  else
    match x.op with
    | 1 => match at_.readEntry false x.index x.sub x.off x.len with
      | .ok d => ⟨.ok, d, s, false⟩
      | .error e => ⟨e, [], s, false⟩
    | 2 => s.opWrite x
    | 3 => match s.readEntry true x.index x.sub x.off x.len with
      | .ok d => ⟨.ok, d, s, false⟩
      | .error e => ⟨e, [], s, false⟩
    | 4 =>
      let (st, d, t) := s.opCheck gen x.scope
      ⟨st, d, t, false⟩
    | 5 =>
      let (st, d, t) := s.opApply gen x.scope (x.data.getD 1 0).toNat (wordAt x.data 1)
      ⟨st, d, t, st = .ok⟩
    | 6 =>
      let (st, t) := s.opDiscard x.scope
      ⟨st, [], t, st = .ok && decide (t.staged ≠ s.staged)⟩
    | 7 => match findEntry x.index x.sub with
      | .ok (o, _) => ⟨.ok, o.info.describe, s, false⟩
      | .error e => ⟨e, [], s, false⟩
    | _ => s.opEventRead who x

/-- One record of a frame: refused to a requester who may not ask for it; a refusal is counted (R436). -/
def State.runRecord (s at_ : State) (who : Requester) (want gen : Nat) (x : IgOp) : OpResult :=
  let r := if s.mayRun who x then s.runOp at_ who want gen x else ⟨.access, [], s, false⟩
  { r with state := (settle (r.status, r.state)).countControl x r.status }

/-- The records of a frame in order: the first that is not `OK` ends it (R445). Each answers its status and its data. The reads of a
`SNAP` frame are of the edge on which it starts (DESIGN CHOICE 161). -/
def State.runRecords (s : State) (snap : Option State) (who : Requester) (want gen : Nat) :
    List IgOp → State × List (IgOp × Status × List Byte) × Bool
  | [] => (s, [], false)
  | x :: rest =>
    let r := s.runRecord (snap.getD s) who want gen x
    if r.status = .ok then
      let (t, out, touched) := State.runRecords r.state snap who want gen rest
      (t, (x, r.status, r.data) :: out, touched || r.touched)
    else (r.state, (x, r.status, r.data) :: rest.map fun y => (y, .notRun, []), r.touched)

/-- A frame's records executed, with its count and its generation (R449, R458). -/
def State.runFrame (s : State) (snap : Bool) (who : Requester) (want : Nat) (xs : List IgOp) :
    State × List (IgOp × Status × List Byte) :=
  let (t, out, touched) := s.runRecords (if snap then some s else none) who want (s.rdN .stageGen) xs
  let t := if touched then t.bumpGen else t
  (t.count .igcorRxCnt, out)

/-! ## Frames (R443–R447) -/

/-- The records of a frame from the bytes after its header; none where one is malformed. -/
def parseOps : Nat → List Byte → Option (List IgOp)
  | 0, bs => if bs.isEmpty then some [] else none
  | n + 1, bs =>
    let w0 := wordAt bs 0
    let w1 := wordAt bs 1
    let op := bits 7 0 w0
    let len := bits 47 32 w0
    let has := if op = 1 || op = 3 || op = 7 then 0 else len
    let padded := (has + 7) / 8 * 8
    let ok := 16 + padded ≤ bs.length && bits 63 48 w0 = 0 && 1 ≤ op && op ≤ 8 &&
      (!noIndex op || len = if op = 5 then 16 else 8)
    if ok then
      (parseOps n (bs.drop (16 + padded))).map fun r =>
        { op := op, index := bits 31 16 w0, sub := bits 15 8 w0, arg := bits 63 32 w1, off := bits 31 0 w1, len := len,
          data := (bs.drop 16).take has } :: r
    else none

/-- A request's records, when its header and they are well formed and it is within the limit (R443, R447). -/
def parseFrame (limit : Nat) (bs : List Byte) : Option (List IgOp) :=
  let w0 := wordAt bs 0
  let w1 := wordAt bs 1
  let n := bits 47 32 w0
  if 16 ≤ bs.length && bs.length ≤ limit && bits 63 48 w0 = bs.length && 1 ≤ n && n ≤ 64 && bits 15 0 w0 = 1 && bits 63 41 w1 = 0
  then parseOps n (bs.drop 16) else none

/-- The most bytes that a record of a response can take (R447). -/
def IgOp.answerBytes (x : IgOp) : Nat :=
  let d := if x.op = 1 || x.op = 3 then (if x.len ≤ 1024 then x.len else 0)
    else if x.op = 4 || x.op = 5 || x.op = 7 then 16
    else if x.op = 8 then (if x.arg ≤ 64 then 8 + 16 * x.arg else 0)
    else 0
  16 + (d + 7) / 8 * 8

/-- The frame is too large to answer (R445, R447). -/
def tooLarge (limit : Nat) (snap : Bool) (xs : List IgOp) : Bool :=
  limit < 16 + (xs.map IgOp.answerBytes).sum || (snap && 1024 < ((xs.filter (·.op = 1)).map (·.len)).sum)

/-- A response (R443). -/
def State.response (s : State) (reqId fstatus : Nat) (out : List (IgOp × Status × List Byte)) : List Byte :=
  let body := out.flatMap fun (x, st, d) => igcorRecord st.code d.length x.index x.sub x.op x.arg x.off d
  igcorHeader (16 + body.length) out.length reqId 1 fstatus (s.rdN .stageGen) ++ body

/-- A frame executed: the state and its response (R443–R447). -/
def State.frame (s : State) (who : Requester) (bs : List Byte) : State × List Byte :=
  let limit := match who with
    | .segment _ => 1448
    | .mailbox _ => 2048
  let reqId := bits 31 16 (wordAt bs 0)
  let w1 := wordAt bs 1
  match parseFrame limit bs with
  | none =>
    let s := s.tally .igcorDropCnt 0 .igcorStatus 0 1
    (s, s.response reqId 0x0B [])
  | some xs =>
    if tooLarge limit (bit 40 w1) xs then
      let s := s.tally .igcorRefuseCnt 0 .igcorStatus 0 2
      (s, s.response reqId 0x09 [])
    else
      let (t, out) := s.runFrame (bit 40 w1) who (bits 31 0 w1) xs
      (t, t.response reqId 0 out)

/-! ## The segment (R439, R446) -/

/-- A datagram that is discarded. -/
def State.dropDatagram (s : State) : State := s.tally .igcorDropCnt 0 .igcorStatus 0 1

/-- The response kept for a source: its last 16 (R446). -/
def keepResponse (ks : List Kept) (k : Kept) : List Kept :=
  let mine := (ks.filter fun e => e.iid = k.iid).concat k
  (ks.filter fun e => e.iid ≠ k.iid) ++ mine.drop (mine.length - 16)

/-- A frame holds an operation other than a read. -/
def hasWrite (bs : List Byte) : Bool :=
  match parseFrame 1448 bs with
  | some xs => xs.any fun x => !isReadOp x.op
  | none => false

/-- Every operation of a frame is `READ` or `DESCRIBE` (R439). -/
def readsOnly (bs : List Byte) : Bool :=
  match parseFrame 1448 bs with
  | some xs => xs.all fun x => x.op = 1 || x.op = 7
  | none => false

/-- A segment frame: a duplicate is answered from what is kept, another is executed and answered. -/
def State.segmentFrame (s : State) (iid : W64) (port : BitVec 16) (bs : List Byte) : State :=
  let reqId : BitVec 16 := BitVec.ofNat 16 (bits 31 16 (wordAt bs 0))
  match s.mgmt.kept.find? fun k => k.iid = iid && k.reqId = reqId with
  | some k => (s.count .igcorDupCnt).emit (.datagram iid port k.resp)
  | none =>
    let (t, r) := s.frame (.segment iid) bs
    let t := if hasWrite bs then { t with mgmt := { t.mgmt with kept := keepResponse t.mgmt.kept ⟨iid, reqId, r⟩ } } else t
    t.emit (.datagram iid port r)

/-! ## The mailbox (R428) -/

/-- The response of a mailbox: `BUSY` falls, `DONE` rises, and vector 3 is raised. -/
def State.mailboxAnswer (s : State) (f : CtxId) (r : List Byte) : State :=
  let s := (s.wrBytes .mbxResp f.val 0 r).wrN .mbxRespLen f.val 0 r.length
  let s := s.wrN .mbxCtrl f.val 0 (2 ^ 29 + bits 11 0 (s.rd .mbxCtrl f.val))
  s.interrupt f 3

/-- The request of a mailbox that is busy. -/
def State.mailboxFrame (s : State) (f : CtxId) : State :=
  let v := s.rd .mbxCtrl f.val
  if !bit 30 v then s
  else
    let (t, r) := s.frame (.mailbox f) (s.rdBytes .mbxReq f.val 0 (((s.mgmt.asked.find? fun e => e.1 = f).map (·.2)).getD 0))
    t.mailboxAnswer f r

/-- `IGCOR_FRAME`: a frame of the segment with its bytes, or the request that stands in a mailbox. -/
def execIgcorFrame (src : FrameFrom) (bytes : List Byte) (s : State) : Host.Outcome State Fault Refusal :=
  if !s.mgmtUp || !s.asks src.who then .next s
  else
    match src.who with
    | .mailbox f => .next (s.mailboxFrame f)
    | .segment iid =>
      if !src.transportOk || (src.multicast && !readsOnly bytes) then .next s.dropDatagram
      else .next (s.segmentFrame iid src.port bytes)

/-! ## Single operations -/

/-- An operation as a frame of its own: what it answers. -/
def State.single (s : State) (who : Requester) (want : Nat) (x : IgOp) : State :=
  if !s.mgmtUp || !s.asks who then s
  else
    let (t, out) := s.runFrame false who want [x]
    out.foldl (fun t r => t.emit (.answer (BitVec.ofNat 8 r.2.1.code) r.2.2)) t

/-- `READ`. -/
def execRead (who : Requester) (index : BitVec 16) (sub : Byte) (off : W32) (len : BitVec 16) (s : State) :
    Host.Outcome State Fault Refusal :=
  .next (s.single who 0 ⟨1, index.toNat, sub.toNat, 0, off.toNat, len.toNat, []⟩)

/-- `WRITE`. -/
def execWrite (who : Requester) (index : BitVec 16) (sub : Byte) (off : W32) (data : List Byte) (s : State) :
    Host.Outcome State Fault Refusal :=
  .next (s.single who 0 ⟨2, index.toNat, sub.toNat, 0, off.toNat, data.length, data⟩)

/-- `READ_STAGED`. -/
def execReadStaged (who : Requester) (index : BitVec 16) (sub : Byte) (off : W32) (len : BitVec 16) (s : State) :
    Host.Outcome State Fault Refusal :=
  .next (s.single who 0 ⟨3, index.toNat, sub.toNat, 0, off.toNat, len.toNat, []⟩)

/-- `CHECK`. -/
def execCheck (who : Requester) (gen : W32) (scope : Byte) (s : State) : Host.Outcome State Fault Refusal :=
  .next (s.single who gen.toNat ⟨4, 0, 0, 0, 0, 8, scope :: zeros 7⟩)

/-- `APPLY`. -/
def execApply (who : Requester) (gen : W32) (scope form : Byte) (arg : W64) (s : State) : Host.Outcome State Fault Refusal :=
  .next (s.single who gen.toNat ⟨5, 0, 0, 0, 0, 16, scope :: form :: zeros 6 ++ leBytes 8 arg.toNat⟩)

/-- `DISCARD`. -/
def execDiscard (who : Requester) (gen : W32) (scope : Byte) (s : State) : Host.Outcome State Fault Refusal :=
  .next (s.single who gen.toNat ⟨6, 0, 0, 0, 0, 8, scope :: zeros 7⟩)

/-- `DESCRIBE`. -/
def execDescribe (who : Requester) (index : BitVec 16) (sub : Byte) (s : State) : Host.Outcome State Fault Refusal :=
  .next (s.single who 0 ⟨7, index.toNat, sub.toNat, 0, 0, 0, []⟩)

/-- `EVENT_READ`. -/
def execEventRead (who : Requester) (first : W64) (most : W32) (s : State) : Host.Outcome State Fault Refusal :=
  .next (s.single who 0 ⟨8, 0, 0, most.toNat, 0, 8, leBytes 8 first.toNat⟩)

/-- `ARMED_APPLY_INSTANT`. -/
def execArmedApplyInstant (s : State) : Host.Outcome State Fault Refusal := .next s.fireTime

/-! ## Neighbour traffic (R439, R458) -/

/-- `NEIGHBOR_SOLICITATION` for the module's address. -/
def execNeighborSolicitation (src target : W64) (s : State) : Host.Outcome State Fault Refusal :=
  if s.rdN .pwrState ≠ 0 && target = s.ownIid then .next (s.emit (.advert src)) else .next s

/-- `ICMPV6_ECHO`. -/
def execIcmpv6Echo (src : W64) (data : List Byte) (s : State) : Host.Outcome State Fault Refusal :=
  if s.rdN .pwrState ≠ 0 then .next (s.emit (.echoReply src data)) else .next s

end Sys2Proof.Machine
end

