-- ==== Sys2Proof/Machine/Host.lean ====
section
/-! DEFINITION. The host interface: context pages, doorbells, the window, the portal aperture and its tunnels, interrupts, and the
resets of PCI Express (R379, R408–R433). -/

namespace Sys2Proof.Machine

/-! ## Configuration space (R408) -/

/-- The identity of a function in configuration space. -/
structure FnIdentity where
  vendor    : Nat
  device    : Nat
  class_    : Nat
  subVendor : Nat
  subDevice : Nat
  /-- The function number under ARI: the physical function's plus First VF Offset 1 and VF Stride 1 for each virtual one. -/
  routing   : Nat
deriving DecidableEq, Repr

/-- The identity of function f. -/
def fnIdentity (f : CtxId) : FnIdentity :=
  let device := if f.val = 0 then 0x7401 else 0x7402
  { vendor := 0x1F3E, device := device, class_ := 0x120000, subVendor := 0x1F3E, subDevice := device
    routing := if f.val = 0 then 0 else 1 + 1 * (f.val - 1) }

/-- What configuration space can hold (R408): payload to 512 bytes, read requests to 4,096, completion timeout ranges A to D with the
default 50 µs to 50 ms, code 0. -/
def PcieCfg.legal (x : PcieCfg) : Bool :=
  [128, 256, 512].contains x.mps && [128, 256, 512, 1024, 2048, 4096].contains x.mrrs &&
    [0, 1, 2, 5, 6, 9, 10, 13, 14].contains x.cto.toNat

/-- Function f may make requests: it is enabled and its bus mastering is on (R426). -/
def State.masters (s : State) (f : CtxId) : Bool := s.fnOn f && !s.pcie.busOff.getLsbD f.val

/-- The PCI Express link has power: in STANDBY for configuration space, in POWERING and ON (R432, R462). -/
def State.linkPowered (s : State) : Bool :=
  s.rdN .pwrState ≠ 0 && s.rdN .pwrState ≠ 4 && !s.power.perst && !s.power.resetting

/-- The endpoint serves the BARs of a function (R409, R462, R472). -/
def State.endpoint (s : State) (f : CtxId) : Bool := s.running && !s.power.perst && s.fnOn f

/-- The module runs on standby alone: the endpoint serves configuration space and the mailbox (R462, DEDUCED 162). -/
def State.configOnly (s : State) (f : CtxId) : Bool := s.rdN .pwrState = 1 && s.linkPowered && s.fnOn f

/-- A read of a BAR that no endpoint serves: Unsupported Request in STANDBY (R462), no answer where there is no endpoint. -/
def State.noBar (s : State) (f : CtxId) : State := if s.configOnly f then s.emit (.unsupported f) else s

/-- A failed window or aperture access (R411, R415, R425). -/
def State.winErr (s : State) (f : CtxId) : State := s.tally .winErrCnt f.val .hostCtxStatus f.val 2

/-- All ones. -/
def allOnes (n : Nat) : List Byte := List.replicate n 0xFF

/-! ## Interrupts (R422, R423) -/

/-- A pending message of a vector sent, when nothing masks it. -/
def State.sendPending (s : State) (f : CtxId) (vec : Nat) : State :=
  let w := s.rd .msixPba f.val (vec / 64)
  if bit (vec % 64) w && !bit 0 (s.rd .msixTable f.val (4 * vec + 3)) && s.fnOn f then
    (s.wr .msixPba f.val (vec / 64) (withBit w (vec % 64) false)).msixSend f vec
  else s

/-- `IRQ_HOLDOFF_EXPIRY`: one message for the causes that came within the holdoff. -/
def execIrqHoldoffExpiry (f : CtxId) (vec : Byte) (s : State) : Host.Outcome State Fault Refusal :=
  let key := 256 * f.val + vec.toNat
  if s.msiHeld.contains key then
    .next (({ s with msiHeld := s.msiHeld.filter (· ≠ key) } : State).msixSend f vec.toNat)
  else .next s

/-- The mask bit of a vector cleared. -/
def State.unmask (s : State) (f : CtxId) (vec : Nat) : State :=
  (s.wr .msixTable f.val (4 * vec + 3) 0).sendPending f vec

/-- `MSIX_UNMASK`. -/
def execMsixUnmask (f : CtxId) (vec : Byte) (s : State) : Host.Outcome State Fault Refusal :=
  if !s.endpoint f then .next s
  else if s.isMemberMode then .next (s.winErr f)
  else .next (s.unmask f vec.toNat)

/-- `VF_ENABLE` (R409, R421): waiting records and pending messages follow. -/
def execVfEnable (f : CtxId) (s : State) : Host.Outcome State Fault Refusal :=
  if f.val = 0 then .next s
  else
    let s := ({ s with vfs := s.vfs ||| BitVec.ofNat 16 (2 ^ f.val) } : State).drainRecs f
    .next (((List.range 256).foldl (fun s v => s.sendPending f v) s).fetchMore f)

/-! ## The context page (R412, R413, R428) -/

/-- The registers of a context page below the mailbox: offset, bytes and entry. -/
def pageMap : List (Nat × Nat × Obj) :=
  [(0x0000, 4, .sqTail), (0x0004, 4, .cqHead), (0x0008, 4, .ctxControl), (0x0100, 8, .sqBase), (0x0108, 4, .sqCfg),
   (0x0110, 8, .cqBase), (0x0118, 4, .cqCfg), (0x0120, 4, .sqHead), (0x0124, 4, .cqTail), (0x0128, 8, .winBase),
   (0x0130, 4, .irqHoldoff), (0x0134, 4, .eventMask), (0x0138, 4, .hostCtxStatus), (0x0140, 4, .mbxCtrl),
   (0x0144, 4, .mbxRespLen)]

/-- What a read of a page register returns; a write-only one reads 0. -/
def State.pageValue (s : State) (f : CtxId) (o : Obj) : Nat :=
  if o.info.acc = .wo then 0 else (s.readObj o f.val 0).toNat

/-- A byte of a context page; reserved offsets read 0. -/
def State.pageByte (s : State) (f : CtxId) (off : Nat) : Byte :=
  if 0x1000 ≤ off && off < 0x1800 then (s.rd .mbxReq f.val (off - 0x1000)).truncate 8
  else if 0x1800 ≤ off && off < 0x2000 then (s.rd .mbxResp f.val (off - 0x1800)).truncate 8
  else if 0x8000 ≤ off && off < 0x9000 then BitVec.ofNat 8 (s.rdN .msixTable f.val ((off - 0x8000) / 4) / 256 ^ (off % 4))
  else if 0x9000 ≤ off && off < 0x9020 then BitVec.ofNat 8 (s.rdN .msixPba f.val ((off - 0x9000) / 8) / 256 ^ (off % 8))
  else
    match pageMap.find? fun r => r.1 ≤ off && off < r.1 + r.2.1 with
    | some (at_, _, o) => BitVec.ofNat 8 (s.pageValue f o / 256 ^ (off - at_))
    | none => 0

/-- A read of a context page. -/
def State.pageRead (s : State) (f : CtxId) (off len : Nat) : List Byte := (rangeFrom off len).map (s.pageByte f)

/-- `GO` written: the request is submitted with the length it has then (DESIGN CHOICE 98), or ignored while the mailbox is busy or without
a length (R428). -/
def State.mailboxGo (s : State) (f : CtxId) : State :=
  let v := s.rd .mbxCtrl f.val
  if bit 30 v || bits 11 0 v = 0 then s.doorbellErr f
  else
    let s := { s with mgmt := { s.mgmt with asked := (s.mgmt.asked.filter fun (e : CtxId × Nat) => e.1 ≠ f) ++ [(f, bits 11 0 v)] } }
    s.wr .mbxCtrl f.val 0 (withBit v 30 true)

/-- `MBX_CTRL` written: `DONE` cleared by a 1, `REQ_LEN`, `GO`. -/
def State.writeMbxCtrl (s : State) (f : CtxId) (v : Nat) : State :=
  let w : W64 := BitVec.ofNat 64 v
  let old := s.rd .mbxCtrl f.val
  let done := bit 29 old && !bit 29 w
  let s := s.wrN .mbxCtrl f.val 0 ((bit 30 old).toNat * 2 ^ 30 + done.toNat * 2 ^ 29 + bits 11 0 w)
  if bit 31 w then s.mailboxGo f else s

/-- A ring base written (R412, R413). -/
def State.writeBase (s : State) (f : CtxId) (base cfg : Obj) (v : Nat) : State :=
  if bit 31 (s.rd cfg f.val) then s.doorbellErr f else s.wrN base f.val 0 (v / 4096 * 4096)

/-- A page register written with a whole value. -/
def State.writePageReg (s : State) (f : CtxId) (o : Obj) (v : Nat) : State :=
  match o with
  | .sqTail => s.writeSqTail f (BitVec.ofNat 32 v)
  | .cqHead => s.writeCqHead f (BitVec.ofNat 32 v)
  | .ctxControl => (s.control f (v % 256)).2
  | .sqBase => s.writeBase f .sqBase .sqCfg v
  | .cqBase => s.writeBase f .cqBase .cqCfg v
  | .sqCfg => (s.writeSqCfg f (BitVec.ofNat 32 v)).fetchMore f
  | .cqCfg => s.writeCqCfg f (BitVec.ofNat 32 v)
  | .winBase => s.wrN .winBase f.val 0 (v / 2 ^ 34 % 2 ^ 14 * 2 ^ 34)
  | .irqHoldoff => s.wrN .irqHoldoff f.val 0 (v % 65536)
  | .eventMask => s.wr .eventMask f.val 0 (BitVec.ofNat 64 v &&& 0x1F3FFF)
  | .hostCtxStatus => s.clearFlags .hostCtxStatus f.val (BitVec.ofNat 64 v)
  | .mbxCtrl => s.writeMbxCtrl f v
  | _ => s

/-- What stands in the bytes of a register that a narrower write does not cover: nothing of the fields that a written 1 acts on. -/
def State.underWrite (s : State) (f : CtxId) (o : Obj) : Nat :=
  match o with
  | .sqTail => (s.ctx f).sqTail.toNat
  | .cqHead => (s.ctx f).cqHead.toNat
  | .ctxControl | .hostCtxStatus => 0
  | .mbxCtrl => bits 11 0 (s.rd .mbxCtrl f.val)
  | o => s.rdN o f.val

/-- The part of a write at an offset that falls on a register of some bytes at another: its place in the register and its
bytes. -/
def overlap (off : Nat) (data : List Byte) (at_ width : Nat) : Option (Nat × List Byte) :=
  let lo := max off at_
  let hi := min (off + data.length) (at_ + width)
  if lo < hi then some (lo - at_, (data.drop (lo - off)).take (hi - lo)) else none

/-- One register's part of a write to a context page. `CTX_CONTROL` acts on its low byte alone. -/
def State.writePart (s : State) (f : CtxId) (off : Nat) (data : List Byte) (r : Nat × Nat × Obj) : State :=
  match overlap off data r.1 r.2.1 with
  | none => s
  | some (k, bs) =>
    if r.2.2 = .ctxControl && k ≠ 0 then s
    else s.writePageReg f r.2.2 (leNat (patch (leBytes r.2.1 (s.underWrite f r.2.2)) k bs))

/-- A word of the MSI-X table written (R422): a vector unmasked sends its pending message. -/
def State.writeMsix (s : State) (f : CtxId) (i : Nat) (off : Nat) (data : List Byte) : State :=
  match overlap off data (0x8000 + 4 * i) 4 with
  | none => s
  | some (k, bs) =>
    let v := leNat (patch (leBytes 4 (s.rdN .msixTable f.val i)) k bs)
    if i % 4 = 3 then (s.wrN .msixTable f.val i (v % 2)).sendPending f (i / 4) else s.wrN .msixTable f.val i v

/-- A write to a context page, split at register boundaries (R412). A write to `MBX_REQ` of a busy mailbox is discarded (R428). -/
def State.pageWrite (s : State) (f : CtxId) (off : Nat) (data : List Byte) : State :=
  let s := pageMap.foldl (fun s r => s.writePart f off data r) s
  let s := match overlap off data 0x1000 2048 with
    | none => s
    | some (k, bs) => if bit 30 (s.rd .mbxCtrl f.val) then s else s.wrBytes .mbxReq f.val k bs
  match overlap off data 0x8000 4096 with
  | none => s
  | some (k, bs) => (rangeFrom (k / 4) (bs.length / 4 + 2)).foldl (fun s i => if i < 1024 then s.writeMsix f i off data else s) s

/-- A page offset of the mailbox (R412). -/
def isMailbox (off : Nat) : Bool := off / 8 = 0x28 || (0x1000 ≤ off && off < 0x2000)

/-- A page offset that a member's own endpoint serves: the mailbox of the physical function (R426). -/
def ownMailbox (f : CtxId) (off : Nat) : Bool := f.val = 0 && isMailbox off

/-- A host write to BAR0 of a function; a member's own endpoint serves its mailbox alone (R426), and so does an endpoint in STANDBY. -/
def State.hostPageWrite (s : State) (f : CtxId) (off : Nat) (data : List Byte) : State :=
  if !s.endpoint f then
    if s.configOnly f && isMailbox off && (!s.isMemberMode || f.val = 0) then s.pageWrite f off data else s
  else if s.isMemberMode && !ownMailbox f off then s.winErr f
  else s.pageWrite f off data

/-! ## The module page (R414) -/

/-- A byte of the module page of the physical function; reserved offsets read 0 (R411, R414). -/
def State.moduleByte (s : State) (off : Nat) : Byte :=
  if off < 4 then BitVec.ofNat 8 ((s.readObj .hostStatus 0 0).toNat / 256 ^ off)
  else if off < 8 then BitVec.ofNat 8 (s.rdN .hostLink / 256 ^ (off - 4))
  else if off < 12 then BitVec.ofNat 8 (s.rdN .pciIds / 256 ^ (off - 8))
  else if 16 ≤ off && off < 24 then BitVec.ofNat 8 (s.rdN .globalTime / 256 ^ (off - 16))
  else 0

/-- A read of the module page. -/
def State.moduleRead (s : State) (off len : Nat) : List Byte := (rangeFrom off len).map s.moduleByte

/-- A host write to the module page: `HOST_STATUS` alone is writable (R412, R414, R433). -/
def State.moduleWrite (s : State) (off : Nat) (data : List Byte) : State :=
  if !s.endpoint 0 then s
  else if s.isMemberMode then s.winErr 0
  else
    match overlap off data 0 4 with
    | none => s
    | some (k, bs) => s.clearFlags .hostStatus 0 (BitVec.ofNat 64 (leNat (patch (zeros 4) k bs)))

/-! ## Doorbells and the mailbox as commands -/

/-- `SQ_TAIL`. -/
def execSqTail (c : CtxId) (v : W32) (s : State) : Host.Outcome State Fault Refusal :=
  .next (s.hostPageWrite c 0 (leBytes 4 v.toNat))

/-- `CQ_HEAD`. -/
def execCqHead (c : CtxId) (v : W32) (s : State) : Host.Outcome State Fault Refusal :=
  .next (s.hostPageWrite c 4 (leBytes 4 v.toNat))

/-- `SQ_CFG`. -/
def execSqCfg (c : CtxId) (v : W32) (s : State) : Host.Outcome State Fault Refusal :=
  .next (s.hostPageWrite c 0x108 (leBytes 4 v.toNat))

/-- `CQ_CFG`. -/
def execCqCfg (c : CtxId) (v : W32) (s : State) : Host.Outcome State Fault Refusal :=
  .next (s.hostPageWrite c 0x118 (leBytes 4 v.toNat))

/-- `SUBMISSION_FETCH`. -/
def execSubmissionFetch (c : CtxId) (r : FetchResult) (s : State) : Host.Outcome State Fault Refusal := .next (s.fetched c r).kick

/-- `MAILBOX_GO`. -/
def execMailboxGo (f : CtxId) (s : State) : Host.Outcome State Fault Refusal :=
  if !s.endpoint f && !s.configOnly f then .next s
  else if s.isMemberMode && f.val ≠ 0 then .next (s.winErr f)
  else .next (s.mailboxGo f)

/-- `REGISTER_WRITE`: a range of bytes of a context page or of the module page, or an element of an entry (R11, R436). A staged write is a frame of its own
for `STAGE_GEN` (R449). -/
def execRegisterWrite (t : RegTarget) (v : W64) (s : State) : Host.Outcome State Fault Refusal :=
  match t with
  | .modulePage off width => .next (s.moduleWrite off.toNat (leBytes (min width 8) v.toNat))
  | .page f off width => .next (s.hostPageWrite f off.toNat (leBytes (min width 8) v.toNat))
  | .entry index sub elem =>
    if !s.mgmtUp then .next s
    else
      let size := match findEntry index.toNat sub.toNat with
        | .ok (o, _) => o.info.size
        | .error _ => 8
      let x : IgOp := ⟨2, index.toNat, sub.toNat, 0, size * elem, size, leBytes size v.toNat⟩
      let r := s.opWrite x
      let t := (settle (r.status, r.state)).countControl x r.status
      .next (if r.touched then t.bumpGen else t)

/-- `STATUS_ENTRY_WRITE` (R234). -/
def execStatusEntryWrite (index : BitVec 16) (sub : Byte) (v : W32) (s : State) : Host.Outcome State Fault Refusal :=
  match findEntry index.toNat sub.toNat with
  | .error _ => .next s
  | .ok (o, n) => if s.mgmtUp then .next (s.clearFlags o n (v.zeroExtend 64)) else .next s

/-! ## The host window (R415) -/

/-- A range cut at 64-byte lines. -/
def windowLines (va len : Nat) : Nat → List (Nat × Nat)
  | 0 => []
  | fuel + 1 =>
    if len = 0 then []
    else
      let n := min len (64 - va % 64)
      (va, n) :: windowLines (va + n) (len - n) fuel

/-- Lines of a window read: the bytes, or none from the line on that meets an uncorrectable word. -/
def State.readLines64 (s : State) (f : CtxId) : List (Nat × Nat) → Option (List Byte) × State
  | [] => (some [], s)
  | (va, n) :: rest =>
    match s.vread (.host f) va n with
    | .ok bs =>
      let (r, t) := State.readLines64 s f rest
      (r.map (bs ++ ·), t)
    | .error (.ue pa) => (none, (s.foundUe pa).winErr f)
    | .error (.walkUe pa) => (none, (s.foundUeIn 7 pa).winErr f)
    | .error _ =>
      let (r, t) := State.readLines64 (s.winErr f) f rest
      (r.map (allOnes n ++ ·), t)

/-- A read of the window at an offset. -/
def State.windowRead (s : State) (f : CtxId) (off len : Nat) : List Byte × State :=
  let va := s.rdN .winBase f.val + off
  let (r, t) := s.readLines64 f (windowLines va len (len / 64 + 2))
  (r.getD (allOnes len), t)

/-- Lines of a window write: those that fail are discarded. -/
def State.writeLines64 (s : State) (f : CtxId) : List (Nat × Nat) → List Byte → State
  | [], _ => s
  | (va, n) :: rest, bs =>
    let t := match s.vwrite (.host f) va (bs.take n) with
      | .ok t => t
      | .error (.ue pa) => (s.foundUe pa).winErr f
      | .error (.walkUe pa) => (s.foundUeIn 7 pa).winErr f
      | .error _ => s.winErr f
    State.writeLines64 t f rest (bs.drop n)

/-- A write of the window at an offset. -/
def State.windowWrite (s : State) (f : CtxId) (off : Nat) (data : List Byte) : State :=
  s.writeLines64 f (windowLines (s.rdN .winBase f.val + off) data.length (data.length / 64 + 2)) data

/-- `WINDOW_READ`. -/
def execWindowRead (f : CtxId) (off : BitVec 34) (len : Nat) (s : State) : Host.Outcome State Fault Refusal :=
  if !s.endpoint f then .next (s.noBar f)
  else if s.isMemberMode then .next ((s.winErr f).emit (.hostData f (allOnes len)))
  else
    let (bs, t) := s.windowRead f off.toNat len
    .next (t.emit (.hostData f bs))

/-- `WINDOW_WRITE`. -/
def execWindowWrite (f : CtxId) (off : BitVec 34) (data : List Byte) (s : State) : Host.Outcome State Fault Refusal :=
  if !s.endpoint f then .next s
  else if s.isMemberMode then .next (s.winErr f)
  else .next (s.windowWrite f off.toNat data)

/-! ## The portal aperture (R411, R425) -/

/-- A tunnelled write (R379): BAR and offset in `ARG`; the data is its length and the bytes (DESIGN CHOICE 14). -/
def State.tunnelWrite (s : State) (rank : Nat) (f : CtxId) (bar off : Nat) (data : List Byte) : State :=
  let (op, s) := s.nextOp
  s.send rank (mkPacket 0x50 f (BitVec.ofNat 64 (bar * 2 ^ 48 + off)) op (leBytes 8 data.length ++ data))

/-- A tunnelled read, whose length is its data (DESIGN CHOICE 14). -/
def State.tunnelRead (s : State) (rank : Nat) (f : CtxId) (bar off len : Nat) : State :=
  let (op, s) := s.nextOp
  let s := { s with fabric := { s.fabric with tunnels := s.fabric.tunnels.concat ⟨BitVec.ofNat 32 op, f, len, 0⟩ } }
  s.send rank (mkPacket 0x51 f (BitVec.ofNat 64 (bar * 2 ^ 48 + off)) op (leBytes 8 len))

/-- What an aperture offset reaches: member, BAR and offset. -/
def apertureAt (off : Nat) : Option (Nat × Nat × Nat) :=
  if off < 2 ^ 34 then some (off / 2 ^ 28, 2, off % 2 ^ 28)
  else if off < 2 ^ 34 + 64 * 65536 then some ((off - 2 ^ 34) / 65536, 0, off % 65536)
  else none

/-- An access elsewhere. -/
def State.elsewhere (s : State) (f : CtxId) : Access → State
  | .read len => (s.winErr f).emit (.hostData f (allOnes len))
  | .write _ => s.winErr f

/-- An access to the portal's own page or window. -/
def State.ownAccess (s : State) (f : CtxId) (bar off : Nat) : Access → State
  | .read len =>
    if bar = 2 then
      let (bs, t) := s.windowRead f off len
      t.emit (.hostData f bs)
    else s.emit (.hostData f (s.pageRead f off len))
  | .write data => if bar = 2 then s.windowWrite f off data else s.pageWrite f off data

/-- `APERTURE_ACCESS`. -/
def execApertureAccess (f : CtxId) (off : BitVec 35) (a : Access) (s : State) : Host.Outcome State Fault Refusal :=
  if !s.endpoint f then .next (match a with
    | .read _ => s.noBar f
    | .write _ => s)
  else if s.rdN .portalMode ≠ 1 then .next (s.elsewhere f a)
  else
    match apertureAt off.toNat with
    | none => .next (s.elsewhere f a)
    | some (i, bar, o) =>
      let w := s.rd .portalGroup 0 i
      if !bit 31 w then .next (s.elsewhere f a)
      else if i = 0 then .next (s.ownAccess f bar o a)
      else
        match a with
        | .read len => .next (s.tunnelRead (bits 15 0 w) f bar o len)
        | .write data => .next (s.tunnelWrite (bits 15 0 w) f bar o data)

/-! ## Tunnels (R379, R426) -/

/-- A tunnel packet that a member does not accept, or one that finds no portal or member here. -/
def State.tunnelReject (s : State) : State :=
  if s.isMemberMode then s.tally .tunnelRejectCnt 0 .hostStatus 0 1 else s.fabricDrop

/-- A member takes a packet of its portal. -/
def State.fromPortal (s : State) (k : Packet) (act : State → State) : State :=
  s.receive k fun s => if s.isMemberMode && k.srcRank = s.portalRank then act s else s.tunnelReject

/-- The index of a rank in the portal group. -/
def State.groupIndex (s : State) (rank : Nat) : Option Nat :=
  (s.rdRange .portalGroup 0 0 64).findIdx? fun w => bit 31 w && bits 15 0 w == rank

/-- The portal takes a packet of a group member, with its index. -/
def State.fromMember (s : State) (k : Packet) (act : State → Nat → State) : State :=
  s.receive k fun s =>
    match if s.rdN .portalMode = 1 then s.groupIndex k.srcRank else none with
    | some i => act s i
    | none => s.tunnelReject

/-- A completion: its data, or the error bit in `ARG` [63] (DESIGN CHOICE 14). -/
def State.complete (s : State) (k : Packet) (data : Option (List Byte)) : State :=
  s.send k.srcRank (mkPacket 0x52 k.ctx (if data.isSome then 0 else BitVec.ofNat 64 (2 ^ 63)) k.opSeq (data.getD []))

/-- `TUN_WR` at a member: a write to its page or window. -/
def execTunWr (k : Packet) (s : State) : Host.Outcome State Fault Refusal :=
  .next (s.fromPortal k fun s =>
    let data := (k.data.drop 8).take (wordAt k.data 0).toNat
    let off := bits 47 0 k.w2
    if bits 51 48 k.w2 = 2 then s.windowWrite k.ctx off data else s.pageWrite k.ctx off data)

/-- `TUN_RD` at a member: answered with `TUN_CPL`. -/
def execTunRd (k : Packet) (s : State) : Host.Outcome State Fault Refusal :=
  .next (s.fromPortal k fun s =>
    let len := min 4096 (wordAt k.data 0).toNat
    let off := bits 47 0 k.w2
    if bits 51 48 k.w2 = 2 then
      let (bs, t) := s.windowRead k.ctx off len
      t.complete k (some bs)
    else s.complete k (some (s.pageRead k.ctx off len)))

/-- A ring fetch's completion. -/
def fetchOf (data : Option (List Byte)) : FetchResult :=
  match data with
  | some bs => .entry (wordAt bs 0) (wordAt bs 1) (wordAt bs 2) (wordAt bs 3)
  | none => .error

/-- A read through a tunnel completes, or fails: a host read answers the host, a member's own read its ring or its `DMA`. -/
def State.endTunnel (s : State) (x : TunRead) (data : Option (List Byte)) : State :=
  let s := { s with fabric := { s.fabric with tunnels := s.fabric.tunnels.filter fun y => y.opSeq ≠ x.opSeq } }
  if x.kind = 0 then s.emit (.hostData x.f (((data.getD []).take x.len) ++ allOnes (x.len - (data.getD []).length)))
  else if x.kind = 1 then (s.fetched x.f (fetchOf data)).kick
  else (s.dmaData x.opSeq.toNat data).kick

/-- The read that an operation sequence names. -/
def State.tunnelOf (s : State) (op : Nat) : Option TunRead := s.fabric.tunnels.find? fun x => x.opSeq.toNat = op

/-- `TUN_CPL`: at the portal or at a member. An error for a member's write counts as a PCI Express error (DESIGN CHOICE 14). -/
def execTunCpl (k : Packet) (s : State) : Host.Outcome State Fault Refusal :=
  .next (s.receive k fun s =>
    let good := if s.isMemberMode then k.srcRank = s.portalRank else (s.groupIndex k.srcRank).isSome && s.rdN .portalMode = 1
    if !good then s.tunnelReject
    else
      let err := bit 63 k.w2
      match s.tunnelOf k.opSeq with
      | some x => s.endTunnel x (if err then none else some k.data)
      | none => if err && s.isMemberMode then s.hostError k.ctx else s)

/-- `TUN_DMA_RD` at the portal: a read on PCI Express from the member's function, and its completion. -/
def execTunDmaRd (k : Packet) (hostData : Option (List Byte)) (s : State) : Host.Outcome State Fault Refusal :=
  .next (s.fromMember k fun s _ =>
    let len := (wordAt k.data 0).toNat
    if !s.masters k.ctx then s.complete k none
    else
      let s := s.postReads k.ctx k.w2.toNat len
      s.complete k (hostData.bind fun d => if len ≤ d.length then some (d.take len) else none))

/-- `TUN_DMA_WR` at the portal: a write on PCI Express. -/
def execTunDmaWr (k : Packet) (s : State) : Host.Outcome State Fault Refusal :=
  .next (s.fromMember k fun s _ =>
    if s.masters k.ctx then s.postWrites k.ctx k.w2.toNat k.data else s.complete k none)

/-- `TUN_IRQ` at the portal: vector v of member i is its own vector 4i + v. -/
def execTunIrq (k : Packet) (s : State) : Host.Outcome State Fault Refusal :=
  .next (s.fromMember k fun s i =>
    if s.masters k.ctx then s.vector k.ctx (4 * i + bits 1 0 k.w2) else s.complete k none)

/-- `SHX_TUNNEL_TIMEOUT`: a host read completes with all ones and is counted; a member's own read fails. -/
def execShxTunnelTimeout (opSeq : W32) (s : State) : Host.Outcome State Fault Refusal :=
  match s.tunnelOf opSeq.toNat with
  | none => .next s
  | some x =>
    let s := if x.kind = 0 then s.tally .tunnelTimeoutCnt 0 .shxStatus 0 8 else s
    .next (s.endTunnel x none)

/-! ## Resets of PCI Express (R430, R432) -/

/-- The context page of a function at its reset values, with its rings disabled and its MSI-X state reset. -/
def State.resetPage (s : State) (f : CtxId) : State :=
  let mine (k : Nat) : Bool := regCopy k = f.val && ((regObj k).info.form = .page || regObj k = .hostCtxStatus)
  ({ s with
      regs := s.regs.filter fun e => !mine e.1
      msiLast := s.msiLast.filter fun e => e.1 / 256 ≠ f.val
      msiHeld := s.msiHeld.filter fun k => k / 256 ≠ f.val } : State).updCtx f fun x =>
    { x with sqTail := 0, cqHead := 0, fetching := false }

/-- What the portal writes to a member for the reset of a function, in order. -/
def State.tunnelReset (s : State) (f : CtxId) (i : Nat) : State :=
  let w := s.rd .portalGroup 0 i
  if i = 0 || !bit 31 w then s
  else
    let r := bits 15 0 w
    ((s.tunnelWrite r f 0 0x0008 (leBytes 4 3)).tunnelWrite r f 0 0x0108 (zeros 4)).tunnelWrite r f 0 0x0118 (zeros 4)

/-- A function level reset of one function. -/
def State.flrOne (s : State) (f : CtxId) : State :=
  let s := (s.resetCtx f false).resetPage f
  if s.rdN .portalMode = 1 then (List.range 64).foldl (fun s i => s.tunnelReset f i) s else s

/-- A function level reset; that of the physical function is one of every function, and disables the virtual ones. -/
def State.flr (s : State) (f : CtxId) : State :=
  if f.val = 0 then { allCtx.foldl State.flrOne s with vfs := 0 } else s.flrOne f

/-- `FLR`. -/
def execFlr (f : CtxId) (s : State) : Host.Outcome State Fault Refusal := if s.endpoint f then .next (s.flr f) else .next s

/-- `D3HOT_TO_D0` of a function, the physical one too: it alone is reset (R430). -/
def execD3hotToD0 (f : CtxId) (s : State) : Host.Outcome State Fault Refusal :=
  if s.endpoint f then .next (s.flrOne f) else .next s

/-- `HOT_RESET`, a disabled link, or a link down. -/
def execHotReset (s : State) : Host.Outcome State Fault Refusal :=
  if s.linkPowered then .next (((s.flr 0).wrN .hostLink 0 0 0).setFlag .hostStatus 0 0) else .next s

/-- `PCIE_LINK_UP`. -/
def execPcieLinkUp (width : Byte) (rate : BitVec 4) (s : State) : Host.Outcome State Fault Refusal :=
  if s.linkPowered then .next (s.wrN .hostLink 0 0 (width.toNat * 256 + rate.toNat)) else .next s

end Sys2Proof.Machine
end

