-- ==== Sys2Proof/Machine/Issue.lean ====
section
/-! DEFINITION. The commands that the sequencers issue, one definition for each opcode, and the commit of an item (R49–R58, R68,
R137, R140, R206, R226, R267, R276, R281, R298, R317, R367, R391, R429). -/

namespace Sys2Proof.Machine

/-- `NOP` (R51): it commits without work. -/
def execNop (q : IssueAt) (s : State) : Host.Outcome State Fault Refusal := .next (s.issue q 0x00 (checkNop q) startNop)

/-- Cycles of feeder holds and of multicast stalls counted (R117, R142); a stream-fed `TILE` has neither. -/
def State.countHolds (s : State) (i : Item) (holds stalls : Nat) : State :=
  if i.desc.tFed then s
  else
    let s := s.tallyN .feedHoldCnt i.ctx.val .arrayStatus i.ctx.val 1 holds
    s.tallyN .mcastStallCnt i.ctx.val .gangStatus i.ctx.val 4 stalls

/-- `TILE` (R137). -/
def execTile (q : IssueAt) (holds stalls : Nat) (s : State) : Host.Outcome State Fault Refusal :=
  .next (s.issue q 0x01 (checkTile q) fun i _ s => startTile i (s.countHolds i holds stalls))

/-- `VECTOR` (R140). -/
def execVector (q : IssueAt) (s : State) : Host.Outcome State Fault Refusal :=
  .next (s.issue q 0x02 (checkVector q) fun i _ s => workVector i s)

/-- `STREAM_ARM` (R206). The consumers that wait for its lines go on. -/
def execStreamArm (q : IssueAt) (s : State) : Host.Outcome State Fault Refusal :=
  .next (s.issue q 0x03 (checkStream q) fun i j s => (startStream i j s).kick)

/-- `BARRIER` (R226). -/
def execBarrier (q : IssueAt) (s : State) : Host.Outcome State Fault Refusal :=
  .next (s.issue q 0x04 (checkBarrier q) startBarrier)

/-- `SAMPLE` (R68). The commands that follow its trail go on. -/
def execSample (q : IssueAt) (s : State) : Host.Outcome State Fault Refusal :=
  .next (s.issue q 0x05 (checkSample q) fun i _ s => (workSample i s).kick)

/-- `GATHER` (R267). -/
def execGather (q : IssueAt) (s : State) : Host.Outcome State Fault Refusal :=
  .next (s.issue q 0x06 (checkGather q) fun i _ s => workGather i s)

/-- `SCATTER` (R276). -/
def execScatter (q : IssueAt) (s : State) : Host.Outcome State Fault Refusal :=
  .next (s.issue q 0x07 (checkGather q) fun i _ s => workScatter i s)

/-- `COALESCE` (R281). -/
def execCoalesce (q : IssueAt) (s : State) : Host.Outcome State Fault Refusal :=
  .next (s.issue q 0x08 (checkCoalesce q) fun i _ s => workCoalesce i s)

/-- `REDUCE` (R367). -/
def execReduce (q : IssueAt) (s : State) : Host.Outcome State Fault Refusal :=
  .next (s.issue q 0x09 (checkReduce q) fun i _ s => workReduce i s)

/-- `UPDATE` (R317). -/
def execUpdate (q : IssueAt) (s : State) : Host.Outcome State Fault Refusal :=
  .next (s.issue q 0x0A (checkUpdate q) startUpdate)

/-- `COMMIT` (R81). -/
def execCommit (q : IssueAt) (s : State) : Host.Outcome State Fault Refusal :=
  .next (s.issue q 0x0B (checkCommit q) startCommit)

/-- `MIGRATE` (R298). -/
def execMigrate (q : IssueAt) (s : State) : Host.Outcome State Fault Refusal :=
  .next (s.issue q 0x0C (checkMigrate q) fun i _ s => workMigrate i s)

/-- `SNAPSHOT` (R391). -/
def execSnapshot (q : IssueAt) (s : State) : Host.Outcome State Fault Refusal :=
  .next (s.issue q 0x0D (checkSnapshot q) fun i _ s => workSnapshot i s)

/-- `DMA` (R429). -/
def execDma (q : IssueAt) (hostData : List Byte) (errUnit : Option Nat) (s : State) : Host.Outcome State Fault Refusal :=
  .next (s.issue q 0x0E (checkDma q) (startDma hostData errUnit))

/-- A descriptor whose opcode the table does not hold (R51): it is rejected with `BAD_OPCODE`. -/
def execBadOpcode (q : IssueAt) (s : State) : Host.Outcome State Fault Refusal :=
  .next (s.issue q 0x0F (checkNop q) startNop)

/-- `ITEM_COMMIT` (R56): a finished item commits; what waited for it goes on. A completion comes last on its edge: a fault event or
a `RESET` discards the item, and a `PREEMPT` acts first (R41). -/
def execItemCommit (r : ItemRef) (s : State) : Host.Outcome State Fault Refusal :=
  match s.item r with
  | none => .next s
  | some i =>
    if s.resetSoon i.ctx || s.stoppedSoon i.ctx then .next s
    else
      let s := if s.preemptSoon i.ctx then ((s.preempt i.ctx).2.updCtx i.ctx fun x => { x with preAt := some s.now }) else s
      .next (s.completeItem i).kick

end Sys2Proof.Machine
end

