-- ==== Sys2Proof/Machine/Dispatch.lean ====
section
/-! DEFINITION. The meaning of each command: one arm for each constructor of `Instr`. -/

namespace Sys2Proof.Machine

open Sys2Proof

def exec (i : Instr) (s : State) : Host.Outcome State Fault Refusal :=
  match i with
  | .preempt c => Sys2Proof.Machine.execPreempt c s
  | .resume c => Sys2Proof.Machine.execResume c s
  | .reset c => Sys2Proof.Machine.execReset c s
  | .registerWrite t v => Sys2Proof.Machine.execRegisterWrite t v s
  | .statusEntryWrite index sub v => Sys2Proof.Machine.execStatusEntryWrite index sub v s
  | .sqTail c v => Sys2Proof.Machine.execSqTail c v s
  | .cqHead c v => Sys2Proof.Machine.execCqHead c v s
  | .sqCfg c v => Sys2Proof.Machine.execSqCfg c v s
  | .cqCfg c v => Sys2Proof.Machine.execCqCfg c v s
  | .submissionFetch c r => Sys2Proof.Machine.execSubmissionFetch c r s
  | .nop q => Sys2Proof.Machine.execNop q s
  | .tile q holds stalls => Sys2Proof.Machine.execTile q holds stalls s
  | .vector q => Sys2Proof.Machine.execVector q s
  | .streamArm q => Sys2Proof.Machine.execStreamArm q s
  | .barrier q => Sys2Proof.Machine.execBarrier q s
  | .sample q => Sys2Proof.Machine.execSample q s
  | .gather q => Sys2Proof.Machine.execGather q s
  | .scatter q => Sys2Proof.Machine.execScatter q s
  | .coalesce q => Sys2Proof.Machine.execCoalesce q s
  | .reduce q => Sys2Proof.Machine.execReduce q s
  | .update q => Sys2Proof.Machine.execUpdate q s
  | .commit q => Sys2Proof.Machine.execCommit q s
  | .migrate q => Sys2Proof.Machine.execMigrate q s
  | .snapshot q => Sys2Proof.Machine.execSnapshot q s
  | .dma q hostData errUnit => Sys2Proof.Machine.execDma q hostData errUnit s
  | .itemCommit ref => Sys2Proof.Machine.execItemCommit ref s
  | .faultResume c id => Sys2Proof.Machine.execFaultResume c id s
  | .barrierArrival c bar => Sys2Proof.Machine.execBarrierArrival c bar s
  | .paceRelease c => Sys2Proof.Machine.execPaceRelease c s
  | .commitTimeout c => Sys2Proof.Machine.execCommitTimeout c s
  | .specVerify ref core waited => Sys2Proof.Machine.execSpecVerify ref core waited s
  | .conservatorCompare ref tile => Sys2Proof.Machine.execConservatorCompare ref tile s
  | .streamTranslated e => Sys2Proof.Machine.execStreamTranslated e s
  | .streamProgramEnd e => Sys2Proof.Machine.execStreamProgramEnd e s
  | .arbitrationWindow => Sys2Proof.Machine.execArbitrationWindow s
  | .mark q => Sys2Proof.Machine.execMark q s
  | .unmark q => Sys2Proof.Machine.execUnmark q s
  | .rewind q => Sys2Proof.Machine.execRewind q s
  | .release q x => Sys2Proof.Machine.execRelease q x s
  | .queueRead q => Sys2Proof.Machine.execQueueRead q s
  | .vitrineCopyDone c coll row => Sys2Proof.Machine.execVitrineCopyDone c coll row s
  | .saveAreaWritten c => Sys2Proof.Machine.execSaveAreaWritten c s
  | .mmuInval c va count => Sys2Proof.Machine.execMmuInval c va count s
  | .invalDone c => Sys2Proof.Machine.execInvalDone c s
  | .hbmScrubPass found => Sys2Proof.Machine.execHbmScrubPass found s
  | .retireCopyDone d => Sys2Proof.Machine.execRetireCopyDone d s
  | .codeword p seq ack decoded corrected => Sys2Proof.Machine.execCodeword p seq ack decoded corrected s
  | .signalDetect p lanes => Sys2Proof.Machine.execSignalDetect p lanes s
  | .trainConverged p => Sys2Proof.Machine.execTrainConverged p s
  | .trainTimeout p => Sys2Proof.Machine.execTrainTimeout p s
  | .alignDone p => Sys2Proof.Machine.execAlignDone p s
  | .alignTimeout p => Sys2Proof.Machine.execAlignTimeout p s
  | .verifyTimeout p => Sys2Proof.Machine.execVerifyTimeout p s
  | .linkRetryTimer p => Sys2Proof.Machine.execLinkRetryTimer p s
  | .laneLockLoss p lane => Sys2Proof.Machine.execLaneLockLoss p lane s
  | .laneRestored p lane => Sys2Proof.Machine.execLaneRestored p lane s
  | .laneDisable p v => Sys2Proof.Machine.execLaneDisable p v s
  | .credit p vc dl granules => Sys2Proof.Machine.execCredit p vc dl granules s
  | .laneChange p seq lanes => Sys2Proof.Machine.execLaneChange p seq lanes s
  | .ident p domain coord dims peerPort => Sys2Proof.Machine.execIdent p domain coord dims peerPort s
  | .redHdr k => Sys2Proof.Machine.execRedHdr k s
  | .redDense k => Sys2Proof.Machine.execRedDense k s
  | .redSparse k => Sys2Proof.Machine.execRedSparse k s
  | .redResult k => Sys2Proof.Machine.execRedResult k s
  | .collAbort k => Sys2Proof.Machine.execCollAbort k s
  | .commitToken k => Sys2Proof.Machine.execCommitToken k s
  | .mismatchReport k => Sys2Proof.Machine.execMismatchReport k s
  | .verdict k => Sys2Proof.Machine.execVerdict k s
  | .fenceVoteClose => Sys2Proof.Machine.execFenceVoteClose s
  | .verdictTimeout c => Sys2Proof.Machine.execVerdictTimeout c s
  | .applyPrep k => Sys2Proof.Machine.execApplyPrep k s
  | .applyVote k => Sys2Proof.Machine.execApplyVote k s
  | .applyGo k => Sys2Proof.Machine.execApplyGo k s
  | .applyGoCancel k => Sys2Proof.Machine.execApplyGoCancel k s
  | .domainApply w0 w1 => Sys2Proof.Machine.execDomainApply w0 w1 s
  | .applyVoteDeadline => Sys2Proof.Machine.execApplyVoteDeadline s
  | .domainApplyInstant => Sys2Proof.Machine.execDomainApplyInstant s
  | .shxTimePacket t1 t2 t3 t4 => Sys2Proof.Machine.execShxTimePacket t1 t2 t3 t4 s
  | .shxTimeExchange => Sys2Proof.Machine.execShxTimeExchange s
  | .mcast p k => Sys2Proof.Machine.execMcast p k s
  | .mcastPruneTimeout p => Sys2Proof.Machine.execMcastPruneTimeout p s
  | .prune k => Sys2Proof.Machine.execPrune k s
  | .shxHopTimeout p => Sys2Proof.Machine.execShxHopTimeout p s
  | .shxCollTimeout c => Sys2Proof.Machine.execShxCollTimeout c s
  | .depotWr k => Sys2Proof.Machine.execDepotWr k s
  | .depotRd k => Sys2Proof.Machine.execDepotRd k s
  | .depotData k => Sys2Proof.Machine.execDepotData k s
  | .tunWr k => Sys2Proof.Machine.execTunWr k s
  | .tunRd k => Sys2Proof.Machine.execTunRd k s
  | .tunCpl k => Sys2Proof.Machine.execTunCpl k s
  | .tunDmaRd k hostData => Sys2Proof.Machine.execTunDmaRd k hostData s
  | .tunDmaWr k => Sys2Proof.Machine.execTunDmaWr k s
  | .tunIrq k => Sys2Proof.Machine.execTunIrq k s
  | .shxTunnelTimeout opSeq => Sys2Proof.Machine.execShxTunnelTimeout opSeq s
  | .fence => Sys2Proof.Machine.execFence s
  | .fenceClear => Sys2Proof.Machine.execFenceClear s
  | .restoreReq w0 w1 w2 w3 => Sys2Proof.Machine.execRestoreReq w0 w1 w2 w3 s
  | .provReq w => Sys2Proof.Machine.execProvReq w s
  | .flr f => Sys2Proof.Machine.execFlr f s
  | .d3hotToD0 f => Sys2Proof.Machine.execD3hotToD0 f s
  | .hotReset => Sys2Proof.Machine.execHotReset s
  | .perstAssert => Sys2Proof.Machine.execPerstAssert s
  | .windowRead f off len => Sys2Proof.Machine.execWindowRead f off len s
  | .windowWrite f off data => Sys2Proof.Machine.execWindowWrite f off data s
  | .apertureAccess f off a => Sys2Proof.Machine.execApertureAccess f off a s
  | .mailboxGo f => Sys2Proof.Machine.execMailboxGo f s
  | .irqHoldoffExpiry f vec => Sys2Proof.Machine.execIrqHoldoffExpiry f vec s
  | .igcorFrame from_ bytes => Sys2Proof.Machine.execIgcorFrame from_ bytes s
  | .neighborSolicitation src target => Sys2Proof.Machine.execNeighborSolicitation src target s
  | .icmpv6Echo src data => Sys2Proof.Machine.execIcmpv6Echo src data s
  | .read who index sub off len => Sys2Proof.Machine.execRead who index sub off len s
  | .write who index sub off data => Sys2Proof.Machine.execWrite who index sub off data s
  | .readStaged who index sub off len => Sys2Proof.Machine.execReadStaged who index sub off len s
  | .check who gen scope => Sys2Proof.Machine.execCheck who gen scope s
  | .apply who gen scope form arg => Sys2Proof.Machine.execApply who gen scope form arg s
  | .discard who gen scope => Sys2Proof.Machine.execDiscard who gen scope s
  | .describe who index sub => Sys2Proof.Machine.execDescribe who index sub s
  | .eventRead who first most => Sys2Proof.Machine.execEventRead who first most s
  | .armedApplyInstant => Sys2Proof.Machine.execArmedApplyInstant s
  | .persistWrite readBack retry => Sys2Proof.Machine.execPersistWrite readBack retry s
  | .standbyPower straps => Sys2Proof.Machine.execStandbyPower straps s
  | .standbyLost => Sys2Proof.Machine.execStandbyLost s
  | .mainInputQualified => Sys2Proof.Machine.execMainInputQualified s
  | .railGroupRegulated g => Sys2Proof.Machine.execRailGroupRegulated g s
  | .pwrFault g => Sys2Proof.Machine.execPwrFault g s
  | .pwrRetryTimer => Sys2Proof.Machine.execPwrRetryTimer s
  | .supplyWarn mv => Sys2Proof.Machine.execSupplyWarn mv s
  | .sag => Sys2Proof.Machine.execSag s
  | .sagGlitch => Sys2Proof.Machine.execSagGlitch s
  | .overvoltage mv => Sys2Proof.Machine.execOvervoltage mv s
  | .saveDone cycles => Sys2Proof.Machine.execSaveDone cycles s
  | .saveTimeout => Sys2Proof.Machine.execSaveTimeout s
  | .thermalSample t => Sys2Proof.Machine.execThermalSample t s
  | .moduleResetWarm => Sys2Proof.Machine.execModuleResetWarm s
  | .moduleResetCold => Sys2Proof.Machine.execModuleResetCold s
  | .moduleResetDelay => Sys2Proof.Machine.execModuleResetDelay s
  | .watchdogExpiry => Sys2Proof.Machine.execWatchdogExpiry s
  | .pllUnlock => Sys2Proof.Machine.execPllUnlock s
  | .refLost => Sys2Proof.Machine.execRefLost s
  | .moduleResetDone => Sys2Proof.Machine.execModuleResetDone s
  | .srExport => Sys2Proof.Machine.execSrExport s
  | .syncTimeFrame f => Sys2Proof.Machine.execSyncTimeFrame f s
  | .syncStepFrame f => Sys2Proof.Machine.execSyncStepFrame f s
  | .estop f onDn => Sys2Proof.Machine.execEstop f onDn s
  | .echoReq f turnaround => Sys2Proof.Machine.execEchoReq f turnaround s
  | .echoRsp f t1 t4 => Sys2Proof.Machine.execEchoRsp f t1 t4 s
  | .syncEchoTimer => Sys2Proof.Machine.execSyncEchoTimer s
  | .syncTimeTimer => Sys2Proof.Machine.execSyncTimeTimer s
  | .syncLoss up => Sys2Proof.Machine.execSyncLoss up s
  | .estopRaise => Sys2Proof.Machine.execEstopRaise s
  | .estopRepeat => Sys2Proof.Machine.execEstopRepeat s
  | .estopClear => Sys2Proof.Machine.execEstopClear s
  | .badOpcode q => Sys2Proof.Machine.execBadOpcode q s
  | .holdupCharged micros reached => Sys2Proof.Machine.execHoldupCharged micros reached s
  | .perstDeassert => Sys2Proof.Machine.execPerstDeassert s
  | .pcieLinkUp width rate => Sys2Proof.Machine.execPcieLinkUp width rate s
  | .vfEnable f => Sys2Proof.Machine.execVfEnable f s
  | .msixUnmask f vec => Sys2Proof.Machine.execMsixUnmask f vec s
  | .laneSymbolRateWindow p l0 l1 l2 l3 => Sys2Proof.Machine.execLaneSymbolRateWindow p l0 l1 l2 l3 s
  | .refclkPresent => Sys2Proof.Machine.execRefclkPresent s
  | .syncFrameDiscard crcBad => Sys2Proof.Machine.execSyncFrameDiscard crcBad s

end Sys2Proof.Machine
end

