-- ==== Sys2Proof/Machine/Tick.lean ====
section
/-! DEFINITION. One SCLK cycle in which no command arrives: what time alone changes. -/

namespace Sys2Proof.Machine

/-- The global time runs (R377, R472, R479, R480): at the head of the chain, and at the root of the fabric's time; elsewhere from its first
acquisition on, before which it is 0. -/
def State.timeRuns (s : State) : Bool :=
  s.isHead || s.rdN .globalTime ≠ 0 || s.sync.acquired || (s.rdN .timeSource = 1 && (s.isHolder || s.fabric.acquired))

/-- One SCLK cycle of the global time (R377): one more, but for the cycle in 1,024 that slewing suppresses or doubles
while an offset is left; the offset is counted in ROOT cycles, 68 to the SCLK cycle. -/
def State.tickTime (s : State) : State :=
  let phase := (s.fabric.phase + 1) % 1024
  let due := phase = 0
  let slew := s.fabric.slew
  let inc := if due && 0 < slew then 2 else if due && slew < 0 then 0 else 1
  let left := if due && 0 < slew then max 0 (slew - 68) else if due && slew < 0 then min 0 (slew + 68) else slew
  let s := { s with fabric := { s.fabric with phase := phase, slew := left } }
  if s.timeRuns then s.wrN .globalTime 0 0 (s.rdN .globalTime + inc) else s

/-- The cycle counted for a context whose record waits (R421). -/
def State.tickWait (s : State) (c : CtxId) : State :=
  if (s.ctx c).waiting.isEmpty then s else s.tally .cqFullWaitCnt c.val .hostCtxStatus c.val 1

/-- NCLK cycles of the present SCLK cycle: 68 ROOT cycles over 5 (R24). -/
def State.nclks (s : State) : Nat := 68 * s.now / 5 - 68 * (s.now - 1) / 5

/-- The cycles in which a stream engine holds a complete line without credit (R211). -/
def State.tickCredit (s : State) (e : Nat × Engine) : State :=
  match e.2.st, e.2.active with
  | .running, some p =>
    if p.closed.isEmpty || s.credited p || !s.atWork p then s
    else s.tallyN .creditWaitCnt p.ctx.val .streamStatus p.ctx.val 5 s.nclks
  | _, _ => s

/-- The cycles in which the feeders of a `TILE` wait on empty irregular sluices (R205); a sluice into which no program delivers is not an
irregular one, and its wait is not counted (DESIGN CHOICE 154). -/
def State.tickEmpty (s : State) (i : Item) : State :=
  let waits := i.tile.runs.filter fun run =>
    run.bits.isSome && !run.ran && (s.producer (sluiceIx run.core 0)).any fun e => !e.2.regular
  if i.phase = .working && i.desc.opcode = 1 && i.desc.tFed then
    s.tallyN .sluiceEmptyCnt i.ctx.val .streamStatus i.ctx.val 6 (s.nclks * waits.length)
  else s

/-- The cycles in which a vector operator or a ring's consumer waits on an empty irregular sluice (R205, R218). -/
def State.tickRead (s : State) (e : Nat × Queue) : State :=
  if e.2.waits && e.2.unread = 0 && e.1 < 512 then
    match s.producer e.1 with
    | some (_, p) => if p.regular then s else s.tallyN .sluiceEmptyCnt p.ctx.val .streamStatus p.ctx.val 6 s.nclks
    | none => s
  else s

/-- What one SCLK cycle changes (R374, R377, R421, R470). -/
def State.tick (s : State) : State :=
  let s := { s.sealEvents with now := s.now + 1, edge := [] }
  let s := s.tickTime
  let s := allCtx.foldl State.tickWait s
  let s := s.engines.foldl State.tickCredit s
  let s := s.items.foldl State.tickEmpty s
  let s := s.queues.foldl State.tickRead s
  let s := (List.range 14).foldl State.retryMcast s
  let s := (List.finRange 14).foldl State.widthDue s
  if 0 < s.power.h then s.count .throttleCycleCnt else s

end Sys2Proof.Machine
end

