-- ==== Sys2Proof/Machine/Step.lean ====
section
/-! DEFINITION. A step of the TG1: the command at the front of the queue, or one SCLK cycle when none waits. -/

namespace Sys2Proof.Machine

/-- The command at the front of the queue acts, with the queue's rest; on an empty queue one SCLK cycle passes
(DESIGN CHOICE 1). -/
def step (s : State) : Host.Outcome State Fault Refusal :=
  match s.pending with
  | [] => .next s.tick
  | c :: rest => exec c { s with pending := rest }

/-- The state with the command that a word of the opcode table spells put in front of the queue; no word spells one. -/
def State.withFetchWord (s : State) (nbits w : Nat) : State :=
  match Sys2Proof.decodeTableWord nbits w with
  | none => s
  | some c => { s with pending := c :: s.pending }

end Sys2Proof.Machine
end

