-- ==== Sys2Proof/Safety.lean ====
section
/-! DEFINITION. What holds of every state that a run reaches, and what a safe run is. -/

namespace Sys2Proof.Machine

/-- The canonical form of memory after `n` changes of `CC_SCRATCH_WAYS`: addresses rising, no byte listed that reads the
same unlisted. -/
def Memory.wf (n : Nat) (m : Store Byte) : Bool := Store.wf (memDefault n) m

/-- The form that every command keeps: each store canonical, the poisoned words in rising order, the event ring no longer
than its 1,024 slots (R456), and no more than two sag records (R468). -/
structure State.Wf (s : State) : Prop where
  mem     : Memory.wf s.scratch s.mem = true
  poison  : s.poison.Pairwise (· < ·)
  regs    : Store.wf regDefault s.regs = true
  staged  : Store.wf regDefault s.staged = true
  copyA   : Store.wf regDefault s.copyA.vals = true
  copyB   : Store.wf regDefault s.copyB.vals = true
  ctxs    : Store.wf (fun _ => Ctx.init) s.ctxs = true
  heads   : Store.wf (fun _ => 0) s.heads = true
  bars    : Store.wf (fun _ => Barrier.init) s.bars = true
  arrays  : Store.wf (fun _ => MatEngine.init) s.arrays = true
  engines : Store.wf (fun _ => Engine.init) s.engines = true
  queues  : Store.wf Queue.init s.queues = true
  msiLast : Store.wf (fun _ => 0) s.msiLast = true
  ports   : Store.wf (fun _ => Port.init) s.fabric.ports = true
  mprog   : Store.wf (fun _ => 0) s.fabric.mprog = true
  imageA  : Store.wf regDefault s.strong.imageA = true
  imageB  : Store.wf regDefault s.strong.imageB = true
  events  : s.events.length ≤ 1024
  records : s.strong.records.length ≤ 2

/-- What one command or one cycle does to what it must not disturb: the commands that wait stay (R39: each command acts
whole), an output once sent is never taken back, no free value is taken twice, and the form is kept. -/
structure Keeps (s t : State) : Prop where
  pending : t.pending = s.pending
  out     : s.out <+: t.out
  free    : s.free ≤ t.free
  wf      : s.Wf → t.Wf

/-- A safe outcome from a state: a next state, never a fault or a refusal. -/
def Safe (o : Host.Outcome State Fault Refusal) : Prop := ∃ t, o = .next t

end Sys2Proof.Machine
end

