-- ==== Sys2Proof/WellFormed.lean ====
section
/-! DEFINITION. The commands that can reach the TG1: what the rule of a row lets its operands be. `exec` answers every
command; these checks say which of them the outside can send. -/

namespace Sys2Proof

/-- A packet of a type in the form of R360: at most 128 granules of 32 bytes, as many as `LEN` says, and zero where the
header has no field. -/
def Packet.wf (k : Packet) (type : Nat) : Bool :=
  k.w0.toNat / 2 ^ 56 = type && k.data.length = 32 * (k.w0.toNat / 2 ^ 48 % 256) && k.data.length ≤ 4096 &&
    k.w0.toNat / 2 ^ 40 % 4 = 0 && k.w0.toNat / 2 ^ 32 % 16 = 0

/-- An access of some bytes that lies in a range of a size (R411). -/
def fits (off len size : Nat) : Bool := 1 ≤ len && off + len ≤ size

/-- A write reaches an entry, or one to eight bytes of a context page of 64 KiB (R411, R412). -/
def RegTarget.wf : RegTarget → Bool
  | .entry .. => true
  | .page _ off width | .modulePage off width => fits off.toNat width (2 ^ 16) && width ≤ 8

/-- The bytes of an access. -/
def Access.length : Access → Nat
  | .read len => len
  | .write data => data.length

/-- The widths that a PCI Express link of 16 lanes can have (R432). -/
def linkWidths : List Nat := [1, 2, 4, 8, 16]

/-- A command that the outside can send. -/
def Instr.wf : Instr → Bool
  | .preempt .. | .resume .. | .reset .. => true
  | .registerWrite t _ => t.wf
  | .statusEntryWrite .. | .sqTail .. | .cqHead .. | .sqCfg .. | .cqCfg .. | .submissionFetch .. | .nop .. | .tile ..
  | .vector .. | .streamArm .. | .barrier .. | .sample .. | .gather .. | .scatter .. | .coalesce .. | .reduce ..
  | .update .. | .commit .. | .migrate .. | .snapshot .. | .dma .. | .itemCommit .. | .faultResume ..
  | .barrierArrival .. | .paceRelease .. | .commitTimeout .. | .specVerify .. | .conservatorCompare ..
  | .streamTranslated .. | .streamProgramEnd .. | .arbitrationWindow | .mark .. | .unmark .. | .rewind .. | .release ..
  | .queueRead .. | .vitrineCopyDone .. | .saveAreaWritten .. | .mmuInval .. | .invalDone .. | .hbmScrubPass ..
  | .retireCopyDone .. | .codeword .. | .signalDetect .. | .trainConverged .. | .trainTimeout .. | .alignDone ..
  | .alignTimeout .. | .verifyTimeout .. | .linkRetryTimer .. | .laneLockLoss .. | .laneRestored .. | .laneDisable ..
  | .credit .. | .laneChange .. | .ident .. => true
  | .redHdr k => k.wf 0x10
  | .redDense k => k.wf 0x11
  | .redSparse k => k.wf 0x12
  | .redResult k => k.wf 0x13
  | .collAbort k => k.wf 0x14
  | .commitToken k => k.wf 0x20 && k.w2 = 0
  | .mismatchReport k => k.wf 0x20 && k.w2 = 1
  | .verdict k => k.wf 0x20 && k.w2 = 2
  | .fenceVoteClose | .verdictTimeout .. => true
  | .applyPrep k => k.wf 0x21
  | .applyVote k => k.wf 0x22
  | .applyGo k => k.wf 0x23 && !k.w2.getLsbD 63
  | .applyGoCancel k => k.wf 0x23 && k.w2.getLsbD 63
  | .domainApply .. | .applyVoteDeadline | .domainApplyInstant | .shxTimePacket .. | .shxTimeExchange => true
  | .mcast _ k => k.wf 0x30
  | .mcastPruneTimeout .. => true
  | .prune k => k.wf 0x31
  | .shxHopTimeout .. | .shxCollTimeout .. => true
  | .depotWr k => k.wf 0x40
  | .depotRd k => k.wf 0x41
  | .depotData k => k.wf 0x42
  | .tunWr k => k.wf 0x50
  | .tunRd k => k.wf 0x51
  | .tunCpl k => k.wf 0x52
  | .tunDmaRd k _ => k.wf 0x53
  | .tunDmaWr k => k.wf 0x54
  | .tunIrq k => k.wf 0x55
  | .shxTunnelTimeout .. | .fence | .fenceClear | .restoreReq .. | .provReq .. | .flr .. | .d3hotToD0 .. | .hotReset
  | .perstAssert => true
  | .windowRead _ off len => fits off.toNat len (2 ^ 34)
  | .windowWrite _ off data => fits off.toNat data.length (2 ^ 34)
  | .apertureAccess _ off a => fits off.toNat a.length (2 ^ 35)
  | .mailboxGo .. | .irqHoldoffExpiry .. | .igcorFrame .. | .neighborSolicitation .. | .icmpv6Echo .. | .read .. => true
  | .write _ _ _ _ data => data.length < 65536
  | .readStaged .. | .check .. | .apply .. | .discard .. | .describe .. | .eventRead .. | .armedApplyInstant
  | .persistWrite .. | .standbyPower .. | .standbyLost | .mainInputQualified => true
  | .railGroupRegulated g => g ≠ 0
  | .pwrFault g => g ≠ 0
  | .pwrRetryTimer | .supplyWarn .. | .sag | .sagGlitch | .overvoltage .. | .saveDone .. | .saveTimeout
  | .thermalSample .. | .moduleResetWarm | .moduleResetCold | .moduleResetDelay | .watchdogExpiry | .pllUnlock
  | .refLost | .moduleResetDone | .srExport | .syncTimeFrame .. | .syncStepFrame .. | .estop .. | .echoReq ..
  | .echoRsp .. | .syncEchoTimer | .syncTimeTimer | .syncLoss .. | .estopRaise | .estopRepeat | .estopClear
  | .badOpcode .. | .holdupCharged .. | .perstDeassert => true
  | .pcieLinkUp width rate => linkWidths.contains width.toNat && (1 ≤ rate.toNat && rate.toNat ≤ 6)
  | .vfEnable f => f ≠ 0
  | .msixUnmask .. | .laneSymbolRateWindow .. | .refclkPresent | .syncFrameDiscard .. => true

end Sys2Proof
end

