-- ==== Sys2Proof/Certificates/Slice0/Obligations.lean ====
section
/-! DEFINITION. The statements about the model. `Obligations.<Name>` are the statements to prove; a statement over several commands of
one kind is the conjunction of the claims under `Sys2Proof.Claim`, each of which says one thing. -/

open Sys2Proof Sys2Proof.Machine

/-- An invariant that every step keeps: each store canonical, the poisoned words rising, the event ring within its 1,024 slots,
at most two sag records. -/
def Obligations.StepKeepsForm : Prop := ∀ s t : State, s.Wf → step s = .next t → t.Wf

/-- The state right after module reset has that form. -/
def Sys2Proof.Claim.ResetHasForm : Prop := State.reset.Wf

/-- The queue drains in order: after as many steps as commands wait, none waits; no step stops; what was sent stays sent,
no free value is taken twice, and the form of the state is kept. -/
def Obligations.QueueDrains : Prop :=
  ∀ s : State, ∃ t : State, Sys2Proof.core.run s.pending.length s = .next t ∧ t.pending = [] ∧ s.out <+: t.out ∧
    s.free ≤ t.free ∧ (s.Wf → t.Wf)

/-- Every command, whatever its operands and the state, answers a next state; it leaves the queue, the outputs already sent
and the form of the state alone. -/
def Obligations.EveryCommandAnswers : Prop :=
  ∀ (i : Instr) (s : State), ∃ t : State, exec i s = .next t ∧ t.pending = s.pending ∧ s.out <+: t.out ∧ s.free ≤ t.free ∧
    (s.Wf → t.Wf)

/-- A step with commands in the queue is the command at its front on the state with the queue's rest. -/
def Obligations.StepRunsFront : Prop :=
  ∀ (c : Instr) (rest : List Instr) (s : State), s.pending = c :: rest → step s = exec c { s with pending := rest }

/-- A step on an empty queue is one SCLK cycle (DESIGN CHOICE 1). With no event of the edge before, no record, queue, multicast line,
change of width or offset outstanding, no stream engine and no `TILE` at work, and no throttling, the times alone go on: the cycle
count, and the global time once it runs, which it does at the chain's head, at the fabric's root and after the first acquisition. -/
def Obligations.IdleStepIsOneCycle : Prop :=
  ∀ s : State, s.pending = [] → s.fresh = 0 → (∀ c : CtxId, (s.ctx c).waiting = []) → (∀ e ∈ s.queues, e.2.waits = false) →
    (∀ p : Nat, (s.port p).mcast = [] ∧ (s.port p).change = none) → s.power.h = 0 →
    s.fabric.slew = 0 → (∀ e ∈ s.engines, e.2.st ≠ .running) → (∀ i ∈ s.items, i.phase = .working → i.desc.opcode ≠ 1) →
    ∃ t : State, step s = .next t ∧ t.now = s.now + 1 ∧ t.edge = [] ∧
      t.rd .globalTime = (if s.timeRuns then s.rd .globalTime + 1 else s.rd .globalTime) ∧
      (∀ (o : Obj) (n e : Nat), regCode o n e ≠ regCode .globalTime 0 0 → t.rd o n e = s.rd o n e) ∧
      t = { s with now := t.now, edge := [], regs := t.regs, fabric := t.fabric } ∧
      t.fabric = { s.fabric with phase := t.fabric.phase }

/-- A counter raised wraps at its width, and every other entry and all other state keep their values. -/
def Obligations.CounterWraps : Prop :=
  ∀ (o : Obj) (n e k : Nat) (s : State), o.info.size ≤ 8 →
    (s.count o n e k).rdN o n e = (s.rdN o n e + k) % 256 ^ o.info.size ∧
    (∀ (o' : Obj) (n' e' : Nat), regCode o' n' e' ≠ regCode o n e → (s.count o n e k).rd o' n' e' = s.rd o' n' e') ∧
    s.count o n e k = { s with regs := (s.count o n e k).regs }

/-- `STATUS_ENTRY_WRITE` clears the W1C flags that are written 1, but for those set on the same edge, and keeps the others; nothing
else changes. -/
def Obligations.StatusWriteClears : Prop :=
  ∀ (index : BitVec 16) (sub : Byte) (v : W32) (s : State) (o : Obj) (n m : Nat),
    s.mgmtUp = true → findEntry index.toNat sub.toNat = .ok (o, n) → w1cMask o = some m →
    ∃ t : State, exec (.statusEntryWrite index sub v) s = .next t ∧
      t.rd o n = s.rd o n &&& ~~~ (v.zeroExtend 64 &&& BitVec.ofNat 64 m &&& ~~~ s.freshFlags o n) ∧
      (∀ (o' : Obj) (n' e' : Nat), regCode o' n' e' ≠ regCode o n 0 → t.rd o' n' e' = s.rd o' n' e') ∧
      t = { s with regs := t.regs }

/-- An event takes its code, context, argument and the global time; the ring holds the last 1,024, and the next sequence goes up. The
first event of an edge stands behind all others, with the next sequence; the events of one edge stand by code and then context, in
the order of which they take the last sequences (DESIGN CHOICE 136: an edge lasts until the time goes on). Memory and all work
stay. -/
def Obligations.EventEntersRing : Prop :=
  ∀ (code : Nat) (c : Option CtxId) (arg : Nat) (s : State),
    let t := s.raise code c arg
    let e := s.newEvent code c arg
    let edge (u : State) : List EventRec := u.events.drop (u.events.length - u.fresh)
    (e.time = s.rd .globalTime ∧ e.code = BitVec.ofNat 8 code ∧ e.arg = BitVec.ofNat 32 arg ∧
      e.ctx = (match c with | some c => BitVec.ofNat 4 c.val | none => 0xF)) ∧
    (s.fresh = 0 → t.events = (s.events ++ [{ e with seq := s.rd .eventNextSeq }]).drop (s.events.length + 1 - 1024)) ∧
    (s.fresh < 1024 → s.fresh ≤ s.events.length → s.events.length ≤ 1024 → (edge s).Pairwise (fun a b => a.rank ≤ b.rank) →
      t.fresh = s.fresh + 1 ∧ (edge t).Pairwise (fun a b => a.rank ≤ b.rank) ∧
      ((edge t).map EventRec.rank).Perm (e.rank :: (edge s).map EventRec.rank) ∧
      ∀ (k : Nat) (x : EventRec), (edge t)[k]? = some x → x.seq = t.rd .eventNextSeq - BitVec.ofNat 64 (s.fresh + 1 - k)) ∧
    t.rdN .eventNextSeq = (s.rdN .eventNextSeq + 1) % 2 ^ 64 ∧ t.events.length ≤ max s.events.length 1024 ∧
    t.mem = s.mem ∧ t.ctxs = s.ctxs ∧ t.items = s.items

/-- No fault event and no `RESET` of a context waits on this edge: these come before what acts on it now (R41). -/
def Sys2Proof.Machine.State.EdgeFree (s : State) (c : CtxId) : Prop := s.resetSoon c = false ∧ s.stoppedSoon c = false

/-- `PREEMPT` of a RUNNING or PARKED context whose save area can be translated makes it PREEMPTING, and its units run to their
preemption points; a page fault of the same cycle did not park it before. One that has acted ahead of a completion of the same edge
does nothing more. -/
def Sys2Proof.Claim.PreemptStops : Prop :=
  ∀ (c : CtxId) (s : State) (pages : List (Nat × Nat)), s.EdgeFree c →
    (((s.ctx c).st = .running ∨ (s.ctx c).st = .parked) → (s.ctx c).preAt ≠ some s.now → s.rdN .saveVa c.val ≠ 0 →
      s.reachAll (.log c) (s.rdN .saveVa c.val) 0x40000 true = .ok pages →
      exec (.preempt c) s = .next ((s.setCtx c
        { s.ctx c with st := .preempting, preemptAt := s.now, savePa := pages.map Prod.fst,
                       wasParked := decide ((s.ctx c).st = .parked) && decide ((s.ctx c).parkedAt ≠ s.now + 1) }).stopUnits c)) ∧
    ((s.ctx c).preAt = some s.now → exec (.preempt c) s = .next (s.setCtx c { s.ctx c with preAt := none }))

/-- `RESUME` of a PREEMPTED context whose save area passes its checks resumes it; one whose save area fails counts and stays
PREEMPTED, and a poisoned word that the check met is an uncorrectable error found. -/
def Sys2Proof.Claim.ResumeChecksSaveArea : Prop :=
  ∀ (c : CtxId) (s : State), (s.ctx c).st = .preempted →
    (s.saveGood c = true → exec (.resume c) s = .next (s.resumed c)) ∧
    (s.saveGood c = false → s.savePoison c = none → exec (.resume c) s =
      .next ((s.tally .saveBadCnt c.val .mmuStatus c.val 3).count .cmdRejectCnt c.val)) ∧
    (∀ w : Nat, s.saveGood c = false → s.savePoison c = some w → exec (.resume c) s =
      .next (((s.foundUe (4 * w)).tally .saveBadCnt c.val .mmuStatus c.val 3).count .cmdRejectCnt c.val))

/-- `PREEMPT` outside RUNNING and PARKED, without a save area, or on the edge of a `RESET` or a fault event of the context, which come
first, and `RESUME` outside PREEMPTED, are refused: `CMD_REJECT_CNT` alone changes. A save area that cannot be translated refuses it
too, and what stopped the translation is counted. -/
def Sys2Proof.Claim.ControlRefused : Prop :=
  ∀ (c : CtxId) (s : State) (why : Stop),
    ((s.ctx c).preAt ≠ some s.now →
      ((s.ctx c).st ≠ .running ∧ (s.ctx c).st ≠ .parked) ∨ s.rdN .saveVa c.val = 0 ∨ ¬ s.EdgeFree c →
      exec (.preempt c) s = .next (s.count .cmdRejectCnt c.val)) ∧
    ((s.ctx c).preAt ≠ some s.now → s.EdgeFree c → ((s.ctx c).st = .running ∨ (s.ctx c).st = .parked) →
      s.rdN .saveVa c.val ≠ 0 → s.reachAll (.log c) (s.rdN .saveVa c.val) 0x40000 true = .error why →
      exec (.preempt c) s = .next ((s.noteUe why).count .cmdRejectCnt c.val)) ∧
    ((s.ctx c).st ≠ .preempted → exec (.resume c) s = .next (s.count .cmdRejectCnt c.val))

/-- `RESET` is accepted in every state and leaves the context IDLE, with no step open, nothing issued, no token, every declared
entry taken as fetched and every barrier UNINIT. -/
def Obligations.ResetMakesIdle : Prop :=
  ∀ (c : CtxId) (s : State), ∃ t : State, exec (.reset c) s = .next t ∧ (t.ctx c).st = .idle ∧ (t.ctx c).prog = none ∧
    (t.ctx c).next = none ∧ (t.ctx c).issued = [] ∧ (t.ctx c).token = none ∧
    t.rdN .sqHead c.val = (t.ctx c).sqTail.toNat ∧ (∀ b : Nat, b < 256 → t.bar c b = Barrier.init)

/-- The bytes of a range of memory are those of a list. -/
def Sys2Proof.Machine.State.Holds (s : State) (pa : Nat) (bs : List Byte) : Prop :=
  ∀ k : Nat, k < bs.length → s.byteAt (pa + k) = bs.getD k 0

/-- `SAVE_AREA_WRITTEN` completes for every context: when each unit of a PREEMPTING one has stopped and LOG requests reach its save
area, its records and its header stand there, no other byte changes, and it is PREEMPTED, its preemption counted; while a unit
still runs, or in another state, nothing changes; a save area that cannot be reached is counted as denied. -/
def Obligations.SaveAreaWritten : Prop :=
  ∀ (c : CtxId) (s : State),
    let x := s.ctx c
    let recs := s.saveRecords c
    (x.st = .preempting → s.allStopped c = true → (x.savePa.all fun pa => s.logOk c pa 65536) = true →
      ∃ t : State, exec (.saveAreaWritten c) s = .next t ∧ t.ctx c = { x with st := .preempted, stopTime := s.now } ∧
        t.rdN .preemptCnt c.val = (s.rdN .preemptCnt c.val + 1) % 2 ^ 32 ∧
        t.rdN .preemptLat c.val = sat32 (s.now - x.preemptAt) ∧ t.items = s.items ∧
        (∀ c' : CtxId, c' ≠ c → t.ctx c' = s.ctx c') ∧
        (x.savePa.length = 4 → x.savePa.Nodup → (∀ pa ∈ x.savePa, pa % 65536 = 0) →
          t.Holds (x.saveAt 0) (s.saveHeader c recs.length) ∧
          (∀ k : Nat, k < recs.length → t.Holds (x.saveAt (64 * (k + 1))) (recs.getD k [])) ∧
          (∀ a : Nat, (∀ pa ∈ x.savePa, a < pa ∨ pa + 65536 ≤ a) → t.byteAt a = s.byteAt a))) ∧
    (x.st ≠ .preempting ∨ s.allStopped c = false → exec (.saveAreaWritten c) s = .next s) ∧
    (x.st = .preempting → s.allStopped c = true → (x.savePa.all fun pa => s.logOk c pa 65536) = false →
      exec (.saveAreaWritten c) s = .next (s.countDenied c))

/-- `FAULT_RESUME` that names a parked item which may go on, or a parked read of a sequencer, lets it go on, and its stream engine with
it; one that names none, or comes while the context is PREEMPTED, is refused and counted. -/
def Sys2Proof.Claim.FaultResume : Prop :=
  ∀ (c : CtxId) (id : W32) (s : State),
    let goes (k : SeqStop) : Bool := decide ((s.ctx c).st ≠ .preempting) && (decide (k.id = id) || decide (id = 0xFFFFFFFF))
    let named := s.items.filter (s.mayResume c id)
    let t := s.setCtx c { s.ctx c with seqStops := (s.ctx c).seqStops.filter fun k => !goes k }
    ((s.ctx c).st ≠ .preempted → (named ≠ [] ∨ ∃ k ∈ (s.ctx c).seqStops, goes k = true) → exec (.faultResume c id) s = .next
      (((named.foldl (fun s i => s.unparkEngine i) t).wake (s.mayResume c id)).kick)) ∧
    ((s.ctx c).st = .preempted ∨ (named = [] ∧ ∀ k ∈ (s.ctx c).seqStops, goes k = false) → exec (.faultResume c id) s =
      .next ((s.count .cmdRejectCnt c.val).tally .igcorRefuseCnt 0 .igcorStatus 0 2))

/-- PREEMPT, RESUME and FAULT_RESUME: what they do where they are accepted, and what their refusal does. -/
def Obligations.ContextControl : Prop :=
  Sys2Proof.Claim.PreemptStops ∧ Sys2Proof.Claim.ResumeChecksSaveArea ∧ Sys2Proof.Claim.ControlRefused ∧
  Sys2Proof.Claim.FaultResume

/-- A command of an opcode may issue in a place: no read for it is parked, it stands there, the opcode is its own, its turn has come,
its plan can be read, and its checks pass. -/
def Sys2Proof.Machine.State.Passes (s : State) (q : IssueAt) (j : Job) (op : Nat) (plan : Option (Option (Nat × List Slot)))
    (check : State → Job → Except Stop BodyCheck) : Prop :=
  s.seqParked q = false ∧ s.job q = some j ∧ j.d.opcode = op ∧ s.canIssue q j = true ∧ s.planFor q = .ok plan ∧
    ∃ body : BodyCheck, check s j = .ok body ∧ s.firstBad q j body (plan = some none) = none

/-- `NOP`, `BARRIER`, `COMMIT` and `DMA`: a command that passes its checks is accepted and starts. -/
def Sys2Proof.Claim.SequencerCommandsLaunch : Prop :=
  ∀ (q : IssueAt) (s : State) (j : Job) (plan : Option (Option (Nat × List Slot))) (hostData : List Byte) (errUnit : Option Nat),
    (s.Passes q j 0x00 plan (checkNop q) → exec (.nop q) s = .next (s.launch q j plan startNop)) ∧
    (s.Passes q j 0x04 plan (checkBarrier q) → exec (.barrier q) s = .next (s.launch q j plan startBarrier)) ∧
    (s.Passes q j 0x0B plan (checkCommit q) → exec (.commit q) s = .next (s.launch q j plan startCommit)) ∧
    (s.Passes q j 0x0E plan (checkDma q) →
      exec (.dma q hostData errUnit) s = .next (s.launch q j plan (startDma hostData errUnit)))

/-- `TILE` and `VECTOR`: a command that passes its checks is accepted and its gang works; the holds and stalls of a `TILE` that
is not stream-fed are counted. -/
def Sys2Proof.Claim.EngineCommandsLaunch : Prop :=
  ∀ (q : IssueAt) (s : State) (j : Job) (plan : Option (Option (Nat × List Slot))) (holds stalls : Nat),
    (s.Passes q j 0x01 plan (checkTile q) → exec (.tile q holds stalls) s =
      .next (s.launch q j plan fun i _ u => startTile i (State.countHolds u i holds stalls))) ∧
    (s.Passes q j 0x02 plan (checkVector q) → exec (.vector q) s =
      .next (s.launch q j plan fun i _ s => workVector i s))

/-- `STREAM_ARM` and `SAMPLE`: a command that passes its checks is accepted and starts, and what waits for its lines or its
trail goes on. -/
def Sys2Proof.Claim.ProducerCommandsLaunch : Prop :=
  ∀ (q : IssueAt) (s : State) (j : Job) (plan : Option (Option (Nat × List Slot))),
    (s.Passes q j 0x03 plan (checkStream q) → exec (.streamArm q) s =
      .next (s.launch q j plan fun i j u => State.kick (startStream i j u))) ∧
    (s.Passes q j 0x05 plan (checkSample q) → exec (.sample q) s =
      .next (s.launch q j plan fun i _ u => State.kick (workSample i u)))

/-- `GATHER`, `SCATTER`, `COALESCE` and `MIGRATE`: a command that passes its checks is accepted and its unit works. -/
def Sys2Proof.Claim.GatherCommandsLaunch : Prop :=
  ∀ (q : IssueAt) (s : State) (j : Job) (plan : Option (Option (Nat × List Slot))),
    (s.Passes q j 0x06 plan (checkGather q) → exec (.gather q) s =
      .next (s.launch q j plan fun i _ s => workGather i s)) ∧
    (s.Passes q j 0x07 plan (checkGather q) → exec (.scatter q) s =
      .next (s.launch q j plan fun i _ s => workScatter i s)) ∧
    (s.Passes q j 0x08 plan (checkCoalesce q) → exec (.coalesce q) s =
      .next (s.launch q j plan fun i _ s => workCoalesce i s)) ∧
    (s.Passes q j 0x0C plan (checkMigrate q) → exec (.migrate q) s =
      .next (s.launch q j plan fun i _ s => workMigrate i s))

/-- `REDUCE`, `UPDATE` and `SNAPSHOT`: a command that passes its checks is accepted and its unit works. -/
def Sys2Proof.Claim.DomainCommandsLaunch : Prop :=
  ∀ (q : IssueAt) (s : State) (j : Job) (plan : Option (Option (Nat × List Slot))),
    (s.Passes q j 0x09 plan (checkReduce q) → exec (.reduce q) s =
      .next (s.launch q j plan fun i _ s => workReduce i s)) ∧
    (s.Passes q j 0x0A plan (checkUpdate q) → exec (.update q) s = .next (s.launch q j plan startUpdate)) ∧
    (s.Passes q j 0x0D plan (checkSnapshot q) → exec (.snapshot q) s =
      .next (s.launch q j plan fun i _ s => workSnapshot i s))

/-- An opcode that the table does not list is rejected with `BAD_OPCODE`. -/
def Sys2Proof.Claim.BadOpcodeRejected : Prop :=
  ∀ (q : IssueAt) (s : State) (j : Job) (plan : Option (Option (Nat × List Slot))),
    s.seqParked q = false → s.job q = some j → 0x0E < j.d.opcode → s.canIssue q j = true → s.planFor q = .ok plan →
    exec (.badOpcode q) s = .next (s.reject q j 0x21)

/-- A command that passes its checks is accepted and its unit starts; an unlisted opcode is rejected. -/
def Obligations.CommandsLaunch : Prop :=
  Sys2Proof.Claim.SequencerCommandsLaunch ∧ Sys2Proof.Claim.EngineCommandsLaunch ∧ Sys2Proof.Claim.ProducerCommandsLaunch ∧
  Sys2Proof.Claim.GatherCommandsLaunch ∧ Sys2Proof.Claim.DomainCommandsLaunch ∧ Sys2Proof.Claim.BadOpcodeRejected

/-- The issue event of each opcode. -/
def Sys2Proof.Machine.issueOf (q : IssueAt) (holds stalls : Nat) (hostData : List Byte) (errUnit : Option Nat) : List Instr :=
  [.nop q, .tile q holds stalls, .vector q, .streamArm q, .barrier q, .sample q, .gather q, .scatter q, .coalesce q, .reduce q,
   .update q, .commit q, .migrate q, .snapshot q, .dma q hostData errUnit, .badOpcode q]

/-- No command of a context issues unless it is RUNNING or PARKED, the module is ON and no reset is under way: in any other
state the event changes nothing. -/
def Obligations.NoIssueUnlessRunning : Prop :=
  ∀ (q : IssueAt) (holds stalls : Nat) (hostData : List Byte) (errUnit : Option Nat) (i : Instr) (s : State),
    i ∈ issueOf q holds stalls hostData errUnit →
    ((s.ctx q.ctx).st ≠ .running ∧ (s.ctx q.ctx).st ≠ .parked) ∨ s.rdN .pwrState ≠ 3 ∨ s.power.resetting = true →
    exec i s = .next s

/-- A `BARRIER` that is accepted sets its barrier to CLOSED with its `COUNT` and no arrival, and is finished. -/
def Sys2Proof.Claim.BarrierCloses : Prop :=
  ∀ (i : Item) (j : Job) (s : State) (cur : Item), s.current i = some cur →
    (startBarrier i j s).bar i.ctx i.desc.bBar = ⟨.closed, i.desc.bCount, 0⟩ ∧
    (startBarrier i j s).items = s.items.map (fun k => if k.same cur then { cur with phase := .finished 0 } else k) ∧
    (∀ (c : CtxId) (b : Nat), 256 * c.val + b ≠ 256 * i.ctx.val + i.desc.bBar → (startBarrier i j s).bar c b = s.bar c b) ∧
    (startBarrier i j s).mem = s.mem

/-- An arrival (R227, R228): at a barrier that is not CLOSED it is not applied and is counted; at a CLOSED one it adds one to
`ARRIVED`, and the arrival that reaches `COUNT` opens the barrier. -/
def Sys2Proof.Claim.ArrivalCounts : Prop :=
  ∀ (c : CtxId) (b : Nat) (s : State),
    ((s.bar c b).st ≠ .closed → s.arrive c b = s.tally .barExcessCnt c.val .queueStatus c.val 0) ∧
    ((s.bar c b).st = .closed → (s.bar c b).arrived + 1 < (s.bar c b).count →
      s.arrive c b = s.setBar c b { s.bar c b with arrived := (s.bar c b).arrived + 1 }) ∧
    ((s.bar c b).st = .closed → (s.bar c b).count ≤ (s.bar c b).arrived + 1 →
      ((s.arrive c b).bar c b).st = .opened ∧ ((s.arrive c b).bar c b).arrived = (s.bar c b).arrived + 1)

/-- `BARRIER_ARRIVAL` of an arrival that is outstanding registers it, and what waits goes on. -/
def Sys2Proof.Claim.ArrivalRegistered : Prop :=
  ∀ (c : CtxId) (bar : Byte) (s : State), bar ∈ (s.ctx c).arrivals →
    exec (.barrierArrival c bar) s =
      .next (((s.setCtx c { s.ctx c with arrivals := (s.ctx c).arrivals.erase bar }).arrive c bar.toNat).kick)

/-- BARRIER closes, arrivals add up, the one that reaches COUNT opens, others are counted. -/
def Obligations.BarrierArrivals : Prop :=
  Sys2Proof.Claim.BarrierCloses ∧ Sys2Proof.Claim.ArrivalCounts ∧ Sys2Proof.Claim.ArrivalRegistered

/-- `ITEM_COMMIT` of an item whose results are visible: what its opcode makes visible at the end is, and it commits with its status
and its progress; a `SAMPLE` counts its edges as it commits; what stops that last access stops the item. A completion comes last on
its edge (R41): with a `RESET` or a fault event of the context there it does nothing, and a `PREEMPT` there acts before it. -/
def Sys2Proof.Claim.FinishedItemCommits : Prop :=
  ∀ (r : ItemRef) (s : State) (i : Item) (status : Byte), s.item r = some i → i.phase = .finished status →
    (s.EdgeFree i.ctx → s.preemptSoon i.ctx = false →
      (∀ t : State, i.desc.opcode ≠ 0x0B → i.desc.opcode ≠ 0x05 → s.sealItem i = .ok t →
        exec (.itemCommit r) s =
          .next (t.commitItem ((t.current i).getD i) status.toNat ((t.current i).getD i).progress).kick) ∧
      (∀ t : State, i.desc.opcode = 0x05 → s.sealItem i = .ok t →
        let u := t.commitItem ((t.current i).getD i) status.toNat i.desc.seeds
        exec (.itemCommit r) s = .next (if ((u.ctx i.ctx).doneOf i.ahead).contains (i.list, i.seq) then
          u.count .sampledEdgeCnt i.ctx.val 0 i.sample.edges else u).kick) ∧
      (∀ why : Stop, i.desc.opcode ≠ 0x0B → i.desc.opcode ≠ 0x05 → s.sealItem i = .error why →
        exec (.itemCommit r) s = .next (s.stopItem { i with phase := .working } why).kick) ∧
      (i.desc.opcode = 0x0B → exec (.itemCommit r) s = .next (s.sealCommit i).kick)) ∧
    (s.EdgeFree i.ctx → s.preemptSoon i.ctx = true →
      let t := (s.preempt i.ctx).2
      exec (.itemCommit r) s =
        .next (((t.setCtx i.ctx { t.ctx i.ctx with preAt := some t.now } : State).completeItem i).kick)) ∧
    (¬ s.EdgeFree i.ctx → exec (.itemCommit r) s = .next s)

/-- A commit whose log entry is written: it makes its arrival, marks the position done, and writes a record when it asks for
one or its status is not 0; the item is gone, or stays committed while its step is provisional. A commit whose entry is refused is
counted, and fails its item with `POLDER_DENIED`. -/
def Sys2Proof.Claim.CommitMakesArrival : Prop :=
  ∀ (i : Item) (status progress : Nat) (s t : State),
    (s.log i .committed status progress = (t, true) →
      s.commitItem i status progress =
        (let u := t.updCtx i.ctx fun x => { x with
           arrivals := if i.desc.arriveBar = 0 then x.arrivals else x.arrivals ++ [BitVec.ofNat 8 i.desc.arriveBar]
           done := if i.ahead then x.done else (i.list, i.seq) :: x.done
           doneA := if i.ahead then (i.list, i.seq) :: x.doneA else x.doneA
           waitFrom := t.now }
         let u := if i.desc.cpl || status ≠ 0 then u.itemRec i status progress else u
         if i.ahead then u.setItem { (u.current i).getD i with phase := .committed, progress := progress } else u.dropItem i)) ∧
    (s.log i .committed status progress = (t, false) →
      s.commitItem i status progress = (t.countDenied i.ctx).failItem i 0x30)

/-- `PACE_RELEASE`: the next slot of the plan with a `RELEASE_BAR`, within the window of the current slot and from its instant
on, is released: the pacer arrives at its barrier. -/
def Sys2Proof.Claim.PacerReleases : Prop :=
  ∀ (c : CtxId) (s : State) (p : Plan) (k : Nat) (slot : Slot),
    (s.ctx c).plan = some p → nextRelease p.slots p.released = some k → p.slots[k]? = some slot →
    (s.ctx c).st ≠ .preempted → k ≤ p.current + s.rdN .paceWindow c.val →
    releaseAt (s.ctx c).t0 (s.ctx c).lag p.slots k ≤ (s.now : Int) →
    exec (.paceRelease c) s =
      .next ((s.setCtx c { s.ctx c with plan := some { p with released := k + 1 } }).arrive c slot.releaseBar.toNat).kick

/-- `COMMIT_TIMEOUT`: the `COMMIT` of a context that waits for its token fails with `FABRIC_LOST`; the clock stands while the
context is PREEMPTED. -/
def Sys2Proof.Claim.CommitTimesOut : Prop :=
  ∀ (c : CtxId) (s : State) (i : Item),
    (s.items.find? fun i => i.ctx == c && i.desc.opcode = 11 && i.phase = .working && i.pos = [1]) = some i →
    ((s.ctx c).st ≠ .preempted → exec (.commitTimeout c) s = .next (s.failItem i 0x34)) ∧
    ((s.ctx c).st = .preempted → exec (.commitTimeout c) s = .next s)

/-- Items commit with their arrival and record, the pacer releases slots, a lost token fails its COMMIT. -/
def Obligations.CommitAndPace : Prop :=
  Sys2Proof.Claim.FinishedItemCommits ∧ Sys2Proof.Claim.CommitMakesArrival ∧ Sys2Proof.Claim.PacerReleases ∧
  Sys2Proof.Claim.CommitTimesOut

/-- `SPEC_VERIFY` of an engine whose pass is in doubt: with `FINAL_BAR` open the pass is compared and counted, or what stops the
comparison stops the item, and the `TILE` goes on; with it closed the pass stays in doubt. -/
def Sys2Proof.Claim.PassVerified : Prop :=
  ∀ (r : ItemRef) (core : CoreId) (waited : Nat) (s : State) (i : Item) (run : TileRun),
    s.item r = some i → i.phase = .working → (i.tile.runs.find? fun x => x.core = core.val && x.spec) = some run →
    let t := i.tile.tabs.cfg i.desc
    (∀ u : State, s.final i t = true → s.verifyRun i t run waited = .ok u →
      exec (.specVerify r core waited) s = .next (u.kickItem i)) ∧
    (∀ why : Stop, s.final i t = true → s.verifyRun i t run waited = .error why →
      exec (.specVerify r core waited) s = .next ((s.stopItem i why).kickItem i)) ∧
    (s.final i t = false → exec (.specVerify r core waited) s = .next (s.kickItem i))

/-- `CONSERVATOR_COMPARE`: a sampled tile that is not compared yet is compared; any other names nothing. -/
def Sys2Proof.Claim.TileCompared : Prop :=
  ∀ (r : ItemRef) (tile : Nat) (s : State) (i : Item), s.item r = some i →
    ((∃ run ∈ i.tile.checks, run.tile = tile) → exec (.conservatorCompare r tile) s = .next (s.compareTile i tile)) ∧
    ((∀ run ∈ i.tile.checks, run.tile ≠ tile) → exec (.conservatorCompare r tile) s = .next s)

/-- `STREAM_TRANSLATED`: a STARTING engine whose regular program is translated holds its pages and runs. -/
def Sys2Proof.Claim.TranslatedEngineRuns : Prop :=
  ∀ (e : EngineId) (s : State) (p : StreamProg) (pages : List (Nat × Nat)),
    (s.engine e.val).st = .starting → (s.engine e.val).active = some p → s.atWork p = true → s.translateAll p = .ok pages →
    exec (.streamTranslated e) s = .next
      (((s.setEngine e.val { s.engine e.val with st := .running, active := some { p with pages := pages } }).pump e.val).kick)

/-- `STREAM_PROGRAM_END`: with every line of its program delivered a running engine's item commits with its transfers, and its
demand is released; the engine is IDLE when it has no shadow, and a shadow whose item is at work becomes active. -/
def Sys2Proof.Claim.ProgramEndCommits : Prop :=
  ∀ (e : EngineId) (s : State) (p : StreamProg) (i : Item),
    (s.engine e.val).st = .running → (s.engine e.val).active = some p → p.through = true → s.atWork p = true →
    s.streamItem p = some i →
    let t := ((s.setEngine e.val { s.engine e.val with st := .idle, active := none }).releaseDemand p.demand).commitItem i 0 p.transfer
    ((s.engine e.val).shadow = none → exec (.streamProgramEnd e) s = .next t.kick) ∧
    (∀ (q : StreamProg) (k : Item), (s.engine e.val).shadow = some q → (t.engine e.val).st = .idle → t.streamItem q = some k →
      k.phase = .working → exec (.streamProgramEnd e) s = .next (t.activate e.val q).kick)

/-- `ARBITRATION_WINDOW` changes no result: arbitration decides timing alone. -/
def Sys2Proof.Claim.ArbitrationChangesNothing : Prop := ∀ s : State, exec .arbitrationWindow s = .next s

/-- Verification, comparison, translation and the end of a stream program; arbitration changes no result. -/
def Obligations.EnginesGoOn : Prop :=
  Sys2Proof.Claim.PassVerified ∧ Sys2Proof.Claim.TileCompared ∧ Sys2Proof.Claim.TranslatedEngineRuns ∧
  Sys2Proof.Claim.ProgramEndCommits ∧ Sys2Proof.Claim.ArbitrationChangesNothing

/-- An operation at a queue acts by itself: none of the same edge came before it, and the next command joins it by none (R222). -/
def Sys2Proof.Machine.State.ActsAlone (s : State) (q : QueueId) : Prop := s.joined q = false ∧ ∀ e ∈ s.acts, e.1 ≠ q

/-- `MARK` sets the mark at the read counter, with what a feeder has expanded of the line there, and `UNMARK` clears it; every other
queue and all else stay. -/
def Sys2Proof.Claim.MarkAndUnmark : Prop :=
  ∀ (q : QueueId) (joins : Bool) (s : State), s.ActsAlone q →
    ∃ t u : State, exec (.mark ⟨q, joins⟩) s = .next t ∧ exec (.unmark ⟨q, joins⟩) s = .next u ∧
      t.queue (queueIx q) =
        { s.queue (queueIx q) with mark := some (s.queue (queueIx q)).rd, moff := (s.queue (queueIx q)).off } ∧
      u.queue (queueIx q) = { s.queue (queueIx q) with mark := none } ∧
      (∀ k : Nat, k ≠ queueIx q → t.queue k = s.queue k ∧ u.queue k = s.queue k) ∧
      t = { s with queues := t.queues } ∧ u = { s with queues := u.queues }

/-- `REWIND` with a mark sets the read counter back to it and keeps the mark, counted for the context that owns the queue;
without a mark it is counted as misuse and does nothing else. -/
def Sys2Proof.Claim.RewindToMark : Prop :=
  ∀ (q : QueueId) (joins : Bool) (s : State) (m : W32) (c : CtxId), s.ActsAlone q →
    (s.queueCtx q = some c → (s.queue (queueIx q)).mark = none →
      exec (.rewind ⟨q, joins⟩) s = .next (s.tally .queueMisuseCnt c.val .queueStatus c.val 1)) ∧
    ((s.queue (queueIx q)).mark = some m →
      let t := s.setQueue (queueIx q) { s.queue (queueIx q) with rd := m, off := (s.queue (queueIx q)).moff }
      t.queueCtx q = some c → exec (.rewind ⟨q, joins⟩) s = .next (t.tally .queueRewindCnt c.val .queueStatus c.val 2))

/-- `RELEASE` of n lines frees as many of them as lie before the mark, or before the read counter; a larger n is clamped and
counted as misuse. The producer delivers into the room. -/
def Sys2Proof.Claim.ReleaseClamps : Prop :=
  ∀ (q : QueueId) (joins : Bool) (n : W32) (s : State), s.ActsAlone q →
    (n.toNat ≤ (s.queue (queueIx q)).releasable → exec (.release ⟨q, joins⟩ n) s =
      .next (((s.setQueue (queueIx q) ((s.queue (queueIx q)).free n.toNat)).pumpQueue (queueIx q)).kick)) ∧
    ((s.queue (queueIx q)).releasable < n.toNat → exec (.release ⟨q, joins⟩ n) s =
      .next ((((s.setQueue (queueIx q) ((s.queue (queueIx q)).free (s.queue (queueIx q)).releasable)).misuse q).pumpQueue
        (queueIx q)).kick))

/-- `QUEUE_READ` of a queue with an unread line returns the line at the read counter with its tag, and the counter advances; of a
queue that has none it answers the idle item; a consumer that needs a line waits for the next of an irregular program, and misses the
deadline of a regular one. A consumer that waits for priming reads nothing. -/
def Sys2Proof.Claim.QueueReadTakesLine : Prop :=
  ∀ (q : QueueId) (need joins : Bool) (s : State), s.ActsAlone q →
    let x := s.queue (queueIx q)
    let regular := (s.producer (queueIx q)).any fun e => e.2.regular
    let idle := s.emit (.queueItem (zeros 64) 0)
    (x.prime = none → x.unread ≠ 0 → ∃ t : State, exec (.queueRead ⟨q, need, joins⟩) s = .next t ∧
      t.out = s.out ++ [.queueItem x.front.payload x.front.tag] ∧
      t.queue (queueIx q) = { x with rd := x.rd + 1, off := 0, waits := false } ∧
      (∀ k : Nat, k ≠ queueIx q → t.queue k = s.queue k) ∧ t = { s with queues := t.queues, out := t.out }) ∧
    (x.prime = none → x.unread = 0 →
      (need = false → exec (.queueRead ⟨q, need, joins⟩) s = .next idle) ∧
      (need = true → regular = true → exec (.queueRead ⟨q, need, joins⟩) s = .next (idle.missedRead q)) ∧
      (need = true → regular = false →
        exec (.queueRead ⟨q, need, joins⟩) s = .next (idle.setQueue (queueIx q) { x with waits := true }))) ∧
    (x.prime ≠ none →
      (need = false → exec (.queueRead ⟨q, need, joins⟩) s = .next s) ∧
      (need = true → exec (.queueRead ⟨q, need, joins⟩) s = .next (s.setQueue (queueIx q) { x with waits := true })))

/-- The operations of one edge at a queue wait for the last of them and act in the order of R222, whatever the order they came in: a
`RELEASE` acts before an `UNMARK`, a `REWIND`, a `MARK` and a read that came before it. -/
def Sys2Proof.Claim.EdgeOrder : Prop :=
  ∀ (q : QueueId) (joins : Bool) (n : W32) (a : QueueAct) (s : State),
    (s.joined q = true → exec (.release ⟨q, joins⟩ n) s = .next { s with acts := s.acts ++ [(q, .release n)] } ∧
      exec (.unmark ⟨q, joins⟩) s = .next { s with acts := s.acts ++ [(q, .unmark)] }) ∧
    (s.joined q = false → s.acts = [(q, a)] → a.rank ≠ 0 → exec (.release ⟨q, joins⟩ n) s =
      .next (((((({ s with acts := [] } : State).actRelease q n).act (q, a)).pumpQueue (queueIx q)).kick)))

/-- MARK, UNMARK, REWIND, RELEASE and a queue read act on their queue, in the order of their edge. -/
def Obligations.StreamQueues : Prop :=
  Sys2Proof.Claim.MarkAndUnmark ∧ Sys2Proof.Claim.RewindToMark ∧ Sys2Proof.Claim.ReleaseClamps ∧
  Sys2Proof.Claim.QueueReadTakesLine ∧ Sys2Proof.Claim.EdgeOrder

/-- `VITRINE_COPY_DONE` of a copy that is COPYING and not copied yet: the row's bytes stand in its slot, and the copy is done. -/
def Sys2Proof.Claim.VitrineCopied : Prop :=
  ∀ (c : CtxId) (coll : BitVec 48) (row : W32) (s t u : State) (p : Pend) (v : Resid),
    (s.pend.find? fun p => p.isOf c coll.toNat row.toNat) = some p →
    s.resid (.unit p.ctx p.cluster) p.coln p.row = .ok v → v.state = 1 → v.done = false →
    s.copyRow p = .ok t → t.setResid (.unit p.ctx p.cluster) p.coln p.row { v with done := true } = .ok u →
    exec (.vitrineCopyDone c coll row) s = .next u.kick

/-- `MMU_INVAL` starts an invalidation of an aligned range; during one it is refused, and so is a start that is not a multiple
of 64 KiB. -/
def Sys2Proof.Claim.InvalidationStarts : Prop :=
  ∀ (c : CtxId) (va count : W64) (s : State),
    ((s.ctx c).inval = none → va.toNat % 65536 = 0 → exec (.mmuInval c va count) s =
      .next (s.setCtx c { s.ctx c with inval := some (va.toNat % 2 ^ 48, count.toNat) })) ∧
    ((s.ctx c).inval ≠ none ∨ va.toNat % 65536 ≠ 0 → exec (.mmuInval c va count) s =
      .next (s.tally .igcorRefuseCnt 0 .igcorStatus 0 2))

/-- `INVAL_DONE` clears the invalidation once nothing that runs holds a translation of its range; from then on no walk of the
context in that range uses an entry from before the memory writes so far. -/
def Sys2Proof.Claim.InvalidationEnds : Prop :=
  ∀ (c : CtxId) (s : State) (va units : Nat), (s.ctx c).inval = some (va, units) →
    (s.holdsPages c va units = false → ∃ t : State, exec (.invalDone c) s = .next t ∧
      t.ctx c = { s.ctx c with inval := none } ∧ (∀ c' : CtxId, c' ≠ c → t.ctx c' = s.ctx c') ∧
      (∀ a : Nat, va ≤ a → a < va + units * 65536 → s.writes ≤ t.purgedAt c a) ∧
      t.purged = s.purged ++ [(c, va, units * 65536, s.writes)] ∧
      t = { s with ctxs := t.ctxs, purged := t.purged }) ∧
    (s.holdsPages c va units = true → exec (.invalDone c) s = .next s)

/-- `HBM_SCRUB_PASS`: each finding in HBM is counted, a corrected one by its class and its pseudo-channel, an uncorrectable one
by its class and left poisoned; then `HBM_PC_DEGRADED` is raised for each pseudo-channel with more corrected words than the
threshold. A pass that finds nothing changes nothing. -/
def Sys2Proof.Claim.ScrubFindings : Prop :=
  ∀ (found : List ScrubFinding) (pa : BitVec 42) (s : State),
    exec (.hbmScrubPass found) s = .next
      ((((hbmFindings found).foldl State.scrubbed s).degradedPcs (s.correctedPcs found)).foldl State.raiseDegraded
        ((hbmFindings found).foldl State.scrubbed s)) ∧
    exec (.hbmScrubPass []) s = .next s ∧
    (pa.toNat < 0x24000000000 →
      exec (.hbmScrubPass [.uncorrectable pa]) s = .next ((s.foundUe pa.toNat).poisonWord (pa.toNat / 4)) ∧
      (1 ≤ (s.scrubbed (.corrected pa)).rdN .pcDegradeThresh → exec (.hbmScrubPass [.corrected pa]) s =
        .next ((s.foundCorrected pa.toNat).count .hbmPcCorr 0 ((s.foundCorrected pa.toNat).servingPc pa.toNat))))

/-- `RETIRE_COPY_DONE` takes a die's retirement from copying to done, and counts each poisoned word that the copy wrote. -/
def Sys2Proof.Claim.RetirementDone : Prop :=
  ∀ (d : DieId) (s : State), s.rdN .retireState 0 d.val = 1 → ∃ t : State, exec (.retireCopyDone d) s = .next t ∧
    t.rdN .retireState 0 d.val = 2 ∧ t.rdN .hbmPoisonCnt = (s.rdN .hbmPoisonCnt + s.copiedPoison d.val) % 2 ^ 32 ∧
    (∀ (o : Obj) (n e : Nat), regCode o n e ≠ regCode .hbmPoisonCnt 0 0 → regCode o n e ≠ regCode .retireState 0 d.val →
      t.rd o n e = s.rd o n e) ∧
    t = { s with regs := t.regs }

/-- Vitrine copies, invalidations, the scrubber's findings and the end of a retirement. -/
def Obligations.MemoryService : Prop :=
  Sys2Proof.Claim.VitrineCopied ∧ Sys2Proof.Claim.InvalidationStarts ∧ Sys2Proof.Claim.InvalidationEnds ∧
  Sys2Proof.Claim.ScrubFindings ∧ Sys2Proof.Claim.RetirementDone

/-- `SIGNAL_DETECT`: a DOWN port in use with signal on every lane that is not disabled trains; else the lanes are noted alone. -/
def Sys2Proof.Claim.SignalTrains : Prop :=
  ∀ (p : PortId) (lanes : BitVec 4) (s : State),
    let t := s.setPort p.val { s.port p.val with signal := lanes }
    ((s.port p.val).st = 1 → s.portEnabled p.val = true → (lanes ||| (s.rd .laneDisable p.val).truncate 4) = 0xF →
      exec (.signalDetect p lanes) s =
        .next (t.setPort p.val ({ s.port p.val with signal := lanes } : Port).training)) ∧
    ((s.port p.val).st ≠ 1 ∨ s.portEnabled p.val = false ∨ (lanes ||| (s.rd .laneDisable p.val).truncate 4) ≠ 0xF →
      exec (.signalDetect p lanes) s = .next t)

/-- `LINK_RETRY_TIMER`: a DOWN port in use whose lanes have signal trains again. -/
def Sys2Proof.Claim.RetryTrains : Prop :=
  ∀ (p : PortId) (s : State), (s.port p.val).st = 1 → s.portEnabled p.val = true →
    ((s.port p.val).signal ||| (s.rd .laneDisable p.val).truncate 4) = 0xF →
    exec (.linkRetryTimer p) s = .next (s.setPort p.val (s.port p.val).training)

/-- Training moves a port from TRAIN (2) to ALIGN (3) when it converges and back to DOWN (1) at its timeout; alignment moves it
to VERIFY (4), with its `IDENT` sent, or back to DOWN; nothing else of the port changes. -/
def Sys2Proof.Claim.TrainingMoves : Prop :=
  ∀ (p : PortId) (s : State),
    ((s.port p.val).st = 2 →
      exec (.trainConverged p) s = .next (s.setPort p.val { s.port p.val with st := 3 }) ∧
      exec (.trainTimeout p) s = .next (s.setPort p.val { s.port p.val with st := 1 })) ∧
    ((s.port p.val).st = 3 →
      exec (.alignDone p) s = .next ((s.setPort p.val { s.port p.val with st := 4 }).sendIdent p) ∧
      exec (.alignTimeout p) s = .next (s.setPort p.val { s.port p.val with st := 1 })) ∧
    ((s.port p.val).st ≠ 2 → exec (.trainConverged p) s = .next s ∧ exec (.trainTimeout p) s = .next s) ∧
    ((s.port p.val).st ≠ 3 → exec (.alignDone p) s = .next s ∧ exec (.alignTimeout p) s = .next s)

/-- `IDENT` in VERIFY: a peer that agrees is recorded in `PORT_PEER` and the port goes UP, or UP3 with a lane off, and its
traffic goes on; one that does not agree makes the port FAILED, and so does `VERIFY_TIMEOUT`. -/
def Sys2Proof.Claim.IdentVerifies : Prop :=
  ∀ (p : PortId) (domain : W64) (coord dims : BitVec 16) (peerPort : Byte) (s : State), (s.port p.val).st = 4 →
    let t := s.wrN .portPeer p.val 0 (2 ^ 31 + peerPort.toNat % 16 * 2 ^ 16 + coord.toNat)
    (s.identOk p.val domain coord dims peerPort = true → t.lanesOff p.val = 0 →
      exec (.ident p domain coord dims peerPort) s = .next ((t.toUp p.val).portGoes p.val)) ∧
    (s.identOk p.val domain coord dims peerPort = true → t.lanesOff p.val ≠ 0 →
      exec (.ident p domain coord dims peerPort) s = .next ((t.toUp3 p.val (lowLane (t.lanesOff p.val))).portGoes p.val)) ∧
    (s.identOk p.val domain coord dims peerPort = false →
      exec (.ident p domain coord dims peerPort) s = .next (s.miswired p.val)) ∧
    exec (.verifyTimeout p) s = .next (s.miswired p.val)

/-- A link that fails verification is FAILED (7), counted in `LINK_MISWIRE_CNT`, and raised. -/
def Sys2Proof.Claim.MiswiredFails : Prop :=
  ∀ (p : Nat) (s : State), ((s.miswired p).port p).st = 7 ∧
    s.miswired p = ((s.setPort p { s.port p with st := 7 }).tally .linkMiswireCnt 0 .shxStatus 0 2).raise 0x21 none p

/-- A port trains, aligns and verifies, and fails verification. -/
def Obligations.LinkTraining : Prop :=
  Sys2Proof.Claim.SignalTrains ∧ Sys2Proof.Claim.RetryTrains ∧ Sys2Proof.Claim.TrainingMoves ∧
  Sys2Proof.Claim.IdentVerifies ∧ Sys2Proof.Claim.MiswiredFails

/-- `LANE_LOCK_LOSS`: the first lane in use that an UP port loses starts the exchange for three lanes, unless one is under way; two
of it, or any of an UP3 port, take the link down; a port that is neither, and a lane that is not in use, note it alone. -/
def Sys2Proof.Claim.LaneLossNarrows : Prop :=
  ∀ (p : PortId) (lane : Fin 4) (s : State),
    let x := s.port p.val
    let t := s.setPort p.val { x with lost := x.lost ||| BitVec.ofNat 4 (2 ^ lane.val) }
    let off := t.lanesOff p.val &&& x.lanes
    (x.st = 5 → laneCount off = 1 → x.asked = none → x.change = none →
      exec (.laneLockLoss p lane) s = .next (t.sendLaneChange p (~~~ off))) ∧
    (x.st = 5 → laneCount off = 1 → x.asked ≠ none ∨ x.change ≠ none → exec (.laneLockLoss p lane) s = .next t) ∧
    (x.st = 5 → 2 ≤ laneCount off → exec (.laneLockLoss p lane) s = .next (t.linkDown p.val)) ∧
    (x.st = 6 → off ≠ 0 → exec (.laneLockLoss p lane) s = .next (t.linkDown p.val)) ∧
    ((x.st ≠ 5 ∧ x.st ≠ 6) ∨ off = 0 → exec (.laneLockLoss p lane) s = .next t)

/-- `LANE_RESTORED`: in UP3, with every lane there again, the port asks its peer for the change back; else the lane is noted. -/
def Sys2Proof.Claim.LaneRestoredAsks : Prop :=
  ∀ (p : PortId) (lane : Fin 4) (s : State),
    let t := s.setPort p.val { s.port p.val with lost := (s.port p.val).lost &&& ~~~ BitVec.ofNat 4 (2 ^ lane.val) }
    ((s.port p.val).st = 6 → t.lanesOff p.val = 0 → exec (.laneRestored p lane) s = .next (t.sendLaneChange p 0xF)) ∧
    ((s.port p.val).st ≠ 6 ∨ t.lanesOff p.val ≠ 0 → exec (.laneRestored p lane) s = .next t)

/-- `LANE_DISABLE` takes at most one lane: another value is refused and changes nothing else; a FAILED port that takes one goes
DOWN. On a port that is neither UP, UP3 nor FAILED the entry alone is written. -/
def Sys2Proof.Claim.LaneDisableWrite : Prop :=
  ∀ (p : PortId) (v : Byte) (s : State),
    (v ∉ ([0, 1, 2, 4, 8] : List Byte) → exec (.laneDisable p v) s = .next (s.tally .igcorRefuseCnt 0 .igcorStatus 0 2)) ∧
    (v ∈ ([0, 1, 2, 4, 8] : List Byte) → (s.port p.val).st = 7 → exec (.laneDisable p v) s =
      .next ((s.wrN .laneDisable p.val 0 v.toNat).setPort p.val { s.port p.val with st := 1 })) ∧
    (v ∈ ([0, 1, 2, 4, 8] : List Byte) → (s.port p.val).st < 5 → exec (.laneDisable p v) s =
      .next (s.wrN .laneDisable p.val 0 v.toNat))

/-- `LANE_CHANGE`: the answer to what this end asked for agrees the change at a codeword that this end sends; the peer's own wish, for
three lanes of an UP port or for the four of an UP3 port that has them all, is answered and agreed at a codeword that it sends; any
other does nothing. -/
def Sys2Proof.Claim.LaneChangeFollows : Prop :=
  ∀ (p : PortId) (seq : BitVec 10) (lanes : BitVec 4) (s : State),
    let x := s.port p.val
    let mayFollow := (x.st = 5 ∧ laneCount lanes = 3) ∨ (x.st = 6 ∧ lanes = 0xF ∧ s.lanesOff p.val = 0)
    (x.asked = some (seq, lanes) → exec (.laneChange p seq lanes) s = .next (s.agreeLanes p true seq lanes)) ∧
    (x.asked ≠ some (seq, lanes) → mayFollow → exec (.laneChange p seq lanes) s =
      .next ((s.tellLanes p seq lanes).agreeLanes p false seq lanes)) ∧
    (x.asked ≠ some (seq, lanes) → ¬ mayFollow → exec (.laneChange p seq lanes) s = .next s)

/-- A change that is agreed takes effect with the codeword that both ends named: before it the port only keeps the change, and from it
on the port is UP3 with three lanes, or UP with four. -/
def Sys2Proof.Claim.WidthChangesAtCodeword : Prop :=
  ∀ (p : PortId) (own : Bool) (seq : BitVec 10) (lanes : BitVec 4) (s : State),
    let x := s.port p.val
    let next := if own then x.txNext else x.rxNext
    let t := s.setPort p.val { x with asked := none, change := some (own, seq, lanes) }
    let u := t.setPort p.val { x with asked := none, change := none }
    (512 ≤ (next - seq).toNat → s.agreeLanes p own seq lanes = t) ∧
    ((next - seq).toNat < 512 → laneCount lanes = 3 →
      s.agreeLanes p own seq lanes = (u.toUp3 p.val (lowLane (~~~ lanes))).loseLanes p) ∧
    ((next - seq).toNat < 512 → laneCount lanes ≠ 3 → s.agreeLanes p own seq lanes = (u.toUp p.val).portGoes p.val)

/-- `LANE_SYMBOL_RATE_WINDOW`: a lane above `LANE_DEGRADE_THRESH` is raised; with none above it nothing changes. -/
def Sys2Proof.Claim.LaneRateRaises : Prop :=
  ∀ (p : PortId) (l0 l1 l2 l3 : W32) (s : State),
    let rates : List W32 := [l0, l1, l2, l3]
    ((∀ r ∈ rates, r.toNat ≤ s.rdN .laneDegradeThresh) → exec (.laneSymbolRateWindow p l0 l1 l2 l3) s = .next s) ∧
    (∀ k : Fin 4, s.rdN .laneDegradeThresh < (rates.getD k.val 0).toNat →
      (∀ j : Fin 4, j ≠ k → (rates.getD j.val 0).toNat ≤ s.rdN .laneDegradeThresh) →
      exec (.laneSymbolRateWindow p l0 l1 l2 l3) s = .next (s.laneDegraded p.val k.val))

/-- `CODEWORD` on a trained port: one that cannot be decoded is counted and starts the skipping; a decoded one out of sequence
is counted for its corrected symbols and skipped; the expected one moves the sequence on and acknowledges. Each is answered with a
codeword that shows the acknowledgement. On a port that is not trained nothing happens. -/
def Sys2Proof.Claim.CodewordSequence : Prop :=
  ∀ (p : PortId) (seq ack : BitVec 10) (decoded : Bool) (corrected : BitVec 4) (s : State),
    (3 ≤ (s.port p.val).st → (s.port p.val).st < 7 →
      exec (.codeword p seq ack false corrected) s =
        .next (((s.setPort p.val { s.port p.val with rxSkip := true }).count .fecUncorrCnt p.val).answerWord p) ∧
      (seq ≠ (s.port p.val).rxNext → exec (.codeword p seq ack true corrected) s =
        .next (((s.count .fecCorrSymCnt p.val 0 corrected.toNat).setPort p.val
          { s.port p.val with rxSkip := true }).answerWord p)) ∧
      (seq = (s.port p.val).rxNext → exec (.codeword p seq ack true corrected) s =
        .next ((((s.count .fecCorrSymCnt p.val 0 corrected.toNat).setPort p.val
          { s.port p.val with rxSkip := false, rxNext := (s.port p.val).rxNext + 1 }).acknowledge p ack).answerWord p))) ∧
    ((s.port p.val).st < 3 ∨ 7 ≤ (s.port p.val).st → exec (.codeword p seq ack decoded corrected) s = .next s)

/-- `CREDIT` gives link credit of one pair back, up to the receiver's buffer, and what the port holds goes on. -/
def Sys2Proof.Claim.CreditReturns : Prop :=
  ∀ (p : PortId) (vc : BitVec 2) (dl : Bool) (granules : Nat) (s : State),
    exec (.credit p vc dl granules) s = .next ((s.setPort p.val { s.port p.val with
      credits := (s.port p.val).credits.set (2 * vc.toNat + dl.toNat)
        (min 1024 ((s.port p.val).credits.getD (2 * vc.toNat + dl.toNat) 0 + granules)) }).portGoes p.val)

/-- `SHX_HOP_TIMEOUT`: with both ports of a direction down the oldest packet held is discarded and counted, and the buffer that it
came in is free; with one of them up, or none held, nothing happens. -/
def Sys2Proof.Claim.HopTimeoutDrops : Prop :=
  ∀ (p : PortId) (s : State) (k : Packet) (rest : List Packet),
    ((s.port p.val).held = k :: rest → s.portUp p.val = false → (∀ q, siblingOf p.val = some q → s.portUp q = false) →
      exec (.shxHopTimeout p) s =
        .next (((((s.setPort p.val { s.port p.val with held := rest }).giveBack k).fabricDrop).drainSends).kick)) ∧
    ((s.port p.val).held = [] ∨ s.portUp p.val = true ∨ (∃ q, siblingOf p.val = some q ∧ s.portUp q = true) →
      exec (.shxHopTimeout p) s = .next s)

/-- Lanes narrow and widen a port, codewords keep their sequence, credit returns, held packets time out. -/
def Obligations.LanesAndCodewords : Prop :=
  Sys2Proof.Claim.LaneLossNarrows ∧ Sys2Proof.Claim.LaneRestoredAsks ∧ Sys2Proof.Claim.LaneDisableWrite ∧
  Sys2Proof.Claim.LaneChangeFollows ∧ Sys2Proof.Claim.WidthChangesAtCodeword ∧ Sys2Proof.Claim.LaneRateRaises ∧ Sys2Proof.Claim.CodewordSequence ∧
  Sys2Proof.Claim.CreditReturns ∧ Sys2Proof.Claim.HopTimeoutDrops

/-- The fabric takes a packet: it is no repetition of one that the failed port of its direction delivered, and its type is known. -/
def Sys2Proof.Machine.State.Admits (s : State) (k : Packet) : Prop := s.again k = false ∧ knownType k.type = true

/-- A packet reaches the module for itself, whole: the fabric takes it, after it went on where others await it the module is its
destination, or a member that its broadcast names, and its CRC holds. -/
def Sys2Proof.Machine.State.Hears (s : State) (k : Packet) : Prop :=
  s.Admits k ∧ (s.allowIn k).isHere k = true ∧ k.good = true

/-- A packet that the module hears is of its epoch and from one of its members. -/
def Sys2Proof.Machine.State.HearsMember (s : State) (k : Packet) : Prop := s.Hears k ∧ (s.allowIn k).current? k = true

/-- A collective or token packet that is heard from another epoch or from no member, or whose CRC fails, is discarded and
counted in `FABRIC_DROP_CNT`. -/
def Sys2Proof.Claim.ForeignPacketsDropped : Prop :=
  ∀ (k : Packet) (s : State), s.Admits k → (s.allowIn k).isHere k = true → k.good = false ∨ (s.allowIn k).current? k = false →
    let u := (s.allowIn k).fabricDrop
    exec (.redHdr k) s = .next u.kick ∧ exec (.redDense k) s = .next u.kick ∧ exec (.redSparse k) s = .next u.kick ∧
    exec (.redResult k) s = .next u.kick ∧ exec (.collAbort k) s = .next u.kick ∧ exec (.commitToken k) s = .next u ∧
    exec (.mismatchReport k) s = .next u ∧ exec (.verdict k) s = .next u

/-- A packet of a reserved type is discarded and counted, and one that repeats what the failed port had delivered is discarded; its
buffer is free, and nothing else happens for it. -/
def Sys2Proof.Claim.RepetitionsDropped : Prop :=
  ∀ (k : Packet) (s : State),
    let u := (s.landed k).1.giveBack (s.landed k).2
    (s.again k = true → exec (.commitToken k) s = .next u ∧ exec (.depotWr k) s = .next u ∧ exec (.prune k) s = .next u ∧
      exec (.tunWr k) s = .next u ∧ exec (.applyPrep k) s = .next u) ∧
    (s.again k = false → knownType k.type = false → exec (.commitToken k) s = .next u.fabricDrop ∧
      exec (.depotWr k) s = .next u.fabricDrop ∧ exec (.prune k) s = .next u.fabricDrop ∧
      exec (.tunWr k) s = .next u.fabricDrop ∧ exec (.applyPrep k) s = .next u.fabricDrop)

/-- A packet in transit goes on by its coordinates, and the module does nothing else for it: a packet whose port of arrival is not
given goes on as it is, another with the buffer noted that it holds. -/
def Sys2Proof.Claim.TransitGoesOn : Prop :=
  ∀ (p : PortId) (k : Packet) (s : State), k.dstRank ≠ 0xFFFF → k.dst ≠ s.rdN .shxCoord →
    (s.Admits k → k.dst ≠ (s.allowIn k).rdN .shxCoord →
      exec (.commitToken k) s = .next (s.allowIn k) ∧ exec (.applyVote k) s = .next (s.allowIn k) ∧
      exec (.depotWr k) s = .next (s.allowIn k) ∧ exec (.depotRd k) s = .next (s.allowIn k) ∧
      exec (.prune k) s = .next (s.allowIn k)) ∧
    (let k' : Packet := { k with via := some (p, 0) }
     s.Admits k' → k.dst ≠ (s.allowIn k').rdN .shxCoord → exec (.mcast p k) s = .next (s.allowIn k')) ∧
    (k.via = none → s.allowIn k = s.forward k)

/-- Foreign and bad packets are dropped and counted; transit packets only go on. -/
def Obligations.PacketsJudged : Prop :=
  Sys2Proof.Claim.ForeignPacketsDropped ∧ Sys2Proof.Claim.RepetitionsDropped ∧ Sys2Proof.Claim.TransitGoesOn

/-- `RED_HDR` from a member is kept by its rank for its reduction; a fenced module answers it with `COLL_ABORT`. -/
def Sys2Proof.Claim.HeaderKept : Prop :=
  ∀ (k : Packet) (s : State), s.HearsMember k →
    let u := s.allowIn k
    (u.rdN .fenceState = 0 → exec (.redHdr k) s = .next (u.setColl { u.coll k.ctx k.opSeq with
      headers := ((u.coll k.ctx k.opSeq).headers.filter fun h => h.1 ≠ k.srcRank) ++ [(k.srcRank, wordsOf 8 k.data)] }).kick) ∧
    (u.rdN .fenceState ≠ 0 → exec (.redHdr k) s =
      .next (u.send k.srcRank (mkPacket 0x14 k.ctx (wordAt k.data 0) k.opSeq [])).kick)

/-- `RED_DENSE`, `RED_SPARSE` and `RED_RESULT` from a member are kept for their reduction, and what waits for them goes on; a
fenced module keeps none. -/
def Sys2Proof.Claim.PartialsKept : Prop :=
  ∀ (k : Packet) (s : State), s.HearsMember k →
    let u := s.allowIn k
    let t := if u.rdN .fenceState = 0 then
        (u.setColl { u.coll k.ctx k.opSeq with parts := (u.coll k.ctx k.opSeq).parts ++ [k] }).kick
      else u.kick
    exec (.redDense k) s = .next t ∧ exec (.redSparse k) s = .next t ∧ exec (.redResult k) s = .next t

/-- `COLL_ABORT` for a reduction that is over here changes nothing; for another it is noted, with whether it was for headers that
disagree, and the `REDUCE` that it names fails: with `STEP_MISMATCH` then, or where the headers that have come disagree, else with
`FABRIC_LOST`; what was received for it is forgotten. One that has not issued fails when it does. -/
def Sys2Proof.Claim.AbortFailsReduce : Prop :=
  ∀ (k : Packet) (s : State), s.HearsMember k →
    let u := s.allowIn k
    let v := u.setColl { u.coll k.ctx k.opSeq with aborted := true, mismatch := decide (wordAt k.data 0 = 2) }
    let named := v.items.find? fun i =>
      i.ctx == k.ctx && i.desc.opcode = 9 && i.step = k.w2 && v.redOrder i = k.opSeq && i.phase ≠ .committed
    (u.redOver k.ctx k.w2 k.opSeq = true → exec (.collAbort k) s = .next u.kick) ∧
    (u.redOver k.ctx k.w2 k.opSeq = false → named = none → exec (.collAbort k) s = .next v.kick) ∧
    (∀ i : Item, u.redOver k.ctx k.w2 k.opSeq = false → named = some i →
      let hs := (v.coll i.ctx (v.redOrder i)).headers.map Prod.snd
      let differ := (v.coll i.ctx (v.redOrder i)).mismatch = true ∨ ∃ h ∈ hs, redAgree h ≠ redAgree (hs.getD 0 [])
      (differ → exec (.collAbort k) s = .next ((v.dropColl i).stopItem i .mismatch).kick) ∧
      (¬ differ → exec (.collAbort k) s = .next ((v.dropColl i).stopItem i .lost).kick))

/-- `SHX_COLL_TIMEOUT`: the waiting or parked `REDUCE` of a context is aborted for all members, with reason 1, and fails here with
`FABRIC_LOST`, what was received for it forgotten; a context without one is not changed. -/
def Sys2Proof.Claim.CollTimeoutAborts : Prop :=
  ∀ (c : CtxId) (s : State),
    let waiting := s.items.find? fun i => i.ctx == c && i.desc.opcode = 9 && (i.phase = .working || i.isParked)
    (∀ i : Item, waiting = some i →
      exec (.shxCollTimeout c) s =
        .next (((s.abortColl i.ctx i.step (s.redOrder i) 1).dropColl i).stopItem i .lost)) ∧
    (waiting = none → exec (.shxCollTimeout c) s = .next s)

/-- Reduction packets are kept for their REDUCE; an abort or a timeout fails it. -/
def Obligations.Reductions : Prop :=
  Sys2Proof.Claim.HeaderKept ∧ Sys2Proof.Claim.PartialsKept ∧ Sys2Proof.Claim.AbortFailsReduce ∧
  Sys2Proof.Claim.CollTimeoutAborts

/-- A packet comes whole, from a member and of the epoch, to the module that it names: its type is known, it repeats no other, and its
CRC holds. -/
def Sys2Proof.Machine.State.ComesFromMember (s : State) (k : Packet) : Prop :=
  k.via = none ∧ knownType k.type = true ∧ k.dstRank ≠ 0xFFFF ∧ k.dst = s.rdN .shxCoord ∧ k.good = true ∧
    k.epoch = s.rdN .epoch ∧ s.isMember k.srcRank = true

/-- `RED_HDR`, `RED_DENSE`, `RED_SPARSE` and `RED_RESULT` that come from a member complete: outside a fence they are kept for their
reduction; a fenced module answers a header with `COLL_ABORT` and keeps no partial. -/
def Sys2Proof.Claim.ReductionPacketsComplete : Prop :=
  ∀ (k : Packet) (s : State), s.ComesFromMember k →
    let x := s.coll k.ctx k.opSeq
    (s.rdN .fenceState = 0 →
      exec (.redHdr k) s = .next (s.setColl { x with
        headers := (x.headers.filter fun h => h.1 ≠ k.srcRank) ++ [(k.srcRank, wordsOf 8 k.data)] }).kick ∧
      exec (.redDense k) s = .next (s.setColl { x with parts := x.parts ++ [k] }).kick ∧
      exec (.redSparse k) s = .next (s.setColl { x with parts := x.parts ++ [k] }).kick ∧
      exec (.redResult k) s = .next (s.setColl { x with parts := x.parts ++ [k] }).kick) ∧
    (s.rdN .fenceState ≠ 0 →
      exec (.redHdr k) s = .next (s.send k.srcRank (mkPacket 0x14 k.ctx (wordAt k.data 0) k.opSeq [])).kick ∧
      exec (.redDense k) s = .next s.kick ∧ exec (.redSparse k) s = .next s.kick ∧ exec (.redResult k) s = .next s.kick)

/-- `COLL_ABORT` that comes from a member completes: the reduction that it names is marked as aborted, the `REDUCE` of it that has not
committed fails, and what the module kept of it is gone; and `SHX_COLL_TIMEOUT` completes: the module aborts the `REDUCE` of the context
that waits for the fabric, and it fails. -/
def Sys2Proof.Claim.AbortsComplete : Prop :=
  (∀ (k : Packet) (s : State) (i : Item), s.ComesFromMember k → s.redOver k.ctx k.w2 k.opSeq = false →
    let t := s.setColl { s.coll k.ctx k.opSeq with aborted := true, mismatch := decide (wordAt k.data 0 = 2) }
    (t.items.find? fun i => i.ctx == k.ctx && i.desc.opcode = 9 && i.step = k.w2 && t.redOrder i = k.opSeq && i.phase ≠ .committed) =
      some i →
    exec (.collAbort k) s = .next (t.abortHere i).kick) ∧
  (∀ (c : CtxId) (s : State) (i : Item),
    (s.items.find? fun i => i.ctx == c && i.desc.opcode = 9 && (i.phase = .working || i.isParked)) = some i →
    exec (.shxCollTimeout c) s = .next (((s.abortColl i.ctx i.step (s.redOrder i) 1).dropColl i).stopItem i .lost) ∧
    (((s.abortColl i.ctx i.step (s.redOrder i) 1).rdN .collAbortCnt) = (s.rdN .collAbortCnt + 1) % 2 ^ 32))

/-- The packets of a reduction, its abort and its timeout complete. -/
def Obligations.ReductionsComplete : Prop :=
  Sys2Proof.Claim.ReductionPacketsComplete ∧ Sys2Proof.Claim.AbortsComplete

/-- `COMMIT_TOKEN` from a member is latched in `LAST_TOKEN` and for the `COMMIT` that waits for it, which goes on. -/
def Sys2Proof.Claim.TokenLatched : Prop :=
  ∀ (k : Packet) (s : State), s.HearsMember k →
    exec (.commitToken k) s = .next ((s.allowIn k).latchToken k.ctx (wordsOf 8 k.data)).kick ∧
    (((s.allowIn k).latchToken k.ctx (wordsOf 8 k.data)).ctx k.ctx).token = some (wordsOf 8 k.data)

/-- `MISMATCH_REPORT`: the first report of a step that the holder sent a token for opens a vote with its values; a further one
joins the open vote; one for a step without a token, or after the window, is counted late. -/
def Sys2Proof.Claim.ReportJoinsVote : Prop :=
  ∀ (k : Packet) (s : State), s.HearsMember k →
    let u := s.allowIn k
    let t := wordsOf 8 k.data
    let sent := u.surv.sent.any fun e => e.1 = k.ctx && e.2.getD 0 0 = t.getD 0 0
    let vote := u.surv.votes.find? fun v => v.ctx == k.ctx && v.step == t.getD 0 0
    (sent = false → exec (.mismatchReport k) s = .next (u.tally .lateReportCnt 0 .survStatus 0 8)) ∧
    (sent = true → vote = none → exec (.mismatchReport k) s = .next { u with surv := { u.surv with
      votes := u.surv.votes ++ [⟨k.ctx, t.getD 0 0, [(k.srcRank, tokenVals t)], true⟩] } }) ∧
    (∀ v : Vote, sent = true → vote = some v → v.isOpen = false →
      exec (.mismatchReport k) s = .next (u.tally .lateReportCnt 0 .survStatus 0 8)) ∧
    (∀ v : Vote, sent = true → vote = some v → v.isOpen = true →
      exec (.mismatchReport k) s = .next { u with
        surv := { u.surv with
          votes := u.surv.votes.map fun w =>
            if w.ctx == k.ctx && w.step == t.getD 0 0 then
              { w with reports := (k.srcRank, tokenVals t) :: w.reports.filter fun e => e.1 ≠ k.srcRank }
            else w } })

/-- `VERDICT` for a step that the member has compared: values that differ, or no winner, fence it; values that agree with a
comparison that failed set `VERDICT_CLEAR`. One for a step not compared yet is kept. One of all zeros names no step: a member that
has reported, or whose open step has been compared, takes it as that of its last comparison, and any other keeps it (DESIGN
CHOICE 156). -/
def Sys2Proof.Claim.VerdictActs : Prop :=
  ∀ (k : Packet) (s : State) (x : Compared), s.HearsMember k →
    let u := s.allowIn k
    let v := wordsOf 8 k.data
    let w : State := { u with surv := { u.surv with reported := u.surv.reported.filter fun d => d ≠ k.ctx } }
    let kept : State := { u with surv :=
      { u.surv with verdicts := (k.ctx, v) :: u.surv.verdicts.filter fun e => e.1 ≠ k.ctx } }
    let waits := u.uncompared k.ctx = true ∧ k.ctx ∉ u.surv.reported
    (noWinner v = false → u.comparedFor k.ctx (v.getD 0 0) = some x → tokenVals v ≠ x.vals →
      exec (.verdict k) s = .next (w.fenceNow 1)) ∧
    (noWinner v = false → u.comparedFor k.ctx (v.getD 0 0) = some x → tokenVals v = x.vals → x.failed = true →
      exec (.verdict k) s = .next (w.setFlag .survStatus 0 6)) ∧
    (noWinner v = false → u.comparedFor k.ctx (v.getD 0 0) = some x → tokenVals v = x.vals → x.failed = false →
      exec (.verdict k) s = .next w) ∧
    (noWinner v = false → u.comparedFor k.ctx (v.getD 0 0) = none → exec (.verdict k) s = .next kept) ∧
    (noWinner v = true → waits → exec (.verdict k) s = .next kept) ∧
    (noWinner v = true → ¬ waits → (u.surv.compared.find? fun x => x.ctx == k.ctx) = some x →
      exec (.verdict k) s = .next (w.fenceNow 1)) ∧
    (noWinner v = true → ¬ waits → (u.surv.compared.find? fun x => x.ctx == k.ctx) = none →
      exec (.verdict k) s = .next kept)

/-- `FENCE_VOTE_CLOSE`: the oldest open vote closes, its verdict is broadcast, and the holder acts on it as a member. -/
def Sys2Proof.Claim.VoteCloses : Prop :=
  ∀ (s : State) (v : Vote), s.surv.votes.find? Vote.isOpen = some v →
    let t : State := { s with
      surv := { s.surv with votes := s.surv.votes.map fun u =>
        (if u.ctx == v.ctx && u.step == v.step then { u with isOpen := false } else u) }
      fabric := { s.fabric with opSeq := s.fabric.opSeq + 1 } }
    exec .fenceVoteClose s =
      .next ((t.broadcast (tokenPacket v.ctx 2 s.fabric.opSeq.toNat (s.verdictOf v))).takeVerdict v.ctx (s.verdictOf v))

/-- The verdict of a vote: the values of the group that more than half of the members stand in, which is the only such group; all
zeros when no group is that large. -/
def Obligations.MajorityWins : Prop :=
  ∀ (s : State) (v : Vote),
    (∀ (g : List W64) (n : Nat),
      (s.voteGroups v).find? (fun g => s.memberList.length < 2 * g.2) = some (g, n) →
      s.verdictOf v = [g.getD 0 0, g.getD 1 0, g.getD 2 0, g.getD 3 0 <<< 32, 0, 0, 0, 0] ∧ s.memberList.length < 2 * n ∧
      ∀ (g' : List W64) (n' : Nat), (g', n') ∈ s.voteGroups v → s.memberList.length < 2 * n' → g' = g) ∧
    ((∀ (g : List W64) (n : Nat), (g, n) ∈ s.voteGroups v → 2 * n ≤ s.memberList.length) →
      s.verdictOf v = [0, 0, 0, 0, 0, 0, 0, 0])

/-- `VERDICT_TIMEOUT`: a reporter that still waits for a verdict fences. -/
def Sys2Proof.Claim.LateVerdictFences : Prop :=
  ∀ (c : CtxId) (s : State),
    (c ∈ s.surv.reported → exec (.verdictTimeout c) s = .next
      (({ s with surv := { s.surv with reported := s.surv.reported.filter fun d => d ≠ c } } : State).fenceNow 1)) ∧
    (c ∉ s.surv.reported → exec (.verdictTimeout c) s = .next s)

/-- `FENCE` shows its cause, is counted and raised, and stops every partition of every context that is not IDLE; a module that is
fenced already makes no new entry. `FENCE_CLEAR` is accepted while every context is IDLE, and refused otherwise. -/
def Sys2Proof.Claim.FenceAndClear : Prop :=
  ∀ s : State,
    (s.rdN .fenceState = 0 → exec .fence s =
      .next ((((s.wrN .fenceState 0 0 2).tally .fenceCnt 0 .survStatus 0 1).raise 0x04 none 2).stopAll
        fun x => decide (x.st ≠ .idle))) ∧
    (s.rdN .fenceState ≠ 0 → exec .fence s = .next s) ∧
    ((∀ c : CtxId, (s.ctx c).st = .idle) → exec .fenceClear s = .next (s.wrN .fenceState 0 0 0)) ∧
    (∀ c : CtxId, (s.ctx c).st ≠ .idle → exec .fenceClear s = .next (s.tally .igcorRefuseCnt 0 .igcorStatus 0 2))

/-- Commit tokens, mismatch votes and verdicts, and the fence. -/
def Obligations.TokensAndVotes : Prop :=
  Sys2Proof.Claim.TokenLatched ∧ Sys2Proof.Claim.ReportJoinsVote ∧ Sys2Proof.Claim.VerdictActs ∧
  Sys2Proof.Claim.VoteCloses ∧ Sys2Proof.Claim.LateVerdictFences ∧ Sys2Proof.Claim.FenceAndClear

/-- `DOMAIN_APPLY` at the holder, with a form that exists, no change under way, and for the time form an instant beyond the guard
and no change of membership: `APPLY_PREP` is broadcast, and the holder prepares and votes as a member. A module that is not the holder
refuses the write, and the holder one of another form, with a change under way or an image armed, or for the time form with an instant
within the guard or a change of membership. -/
def Sys2Proof.Claim.DomainApplyStarts : Prop :=
  ∀ (w0 w1 : W64) (s : State),
    let form : Byte := (w0 >>> 32).truncate 8
    let t := ({ s with fabric := { s.fabric with opSeq := s.fabric.opSeq + 1 } } : State).broadcast
      (mkPacket 0x21 0 0 s.fabric.opSeq.toNat (bytesOf [w0, w1]))
    let r := t.prepare (w0.truncate 32) form w1 true
    (s.isHolder = true → form.toNat ≤ 1 → s.fabric.apply = none → s.mgmt.armed = none →
      (form.toNat = 1 → s.rdN .globalTime + s.rdN .shxApplyGuard ≤ w1.toNat ∧ s.changesMembers = false) →
      exec (.domainApply w0 w1) s = .next (r.2.takeVote (r.2.rdN .shxRank) (w0.truncate 32) (BitVec.ofNat 32 r.1))) ∧
    (s.isHolder = false ∨ 1 < form.toNat ∨ s.fabric.apply ≠ none ∨ s.mgmt.armed ≠ none ∨
        (form.toNat = 1 ∧ (w1.toNat < s.rdN .globalTime + s.rdN .shxApplyGuard ∨ s.changesMembers = true)) →
      exec (.domainApply w0 w1) s = .next (s.tally .igcorRefuseCnt 0 .igcorStatus 0 2))

/-- `APPLY_PREP` at a member that is not fenced: it prepares, and answers with its vote; while an earlier change stands its vote is a
refusal (DESIGN CHOICE 37). A fenced module sends none. -/
def Sys2Proof.Claim.PrepareVotes : Prop :=
  ∀ (k : Packet) (s : State), s.Hears k →
    let u := s.allowIn k
    let w0 := wordAt k.data 0
    let r := u.prepare (w0.truncate 32) ((w0 >>> 32).truncate 8) (wordAt k.data 1) false
    let vote (v : State) (rule : Nat) : State :=
      ({ v with fabric := { v.fabric with opSeq := v.fabric.opSeq + 1 } } : State).send k.srcRank
        (mkPacket 0x22 0 (voteArg (w0.truncate 32) rule) v.fabric.opSeq.toNat [])
    (u.rdN .fenceState = 0 → u.fabric.apply = none → exec (.applyPrep k) s = .next (vote r.2 r.1)) ∧
    (u.rdN .fenceState = 0 → u.fabric.apply ≠ none → exec (.applyPrep k) s = .next (vote u 0xFFFFFFFF)) ∧
    (u.rdN .fenceState ≠ 0 → exec (.applyPrep k) s = .next u)

/-- `APPLY_VOTE` at the holder of an undecided change is kept by its rank; with the last member's vote the holder decides. A vote
for no such change does nothing. -/
def Sys2Proof.Claim.VoteCollected : Prop :=
  ∀ (k : Packet) (s : State) (d : DomApply), s.Hears k →
    let u := s.allowIn k
    let votes := (k.srcRank, ((k.w2 >>> 32).truncate 32 : W32)) :: d.votes.filter fun v => v.1 ≠ k.srcRank
    let t := u.setDom (some { d with votes := votes })
    (u.fabric.apply = some d → d.holder = true → d.id = k.w2.truncate 32 → d.decided = none →
      exec (.applyVote k) s =
        .next (if (t.memberList.all fun r => votes.any fun v => v.1 = r) = true then t.decideVotes else t)) ∧
    (u.fabric.apply = some d → d.holder = false ∨ d.id ≠ k.w2.truncate 32 ∨ d.decided ≠ none →
      exec (.applyVote k) s = .next u) ∧
    (u.fabric.apply = none → exec (.applyVote k) s = .next u)

/-- The holder's decision at the deadline: with every member's vote and no refusal a go is broadcast and the holder takes it itself.
With a refusal a cancel is broadcast, and the result names the lowest refusing rank and its rule; with a vote missing and no refusal a
cancel too, with rank 0xFFFF. -/
def Sys2Proof.Claim.DeadlineDecides : Prop :=
  ∀ (s : State) (d : DomApply), s.fabric.apply = some d → d.holder = true → d.decided = none →
    let t : State := { s with fabric := { s.fabric with opSeq := s.fabric.opSeq + 1 } }
    let op := s.fabric.opSeq.toNat
    ((∀ r ∈ s.memberList, ∃ v ∈ d.votes, v.1 = r) → (∀ v ∈ d.votes, v.2 = 0) →
      exec .applyVoteDeadline s = .next ((t.broadcast (mkPacket 0x23 0 (goArg d.id false) op [])).domGo d.id)) ∧
    (∀ v ∈ d.votes, v.2 ≠ 0 → v.1 < 0xFFFF → (∀ w ∈ d.votes, w.2 ≠ 0 → w = v ∨ v.1 < w.1) →
      exec .applyVoteDeadline s =
        .next ((t.broadcast (mkPacket 0x23 0 (goArg d.id true) op [])).domCancel d.id v.1 v.2.toNat)) ∧
    (((∃ r ∈ s.memberList, ∀ v ∈ d.votes, v.1 ≠ r) ∧ ∀ v ∈ d.votes, v.2 = 0) →
      exec .applyVoteDeadline s =
        .next ((t.broadcast (mkPacket 0x23 0 (goArg d.id true) op [])).domCancel d.id 0xFFFF 0))

/-- A domain change is prepared, voted on and decided. -/
def Obligations.DomainPrepared : Prop :=
  Sys2Proof.Claim.DomainApplyStarts ∧ Sys2Proof.Claim.PrepareVotes ∧ Sys2Proof.Claim.VoteCollected ∧
  Sys2Proof.Claim.DeadlineDecides

/-- `APPLY_GO` at a member that is ready: the decision is held until the change's instant, or the change takes effect at once
when its step is past and every context is IDLE. One that names another change, or comes where none was found ready, does nothing. -/
def Sys2Proof.Claim.GoHeld : Prop :=
  ∀ (k : Packet) (s : State) (d : DomApply), s.Hears k → bit 63 k.w2 = false →
    let u := s.allowIn k
    (u.fabric.apply = some d → d.id = k.w2.truncate 32 → d.prepared = true → (d.form ≠ 0 ∨ u.quiet d.arg = false) →
      exec (.applyGo k) s = .next (u.setDom (some { d with decided := some true }))) ∧
    (u.fabric.apply = some d → d.id = k.w2.truncate 32 → d.prepared = true → d.form = 0 → u.quiet d.arg = true →
      exec (.applyGo k) s = .next (u.domFire d)) ∧
    (u.fabric.apply = some d → d.id ≠ k.w2.truncate 32 ∨ d.prepared = false → exec (.applyGo k) s = .next u) ∧
    (u.fabric.apply = none → exec (.applyGo k) s = .next u)

/-- `APPLY_GO` with the cancel bit: a member that was ready disarms and discards its staged image, counts and raises it; one
that refused discards it alone, unless it is armed for something else. The result shows the cancel. One that names another change does
nothing. -/
def Sys2Proof.Claim.CancelDiscards : Prop :=
  ∀ (k : Packet) (s : State) (d : DomApply), s.Hears k → bit 63 k.w2 = true →
    let u := s.allowIn k
    let v := u.setDom none
    let w := ((v.disarm.discardScope 0x10).bumpGen).tally .applyCancelCnt 0 .igcorStatus 0 4
    (u.fabric.apply = some d → d.id = k.w2.truncate 32 → d.prepared = true → exec (.applyGoCancel k) s =
      .next ((w.raise 0x31 none (w.rdN .stageGen % 2 ^ 24 * 256 + 0x10)).domResult d.id 3 0 0)) ∧
    (u.fabric.apply = some d → d.id = k.w2.truncate 32 → d.prepared = false → v.mgmt.armed = none →
      exec (.applyGoCancel k) s = .next (((v.discardScope 0x10).bumpGen).domResult d.id 3 0 0)) ∧
    (u.fabric.apply = some d → d.id = k.w2.truncate 32 → d.prepared = false → v.mgmt.armed ≠ none →
      exec (.applyGoCancel k) s = .next (v.domResult d.id 3 0 0)) ∧
    (u.fabric.apply = some d → d.id ≠ k.w2.truncate 32 → exec (.applyGoCancel k) s = .next u) ∧
    (u.fabric.apply = none → exec (.applyGoCancel k) s = .next u)

/-- At the instant of a time-form change a member that holds the go applies it; one without a decision applies nothing, and the
miss is counted and raised. Before the instant nothing happens. -/
def Sys2Proof.Claim.InstantApplies : Prop :=
  ∀ (s : State) (d : DomApply), s.fabric.apply = some d → d.form = 1 → d.prepared = true →
    (s.rd .globalTime = d.arg → d.decided = some true → exec .domainApplyInstant s = .next (s.domFire d)) ∧
    (s.rd .globalTime = d.arg → d.decided = none → exec .domainApplyInstant s = .next
      (((((s.setDom none).disarm).tally .applyMissCnt 0 .shxStatus 0 6).domResult d.id 4 0 0).raise 0x25 none d.id.toNat)) ∧
    (s.rd .globalTime ≠ d.arg → exec .domainApplyInstant s = .next s)

/-- The decision of a domain change: go, cancel, and its instant. -/
def Obligations.DomainDecided : Prop :=
  Sys2Proof.Claim.GoHeld ∧ Sys2Proof.Claim.CancelDiscards ∧ Sys2Proof.Claim.InstantApplies

/-- `SHX_TIME_PACKET`: the offset is half of the difference of the two legs, shown in `TIME_OFFSET`; the time is acquired, and locked
within 2 SCLK cycles. With `TIME_SOURCE` 1 the offset disciplines it: at most 64 SCLK cycles by slewing, more by a step. -/
def Sys2Proof.Claim.TimeOffsetMeasured : Prop :=
  ∀ (t1 t2 t3 t4 : W64) (s : State),
    let offset := ((t2 - t1).toInt - (t4 - t3).toInt).fdiv 2
    let u := s.wr .timeOffset 0 0 ((BitVec.ofInt 32 (satI32 offset)).zeroExtend 64)
    let v : State := { u with fabric := { u.fabric with locked := decide (offset.natAbs ≤ 2 * 68), acquired := true } }
    (s.rdN .timeSource ≠ 1 → exec (.shxTimePacket t1 t2 t3 t4) s = .next v) ∧
    (s.rdN .timeSource = 1 → offset.natAbs ≤ 64 * 68 → exec (.shxTimePacket t1 t2 t3 t4) s =
      .next { v with fabric := { v.fabric with slew := offset } }) ∧
    (s.rdN .timeSource = 1 → 64 * 68 < offset.natAbs → exec (.shxTimePacket t1 t2 t3 t4) s =
      .next (v.stepTime (offset.tdiv 68) (1 * offset.tdiv 68)))

/-- `SHX_TIME_EXCHANGE`: a module below the root of the tree sends its parent the instant of sending, in ROOT cycles of the present SCLK
cycle (its place within the cycle is free, DESIGN CHOICE 113), and answers each of its children; a module whose holder has no coordinate
sends none. -/
def Sys2Proof.Claim.TimeExchangeSends : Prop :=
  ∀ s : State,
    (s.coordOf s.holderRank = none → exec .shxTimeExchange s = .next s) ∧
    (∀ root : Nat, s.coordOf s.holderRank = some root →
      (s.treeParent root = none → exec .shxTimeExchange s = .next ((s.treeDirs root).foldl State.answerTime s)) ∧
      (∀ (d : Nat) (minus : Bool), s.treeParent root = some (d, minus) →
        exec .shxTimeExchange s = .next ((s.treeDirs root).foldl State.answerTime
          (({ s with free := s.free + 1 } : State).sendTime d minus
            [BitVec.ofNat 64 (68 * s.rdN .globalTime + (Config.freeWord s.free).toNat % 68)]))))

/-- `MCAST` at a port that holds no line: one for a ring with room is written there; one without room is held; one of a pruned
program, or for a group that the module does not receive, is discarded. -/
def Sys2Proof.Claim.LineDelivered : Prop :=
  ∀ (p : PortId) (k : Packet) (s : State),
    let k' : Packet := { k with via := some (p, 0) }
    let u := s.allowIn k'
    s.Hears k' → (u.port p.val).mcast = [] →
    (u.mcastRing k = none → exec (.mcast p k) s = .next u) ∧
    (∀ ring : Nat, u.mcastRing k = some ring →
      (u.isPruned k = true → exec (.mcast p k) s = .next u) ∧
      (∀ t : State, u.isPruned k = false → (u.unprune k ring).mcastWrite ring k = some t → exec (.mcast p k) s = .next t) ∧
      (u.isPruned k = false → (u.unprune k ring).mcastWrite ring k = none → exec (.mcast p k) s =
        .next ((u.unprune k ring).setPort p.val
          { (u.unprune k ring).port p.val with mcast := ((u.unprune k ring).port p.val).mcast.concat k })))

/-- `MCAST_PRUNE_TIMEOUT`: when the oldest line that a port holds still cannot be written, the module prunes itself from its
program; when it could be, nothing more happens. -/
def Sys2Proof.Claim.OldLinePrunes : Prop :=
  ∀ (p : PortId) (s : State) (k : Packet) (rest : List Packet),
    ((s.port p.val).mcast.head? = some k → ((s.retryMcast p.val).port p.val).mcast = k :: rest →
      exec (.mcastPruneTimeout p) s = .next ((s.retryMcast p.val).pruneFrom k)) ∧
    (((s.retryMcast p.val).port p.val).mcast = k :: rest → (s.port p.val).mcast.head? ≠ some k →
      exec (.mcastPruneTimeout p) s = .next (s.retryMcast p.val)) ∧
    (((s.retryMcast p.val).port p.val).mcast = [] → exec (.mcastPruneTimeout p) s = .next (s.retryMcast p.val))

/-- `PRUNE` at the source counts the notice. -/
def Sys2Proof.Claim.PruneCounted : Prop :=
  ∀ (k : Packet) (s : State), s.Hears k → exec (.prune k) s = .next ((s.allowIn k).tally .mcastPruneCnt 0 .shxStatus 0 5)

/-- The fabric time offset, and multicast lines delivered or pruned. -/
def Obligations.TimeAndMulticast : Prop :=
  Sys2Proof.Claim.TimeOffsetMeasured ∧ Sys2Proof.Claim.TimeExchangeSends ∧ Sys2Proof.Claim.LineDelivered ∧
  Sys2Proof.Claim.OldLinePrunes ∧ Sys2Proof.Claim.PruneCounted

/-- The entries that a write to memory can move, when a row prefetched from there is removed: its count and flag, and what the flag's
interrupt can write. -/
def Sys2Proof.Machine.prefetchObjs : List Obj :=
  [.prefetchDiscardCnt, .gatherStatus, .msixPba, .fabricDropCnt, .shxStatus, .eventNextSeq]

/-- `DEPOT_WR` from a rank that this module keeps a depot for: the granules of a chunk that stays incomplete stand in their place of
the slot, and no other byte of memory changes, but that a write at another place than the slot's start clears `COMPLETE`, bit 0 of the
header's byte 48. What an earlier operation brought of the chunk does not complete it (DEDUCED 166). -/
def Obligations.DepotWriteStored : Prop :=
  ∀ (k : Packet) (s : State) (i at_ : Nat), s.Hears k →
    let u := s.allowIn k
    let was := ((u.surv.depot.find? fun e => e.slot = i && e.chunk = at_ / 65536 && e.op = k.opSeq).map DepotPart.mask).getD 0
    bits 63 48 k.w2 = 0 → u.partnerOf k.srcRank = u.rdN .shxRank → k.epoch = u.rdN .epoch →
    u.fabricOk true (u.rdN .depotPa + bits 47 0 k.w2) k.data.length = true →
    u.slotAt k.srcRank (bits 47 0 k.w2) k.data.length = some (i, at_) →
    Nat.lor was ((2 ^ (k.data.length / 32) - 1) * 2 ^ (at_ % 65536 / 32)) ≠ 2 ^ 2048 - 1 →
    ∃ t : State, exec (.depotWr k) s = .next t ∧
      (∀ a : Nat, u.depotSlot i + at_ ≤ a → a < u.depotSlot i + at_ + k.data.length →
        t.byteAt a = k.data.getD (a - (u.depotSlot i + at_)) 0) ∧
      (∀ a : Nat, ¬ (u.depotSlot i + at_ ≤ a ∧ a < u.depotSlot i + at_ + k.data.length) →
        t.byteAt a = (if a = u.depotSlot i + 48 ∧ at_ ≠ 0 then u.byteAt a &&& 0xFE else u.byteAt a)) ∧
      t.ctxs = u.ctxs ∧ t.items = u.items ∧ ∀ (o : Obj) (n e : Nat), o ∉ prefetchObjs → t.rd o n e = u.rd o n e

/-- The state in which a `DEPOT_WR` has put its granules into its slot: `COMPLETE` cleared unless they are the slot's first, and the
chunk no longer one of those that are arriving. -/
def Sys2Proof.Machine.State.depotPut (u : State) (k : Packet) (i at_ : Nat) : State :=
  let base := u.depotSlot i
  let v := if at_ = 0 then u else u.poke (base + 48) [u.byteAt (base + 48) &&& 0xFE]
  let w := v.poke (base + at_) k.data
  { w with surv := { w.surv with depot := w.surv.depot.filter fun e => !(e.slot = i && e.chunk = at_ / 65536) } }

/-- `DEPOT_WR` that brings the last granules of a chunk: the chunk's hash stands in the hash area; the slot's first chunk with `FROZEN`
set is sealed with `COMPLETE` and its `CHECK`, and the seal is counted; the write is acknowledged with `ARG` bit 62. A hash area that
FABRIC writes do not reach refuses it. -/
def Sys2Proof.Claim.DepotChunkCompleted : Prop :=
  ∀ (k : Packet) (s : State) (i at_ : Nat), s.Hears k →
    let u := s.allowIn k
    let chunk := at_ / 65536
    let was := ((u.surv.depot.find? fun e => e.slot = i && e.chunk = chunk && e.op = k.opSeq).map DepotPart.mask).getD 0
    bits 63 48 k.w2 = 0 → u.partnerOf k.srcRank = u.rdN .shxRank → k.epoch = u.rdN .epoch →
    u.fabricOk true (u.rdN .depotPa + bits 47 0 k.w2) k.data.length = true →
    u.slotAt k.srcRank (bits 47 0 k.w2) k.data.length = some (i, at_) →
    Nat.lor was ((2 ^ (k.data.length / 32) - 1) * 2 ^ (at_ % 65536 / 32)) = 2 ^ 2048 - 1 →
    let v := u.depotPut k i at_
    let bs := v.bytesAt (v.depotSlot i + 65536 * chunk) 65536
    let w := v.poke (v.hashPa i chunk) (leBytes 8 (crc64 bs))
    let head := patch (bs.take 64) 48 (leBytes 8 ((wordAt bs 6 ||| 1).toNat))
    let sealed := (w.poke (v.depotSlot i) (patch head 62 (leBytes 2 (crc16 (head.take 62))))).count .snapshotCnt
    let ack (x : State) : State := x.send k.srcRank (mkPacket 0x42 k.ctx (BitVec.ofNat 64 (2 ^ 62)) k.opSeq [])
    (v.fabricOk true (v.hashPa i chunk) 8 = true →
      (chunk = 0 → bit 1 (wordAt bs 6) = true → exec (.depotWr k) s = .next (ack sealed)) ∧
      (chunk ≠ 0 ∨ bit 1 (wordAt bs 6) = false → exec (.depotWr k) s = .next (ack w))) ∧
    (v.fabricOk true (v.hashPa i chunk) 8 = false → exec (.depotWr k) s = .next (v.depotRefuse k))

/-- `DEPOT_WR` from a rank that this module keeps no depot for is refused, counted and answered with the refusal bit. -/
def Sys2Proof.Claim.DepotWriteRefused : Prop :=
  ∀ (k : Packet) (s : State), s.Hears k → (s.allowIn k).partnerOf k.srcRank ≠ (s.allowIn k).rdN .shxRank →
    exec (.depotWr k) s = .next (((s.allowIn k).tally .depotRefuseCnt 0 .survStatus 0 3).send k.srcRank
      (mkPacket 0x42 k.ctx (BitVec.ofNat 64 (2 ^ 63)) k.opSeq []))

/-- `DEPOT_RD` of a depot slot that the requester owns is answered with its 4 KiB, after the chunk's stored hash at a chunk's
start; one of a shared stream with the 4 KiB there, while the context is IDLE and the module is not fenced, and else refused. -/
def Sys2Proof.Claim.DepotReadAnswered : Prop :=
  ∀ (k : Packet) (s : State) (bs : List Byte) (pa : Nat), s.Hears k →
    let u := s.allowIn k
    let off := bits 47 0 k.w2
    let i := 2 * u.sourceIndex k.srcRank + bits 48 48 k.w2
    let answer (v : State) (arg : Nat) (data : List Byte) : State :=
      v.send k.srcRank (mkPacket 0x42 k.ctx (BitVec.ofNat 64 arg) k.opSeq data)
    (bit 63 k.w2 = false → u.partnerOf k.srcRank = u.rdN .shxRank → i < 8 → off + 4096 ≤ u.rdN .depotSlotBytes →
      u.fabricOk false (u.depotSlot i + off) 4096 = true → u.fabricOk false (u.hashPa i (off / 65536)) 8 = true →
      u.readPa (u.depotSlot i + off) 4096 = .ok bs →
      (off % 65536 ≠ 0 → exec (.depotRd k) s = .next (answer u off bs)) ∧
      (off % 65536 = 0 → u.poisonIn (u.hashPa i (off / 65536)) 8 = none → exec (.depotRd k) s =
        .next (answer (answer u (2 ^ 62 + off) (u.bytesAt (u.hashPa i (off / 65536)) 8)) off bs))) ∧
    (bit 63 k.w2 = true → bit 62 k.w2 = false → (u.ctx k.ctx).st = .idle → u.rdN .fenceState = 0 →
      u.sharedPa k.ctx off false = .ok pa → u.readPa pa 4096 = .ok bs → exec (.depotRd k) s = .next (answer u off bs)) ∧
    (bit 63 k.w2 = true → (u.ctx k.ctx).st ≠ .idle ∨ u.rdN .fenceState ≠ 0 →
      exec (.depotRd k) s = .next (answer u (2 ^ 63 + off) []))

/-- `DEPOT_DATA` goes to what asked for it, by its operation: a `SNAPSHOT` that waits for its chunk's answer, a restore slot, or the
provenance check; one that nothing asked for changes nothing. -/
def Sys2Proof.Claim.DepotDataTaken : Prop :=
  ∀ (k : Packet) (s : State) (i : Item) (x : Restore) (v : Prov), s.Hears k →
    let u := s.allowIn k
    let snap := u.items.find? fun i =>
      i.desc.opcode = 13 && i.phase = .working && i.pos = [k.opSeq] && i.desc.nPartner = k.srcRank
    let copy := u.surv.restores.find? fun x => x.op = k.opSeq && x.peer = k.srcRank
    (snap = some i → exec (.depotData k) s = .next (u.chunkAnswered i (bit 63 k.w2)).kick) ∧
    (snap = none → copy = some x → exec (.depotData k) s = .next (u.restoreTake x k).kick) ∧
    (snap = none → copy = none → u.surv.prov = some v → v.op = k.opSeq → v.peer = k.srcRank →
      exec (.depotData k) s = .next (u.provTake v k).kick) ∧
    (snap = none → copy = none → u.surv.prov = none → exec (.depotData k) s = .next u.kick)

/-- `RESTORE_REQ` starts the copy that its bytes ask for in a free slot; one that breaks a condition, or names a busy slot, is
refused. -/
def Sys2Proof.Claim.RestoreStarts : Prop :=
  ∀ (w0 w1 w2 w3 : W64) (s : State),
    let bs := bytesOf [w0, w1, w2, w3]
    let busy := s.surv.restores.any fun y => y.slot = (restoreOf bs).slot
    (s.restoreBad bs = false → busy = false →
      exec (.restoreReq w0 w1 w2 w3) s = .next (s.restoreAsk (restoreOf bs))) ∧
    (s.restoreBad bs = true ∨ busy = true →
      exec (.restoreReq w0 w1 w2 w3) s = .next (s.tally .igcorRefuseCnt 0 .igcorStatus 0 2))

/-- `PROV_REQ` for a context that exists starts a provenance check when none runs; else it is refused. -/
def Sys2Proof.Claim.ProvenanceStarts : Prop :=
  ∀ (w : W32) (s : State),
    let c := w.toNat / 65536 % 256
    (c < 16 → s.surv.prov = none → exec (.provReq w) s = .next
      ((s.wrBytes .provResult 0 0 (leBytes 1 1 ++ zeros 39)).provAsk
        { peer := w.toNat % 65536, ctx := Fin.ofNat 16 c, recopy := w.getLsbD 24, op := 0, block := 0, got := 0, want := none })) ∧
    (15 < c ∨ s.surv.prov ≠ none → exec (.provReq w) s = .next (s.tally .igcorRefuseCnt 0 .igcorStatus 0 2))

/-- Depot chunks completed, depot reads and refusals, restores and the provenance check. -/
def Obligations.DepotsAndRestores : Prop :=
  Sys2Proof.Claim.DepotChunkCompleted ∧ Sys2Proof.Claim.DepotWriteRefused ∧ Sys2Proof.Claim.DepotReadAnswered ∧ Sys2Proof.Claim.DepotDataTaken ∧
  Sys2Proof.Claim.RestoreStarts ∧ Sys2Proof.Claim.ProvenanceStarts

/-- The host can reach a function's page here: its endpoint serves it, and the module is no member behind a portal. -/
def Sys2Proof.Machine.State.PageOpen (s : State) (f : CtxId) : Prop := s.endpoint f = true ∧ s.isMemberMode = false

/-- `SQ_TAIL`: a tail within the ring and not behind the declared one is taken, and entries are fetched; any other, or one of a ring
that is not enabled, is ignored and counted. -/
def Sys2Proof.Claim.SubmissionTail : Prop :=
  ∀ (c : CtxId) (v : W32) (s : State), s.PageOpen c →
    let cfg := s.rd .sqCfg c.val
    let head : W32 := (s.rd .sqHead c.val).truncate 32
    let ok := bit 31 cfg = true ∧ (v - head).toNat ≤ 2 ^ bits 3 0 cfg ∧ ((s.ctx c).sqTail - head).toNat ≤ (v - head).toNat
    (ok → exec (.sqTail c v) s = .next ((s.setCtx c { s.ctx c with sqTail := v }).fetchMore c)) ∧
    (¬ ok → exec (.sqTail c v) s = .next (s.tally .doorbellErrCnt c.val .hostCtxStatus c.val 0))

/-- `CQ_HEAD`: a head between the present one and the tail is taken, and waiting records follow; any other is ignored and
counted. -/
def Sys2Proof.Claim.CompletionHead : Prop :=
  ∀ (c : CtxId) (v : W32) (s : State), s.PageOpen c →
    let cfg := s.rd .cqCfg c.val
    let tail : W32 := (s.rd .cqTail c.val).truncate 32
    let ok := bit 31 cfg = true ∧ (tail - v).toNat ≤ 2 ^ bits 4 0 cfg ∧ (tail - v).toNat ≤ (tail - (s.ctx c).cqHead).toNat
    (ok → exec (.cqHead c v) s = .next ((s.setCtx c { s.ctx c with cqHead := v }).drainRecs c)) ∧
    (¬ ok → exec (.cqHead c v) s = .next (s.tally .doorbellErrCnt c.val .hostCtxStatus c.val 0))

/-- `SQ_CFG` and `CQ_CFG` that enable a ring of a size that exists start it at 0; a write that R413 refuses is counted. -/
def Sys2Proof.Claim.RingConfigured : Prop :=
  ∀ (c : CtxId) (v : W32) (s : State), s.PageOpen c → bit 31 (v.zeroExtend 64) = true →
    (bit 31 (s.rd .sqCfg c.val) = false →
      ringWriteOk ((s.ctx c).st = .idle) (s.rd .sqCfg c.val) (v.zeroExtend 64) 4 1 12 = true →
      exec (.sqCfg c v) s = .next ((((s.wrN .sqCfg c.val 0 (2 ^ 31 + bits 3 0 (v.zeroExtend 64))).wr .sqHead c.val 0 0).updCtx c
        fun x => { x with sqTail := 0, fetching := false }).fetchMore c)) ∧
    (ringWriteOk ((s.ctx c).st = .idle) (s.rd .sqCfg c.val) (v.zeroExtend 64) 4 1 12 = false →
      exec (.sqCfg c v) s = .next ((s.tally .doorbellErrCnt c.val .hostCtxStatus c.val 0).fetchMore c)) ∧
    (bit 31 (s.rd .cqCfg c.val) = false →
      ringWriteOk ((s.ctx c).st = .idle) (s.rd .cqCfg c.val) (v.zeroExtend 64) 5 4 16 = true →
      exec (.cqCfg c v) s = .next ((((s.wrN .cqCfg c.val 0 (2 ^ 31 + bits 4 0 (v.zeroExtend 64))).wr .cqTail c.val 0 0).updCtx c
        fun x => { x with cqHead := 0 }).drainRecs c)) ∧
    (ringWriteOk ((s.ctx c).st = .idle) (s.rd .cqCfg c.val) (v.zeroExtend 64) 5 4 16 = false →
      exec (.cqCfg c v) s = .next (s.tally .doorbellErrCnt c.val .hostCtxStatus c.val 0))

/-- `SUBMISSION_FETCH` of an entry that is awaited: `SQ_HEAD` advances; an IDLE context judges the entry at once, another keeps it as
its successor; a read that failed is counted, and its entry is judged, or kept, as failed. -/
def Sys2Proof.Claim.EntryFetched : Prop :=
  ∀ (c : CtxId) (w0 w1 w2 w3 : W64) (s : State), (s.ctx c).fetching = true →
    let t := (s.setCtx c { s.ctx c with fetching := false }).count .sqHead c.val
    let keep (u : State) (e : Fetched) : State := u.setCtx c { u.ctx c with next := some e }
    ((s.ctx c).st = .idle → exec (.submissionFetch c (.entry w0 w1 w2 w3)) s =
      .next ((t.openEntry c ⟨w0, w1, w2, w3, false⟩).fetchMore c).kick) ∧
    ((s.ctx c).st ≠ .idle → exec (.submissionFetch c (.entry w0 w1 w2 w3)) s =
      .next ((keep t ⟨w0, w1, w2, w3, false⟩).fetchMore c).kick) ∧
    ((s.ctx c).st = .idle → exec (.submissionFetch c .error) s =
      .next (((t.hostError c).openEntry c ⟨0, 0, 0, 0, true⟩).fetchMore c).kick) ∧
    ((s.ctx c).st ≠ .idle → exec (.submissionFetch c .error) s =
      .next ((keep (t.hostError c) ⟨0, 0, 0, 0, true⟩).fetchMore c).kick)

/-- `MAILBOX_GO` of a mailbox that has a length and is not busy makes it busy, with the length that it has then (DESIGN CHOICE 98); else
it is ignored and counted. In STANDBY the mailbox serves as well (DEDUCED 162). -/
def Sys2Proof.Claim.MailboxSubmits : Prop :=
  ∀ (f : CtxId) (s : State), s.PageOpen f ∨ (s.configOnly f = true ∧ s.isMemberMode = false) →
    let v := s.rd .mbxCtrl f.val
    (bit 30 v = false → bits 11 0 v ≠ 0 →
      exec (.mailboxGo f) s = .next ((({ s with mgmt := { s.mgmt with
        asked := (s.mgmt.asked.filter fun (e : CtxId × Nat) => e.1 ≠ f) ++ [(f, bits 11 0 v)] } } : State).wr .mbxCtrl f.val 0
          (withBit v 30 true)))) ∧
    (bit 30 v = true ∨ bits 11 0 v = 0 → exec (.mailboxGo f) s = .next (s.tally .doorbellErrCnt f.val .hostCtxStatus f.val 0))

/-- `REGISTER_WRITE` to a context page: `WIN_BASE` takes bits 47 to 34 alone, `EVENT_MASK` bits 13 to 0 and 20 to 16, which have a
status entry, and `IRQ_HOLDOFF` its low half; a page that nothing serves takes nothing. -/
def Sys2Proof.Claim.PageRegisterWritten : Prop :=
  ∀ (f : CtxId) (v : W64) (s : State),
    (s.PageOpen f →
      exec (.registerWrite (.page f 0x128 8) v) s =
        .next (s.wrN .winBase f.val 0 (v.toNat / 2 ^ 34 % 2 ^ 14 * 2 ^ 34)) ∧
      exec (.registerWrite (.page f 0x130 4) v) s = .next (s.wrN .irqHoldoff f.val 0 (v.toNat % 65536)) ∧
      exec (.registerWrite (.page f 0x134 4) v) s = .next (s.wr .eventMask f.val 0 (v &&& 0x1F3FFF))) ∧
    (s.endpoint f = false → ∀ (off : BitVec 16) (width : Nat), s.configOnly f = false ∨ isMailbox off.toNat = false →
      exec (.registerWrite (.page f off width) v) s = .next s)

/-- Doorbells, ring registers, submission entries and the registers of a context page. -/
def Obligations.RingsAndPages : Prop :=
  Sys2Proof.Claim.SubmissionTail ∧ Sys2Proof.Claim.CompletionHead ∧ Sys2Proof.Claim.RingConfigured ∧
  Sys2Proof.Claim.EntryFetched ∧ Sys2Proof.Claim.MailboxSubmits ∧ Sys2Proof.Claim.PageRegisterWritten

/-- `MSIX_UNMASK` clears a vector's mask, and its pending message goes; a vector without one sends nothing. A module behind a portal has
no table in reach, and counts the access. -/
def Sys2Proof.Claim.UnmaskSends : Prop :=
  ∀ (f : CtxId) (vec : Byte) (s : State),
    let t := s.wr .msixTable f.val (4 * vec.toNat + 3) 0
    (s.PageOpen f → bit (vec.toNat % 64) (s.rd .msixPba f.val (vec.toNat / 64)) = true → exec (.msixUnmask f vec) s =
      .next ((t.wr .msixPba f.val (vec.toNat / 64)
        (withBit (s.rd .msixPba f.val (vec.toNat / 64)) (vec.toNat % 64) false)).msixSend f vec.toNat)) ∧
    (s.PageOpen f → bit (vec.toNat % 64) (s.rd .msixPba f.val (vec.toNat / 64)) = false → exec (.msixUnmask f vec) s = .next t) ∧
    (s.endpoint f = true → s.isMemberMode = true → exec (.msixUnmask f vec) s = .next (s.winErr f))

/-- An MSI-X message goes to the address and with the data of its table entry when that is not masked and the function is
enabled; else the vector is marked pending. -/
def Sys2Proof.Claim.MessageSentOrPending : Prop :=
  ∀ (f : CtxId) (vec : Nat) (s : State),
    (bit 0 (s.rd .msixTable f.val (4 * vec + 3)) = false → s.fnOn f = true →
      (s.msixSend f vec).out = s.out ++ [.msix f (BitVec.ofNat 8 vec)
        (BitVec.ofNat 64 (s.rdN .msixTable f.val (4 * vec) + 2 ^ 32 * s.rdN .msixTable f.val (4 * vec + 1)))
        ((s.rd .msixTable f.val (4 * vec + 2)).truncate 32)] ∧ (s.msixSend f vec).regs = s.regs) ∧
    (bit 0 (s.rd .msixTable f.val (4 * vec + 3)) = true ∨ s.fnOn f = false →
      (s.msixSend f vec).out = s.out ∧ (s.msixSend f vec).rd .msixPba f.val (vec / 64) =
        s.rd .msixPba f.val (vec / 64) ||| BitVec.ofNat 64 (2 ^ (vec % 64)))

/-- `VF_ENABLE` of a virtual function: it is enabled, its waiting records and pending messages go, and its ring is read. -/
def Sys2Proof.Claim.FunctionEnabled : Prop :=
  ∀ (f : CtxId) (s : State), f.val ≠ 0 →
    exec (.vfEnable f) s = .next (((List.range 256).foldl (fun s v => s.sendPending f v)
      (({ s with vfs := s.vfs ||| BitVec.ofNat 16 (2 ^ f.val) } : State).drainRecs f)).fetchMore f)

/-- `FLR` and `D3HOT_TO_D0` of a virtual function reset its context and its page; an `FLR` of the physical function resets every one and
disables the virtual functions, and its `D3HOT_TO_D0` resets it alone. `HOT_RESET`, in any state with the link powered, is that `FLR` with
the link down and its flag set. -/
def Sys2Proof.Claim.FunctionReset : Prop :=
  ∀ (f : CtxId) (s : State),
    let all : State := { allCtx.foldl State.flrOne s with vfs := 0 }
    (s.endpoint f = true → exec (.d3hotToD0 f) s = .next (s.flrOne f)) ∧
    (s.endpoint f = true → f.val ≠ 0 → exec (.flr f) s = .next (s.flrOne f)) ∧
    (s.endpoint 0 = true → exec (.flr 0) s = .next all) ∧
    (s.linkPowered = true → exec .hotReset s = .next ((all.wrN .hostLink 0 0 0).setFlag .hostStatus 0 0))

/-- `PCIE_LINK_UP` shows the negotiated width and rate, in any state with the link powered. -/
def Sys2Proof.Claim.LinkShown : Prop :=
  ∀ (width : Byte) (rate : BitVec 4) (s : State), s.linkPowered = true →
    ∃ t : State, exec (.pcieLinkUp width rate) s = .next t ∧ t.rdN .hostLink = width.toNat * 256 + rate.toNat ∧
      (∀ (o : Obj) (n e : Nat), regCode o n e ≠ regCode .hostLink 0 0 → t.rd o n e = s.rd o n e) ∧ t = { s with regs := t.regs }

/-- MSI-X messages and pending bits, function enable and resets, the link shown. -/
def Obligations.FunctionsAndMessages : Prop :=
  Sys2Proof.Claim.UnmaskSends ∧ Sys2Proof.Claim.MessageSentOrPending ∧ Sys2Proof.Claim.FunctionEnabled ∧
  Sys2Proof.Claim.FunctionReset ∧ Sys2Proof.Claim.LinkShown

/-- `WINDOW_WRITE` within one 64-byte line that translates and meets no poison: the bytes stand at the physical address, and no
other byte of memory changes. -/
def Obligations.WindowLineWritten : Prop :=
  ∀ (f : CtxId) (off : BitVec 34) (data : List Byte) (s : State) (pa : Nat), s.PageOpen f →
    let va := s.rdN .winBase f.val + off.toNat
    data ≠ [] → va % 64 + data.length ≤ 64 → s.reach (.host f) va data.length true = .ok pa →
    s.poisonPart pa data.length = none →
    ∃ t : State, exec (.windowWrite f off data) s = .next t ∧
      (∀ a : Nat, pa ≤ a → a < pa + data.length → t.byteAt a = data.getD (a - pa) 0) ∧
      (∀ a : Nat, ¬ (pa ≤ a ∧ a < pa + data.length) → t.byteAt a = s.byteAt a) ∧
      t.ctxs = s.ctxs ∧ t.items = s.items ∧ s.out <+: t.out ∧
      ∀ (o : Obj) (n e : Nat), o ∉ prefetchObjs → t.rd o n e = s.rd o n e

/-- `WINDOW_READ` within one 64-byte line that translates and meets no poison answers its bytes and changes nothing else; one that
faults or is refused answers all ones, and is counted. -/
def Sys2Proof.Claim.WindowLineRead : Prop :=
  ∀ (f : CtxId) (off : BitVec 34) (len : Nat) (s : State), s.PageOpen f →
    let va := s.rdN .winBase f.val + off.toNat
    0 < len → va % 64 + len ≤ 64 →
    (∀ pa : Nat, s.reach (.host f) va len false = .ok pa → s.poisonIn pa len = none →
      exec (.windowRead f off len) s = .next (s.emit (.hostData f (s.bytesAt pa len)))) ∧
    (∀ (a r l : Nat) (w : Bool), s.reach (.host f) va len false = .error (.fault a r l w) →
      exec (.windowRead f off len) s = .next ((s.winErr f).emit (.hostData f (allOnes len)))) ∧
    (s.reach (.host f) va len false = .error .denied →
      exec (.windowRead f off len) s = .next ((s.winErr f).emit (.hostData f (allOnes len))))

/-- In STANDBY the window and the aperture answer a read with Unsupported Request, and take no write. -/
def Sys2Proof.Claim.StandbyReadsUnsupported : Prop :=
  ∀ (f : CtxId) (off : BitVec 34) (ap : BitVec 35) (len : Nat) (data : List Byte) (s : State), s.endpoint f = false →
    s.configOnly f = true →
    exec (.windowRead f off len) s = .next (s.emit (.unsupported f)) ∧ exec (.windowWrite f off data) s = .next s ∧
    exec (.apertureAccess f ap (.read len)) s = .next (s.emit (.unsupported f)) ∧
    exec (.apertureAccess f ap (.write data)) s = .next s

/-- `APERTURE_ACCESS` of a portal: member 0 is the portal itself, another valid member is reached by a tunnel packet; an offset
that reaches nothing, a member that is not valid, and a module that is no portal answer all ones and are counted. -/
def Sys2Proof.Claim.ApertureReaches : Prop :=
  ∀ (f : CtxId) (off : BitVec 35) (len : Nat) (data : List Byte) (s : State), s.endpoint f = true →
    (s.rdN .portalMode = 1 → ∀ i bar o : Nat, apertureAt off.toNat = some (i, bar, o) →
      bit 31 (s.rd .portalGroup 0 i) = true →
      (i = 0 → exec (.apertureAccess f off (.read len)) s = .next (s.ownAccess f bar o (.read len)) ∧
        exec (.apertureAccess f off (.write data)) s = .next (s.ownAccess f bar o (.write data))) ∧
      (i ≠ 0 → exec (.apertureAccess f off (.read len)) s =
          .next (s.tunnelRead (bits 15 0 (s.rd .portalGroup 0 i)) f bar o len) ∧
        exec (.apertureAccess f off (.write data)) s =
          .next (s.tunnelWrite (bits 15 0 (s.rd .portalGroup 0 i)) f bar o data))) ∧
    (s.rdN .portalMode ≠ 1 ∨ apertureAt off.toNat = none ∨
        (∃ i bar o : Nat, apertureAt off.toNat = some (i, bar, o) ∧ bit 31 (s.rd .portalGroup 0 i) = false) →
      exec (.apertureAccess f off (.read len)) s = .next ((s.winErr f).emit (.hostData f (allOnes len))) ∧
      exec (.apertureAccess f off (.write data)) s = .next (s.winErr f))

/-- Window reads, and what a portal aperture reaches. -/
def Obligations.WindowAndAperture : Prop :=
  Sys2Proof.Claim.WindowLineRead ∧ Sys2Proof.Claim.ApertureReaches ∧ Sys2Proof.Claim.StandbyReadsUnsupported

/-- `TUN_WR` and `TUN_RD` from a member's own portal act on its window or its page; a read is answered with `TUN_CPL`. -/
def Sys2Proof.Claim.MemberServesTunnel : Prop :=
  ∀ (k : Packet) (s : State), s.Hears k →
    let u := s.allowIn k
    let data := (k.data.drop 8).take (wordAt k.data 0).toNat
    let len := min 4096 (wordAt k.data 0).toNat
    u.isMemberMode = true → k.srcRank = u.portalRank →
    (bits 51 48 k.w2 = 2 → exec (.tunWr k) s = .next (u.windowWrite k.ctx (bits 47 0 k.w2) data) ∧
      exec (.tunRd k) s = .next ((u.windowRead k.ctx (bits 47 0 k.w2) len).2.complete k
        (some (u.windowRead k.ctx (bits 47 0 k.w2) len).1))) ∧
    (bits 51 48 k.w2 ≠ 2 → exec (.tunWr k) s = .next (u.pageWrite k.ctx (bits 47 0 k.w2) data) ∧
      exec (.tunRd k) s = .next (u.complete k (some (u.pageRead k.ctx (bits 47 0 k.w2) len))))

/-- A tunnel packet for a member that is not from its portal is discarded and counted. -/
def Sys2Proof.Claim.StrangeTunnelRejected : Prop :=
  ∀ (k : Packet) (s : State), s.Hears k → (s.allowIn k).isMemberMode = true → k.srcRank ≠ (s.allowIn k).portalRank →
    let t := (s.allowIn k).tally .tunnelRejectCnt 0 .hostStatus 0 1
    exec (.tunWr k) s = .next t ∧ exec (.tunRd k) s = .next t ∧ exec (.tunCpl k) s = .next t

/-- `TUN_CPL` at the portal, or at a member from its portal, ends the read that it names with its data, or with an error. -/
def Sys2Proof.Claim.CompletionEndsRead : Prop :=
  ∀ (k : Packet) (s : State) (x : TunRead), s.Hears k →
    let u := s.allowIn k
    (u.isMemberMode = true ∧ k.srcRank = u.portalRank) ∨
      (u.isMemberMode = false ∧ (u.groupIndex k.srcRank).isSome = true ∧ u.rdN .portalMode = 1) →
    u.tunnelOf k.opSeq = some x →
    exec (.tunCpl k) s = .next (u.endTunnel x (if bit 63 k.w2 then none else some k.data))

/-- `TUN_DMA_RD`, `TUN_DMA_WR` and `TUN_IRQ` of a group member at its portal: a host read and its completion, a host write, each cut at
the sizes of the link, and vector 4i + v of the member's function; with the function disabled, or its bus mastering off, each completes
with an error. -/
def Sys2Proof.Claim.PortalServesMember : Prop :=
  ∀ (k : Packet) (hostData : List Byte) (s : State) (i : Nat), s.Hears k →
    let u := s.allowIn k
    let len := (wordAt k.data 0).toNat
    let on := u.fnOn k.ctx = true ∧ u.pcie.busOff.getLsbD k.ctx.val = false
    u.rdN .portalMode = 1 → u.groupIndex k.srcRank = some i →
    (on → len ≤ hostData.length →
      exec (.tunDmaRd k (some hostData)) s =
        .next ((u.postReads k.ctx k.w2.toNat len).complete k (some (hostData.take len))) ∧
      exec (.tunDmaRd k none) s = .next ((u.postReads k.ctx k.w2.toNat len).complete k none) ∧
      exec (.tunDmaWr k) s = .next (u.postWrites k.ctx k.w2.toNat k.data) ∧
      exec (.tunIrq k) s = .next (u.vector k.ctx (4 * i + bits 1 0 k.w2))) ∧
    (¬ on → exec (.tunDmaRd k (some hostData)) s = .next (u.complete k none) ∧
      exec (.tunDmaWr k) s = .next (u.complete k none) ∧ exec (.tunIrq k) s = .next (u.complete k none))

/-- Requests on the module's own link are cut (R429): a write at the Max Payload Size, each part with its bytes and behind the one
before, and a read at the Max Read Request Size; the parts together are what was asked for. -/
def Sys2Proof.Claim.RequestsCut : Prop :=
  ∀ (f : CtxId) (addr len : Nat) (data : List Byte) (s : State),
    (0 < s.pcie.mps → data.length ≤ s.pcie.mps → data ≠ [] →
      s.postWrites f addr data = s.emit (.hostWrite f (BitVec.ofNat 64 addr) data)) ∧
    (0 < s.pcie.mps → ∃ parts : List (List Byte), parts.flatten = data ∧ (∀ b ∈ parts, b.length ≤ s.pcie.mps) ∧
      (s.postWrites f addr data).out = s.out ++ parts.zipIdx.map fun e =>
        .hostWrite f (BitVec.ofNat 64 (addr + s.pcie.mps * e.2)) e.1) ∧
    (0 < s.pcie.mrrs → len ≤ s.pcie.mrrs → 0 < len →
      s.postReads f addr len = s.emit (.hostRead f (BitVec.ofNat 64 addr) len)) ∧
    (0 < s.pcie.mrrs → ∃ parts : List Nat, parts.sum = len ∧ (∀ n ∈ parts, n ≤ s.pcie.mrrs) ∧
      (s.postReads f addr len).out = s.out ++ parts.zipIdx.map fun e =>
        .hostRead f (BitVec.ofNat 64 (addr + s.pcie.mrrs * e.2)) e.1)

/-- `SHX_TUNNEL_TIMEOUT` of a host read counts and answers the host all ones; of a member's own read it fails it. -/
def Sys2Proof.Claim.TunnelTimesOut : Prop :=
  ∀ (opSeq : W32) (s : State) (x : TunRead), s.tunnelOf opSeq.toNat = some x →
    (x.kind = 0 → exec (.shxTunnelTimeout opSeq) s =
      .next ((s.tally .tunnelTimeoutCnt 0 .shxStatus 0 8).endTunnel x none)) ∧
    (x.kind ≠ 0 → exec (.shxTunnelTimeout opSeq) s = .next (s.endTunnel x none))

/-- Tunnel packets between a portal and its members. -/
def Obligations.Tunnels : Prop :=
  Sys2Proof.Claim.MemberServesTunnel ∧ Sys2Proof.Claim.StrangeTunnelRejected ∧ Sys2Proof.Claim.CompletionEndsRead ∧
  Sys2Proof.Claim.PortalServesMember ∧ Sys2Proof.Claim.RequestsCut ∧ Sys2Proof.Claim.TunnelTimesOut

/-- The operation of a requester is served: the controller is up, the requester can be reached and may ask for it. -/
def Sys2Proof.Machine.State.Serves (s : State) (who : Requester) (x : IgOp) : Prop :=
  s.mgmtUp = true ∧ s.asks who = true ∧ s.mayRun who x = true

/-- `READ` and `READ_STAGED` answer the bytes asked for and change nothing but the frame count; a refused one answers its status,
and is counted. -/
def Sys2Proof.Claim.ReadAnswers : Prop :=
  ∀ (who : Requester) (index : BitVec 16) (sub : Byte) (off : W32) (len : BitVec 16) (s : State) (d : List Byte) (e : Status),
    let refused : State := ((settle (e, s)).count .igcorRxCnt).emit (.answer (BitVec.ofNat 8 e.code) [])
    (s.Serves who ⟨1, index.toNat, sub.toNat, 0, off.toNat, len.toNat, []⟩ →
      (s.readEntry false index.toNat sub.toNat off.toNat len.toNat = .ok d → exec (.read who index sub off len) s =
        .next ((s.count .igcorRxCnt).emit (.answer 0 d))) ∧
      (s.readEntry false index.toNat sub.toNat off.toNat len.toNat = .error e →
        exec (.read who index sub off len) s = .next refused)) ∧
    (s.Serves who ⟨3, index.toNat, sub.toNat, 0, off.toNat, len.toNat, []⟩ →
      (s.readEntry true index.toNat sub.toNat off.toNat len.toNat = .ok d → exec (.readStaged who index sub off len) s =
        .next ((s.count .igcorRxCnt).emit (.answer 0 d))) ∧
      (s.readEntry true index.toNat sub.toNat off.toNat len.toNat = .error e →
        exec (.readStaged who index sub off len) s = .next refused))

/-- `DESCRIBE` answers an entry's description, and `EVENT_READ` of 1 to 64 records the records from the sequence wanted on, once those of
the present edge are numbered for good. -/
def Sys2Proof.Claim.DescribeAndEvents : Prop :=
  ∀ (who : Requester) (index : BitVec 16) (sub : Byte) (first : W64) (most : W32) (s : State) (o : Obj) (n : Nat),
    (s.Serves who ⟨7, index.toNat, sub.toNat, 0, 0, 0, []⟩ → findEntry index.toNat sub.toNat = .ok (o, n) →
      exec (.describe who index sub) s = .next ((s.count .igcorRxCnt).emit (.answer 0 o.info.describe))) ∧
    (s.Serves who ⟨8, 0, 0, most.toNat, 0, 8, leBytes 8 first.toNat⟩ → 1 ≤ most.toNat → most.toNat ≤ 64 →
      exec (.eventRead who first most) s =
        .next ((s.sealEvents.count .igcorRxCnt).emit (.answer 0 (s.sealEvents.eventRead who first.toNat most.toNat))))

/-- `WRITE` of an RWS entry goes to the staging image alone, and the generation advances if the image changes; an armed image refuses
it. `WRITE` of an RW entry takes effect at once. -/
def Sys2Proof.Claim.WriteStagesOrActs : Prop :=
  ∀ (who : Requester) (index : BitVec 16) (sub : Byte) (off : W32) (data : List Byte) (s t : State) (o : Obj) (n : Nat)
    (es : List (Nat × Nat)),
    s.Serves who ⟨2, index.toNat, sub.toNat, 0, off.toNat, data.length, data⟩ → findEntry index.toNat sub.toNat = .ok (o, n) →
    o.info.writeElems off.toNat data = some es → (es.any fun e => o.info.badValue e.2) = false →
    let u := s.stageElems o n es
    (o.info.acc = .rws → s.mgmt.armed = none → u.staged ≠ s.staged → exec (.write who index sub off data) s =
      .next ((u.bumpGen.count .igcorRxCnt).emit (.answer 0 []))) ∧
    (o.info.acc = .rws → s.mgmt.armed = none → u.staged = s.staged → exec (.write who index sub off data) s =
      .next ((u.count .igcorRxCnt).emit (.answer 0 []))) ∧
    (o.info.acc = .rws → s.mgmt.armed ≠ none → exec (.write who index sub off data) s =
      .next (((s.tally .igcorRefuseCnt 0 .igcorStatus 0 2).count .igcorRxCnt).emit (.answer (BitVec.ofNat 8 Status.busy.code) []))) ∧
    (o.info.acc = .rw → hasAction o = false → s.writeRw o n es = .ok t → exec (.write who index sub off data) s =
      .next ((t.count .igcorRxCnt).emit (.answer 0 [])))

/-- `REGISTER_WRITE` of a whole element of an RWS entry stages it, and the generation advances if the image changes; of an RW entry, it
takes effect at once. -/
def Sys2Proof.Claim.RegisterWriteEntry : Prop :=
  ∀ (index : BitVec 16) (sub : Byte) (elem : Nat) (v : W64) (s t : State) (o : Obj) (n : Nat) (es : List (Nat × Nat)),
    s.mgmtUp = true → findEntry index.toNat sub.toNat = .ok (o, n) →
    o.info.writeElems (o.info.size * elem) (leBytes o.info.size v.toNat) = some es →
    (es.any fun e => o.info.badValue e.2) = false →
    let u := s.stageElems o n es
    (o.info.acc = .rws → s.mgmt.armed = none →
      (u.staged ≠ s.staged → exec (.registerWrite (.entry index sub elem) v) s = .next u.bumpGen) ∧
      (u.staged = s.staged → exec (.registerWrite (.entry index sub elem) v) s = .next u)) ∧
    (o.info.acc = .rw → hasAction o = false → s.writeRw o n es = .ok t →
      exec (.registerWrite (.entry index sub elem) v) s = .next t)

/-- Dictionary reads answer and change nothing; writes stage or take effect. -/
def Obligations.DictionaryReadsAndWrites : Prop :=
  Sys2Proof.Claim.ReadAnswers ∧ Sys2Proof.Claim.DescribeAndEvents ∧ Sys2Proof.Claim.WriteStagesOrActs ∧
  Sys2Proof.Claim.RegisterWriteEntry

/-- `CHECK` of a scope answers the first violated rule, or none: with none it answers OK, else it is refused with
`CHECK_FAILED`. -/
def Sys2Proof.Claim.CheckAnswers : Prop :=
  ∀ (who : Requester) (gen : W32) (scope : Byte) (s : State),
    s.Serves who ⟨4, 0, 0, 0, 0, 8, scope :: zeros 7⟩ → gen.toNat = 0 ∨ gen.toNat = s.rdN .stageGen → s.mgmt.armed = none →
    scope.toNat ≤ 0x10 →
    let r := s.runCheck (s.rdN .stageGen) scope.toNat false
    let res := checkResult r.1 scope.toNat (s.rdN .stageGen)
    (r.1 = none → exec (.check who gen scope) s = .next ((r.2.count .igcorRxCnt).emit (.answer 0 res))) ∧
    (r.1 ≠ none → exec (.check who gen scope) s = .next
      (((r.2.tally .igcorRefuseCnt 0 .igcorStatus 0 2).count .igcorRxCnt).emit
        (.answer (BitVec.ofNat 8 Status.checkFailed.code) res)))

/-- `APPLY` in form 0 of a scope that passes its check takes effect at once and advances the generation; in form 2, with an
instant at least 1,000 cycles away, it is armed. A frame that expects another generation is answered `STAGE_CHANGED`. -/
def Sys2Proof.Claim.ApplyTakesEffect : Prop :=
  ∀ (who : Requester) (gen : W32) (scope form : Byte) (arg : W64) (s : State),
    s.Serves who ⟨5, 0, 0, 0, 0, 16, scope :: form :: zeros 6 ++ leBytes 8 arg.toNat⟩ →
    let g := s.rdN .stageGen
    let r := s.runCheck g scope.toNat true
    let res := checkResult none scope.toNat g
    (gen.toNat = 0 ∨ gen.toNat = g → s.mgmt.armed = none → scope.toNat ≤ 0x10 → r.1 = none →
      (form = 0 → exec (.apply who gen scope form arg) s = .next
        ((((r.2.applyScope scope.toNat (nextGen g)).bumpGen).count .igcorRxCnt).emit (.answer 0 res))) ∧
      (form = 2 → r.2.rdN .globalTime + 1000 ≤ arg.toNat → exec (.apply who gen scope form arg) s = .next
        ((((r.2.arm scope.toNat 2 arg).bumpGen).count .igcorRxCnt).emit (.answer 0 res)))) ∧
    (gen.toNat ≠ 0 → gen.toNat ≠ g → exec (.apply who gen scope form arg) s = .next
      (((s.tally .igcorRefuseCnt 0 .igcorStatus 0 2).count .igcorRxCnt).emit
        (.answer (BitVec.ofNat 8 Status.stageChanged.code) [])))

/-- `DISCARD` of a scope returns its staged values to the applied ones, and the generation advances if that changes the image; an armed
image refuses it. -/
def Sys2Proof.Claim.DiscardReturns : Prop :=
  ∀ (who : Requester) (gen : W32) (scope : Byte) (s : State),
    s.Serves who ⟨6, 0, 0, 0, 0, 8, scope :: zeros 7⟩ → gen.toNat = 0 ∨ gen.toNat = s.rdN .stageGen →
    let t := s.discardScope scope.toNat
    (s.mgmt.armed = none → scope.toNat ≤ 0x10 →
      (t.staged ≠ s.staged → exec (.discard who gen scope) s = .next ((t.bumpGen.count .igcorRxCnt).emit (.answer 0 []))) ∧
      (t.staged = s.staged → exec (.discard who gen scope) s = .next ((t.count .igcorRxCnt).emit (.answer 0 [])))) ∧
    (s.mgmt.armed ≠ none → exec (.discard who gen scope) s = .next
      (((s.tally .igcorRefuseCnt 0 .igcorStatus 0 2).count .igcorRxCnt).emit (.answer (BitVec.ofNat 8 Status.busy.code) [])))

/-- The value that a write stages is read back from the staging image, and the applied value stays until an `APPLY`. -/
def Obligations.StagingKeepsApplied : Prop :=
  ∀ (o : Obj) (n e : Nat) (v : W64) (s : State),
    (s.wrStaged o n e v).rdStaged o n e = v ∧
    (∀ (o' : Obj) (n' e' : Nat), (s.wrStaged o n e v).rd o' n' e' = s.rd o' n' e') ∧
    (∀ (es : List (Nat × Nat)) (o' : Obj) (n' e' : Nat), (s.stageElems o n es).rd o' n' e' = s.rd o' n' e')

/-- `ARMED_APPLY_INSTANT`: a time-form change applies on the edge at which the global time is its argument, and on no other. -/
def Sys2Proof.Claim.ArmedChangeFires : Prop :=
  ∀ (s : State) (a : Armed), s.mgmt.armed = some a →
    (a.form = 2 → s.rd .globalTime = a.arg → exec .armedApplyInstant s = .next
      ((s.disarm.bumpGen).applyScope a.scope.toNat (s.disarm.bumpGen.rdN .stageGen))) ∧
    (a.form ≠ 2 ∨ s.rd .globalTime ≠ a.arg → exec .armedApplyInstant s = .next s)

/-- `PERSIST_WRITE` that is outstanding stores the persistent values, at the first try or the second, in the copy that is not the newer
valid one, which stays; closed by its CRC the new copy is the one in force. After two bad tries the failure is counted, and the values in
force stay the old ones. -/
def Sys2Proof.Claim.PersistentStored : Prop :=
  ∀ (readBack retry : Bool) (s : State), s.storing = true →
    let vals := s.regs.filter fun e => codeClass e.1 = .persistent
    ((readBack = true ∨ retry = true) → ∃ t : State, exec (.persistWrite readBack retry) s = .next t ∧ t.storing = false ∧
      t.stored = vals ∧ (s.newerB = true → t.copyB = s.copyB) ∧ (s.newerB = false → t.copyA = s.copyA) ∧
      t = { s with storing := false, copyA := t.copyA, copyB := t.copyB }) ∧
    (readBack = false → retry = false →
      ∃ t : State, exec (.persistWrite readBack retry) s = .next (t.tally .persistFailCnt 0 .igcorStatus 0 5) ∧ t.stored = s.stored ∧
        t = { s with storing := false, copyA := t.copyA, copyB := t.copyB })

/-- CHECK, APPLY and DISCARD of a scope, the armed instant, and the persistent record. -/
def Obligations.CheckApplyDiscard : Prop :=
  Sys2Proof.Claim.CheckAnswers ∧ Sys2Proof.Claim.ApplyTakesEffect ∧ Sys2Proof.Claim.DiscardReturns ∧
  Sys2Proof.Claim.ArmedChangeFires ∧ Sys2Proof.Claim.PersistentStored

/-- `IGCOR_FRAME`: a frame of the segment with a good transport is executed and answered to its source, and the response to one that
writes is kept among the last 16 of the source; a duplicate of a kept one is answered from it and counted, and executes nothing. A frame
with a bad transport, and a multicast one that does more than read, are discarded and counted. -/
def Sys2Proof.Claim.FrameAnswered : Prop :=
  ∀ (src : FrameFrom) (iid : W64) (bytes : List Byte) (s : State), src.who = .segment iid → s.mgmtUp = true →
    let reqId : BitVec 16 := BitVec.ofNat 16 (bits 31 16 (wordAt bytes 0))
    let dup := s.mgmt.kept.find? fun k => k.iid = iid && k.reqId = reqId
    let r := s.frame (.segment iid) bytes
    (src.transportOk = true → (src.multicast = false ∨ readsOnly bytes = true) → dup = none → hasWrite bytes = false →
      exec (.igcorFrame src bytes) s = .next (r.1.emit (.datagram iid src.port r.2))) ∧
    (src.transportOk = true → src.multicast = false → dup = none → hasWrite bytes = true →
      ∃ t : State, exec (.igcorFrame src bytes) s = .next (t.emit (.datagram iid src.port r.2)) ∧
        t = { r.1 with mgmt := { r.1.mgmt with kept := t.mgmt.kept } } ∧ (⟨iid, reqId, r.2⟩ : Kept) ∈ t.mgmt.kept ∧
        (t.mgmt.kept.filter fun k => k.iid = iid).length ≤ 16 ∧
        ∀ k : Kept, k.iid ≠ iid → (k ∈ t.mgmt.kept ↔ k ∈ r.1.mgmt.kept)) ∧
    (∀ k : Kept, src.transportOk = true → src.multicast = false → dup = some k →
      exec (.igcorFrame src bytes) s = .next ((s.count .igcorDupCnt).emit (.datagram iid src.port k.resp))) ∧
    (src.transportOk = false ∨ (src.multicast = true ∧ readsOnly bytes = false) →
      exec (.igcorFrame src bytes) s = .next (s.tally .igcorDropCnt 0 .igcorStatus 0 1))

/-- A mailbox that is busy has its request executed, of the length that its submission had: the response stands in its buffer, `BUSY`
falls, `DONE` rises and vector 3 is raised. A mailbox that is not busy has no request. -/
def Sys2Proof.Claim.MailboxAnswered : Prop :=
  ∀ (src : FrameFrom) (f : CtxId) (bytes : List Byte) (len : Nat) (s : State), src.who = .mailbox f → s.mgmtUp = true →
    s.asks (.mailbox f) = true →
    let r := s.frame (.mailbox f) (s.rdBytes .mbxReq f.val 0 len)
    let t := (r.1.wrBytes .mbxResp f.val 0 r.2).wrN .mbxRespLen f.val 0 r.2.length
    (bit 30 (s.rd .mbxCtrl f.val) = true → (s.mgmt.asked.find? fun e => e.1 = f) = some (f, len) →
      exec (.igcorFrame src bytes) s =
        .next ((t.wrN .mbxCtrl f.val 0 (2 ^ 29 + bits 11 0 (t.rd .mbxCtrl f.val))).interrupt f 3)) ∧
    (bit 30 (s.rd .mbxCtrl f.val) = false → exec (.igcorFrame src bytes) s = .next s)

/-- `NEIGHBOR_SOLICITATION` for the module's own address is answered with an advertisement, and `ICMPV6_ECHO` with its data, while the
controller has power; nothing else changes. -/
def Sys2Proof.Claim.NeighbourTraffic : Prop :=
  ∀ (src target : W64) (data : List Byte) (s : State), s.rdN .pwrState ≠ 0 →
    (target = s.ownIid → exec (.neighborSolicitation src target) s = .next (s.emit (.advert src))) ∧
    (target ≠ s.ownIid → exec (.neighborSolicitation src target) s = .next s) ∧
    exec (.icmpv6Echo src data) s = .next (s.emit (.echoReply src data))

/-- Frames of the segment and of a mailbox are executed and answered; duplicates are answered again. -/
def Obligations.FramesAnswered : Prop :=
  Sys2Proof.Claim.FrameAnswered ∧ Sys2Proof.Claim.MailboxAnswered ∧ Sys2Proof.Claim.NeighbourTraffic

/-- `STANDBY_POWER` in OFF: the dictionary is loaded, the straps are sampled, the controller probes its address, and the module is in
STANDBY, or goes on to power up when its input is qualified and no latch is held. In another state standby power and the straps are
noted alone. -/
def Sys2Proof.Claim.StandbyEntered : Prop :=
  ∀ (straps : BitVec 6) (s : State),
    let t := s.setPower { s.power with standby := true, straps := straps }
    let u := (t.loadDict.emit (.addressProbe t.loadDict.ownIid)).toPwr 1
    (s.rdN .pwrState = 0 → exec (.standbyPower straps) s = .next (u.wrN .slotId 0 0 straps.toNat).tryPower) ∧
    (s.rdN .pwrState ≠ 0 → exec (.standbyPower straps) s = .next t)

/-- `STANDBY_LOST` takes a module in OFF or STANDBY to OFF, where every entry but the strongroom's is at its default, nothing stands in
memory, and the stored values and the strongroom stay; in a later state the loss is noted alone. -/
def Sys2Proof.Claim.StandbyLost : Prop :=
  ∀ s : State,
    let t := s.setPower { s.power with standby := false }
    (s.rdN .pwrState ≤ 1 → ∃ u : State, exec .standbyLost s = .next u ∧ u.rdN .pwrState = 0 ∧ u.mem = [] ∧ u.ctxs = [] ∧
      u.items = [] ∧ u.strong = s.strong ∧ (s.storing = false → u.copyA = s.copyA ∧ u.copyB = s.copyB) ∧
      (∀ (o : Obj) (n e : Nat), o.info.cls = .strongroom → u.rd o n e = s.rd o n e) ∧
      (∀ (o : Obj) (n e : Nat), o.info.cls ≠ .strongroom → o ≠ .pwrState → u.rd o n e = regDefault (regCode o n e))) ∧
    (1 < s.rdN .pwrState → exec .standbyLost s = .next t)

/-- `MAIN_INPUT_QUALIFIED` in STANDBY starts power-up when no latch is held and no retry is awaited; in another state the input is
noted alone. -/
def Sys2Proof.Claim.InputQualified : Prop :=
  ∀ s : State,
    let t : State := { s with power := { s.power with qualified := true } }
    (s.rdN .pwrState = 1 → s.power.tripLatch = false → s.power.overLatch = false → s.power.retryWait = false →
      s.power.exhausted = false → ∃ u : State, exec .mainInputQualified s = .next u ∧ u.rdN .pwrState = 2 ∧ u.power.group = 0) ∧
    (s.rdN .pwrState ≠ 1 → exec .mainInputQualified s = .next t)

/-- Power-up: the hold-up capacitor charged leads to rail group 1, each group that regulates to the next, and the fourth to ON with a
cold module reset. A capacitor below 1,350 µF, or one that does not charge, is raised as `HOLDUP_LOW`, and power-up goes on without
protection. -/
def Sys2Proof.Claim.PowerUpSequence : Prop :=
  ∀ (micros : W32) (g : Fin 5) (s : State), s.rdN .pwrState = 2 →
    (s.power.group = 0 → micros.toNat / 20 < 2 ^ 16 →
      let t := s.wrN .holdupUf 0 0 (micros.toNat / 20)
      let low (v : State) : State := v.pwrEvent 0x42 (v.rdN .holdupUf) 3
      let goes (v : State) : State := { v with power := { v.power with unprot := true, group := 1 } }
      (1350 ≤ micros.toNat / 20 → exec (.holdupCharged micros true) s =
        .next { t with power := { s.power with group := 1 } }) ∧
      (micros.toNat / 20 < 1350 → exec (.holdupCharged micros true) s = .next (goes (low t))) ∧
      exec (.holdupCharged micros false) s = .next (goes (low s))) ∧
    (g.val ≠ 0 → g.val = s.power.group →
      (g.val < 4 → exec (.railGroupRegulated g) s = .next { s with power := { s.power with group := g.val + 1 } }) ∧
      (g.val = 4 → exec (.railGroupRegulated g) s =
        .next ((s.toPwr 3).beginReset (powerUpCause s.power.lastSave) true)))

/-- `PWR_FAULT` of the group awaited powers the module down; at most three times in a standby session a retry is awaited, after which
power-up is exhausted. `PWR_RETRY_TIMER` then tries again. -/
def Sys2Proof.Claim.PowerFaultRetries : Prop :=
  ∀ (g : Fin 5) (s : State),
    (s.rdN .pwrState = 2 → g.val ≠ 0 → g.val = s.power.group → exec (.pwrFault g) s = .next
      ({ s.pwrEvent 0x4C g.val 0 with power := { (s.pwrEvent 0x4C g.val 0).power with
          retryWait := decide ((s.pwrEvent 0x4C g.val 0).power.retries < 3)
          exhausted := !decide ((s.pwrEvent 0x4C g.val 0).power.retries < 3) } } : State).powerDown) ∧
    (s.power.retryWait = true → exec .pwrRetryTimer s = .next
      ({ s with power := { s.power with retryWait := false, retries := s.power.retries + 1 } } : State).tryPower)

/-- OFF, STANDBY and the power-up sequence with its retries. -/
def Obligations.PowerUpAndDown : Prop :=
  Sys2Proof.Claim.StandbyEntered ∧ Sys2Proof.Claim.StandbyLost ∧ Sys2Proof.Claim.InputQualified ∧
  Sys2Proof.Claim.PowerUpSequence ∧ Sys2Proof.Claim.PowerFaultRetries

/-- `SUPPLY_WARN`, `SAG_GLITCH`: counted, flagged and, the warning, raised with the input; the module goes on. -/
def Sys2Proof.Claim.SupplyWatched : Prop :=
  ∀ (mv : W32) (s : State), s.rdN .pwrState ≠ 0 →
    exec (.supplyWarn mv) s = .next (((s.wrN .inputMv 0 0 mv.toNat).count .supplyWarnCnt).pwrEvent 0x40 mv.toNat 0) ∧
    exec .sagGlitch s = .next (s.tally .sagGlitchCnt 0 .pwrStatus 0 1)

/-- `SAG` and `OVERVOLTAGE` in ON start a save: `SAG_SEQ` advances, the critical state is collected for the record, all work stops and the
module is SAVING; an overvoltage sets its latch. A further cause while it is SAVING starts nothing. `SAG` while powering up powers the
module down. -/
def Sys2Proof.Claim.SaveBegins : Prop :=
  ∀ (mv : W32) (s : State),
    let a := s.setPower { s.power with qualified := false }
    let b := (s.wrN .inputMv 0 0 mv.toNat).raise 0x4D none mv.toNat
    let b := b.setPower { b.power with overLatch := true }
    (s.rdN .pwrState = 3 → ∃ t u : State, exec .sag s = .next t ∧ exec (.overvoltage mv) s = .next u ∧
      t.rdN .pwrState = 4 ∧ u.rdN .pwrState = 4 ∧ t.power.saveCause = 1 ∧ u.power.saveCause = 4 ∧ u.power.overLatch = true ∧
      t.items = [] ∧ u.items = [] ∧ t.ctxs = [] ∧ u.ctxs = [] ∧ t.mem = s.mem ∧ u.mem = s.mem ∧
      t.rdN .sagSeq = (s.rdN .sagSeq + 1) % 2 ^ 64 ∧ u.rdN .sagSeq = (s.rdN .sagSeq + 1) % 2 ^ 64 ∧
      t.power.collected = (a.count .sagSeq).collect ∧ u.power.collected = (b.count .sagSeq).collect) ∧
    (s.rdN .pwrState = 4 → exec .sag s = .next a ∧ exec (.overvoltage mv) s = .next s) ∧
    (s.rdN .pwrState = 2 → exec .sag s = .next a.powerDown)

/-- `SAVE_DONE` and `SAVE_TIMEOUT` in SAVING: the record, whole or torn, is the newest of the two that the strongroom keeps, the
module powers down, and HBM is lost. -/
def Sys2Proof.Claim.SaveEnds : Prop :=
  ∀ (cycles : W32) (s : State), s.rdN .pwrState = 4 →
    ∃ t u : State, exec (.saveDone cycles) s = .next t ∧ exec .saveTimeout s = .next u ∧
      t.strong.records = (s.sagRecord cycles.toNat :: s.strong.records).take 2 ∧
      u.strong.records = ([] :: s.strong.records).take 2 ∧ t.mem = [] ∧ u.mem = [] ∧
      t.rdN .pwrState ≤ 2 ∧ u.rdN .pwrState ≤ 2

/-- A sag or overvoltage saves the critical state once and powers down; warnings are counted. -/
def Obligations.SavesAndSupply : Prop :=
  Sys2Proof.Claim.SupplyWatched ∧ Sys2Proof.Claim.SaveBegins ∧ Sys2Proof.Claim.SaveEnds

/-- `THERMAL_SAMPLE` while the controller has power: the readings are shown; while the module runs the throttle steps; then the trip and
the coolant are judged. A die at 105 °C in a second sample, of a module in ON without a latched trip, latches it and starts a save. -/
def Sys2Proof.Claim.SampleShown : Prop :=
  ∀ (t : ThermalData) (s : State), s.rdN .pwrState ≠ 0 →
    let u := s.takeReadings t
    (s.running = true → exec (.thermalSample t) s = .next (((u.throttle t).trip t).coolant t)) ∧
    (s.running = false → exec (.thermalSample t) s = .next ((u.trip t).coolant t)) ∧
    (∀ d : Fin 4, s.rdN .pwrState = 3 → s.power.tripLatch = false → 1 ≤ s.power.tripRun.getD d.val 0 →
      1050 ≤ ((tjList t).getD d.val 0).toInt → ∃ v : State, exec (.thermalSample t) s = .next v ∧ v.rdN .pwrState = 4 ∧
        v.power.tripLatch = true ∧ v.power.saveCause = 2)

/-- The throttle step: one up while a die is at the limit or the power is above the cap, at most to 7; one down once both are clear
by their margins; else it stays. -/
def Sys2Proof.Claim.ThrottleSteps : Prop :=
  ∀ (t : ThermalData) (s : State),
    let limit : Int := 10 * s.rdN .tjThrottleC
    let hot := ∃ x ∈ tjList t, limit ≤ x.toInt
    let heavy := 1000 * s.rdN .powerCap < t.inMw.toNat
    let cool := (∀ x ∈ tjList t, x.toInt + 30 ≤ limit) ∧ 100 * t.inMw.toNat ≤ 98 * (1000 * s.rdN .powerCap)
    (hot ∨ heavy → (s.throttle t).power.h = min 7 (s.power.h + 1)) ∧
    (¬ hot → ¬ heavy → cool → (s.throttle t).power.h = s.power.h - 1) ∧
    (¬ hot → ¬ heavy → ¬ cool → (s.throttle t).power.h = s.power.h)

/-- A thermal sample is shown and the throttle moves by one step. -/
def Obligations.ThermalSample : Prop :=
  Sys2Proof.Claim.SampleShown ∧ Sys2Proof.Claim.ThrottleSteps

/-- `MODULE_RESET` asks for a warm (cause 8) or, with no latch held, a cold (cause 9) reset, and the module works on;
`MODULE_RESET_DELAY` begins what was asked for first. -/
def Sys2Proof.Claim.ModuleResetAsked : Prop :=
  ∀ (s : State) (code : Nat) (cold : Bool) (rest : List (Nat × Bool)),
    exec .moduleResetWarm s = .next { s with power := { s.power with asked := s.power.asked ++ [(8, false)] } } ∧
    (s.power.tripLatch = false → s.power.overLatch = false →
      exec .moduleResetCold s = .next { s with power := { s.power with asked := s.power.asked ++ [(9, true)] } }) ∧
    (s.power.asked = (code, cold) :: rest → exec .moduleResetDelay s =
      .next (({ s with power := { s.power with asked := rest } } : State).startReset code cold)) ∧
    (s.power.asked = [] → exec .moduleResetDelay s = .next s)

/-- `MODULE_RESET` 2 with a latch held clears the latches when every die is at most at 85 °C and the input at most at 60 V, in SAVING
once the power-down is over; else it is refused. -/
def Sys2Proof.Claim.LatchesCleared : Prop :=
  ∀ s : State, (s.power.tripLatch = true ∨ s.power.overLatch = true) →
    (s.latchClearable = true → s.rdN .pwrState ≠ 4 → exec .moduleResetCold s =
      .next ({ s with power := { s.power with tripLatch := false, overLatch := false } } : State).tryPower) ∧
    (s.latchClearable = true → s.rdN .pwrState = 4 → exec .moduleResetCold s =
      .next { s with power := { s.power with after := s.power.after ++ [(9, true)] } }) ∧
    (s.latchClearable = false → exec .moduleResetCold s = .next (s.tally .igcorRefuseCnt 0 .igcorStatus 0 2))

/-- A reset source of a running module begins a module reset: the watchdog and `PERST#` a warm one, a lost PLL a cold one; all work
stops, memory stays until the reset completes, and `PERST_DEASSERT` ends the assertion alone. A source that comes while the module is
SAVING is kept for the time after power-down. -/
def Sys2Proof.Claim.ResetSources : Prop :=
  ∀ s : State,
    (s.running = true → ∃ t u v : State, exec .watchdogExpiry s = .next t ∧ exec .perstAssert s = .next u ∧
      exec .pllUnlock s = .next v ∧
      t.power.resetting = true ∧ t.power.cause = 6 ∧ t.power.cold = false ∧
      u.power.resetting = true ∧ u.power.cause = 7 ∧ u.power.cold = false ∧ u.power.perst = true ∧
      v.power.resetting = true ∧ v.power.cause = 5 ∧ v.power.cold = true ∧
      t.items = [] ∧ u.items = [] ∧ v.items = [] ∧ t.mem = s.mem ∧ u.mem = s.mem ∧ v.mem = s.mem) ∧
    (s.rdN .pwrState = 4 → exec .watchdogExpiry s =
      .next { s with power := { s.power with after := s.power.after ++ [(6, false)] } }) ∧
    exec .perstDeassert s = .next { s with power := { s.power with perst := false } }

/-- `MODULE_RESET_DONE`: contexts, items and time start anew, `RESET_CAUSE` shows the cause, and the event ring holds the reset's event,
behind that of an unreported sag record alone; HBM's bytes stay over a warm reset, and nothing else of memory does. It waits for a
reference that is required, and, where the reset began with `PERST#` asserted, for its end. -/
def Obligations.ModuleResetCompletes : Prop :=
  ∀ s : State,
    let waits := (s.rdN .refSelect = 2 ∧ s.power.refclk = false) ∨ (s.power.perstHold = true ∧ s.power.perst = true)
    (s.power.resetting = true → s.power.cause < 256 → ¬ waits →
      ∃ t : State, exec .moduleResetDone s = .next t ∧ t.power.resetting = false ∧ t.ctxs = [] ∧ t.items = [] ∧ t.now = 0 ∧
        t.rdN .resetCause = s.power.cause ∧
        (∃ e : EventRec, t.events.getLast? = some e ∧ e.code = 0x4B ∧ e.arg = BitVec.ofNat 32 s.power.cause) ∧
        (∀ e ∈ t.events, e.code = 0x41 ∨ e.code = 0x4B) ∧
        (s.power.cold = false → t.mem = s.mem.filter fun e => e.1 < 0x24000000000) ∧ (s.power.cold = true → t.mem = [])) ∧
    (s.power.resetting = false ∨ waits → exec .moduleResetDone s = .next s)

/-- `REF_LOST` of a reference that ROOT is locked to is holdover, raised once; else the loss is shown alone. `REFCLK_PRESENT` shows the
reference. -/
def Sys2Proof.Claim.ReferenceWatched : Prop :=
  ∀ s : State,
    let t := (s.setPower { s.power with refclk := false }).setPower { s.power with refclk := false, holdover := true }
    (s.rdN .refState % 4 = 2 → s.power.holdover = false → s.rdN .pwrState ≠ 0 →
      exec .refLost s = .next ((t.wrN .refState 0 0 10).pwrEvent 0x46 0 6)) ∧
    (s.rdN .refState % 4 ≠ 2 ∨ s.power.holdover = true ∨ s.rdN .pwrState = 0 →
      exec .refLost s = .next ((s.setPower { s.power with refclk := false }).wrN .refState 0 0
        (s.rdN .refState % 4 + s.rdN .refState / 8 % 2 * 8))) ∧
    exec .refclkPresent s = .next (({ s with power := { s.power with refclk := true } } : State).wrN .refState 0 0
      (s.rdN .refState % 4 + 4 + s.rdN .refState / 8 % 2 * 8))

/-- `SR_EXPORT` copies the last valid sag record to the enabled polder of kind 3 that can hold it; without a record it is refused. -/
def Sys2Proof.Claim.RecordExported : Prop :=
  ∀ (s : State) (p : Polder) (r : List Byte),
    (((List.range 256).map s.polder).find? fun p => p.enable && p.kind = 3) = some p →
    (s.lastRecord = some r → p.base + r.length ≤ p.limit → s.mgmtOk true p.base r.length = true →
      exec .srExport s = .next (s.poke p.base r)) ∧
    (s.lastRecord = none → exec .srExport s = .next (s.tally .igcorRefuseCnt 0 .igcorStatus 0 2))

/-- What starts a module reset, the latches, the reference, and the export of the sag record. -/
def Obligations.ResetsAndReference : Prop :=
  Sys2Proof.Claim.ModuleResetAsked ∧ Sys2Proof.Claim.LatchesCleared ∧ Sys2Proof.Claim.ResetSources ∧
  Sys2Proof.Claim.ReferenceWatched ∧ Sys2Proof.Claim.RecordExported

/-- A frame of a type reaches the module: the bypass is open, and the frame is good and of that type. -/
def Sys2Proof.Machine.State.TakesFrame (s : State) (f : SyncFrame) (type : Nat) : Prop :=
  s.power.bypass = false ∧ frameGood f = true ∧ frameType f = type

/-- The state in which a good frame on SYNC_DN_IN is acted on: the pair is not lost, and a member has its position from the frame. -/
def Sys2Proof.Machine.State.afterDn (s : State) (f : SyncFrame) : State :=
  let t : State := { s with sync := { s.sync with lostDn := false } }
  if s.isHead then t else t.wrN .syncPos 0 0 (framePos f + 1)

/-- `SYNC_FRAME_DISCARD` for a CRC, and any frame that is not good, is counted; one of another type than its event's does nothing. With the
bypass closed a frame is passed on, its bytes as they came, in its own direction, and nothing else happens. -/
def Sys2Proof.Claim.BadFramesCounted : Prop :=
  ∀ (f : SyncFrame) (onDn : Bool) (turnaround : W32) (t1 t4 : W64) (s : State),
    let bad := s.tally .syncCrcCnt 0 .pwrStatus 0 8
    (s.power.bypass = false →
      exec (.syncFrameDiscard true) s = .next bad ∧
      (frameGood f = false →
        exec (.syncTimeFrame f) s = .next bad ∧ exec (.syncStepFrame f) s = .next bad ∧ exec (.estop f onDn) s = .next bad ∧
        exec (.echoReq f turnaround) s = .next bad ∧ exec (.echoRsp f t1 t4) s = .next bad) ∧
      (frameGood f = true →
        (frameType f ≠ 1 → exec (.syncTimeFrame f) s = .next s) ∧ (frameType f ≠ 2 → exec (.syncStepFrame f) s = .next s) ∧
        (frameType f ≠ 3 → exec (.estop f onDn) s = .next s) ∧ (frameType f ≠ 4 → exec (.echoReq f turnaround) s = .next s) ∧
        (frameType f ≠ 5 → exec (.echoRsp f t1 t4) s = .next s))) ∧
    exec (.syncFrameDiscard false) s = .next s ∧
    (s.power.bypass = true →
      exec (.syncFrameDiscard true) s = .next s ∧
      exec (.syncTimeFrame f) s = .next (s.emit (.syncFrame true f.bytes)) ∧
      exec (.syncStepFrame f) s = .next (s.emit (.syncFrame true f.bytes)) ∧
      exec (.estop f onDn) s = .next (s.emit (.syncFrame onDn f.bytes)) ∧
      exec (.echoReq f turnaround) s = .next (s.emit (.syncFrame false f.bytes)) ∧
      exec (.echoRsp f t1 t4) s = .next (s.emit (.syncFrame true f.bytes)))

/-- A frame of the module's own has 16 bytes and is good: its type, the module's position and eight bytes, closed by the CRC. -/
def Sys2Proof.Claim.FramesAreWhole : Prop :=
  ∀ (type pos : Nat) (body : W64), type < 256 → pos < 65536 →
    let f : SyncFrame := ⟨syncBytes type pos body, false⟩
    f.bytes.length = 16 ∧ frameGood f = true ∧ frameType f = type ∧ framePos f = pos ∧ frameBody f = body

/-- `TIME` from the chain at a member with `TIME_SOURCE` 0: the first sets the global time to the sender's plus the link's delay; a
later one disciplines it by the lag. The head, and a module with another source, only take their position. -/
def Sys2Proof.Claim.ChainTimeTaken : Prop :=
  ∀ (f : SyncFrame) (s : State), s.TakesFrame f 1 →
    let t := s.afterDn f
    let body := frameBody f
    (s.isHead = false → s.rdN .timeSource = 0 → s.sync.acquired = false →
      ∃ u : State, exec (.syncTimeFrame f) s = .next u ∧ u.sync.acquired = true ∧
        u.rd .globalTime = body + BitVec.ofNat 64 (s.rdN .syncHopDelay / 68) ∧ u.rdN .syncPos = (framePos f + 1) % 2 ^ 16) ∧
    (s.isHead = false → s.rdN .timeSource = 0 → s.sync.acquired = true → exec (.syncTimeFrame f) s = .next
      (t.discipline (-((t.rd .globalTime - body).toInt * 68 - t.rdN .syncHopDelay)) (-1))) ∧
    (s.isHead = true ∨ s.rdN .timeSource ≠ 0 → exec (.syncTimeFrame f) s = .next t)

/-- `STEP` at a member: the step is shown, sent on, and a lag of context 0 beyond `SYNC_STEP_LAG` is counted and raised once for it. -/
def Sys2Proof.Claim.StepMarkTaken : Prop :=
  ∀ (f : SyncFrame) (s : State), s.TakesFrame f 2 → s.isHead = false →
    let body := frameBody f
    let t := ((s.afterDn f).wr .syncStep 0 0 body).syncSend 2 true body
    let lags := t.rdN .ctxStep + t.rdN .syncStepLag < body.toNat
    (¬ lags ∨ t.sync.lagStep = some body → exec (.syncStepFrame f) s = .next t) ∧
    (lags → t.sync.lagStep ≠ some body → exec (.syncStepFrame f) s = .next
      ((({ t with sync := { t.sync with lagStep := some body } } : State).count .stepLagCnt).pwrEvent 0x4A
        (body.toNat % 2 ^ 32) 9))

/-- The timers of the chain: the head, and a member that has the chain's time, send `TIME`; a member sends `ECHO_REQ` with the next
sequence. -/
def Sys2Proof.Claim.ChainTimersSend : Prop :=
  ∀ s : State, s.power.bypass = false →
    (s.isHead = true ∨ (s.sync.acquired = true ∧ s.rdN .timeSource = 0) → exec .syncTimeTimer s =
      .next (s.emit (.syncFrame true (syncBytes 1 s.chainPos (s.rd .globalTime))))) ∧
    (s.isHead = false → ∃ t : State, exec .syncEchoTimer s = .next t ∧ t.sync.echoSeq = s.sync.echoSeq + 1 ∧
      t.out = s.out ++ [.syncFrame false (syncBytes 4 s.chainPos ((s.sync.echoSeq + 1).zeroExtend 64))] ∧
      t.regs = s.regs ∧ t.mem = s.mem ∧ t.ctxs = s.ctxs)

/-- `ECHO_REQ` is answered downstream with its sequence and the turnaround. -/
def Sys2Proof.Claim.EchoAnswered : Prop :=
  ∀ (f : SyncFrame) (turnaround : W32) (s : State), s.TakesFrame f 4 → ∃ t : State, exec (.echoReq f turnaround) s = .next t ∧
    t.out = s.out ++ [.syncFrame true (syncBytes 5 s.chainPos
      (BitVec.ofNat 64 (turnaround.toNat * 2 ^ 8 + (frameBody f).toNat % 256)))] ∧
    t.regs = s.regs ∧ t.mem = s.mem ∧ t.ctxs = s.ctxs ∧ t.items = s.items

/-- `ECHO_RSP` to the last request: the link's delay is half of what the round trip took beyond the turnaround; an answer to an
older request changes no delay. -/
def Sys2Proof.Claim.EchoMeasures : Prop :=
  ∀ (f : SyncFrame) (t1 t4 : W64) (s : State), s.TakesFrame f 5 →
    ((frameBody f).toNat % 256 = s.sync.echoSeq.toNat → exec (.echoRsp f t1 t4) s =
      .next ((s.afterDn f).wrN .syncHopDelay 0 0 (((t4 - t1).toNat - bits 39 8 (frameBody f)) / 2))) ∧
    ((frameBody f).toNat % 256 ≠ s.sync.echoSeq.toNat → exec (.echoRsp f t1 t4) s = .next (s.afterDn f))

/-- `SYNC_LOSS` of a pair is counted and raised once until a valid frame comes on it. -/
def Sys2Proof.Claim.SyncLossRaised : Prop :=
  ∀ (up : Bool) (s : State), s.power.bypass = false →
    ((if up then s.sync.lostUp else s.sync.lostDn) = false → exec (.syncLoss up) s = .next
      ((({ s with sync := { s.sync with lostDn := s.sync.lostDn || !up, lostUp := s.sync.lostUp || up } } : State).count
        .syncLossCnt).pwrEvent 0x49 up.toNat 8)) ∧
    ((if up then s.sync.lostUp else s.sync.lostDn) = true → exec (.syncLoss up) s = .next s)

/-- Frames of the sync chain: time, step marks, echoes and losses. -/
def Obligations.ChainTraffic : Prop :=
  Sys2Proof.Claim.BadFramesCounted ∧ Sys2Proof.Claim.FramesAreWhole ∧ Sys2Proof.Claim.ChainTimeTaken ∧ Sys2Proof.Claim.StepMarkTaken ∧
  Sys2Proof.Claim.ChainTimersSend ∧ Sys2Proof.Claim.EchoAnswered ∧ Sys2Proof.Claim.EchoMeasures ∧
  Sys2Proof.Claim.SyncLossRaised

/-- `ESTOP` is latched with its origin's position, stops every partition of every context, is counted and raised, and goes on in its
direction; a module that has latched it already only sends it on. -/
def Sys2Proof.Claim.StopLatchedAndSentOn : Prop :=
  ∀ (f : SyncFrame) (onDn : Bool) (s : State), s.TakesFrame f 3 →
    let t0 : State := if onDn then s.afterDn f else { s with sync := { s.sync with lostUp := false } }
    let t : State := { t0 with sync := { t0.sync with estopAt := some t0.now } }
    let pos : BitVec 16 := (frameBody f).truncate 16
    let u : State := { t with sync := { t.sync with latched := true, estopPos := pos } }
    (s.sync.latched = false → exec (.estop f onDn) s =
      .next ((((u.stopAll fun _ => true).count .estopCnt).pwrEvent 0x48 pos.toNat 7).syncSend 3 onDn (pos.zeroExtend 64))) ∧
    (s.sync.latched = true → exec (.estop f onDn) s = .next (t.syncSend 3 onDn (pos.zeroExtend 64)))

/-- `ESTOP_RAISE` latches the stop and makes this module its origin, which sends it both ways and repeats it; `ESTOP_CLEAR` releases the
latch unless a frame came within the last 10,000 SCLK cycles. -/
def Sys2Proof.Claim.StopRaisedRepeatedCleared : Prop :=
  ∀ s : State,
    (let t := s.latchStop (BitVec.ofNat 16 s.chainPos)
     exec .estopRaise s = .next
      ({ t with sync := { t.sync with origin := true, estopPos := BitVec.ofNat 16 t.chainPos } } : State).sendStop) ∧
    (s.sync.latched = true → s.sync.origin = true → exec .estopRepeat s = .next s.sendStop) ∧
    (s.sync.latched = false ∨ s.sync.origin = false → exec .estopRepeat s = .next s) ∧
    (s.stopRecent = false →
      exec .estopClear s = .next { s with sync := { s.sync with latched := false, origin := false } }) ∧
    (s.stopRecent = true → exec .estopClear s = .next (s.tally .igcorRefuseCnt 0 .igcorStatus 0 2))

/-- The emergency stop is latched, raised, sent on, repeated and cleared. -/
def Obligations.EmergencyStop : Prop :=
  Sys2Proof.Claim.StopLatchedAndSentOn ∧ Sys2Proof.Claim.StopRaisedRepeatedCleared

/-- Every Crilet-4 code reads as its sign, exponent and mantissa say; 0x8 reads as 0. -/
def Obligations.Crilet4Codes : Prop :=
  ∀ c : BitVec 4,
    let e := c.toNat / 2 % 4
    let m := c.toNat % 2
    let halves := if e = 0 then m else 2 ^ (e - 1) * (2 + m)
    ∃ n d : Nat, elemVal 0 c.toNat = .fin (decide (8 < c.toNat)) n d ∧ 0 < d ∧ 2 * n = halves * d

/-- An S16 scale reads as its sign, exponent and mantissa say: a fraction; zero, under which every element of an operand, NaN and
infinities too, enters as +0; or NaN, under which every element is NaN. The NaN scale that is written is 0x7FC0, and 1.0 is 0x3F80. -/
def Obligations.S16Scales : Prop :=
  (∀ c : BitVec 16,
    let e := c.toNat / 128 % 256
    let m := c.toNat % 128
    (c.getLsbD 15 = false → 1 ≤ e → e ≤ 254 →
      ∃ n d : Nat, scaleVal true c.toNat = .fin false n d ∧ 0 < d ∧ n * (128 * 2 ^ 127) = d * (2 ^ e * (128 + m))) ∧
    (c.getLsbD 15 = false → e = 0 → ∃ n d : Nat, scaleVal true c.toNat = .fin false n d ∧ 0 < d ∧ n * (128 * 2 ^ 126) = d * m) ∧
    (c.getLsbD 15 = true ∨ e = 255 → scaleVal true c.toNat = .nan)) ∧
  (∀ (p : Operand) (c : BitVec 16) (x : Val), p.on = true →
    (c = 0 → p.element (scaleVal true c.toNat) x = (.fin false 0 1, .fin false 1 1)) ∧
    (c.getLsbD 15 = true ∨ c.toNat / 128 % 256 = 255 → p.element (scaleVal true c.toNat) x = (.nan, .fin false 1 1))) ∧
  (∀ (f : Nat) (xs : List Val), isNarrow f = true → .nan ∈ xs → (chooseScale f true xs).1 = 0x7FC0) ∧
  (∃ n : Nat, scaleVal true 0x3F80 = .fin false n n ∧ 0 < n)

/-- A fraction rounded to a whole number, as FP32 arithmetic rounds its last place, is at most a half away from it, and even when it is
exactly a half away. -/
def Sys2Proof.Claim.RoundingIsNearestEven : Prop :=
  ∀ n d : Nat, 0 < d →
    2 * (roundEven n d * d) ≤ 2 * n + d ∧ 2 * n ≤ 2 * (roundEven n d * d) + d ∧
    (2 * n = 2 * (roundEven n d * d) + d ∨ 2 * (roundEven n d * d) = 2 * n + d → roundEven n d % 2 = 0)

/-- A value between two magnitude codes of a format: the lower one is the largest code whose value it reaches, and the rest over the
distance is where it lies between the values of the two. -/
def Sys2Proof.Claim.NeighboursMeasured : Prop :=
  ∀ f n d a b a' b' : Nat, f ≤ 7 → 0 < d → (6 ≤ f → d ≤ n * 2 ^ 126) →
    let (lo, rem, dist) := magBelow f n d
    rem < dist ∧
    (lo + 1 ≤ (if f ≤ 5 then topCode f false else if f = 6 then 0x7F7F else 0x7F7FFFFF) →
      elemVal f lo = .fin false a b → elemVal f (lo + 1) = .fin false a' b' →
      ((n * b : Int) - a * d) * (dist * b') = rem * ((a' * b : Int) - a * b') * d)

/-- `convert` in mode 0 takes the nearer of the two magnitude codes that a value lies between, and of two equally near ones the even
one; a value that a code has is that code. A value above the format's top saturates to it, and one below the least normal number of BF16
and FP32 is +0. -/
def Sys2Proof.Claim.ConvertsToNearest : Prop :=
  ∀ (neg : Bool) (n d f r : Nat), f ≤ 7 → n ≠ 0 →
    let code := (convert (.fin neg n d) f 0 r).code
    let (lo, rem, dist) := magBelow f n d
    let flush := 6 ≤ f ∧ n * 2 ^ 126 < d
    let tops := f ≤ 5 ∧ topOf f neg * d < n
    (flush → code = 0) ∧ (tops → code = signedCode f neg (topCode f neg)) ∧
    (¬ flush → ¬ tops → lo < (if f = 6 then 0x7F80 else 0x7F800000) →
      (2 * rem < dist → code = signedCode f neg lo) ∧
      (rem ≠ 0 → dist < 2 * rem → code = signedCode f neg (lo + 1)) ∧
      (rem ≠ 0 → 2 * rem = dist → lo % 2 = 0 → code = signedCode f neg lo) ∧
      (rem ≠ 0 → 2 * rem = dist → lo % 2 = 1 → code = signedCode f neg (lo + 1)))

/-- A negative value never converts to a negative zero, whatever the format and the rounding. -/
def Sys2Proof.Claim.NoNegativeZero : Prop :=
  ∀ (f z mode r n d : Nat), (f, z) ∈ [(0, 0x8), (2, 0x4), (4, 0x80), (5, 0x80), (6, 0x8000), (7, 0x80000000)] →
    (convert (.fin true n d) f mode r).code ≠ z

/-- Rounding goes to the nearest and to even on a tie; no conversion writes a negative zero. -/
def Obligations.RoundingRules : Prop :=
  Sys2Proof.Claim.RoundingIsNearestEven ∧ Sys2Proof.Claim.NeighboursMeasured ∧ Sys2Proof.Claim.ConvertsToNearest ∧
  Sys2Proof.Claim.NoNegativeZero

/-- The fold of a hashed collection in 64-bit words: it lies within the physical rows, and index 1 of the example lives in row
618,033. -/
def Obligations.FoldIntoRows : Prop :=
  (∀ (i salt : W64) (last : W32),
    let x := (i ^^^ salt) * 0x9E3779B97F4A7C15
    let y := x ^^^ (x >>> 29)
    fold salt.toNat (last.toNat + 1) i.toNat = (y >>> 32).toNat * (last.toNat + 1) / 2 ^ 32 ∧
      fold salt.toNat (last.toNat + 1) i.toNat ≤ last.toNat) ∧
  (∀ (x : Coln) (i : Nat), x.kind = 1 → x.rowOf i = fold x.salt x.rows i) ∧ fold 0 1000000 1 = 618033

/-- Uniform sampling draws without replacement: the positions rise, lie within the list, and are as many as asked for, or all. -/
def Obligations.SamplesDistinct : Prop :=
  ∀ (d f : Nat) (u : Nat → Nat), (∀ j : Nat, u j < 2 ^ 64) →
    (uniform d f u).Pairwise (· < ·) ∧ (∀ x ∈ uniform d f u, x < d) ∧ (uniform d f u).length = min d f

/-- The partials of a segment stand in rising rows, one for each row that an item names, with the count of its items; merged with a
store's list they rise still, over the rows of both. -/
def Obligations.CoalescedRowsRise : Prop :=
  (∀ (len e : Nat) (its : List (Nat × Nat × List Nat)),
    ((partialsOf len e its).1.map (·.1)).Pairwise (· < ·) ∧
    (∀ row : Nat, row ∈ (partialsOf len e its).1.map (·.1) ↔ row ∈ its.map (·.1)) ∧
    (∀ m ∈ (partialsOf len e its).1, m.2.1 = (its.filter fun x => x.1 = m.1).length)) ∧
  (∀ (n : Nat) (a b : List Merged), a.length + b.length ≤ n →
    (a.map (·.1)).Pairwise (· < ·) → (b.map (·.1)).Pairwise (· < ·) →
    ((mergeLists n a b).map (·.1)).Pairwise (· < ·) ∧
    ∀ row : Nat, row ∈ (mergeLists n a b).map (·.1) ↔ row ∈ a.map (·.1) ∨ row ∈ b.map (·.1))

/-- Bytes written to memory read back, every other byte reads as before, the words covered whole lose their poison and no other
does, and the canonical form is kept. -/
def Obligations.MemoryReadsBack : Prop :=
  ∀ (pa : Nat) (bs : List Byte) (s : State),
    (∀ a : Nat, pa ≤ a → a < pa + bs.length → (s.poke pa bs).byteAt a = bs.getD (a - pa) 0) ∧
    (∀ a : Nat, ¬ (pa ≤ a ∧ a < pa + bs.length) → (s.poke pa bs).byteAt a = s.byteAt a) ∧
    (∀ w : Nat, w ∈ (s.poke pa bs).poison ↔ w ∈ s.poison ∧ ¬ (pa ≤ 4 * w ∧ 4 * w + 4 ≤ pa + bs.length)) ∧
    (Memory.wf s.scratch s.mem = true → Memory.wf (s.poke pa bs).scratch (s.poke pa bs).mem = true)

/-- Over the segment the four reading operations are accepted from any source, and every other one only from an identifier that a
non-zero writer element holds, or from any while all are zero; a refused one answers `ACCESS` and does nothing else but be counted;
one that writes `CTX_CONTROL` is counted in `CMD_REJECT_CNT` too. -/
def Obligations.SegmentAccess : Prop :=
  ∀ (iid : W64) (x : IgOp) (s : State),
    let writers := (List.range 8).map fun e => s.rd .mgmtWriters 0 e
    (s.mayRun (.segment iid) x = true ↔ x.op ∈ [1, 3, 7, 8] ∨ (∀ w ∈ writers, w = 0) ∨ (iid ≠ 0 ∧ iid ∈ writers)) ∧
    ∀ (snap : State) (want gen : Nat), s.mayRun (.segment iid) x = false →
      let t := s.tally .igcorRefuseCnt 0 .igcorStatus 0 2
      (∀ n : Nat, x.op = 2 → findEntry x.index x.sub = .ok (.ctxControl, n) →
        s.runRecord snap (.segment iid) want gen x = ⟨.access, [], t.count .cmdRejectCnt n, false⟩) ∧
      ((x.op ≠ 2 ∨ ∀ n : Nat, findEntry x.index x.sub ≠ .ok (.ctxControl, n)) →
        s.runRecord snap (.segment iid) want gen x = ⟨.access, [], t, false⟩)

/-- A cause of a vector sends its message unless the vector's last one is less than the holdoff old; then the cause is marked, once,
and when the holdoff ends one message goes for what was marked and none where nothing was. -/
def Obligations.HoldoffCollectsCauses : Prop :=
  ∀ (f : CtxId) (vec : Byte) (s : State),
    let key := 256 * f.val + vec.toNat
    let sent := Store.get (fun _ => 0) s.msiLast key
    let holdoff := s.rdN .irqHoldoff f.val % 65536
    (sent = 0 ∨ holdoff = 0 ∨ sent - 1 + holdoff ≤ s.now → s.vector f vec.toNat = s.msixSend f vec.toNat) ∧
    (sent ≠ 0 → holdoff ≠ 0 → s.now < sent - 1 + holdoff → s.vector f vec.toNat =
      { s with msiHeld := if key ∈ s.msiHeld then s.msiHeld else s.msiHeld ++ [key] }) ∧
    (key ∈ s.msiHeld → exec (.irqHoldoffExpiry f vec) s = .next
      (({ s with msiHeld := s.msiHeld.filter (· ≠ key) } : State).msixSend f vec.toNat)) ∧
    (key ∉ s.msiHeld → exec (.irqHoldoffExpiry f vec) s = .next s) ∧
    (bit 0 (s.rd .msixTable f.val (4 * vec.toNat + 3)) = false → s.fnOn f = true →
      Store.get (fun _ => 0) (s.msixSend f vec.toNat).msiLast key = s.now + 1)

/-- What the manual states for the machine after module reset: every context IDLE at step 0 with its barriers UNINIT, queues and the
vitrine empty, the time and the event sequence 0, the staging generation 1, and every staged value equal to the applied one. -/
def Sys2Proof.Claim.ResetStandsAsStated : Prop :=
  (∀ c : CtxId, (State.reset.ctx c).st = .idle ∧ State.reset.rdN .ctxStep c.val = 0 ∧
    ∀ b : Nat, State.reset.bar c b = ⟨.uninit, 0, 0⟩) ∧
  (∀ q : Nat, (State.reset.queue q).lines = [] ∧ (State.reset.queue q).mark = none) ∧ State.reset.pend = [] ∧
  State.reset.rd .globalTime = 0 ∧ State.reset.rdN .eventNextSeq = 0 ∧ State.reset.events = [] ∧
  State.reset.rdN .stageGen = 1 ∧ (∀ (o : Obj) (n e : Nat), State.reset.rdStaged o n e = State.reset.rd o n e) ∧
  State.reset.pending = []

/-- The state right after module reset has that form and holds what the manual states for it. -/
def Obligations.ResetState : Prop :=
  Sys2Proof.Claim.ResetHasForm ∧ Sys2Proof.Claim.ResetStandsAsStated

/-- Memory and the work of the contexts are as they were: every byte and its poison, contexts, items, trails, pending copies, log
heads, barriers, matrix engines, stream engines and queues. -/
def Sys2Proof.Machine.State.SameWork (a s : State) : Prop :=
  (∀ pa : Nat, s.byteAt pa = a.byteAt pa) ∧ s.poison = a.poison ∧ s.ctxs = a.ctxs ∧ s.items = a.items ∧ s.trails = a.trails ∧
    s.pend = a.pend ∧ s.heads = a.heads ∧ s.bars = a.bars ∧ s.arrays = a.arrays ∧ s.engines = a.engines ∧ s.queues = a.queues

/-- The operations by which a command reports: each leaves memory and all work as they were, and of the entries it moves only its
counter, its status entry, and those of an interrupt or a packet. -/
def Obligations.ReportsChangeNothingElse : Prop :=
  ∀ (c o : Obj) (n m b code arg rank cause : Nat) (who : Option CtxId) (k : Packet) (f : CtxId) (s t : State),
    t ∈ [s.count c n, s.tally c n o m b, s.setFlag o m b, s.raise code who arg, s.send rank k, s.broadcast k, s.interrupt f cause,
      s.fabricDrop] →
    s.SameWork t ∧ t.staged = s.staged ∧ t.power = s.power ∧ t.sync = s.sync ∧ t.strong = s.strong ∧ t.mgmt = s.mgmt ∧
    t.surv = s.surv ∧ t.pending = s.pending ∧
    ∀ (o' : Obj) (n' e' : Nat), o' ∉ [c, o, .msixPba, .fabricDropCnt, .shxStatus, .eventNextSeq] → t.rd o' n' e' = s.rd o' n' e'

/-- Commands that start no work: link training and lanes, the sync chain's traffic, supplies and references, one packet's notices,
vectors and mailboxes, and the dictionary's reads. -/
def Sys2Proof.Instr.isQuiet : Instr → Bool
  | .signalDetect .. | .linkRetryTimer .. | .trainConverged .. | .trainTimeout .. | .alignDone .. | .alignTimeout ..
  | .verifyTimeout .. | .laneLockLoss .. | .laneRestored .. | .laneDisable .. | .laneSymbolRateWindow ..
  | .mismatchReport .. | .prune .. | .shxTimeExchange | .statusEntryWrite .. | .arbitrationWindow | .retireCopyDone ..
  | .holdupCharged .. | .supplyWarn .. | .sagGlitch | .refLost | .refclkPresent | .perstDeassert | .pcieLinkUp ..
  | .msixUnmask .. | .irqHoldoffExpiry .. | .mailboxGo .. | .neighborSolicitation .. | .icmpv6Echo .. | .persistWrite ..
  | .read .. | .readStaged .. | .describe .. | .eventRead .. | .syncFrameDiscard .. | .syncTimeFrame .. | .syncStepFrame ..
  | .syncTimeTimer | .syncEchoTimer | .echoReq .. | .echoRsp .. | .syncLoss .. | .estopClear | .estopRepeat => true
  | _ => false

/-- The frame of those commands: whatever the state and the operands, no byte of memory, no context, item, trail, barrier, queue or
stream engine changes. The same holds of a codeword at a port that has no change of width agreed; with one, the port that widens sends
what it holds, and work that waited for it goes on. -/
def Obligations.QuietCommandsKeepWork : Prop :=
  (∀ (i : Instr) (s t : State), i.isQuiet = true → exec i s = .next t → s.SameWork t) ∧
  (∀ (p : PortId) (seq ack : BitVec 10) (decoded : Bool) (corrected : BitVec 4) (s t : State), (s.port p.val).change = none →
    exec (.codeword p seq ack decoded corrected) s = .next t → s.SameWork t)
end

