-- ==== Sys2Proof/Laws/Exec.lean ====
section
/-! SUPPORT. `exec` of each command is its meaning: one lemma per constructor, so that no proof unfolds the dispatch. -/

namespace Sys2Proof.Machine

@[simp] theorem exec_preempt (c) (s : State) : exec (.preempt c) s = execPreempt c s := rfl
@[simp] theorem exec_resume (c) (s : State) : exec (.resume c) s = execResume c s := rfl
@[simp] theorem exec_reset (c) (s : State) : exec (.reset c) s = execReset c s := rfl
@[simp] theorem exec_registerWrite (t v) (s : State) : exec (.registerWrite t v) s = execRegisterWrite t v s := rfl
@[simp] theorem exec_statusEntryWrite (index sub v) (s : State) : exec (.statusEntryWrite index sub v) s = execStatusEntryWrite index sub v s := rfl
@[simp] theorem exec_sqTail (c v) (s : State) : exec (.sqTail c v) s = execSqTail c v s := rfl
@[simp] theorem exec_cqHead (c v) (s : State) : exec (.cqHead c v) s = execCqHead c v s := rfl
@[simp] theorem exec_sqCfg (c v) (s : State) : exec (.sqCfg c v) s = execSqCfg c v s := rfl
@[simp] theorem exec_cqCfg (c v) (s : State) : exec (.cqCfg c v) s = execCqCfg c v s := rfl
@[simp] theorem exec_submissionFetch (c r) (s : State) : exec (.submissionFetch c r) s = execSubmissionFetch c r s := rfl
@[simp] theorem exec_nop (q) (s : State) : exec (.nop q) s = execNop q s := rfl
@[simp] theorem exec_tile (q holds stalls) (s : State) : exec (.tile q holds stalls) s = execTile q holds stalls s := rfl
@[simp] theorem exec_vector (q) (s : State) : exec (.vector q) s = execVector q s := rfl
@[simp] theorem exec_streamArm (q) (s : State) : exec (.streamArm q) s = execStreamArm q s := rfl
@[simp] theorem exec_barrier (q) (s : State) : exec (.barrier q) s = execBarrier q s := rfl
@[simp] theorem exec_sample (q) (s : State) : exec (.sample q) s = execSample q s := rfl
@[simp] theorem exec_gather (q) (s : State) : exec (.gather q) s = execGather q s := rfl
@[simp] theorem exec_scatter (q) (s : State) : exec (.scatter q) s = execScatter q s := rfl
@[simp] theorem exec_coalesce (q) (s : State) : exec (.coalesce q) s = execCoalesce q s := rfl
@[simp] theorem exec_reduce (q) (s : State) : exec (.reduce q) s = execReduce q s := rfl
@[simp] theorem exec_update (q) (s : State) : exec (.update q) s = execUpdate q s := rfl
@[simp] theorem exec_commit (q) (s : State) : exec (.commit q) s = execCommit q s := rfl
@[simp] theorem exec_migrate (q) (s : State) : exec (.migrate q) s = execMigrate q s := rfl
@[simp] theorem exec_snapshot (q) (s : State) : exec (.snapshot q) s = execSnapshot q s := rfl
@[simp] theorem exec_dma (q hostData errUnit) (s : State) : exec (.dma q hostData errUnit) s = execDma q hostData errUnit s := rfl
@[simp] theorem exec_itemCommit (ref) (s : State) : exec (.itemCommit ref) s = execItemCommit ref s := rfl
@[simp] theorem exec_faultResume (c id) (s : State) : exec (.faultResume c id) s = execFaultResume c id s := rfl
@[simp] theorem exec_barrierArrival (c bar) (s : State) : exec (.barrierArrival c bar) s = execBarrierArrival c bar s := rfl
@[simp] theorem exec_paceRelease (c) (s : State) : exec (.paceRelease c) s = execPaceRelease c s := rfl
@[simp] theorem exec_commitTimeout (c) (s : State) : exec (.commitTimeout c) s = execCommitTimeout c s := rfl
@[simp] theorem exec_specVerify (ref core waited) (s : State) : exec (.specVerify ref core waited) s = execSpecVerify ref core waited s := rfl
@[simp] theorem exec_conservatorCompare (ref tile) (s : State) : exec (.conservatorCompare ref tile) s = execConservatorCompare ref tile s := rfl
@[simp] theorem exec_streamTranslated (e) (s : State) : exec (.streamTranslated e) s = execStreamTranslated e s := rfl
@[simp] theorem exec_streamProgramEnd (e) (s : State) : exec (.streamProgramEnd e) s = execStreamProgramEnd e s := rfl
@[simp] theorem exec_arbitrationWindow (s : State) : exec (.arbitrationWindow) s = execArbitrationWindow s := rfl
@[simp] theorem exec_mark (q) (s : State) : exec (.mark q) s = execMark q s := rfl
@[simp] theorem exec_unmark (q) (s : State) : exec (.unmark q) s = execUnmark q s := rfl
@[simp] theorem exec_rewind (q) (s : State) : exec (.rewind q) s = execRewind q s := rfl
@[simp] theorem exec_release (q x) (s : State) : exec (.release q x) s = execRelease q x s := rfl
@[simp] theorem exec_queueRead (q) (s : State) : exec (.queueRead q) s = execQueueRead q s := rfl
@[simp] theorem exec_vitrineCopyDone (c coll row) (s : State) : exec (.vitrineCopyDone c coll row) s = execVitrineCopyDone c coll row s := rfl
@[simp] theorem exec_saveAreaWritten (c) (s : State) : exec (.saveAreaWritten c) s = execSaveAreaWritten c s := rfl
@[simp] theorem exec_mmuInval (c va count) (s : State) : exec (.mmuInval c va count) s = execMmuInval c va count s := rfl
@[simp] theorem exec_invalDone (c) (s : State) : exec (.invalDone c) s = execInvalDone c s := rfl
@[simp] theorem exec_hbmScrubPass (found) (s : State) : exec (.hbmScrubPass found) s = execHbmScrubPass found s := rfl
@[simp] theorem exec_retireCopyDone (d) (s : State) : exec (.retireCopyDone d) s = execRetireCopyDone d s := rfl
@[simp] theorem exec_codeword (p seq ack decoded corrected) (s : State) : exec (.codeword p seq ack decoded corrected) s = execCodeword p seq ack decoded corrected s := rfl
@[simp] theorem exec_signalDetect (p lanes) (s : State) : exec (.signalDetect p lanes) s = execSignalDetect p lanes s := rfl
@[simp] theorem exec_trainConverged (p) (s : State) : exec (.trainConverged p) s = execTrainConverged p s := rfl
@[simp] theorem exec_trainTimeout (p) (s : State) : exec (.trainTimeout p) s = execTrainTimeout p s := rfl
@[simp] theorem exec_alignDone (p) (s : State) : exec (.alignDone p) s = execAlignDone p s := rfl
@[simp] theorem exec_alignTimeout (p) (s : State) : exec (.alignTimeout p) s = execAlignTimeout p s := rfl
@[simp] theorem exec_verifyTimeout (p) (s : State) : exec (.verifyTimeout p) s = execVerifyTimeout p s := rfl
@[simp] theorem exec_linkRetryTimer (p) (s : State) : exec (.linkRetryTimer p) s = execLinkRetryTimer p s := rfl
@[simp] theorem exec_laneLockLoss (p lane) (s : State) : exec (.laneLockLoss p lane) s = execLaneLockLoss p lane s := rfl
@[simp] theorem exec_laneRestored (p lane) (s : State) : exec (.laneRestored p lane) s = execLaneRestored p lane s := rfl
@[simp] theorem exec_laneDisable (p v) (s : State) : exec (.laneDisable p v) s = execLaneDisable p v s := rfl
@[simp] theorem exec_credit (p vc dl granules) (s : State) : exec (.credit p vc dl granules) s = execCredit p vc dl granules s := rfl
@[simp] theorem exec_laneChange (p seq lanes) (s : State) : exec (.laneChange p seq lanes) s = execLaneChange p seq lanes s := rfl
@[simp] theorem exec_ident (p domain coord dims peerPort) (s : State) : exec (.ident p domain coord dims peerPort) s = execIdent p domain coord dims peerPort s := rfl
@[simp] theorem exec_redHdr (k) (s : State) : exec (.redHdr k) s = execRedHdr k s := rfl
@[simp] theorem exec_redDense (k) (s : State) : exec (.redDense k) s = execRedDense k s := rfl
@[simp] theorem exec_redSparse (k) (s : State) : exec (.redSparse k) s = execRedSparse k s := rfl
@[simp] theorem exec_redResult (k) (s : State) : exec (.redResult k) s = execRedResult k s := rfl
@[simp] theorem exec_collAbort (k) (s : State) : exec (.collAbort k) s = execCollAbort k s := rfl
@[simp] theorem exec_commitToken (k) (s : State) : exec (.commitToken k) s = execCommitToken k s := rfl
@[simp] theorem exec_mismatchReport (k) (s : State) : exec (.mismatchReport k) s = execMismatchReport k s := rfl
@[simp] theorem exec_verdict (k) (s : State) : exec (.verdict k) s = execVerdict k s := rfl
@[simp] theorem exec_fenceVoteClose (s : State) : exec (.fenceVoteClose) s = execFenceVoteClose s := rfl
@[simp] theorem exec_verdictTimeout (c) (s : State) : exec (.verdictTimeout c) s = execVerdictTimeout c s := rfl
@[simp] theorem exec_applyPrep (k) (s : State) : exec (.applyPrep k) s = execApplyPrep k s := rfl
@[simp] theorem exec_applyVote (k) (s : State) : exec (.applyVote k) s = execApplyVote k s := rfl
@[simp] theorem exec_applyGo (k) (s : State) : exec (.applyGo k) s = execApplyGo k s := rfl
@[simp] theorem exec_applyGoCancel (k) (s : State) : exec (.applyGoCancel k) s = execApplyGoCancel k s := rfl
@[simp] theorem exec_domainApply (w0 w1) (s : State) : exec (.domainApply w0 w1) s = execDomainApply w0 w1 s := rfl
@[simp] theorem exec_applyVoteDeadline (s : State) : exec (.applyVoteDeadline) s = execApplyVoteDeadline s := rfl
@[simp] theorem exec_domainApplyInstant (s : State) : exec (.domainApplyInstant) s = execDomainApplyInstant s := rfl
@[simp] theorem exec_shxTimePacket (t1 t2 t3 t4) (s : State) : exec (.shxTimePacket t1 t2 t3 t4) s = execShxTimePacket t1 t2 t3 t4 s := rfl
@[simp] theorem exec_shxTimeExchange (s : State) : exec (.shxTimeExchange) s = execShxTimeExchange s := rfl
@[simp] theorem exec_mcast (p k) (s : State) : exec (.mcast p k) s = execMcast p k s := rfl
@[simp] theorem exec_mcastPruneTimeout (p) (s : State) : exec (.mcastPruneTimeout p) s = execMcastPruneTimeout p s := rfl
@[simp] theorem exec_prune (k) (s : State) : exec (.prune k) s = execPrune k s := rfl
@[simp] theorem exec_shxHopTimeout (p) (s : State) : exec (.shxHopTimeout p) s = execShxHopTimeout p s := rfl
@[simp] theorem exec_shxCollTimeout (c) (s : State) : exec (.shxCollTimeout c) s = execShxCollTimeout c s := rfl
@[simp] theorem exec_depotWr (k) (s : State) : exec (.depotWr k) s = execDepotWr k s := rfl
@[simp] theorem exec_depotRd (k) (s : State) : exec (.depotRd k) s = execDepotRd k s := rfl
@[simp] theorem exec_depotData (k) (s : State) : exec (.depotData k) s = execDepotData k s := rfl
@[simp] theorem exec_tunWr (k) (s : State) : exec (.tunWr k) s = execTunWr k s := rfl
@[simp] theorem exec_tunRd (k) (s : State) : exec (.tunRd k) s = execTunRd k s := rfl
@[simp] theorem exec_tunCpl (k) (s : State) : exec (.tunCpl k) s = execTunCpl k s := rfl
@[simp] theorem exec_tunDmaRd (k hostData) (s : State) : exec (.tunDmaRd k hostData) s = execTunDmaRd k hostData s := rfl
@[simp] theorem exec_tunDmaWr (k) (s : State) : exec (.tunDmaWr k) s = execTunDmaWr k s := rfl
@[simp] theorem exec_tunIrq (k) (s : State) : exec (.tunIrq k) s = execTunIrq k s := rfl
@[simp] theorem exec_shxTunnelTimeout (opSeq) (s : State) : exec (.shxTunnelTimeout opSeq) s = execShxTunnelTimeout opSeq s := rfl
@[simp] theorem exec_fence (s : State) : exec (.fence) s = execFence s := rfl
@[simp] theorem exec_fenceClear (s : State) : exec (.fenceClear) s = execFenceClear s := rfl
@[simp] theorem exec_restoreReq (w0 w1 w2 w3) (s : State) : exec (.restoreReq w0 w1 w2 w3) s = execRestoreReq w0 w1 w2 w3 s := rfl
@[simp] theorem exec_provReq (w) (s : State) : exec (.provReq w) s = execProvReq w s := rfl
@[simp] theorem exec_flr (f) (s : State) : exec (.flr f) s = execFlr f s := rfl
@[simp] theorem exec_d3hotToD0 (f) (s : State) : exec (.d3hotToD0 f) s = execD3hotToD0 f s := rfl
@[simp] theorem exec_hotReset (s : State) : exec (.hotReset) s = execHotReset s := rfl
@[simp] theorem exec_perstAssert (s : State) : exec (.perstAssert) s = execPerstAssert s := rfl
@[simp] theorem exec_windowRead (f off len) (s : State) : exec (.windowRead f off len) s = execWindowRead f off len s := rfl
@[simp] theorem exec_windowWrite (f off data) (s : State) : exec (.windowWrite f off data) s = execWindowWrite f off data s := rfl
@[simp] theorem exec_apertureAccess (f off a) (s : State) : exec (.apertureAccess f off a) s = execApertureAccess f off a s := rfl
@[simp] theorem exec_mailboxGo (f) (s : State) : exec (.mailboxGo f) s = execMailboxGo f s := rfl
@[simp] theorem exec_irqHoldoffExpiry (f vec) (s : State) : exec (.irqHoldoffExpiry f vec) s = execIrqHoldoffExpiry f vec s := rfl
@[simp] theorem exec_igcorFrame (from_ bytes) (s : State) : exec (.igcorFrame from_ bytes) s = execIgcorFrame from_ bytes s := rfl
@[simp] theorem exec_neighborSolicitation (src target) (s : State) : exec (.neighborSolicitation src target) s = execNeighborSolicitation src target s := rfl
@[simp] theorem exec_icmpv6Echo (src data) (s : State) : exec (.icmpv6Echo src data) s = execIcmpv6Echo src data s := rfl
@[simp] theorem exec_read (who index sub off len) (s : State) : exec (.read who index sub off len) s = execRead who index sub off len s := rfl
@[simp] theorem exec_write (who index sub off data) (s : State) : exec (.write who index sub off data) s = execWrite who index sub off data s := rfl
@[simp] theorem exec_readStaged (who index sub off len) (s : State) : exec (.readStaged who index sub off len) s = execReadStaged who index sub off len s := rfl
@[simp] theorem exec_check (who gen scope) (s : State) : exec (.check who gen scope) s = execCheck who gen scope s := rfl
@[simp] theorem exec_apply (who gen scope form arg) (s : State) : exec (.apply who gen scope form arg) s = execApply who gen scope form arg s := rfl
@[simp] theorem exec_discard (who gen scope) (s : State) : exec (.discard who gen scope) s = execDiscard who gen scope s := rfl
@[simp] theorem exec_describe (who index sub) (s : State) : exec (.describe who index sub) s = execDescribe who index sub s := rfl
@[simp] theorem exec_eventRead (who first most) (s : State) : exec (.eventRead who first most) s = execEventRead who first most s := rfl
@[simp] theorem exec_armedApplyInstant (s : State) : exec (.armedApplyInstant) s = execArmedApplyInstant s := rfl
@[simp] theorem exec_persistWrite (readBack retry) (s : State) : exec (.persistWrite readBack retry) s = execPersistWrite readBack retry s := rfl
@[simp] theorem exec_standbyPower (straps) (s : State) : exec (.standbyPower straps) s = execStandbyPower straps s := rfl
@[simp] theorem exec_standbyLost (s : State) : exec (.standbyLost) s = execStandbyLost s := rfl
@[simp] theorem exec_mainInputQualified (s : State) : exec (.mainInputQualified) s = execMainInputQualified s := rfl
@[simp] theorem exec_railGroupRegulated (g) (s : State) : exec (.railGroupRegulated g) s = execRailGroupRegulated g s := rfl
@[simp] theorem exec_pwrFault (g) (s : State) : exec (.pwrFault g) s = execPwrFault g s := rfl
@[simp] theorem exec_pwrRetryTimer (s : State) : exec (.pwrRetryTimer) s = execPwrRetryTimer s := rfl
@[simp] theorem exec_supplyWarn (mv) (s : State) : exec (.supplyWarn mv) s = execSupplyWarn mv s := rfl
@[simp] theorem exec_sag (s : State) : exec (.sag) s = execSag s := rfl
@[simp] theorem exec_sagGlitch (s : State) : exec (.sagGlitch) s = execSagGlitch s := rfl
@[simp] theorem exec_overvoltage (mv) (s : State) : exec (.overvoltage mv) s = execOvervoltage mv s := rfl
@[simp] theorem exec_saveDone (cycles) (s : State) : exec (.saveDone cycles) s = execSaveDone cycles s := rfl
@[simp] theorem exec_saveTimeout (s : State) : exec (.saveTimeout) s = execSaveTimeout s := rfl
@[simp] theorem exec_thermalSample (t) (s : State) : exec (.thermalSample t) s = execThermalSample t s := rfl
@[simp] theorem exec_moduleResetWarm (s : State) : exec (.moduleResetWarm) s = execModuleResetWarm s := rfl
@[simp] theorem exec_moduleResetCold (s : State) : exec (.moduleResetCold) s = execModuleResetCold s := rfl
@[simp] theorem exec_moduleResetDelay (s : State) : exec (.moduleResetDelay) s = execModuleResetDelay s := rfl
@[simp] theorem exec_watchdogExpiry (s : State) : exec (.watchdogExpiry) s = execWatchdogExpiry s := rfl
@[simp] theorem exec_pllUnlock (s : State) : exec (.pllUnlock) s = execPllUnlock s := rfl
@[simp] theorem exec_refLost (s : State) : exec (.refLost) s = execRefLost s := rfl
@[simp] theorem exec_moduleResetDone (s : State) : exec (.moduleResetDone) s = execModuleResetDone s := rfl
@[simp] theorem exec_srExport (s : State) : exec (.srExport) s = execSrExport s := rfl
@[simp] theorem exec_syncTimeFrame (f) (s : State) : exec (.syncTimeFrame f) s = execSyncTimeFrame f s := rfl
@[simp] theorem exec_syncStepFrame (f) (s : State) : exec (.syncStepFrame f) s = execSyncStepFrame f s := rfl
@[simp] theorem exec_estop (f onDn) (s : State) : exec (.estop f onDn) s = execEstop f onDn s := rfl
@[simp] theorem exec_echoReq (f turnaround) (s : State) : exec (.echoReq f turnaround) s = execEchoReq f turnaround s := rfl
@[simp] theorem exec_echoRsp (f t1 t4) (s : State) : exec (.echoRsp f t1 t4) s = execEchoRsp f t1 t4 s := rfl
@[simp] theorem exec_syncEchoTimer (s : State) : exec (.syncEchoTimer) s = execSyncEchoTimer s := rfl
@[simp] theorem exec_syncTimeTimer (s : State) : exec (.syncTimeTimer) s = execSyncTimeTimer s := rfl
@[simp] theorem exec_syncLoss (up) (s : State) : exec (.syncLoss up) s = execSyncLoss up s := rfl
@[simp] theorem exec_estopRaise (s : State) : exec (.estopRaise) s = execEstopRaise s := rfl
@[simp] theorem exec_estopRepeat (s : State) : exec (.estopRepeat) s = execEstopRepeat s := rfl
@[simp] theorem exec_estopClear (s : State) : exec (.estopClear) s = execEstopClear s := rfl
@[simp] theorem exec_badOpcode (q) (s : State) : exec (.badOpcode q) s = execBadOpcode q s := rfl
@[simp] theorem exec_holdupCharged (micros reached) (s : State) : exec (.holdupCharged micros reached) s = execHoldupCharged micros reached s := rfl
@[simp] theorem exec_perstDeassert (s : State) : exec (.perstDeassert) s = execPerstDeassert s := rfl
@[simp] theorem exec_pcieLinkUp (width rate) (s : State) : exec (.pcieLinkUp width rate) s = execPcieLinkUp width rate s := rfl
@[simp] theorem exec_vfEnable (f) (s : State) : exec (.vfEnable f) s = execVfEnable f s := rfl
@[simp] theorem exec_msixUnmask (f vec) (s : State) : exec (.msixUnmask f vec) s = execMsixUnmask f vec s := rfl
@[simp] theorem exec_laneSymbolRateWindow (p l0 l1 l2 l3) (s : State) : exec (.laneSymbolRateWindow p l0 l1 l2 l3) s = execLaneSymbolRateWindow p l0 l1 l2 l3 s := rfl
@[simp] theorem exec_refclkPresent (s : State) : exec (.refclkPresent) s = execRefclkPresent s := rfl
@[simp] theorem exec_syncFrameDiscard (crcBad) (s : State) : exec (.syncFrameDiscard crcBad) s = execSyncFrameDiscard crcBad s := rfl

end Sys2Proof.Machine
end

