-- ==== Sys2Proof/Laws/Store.lean ====
section
/-! SUPPORT. What a store answers after a write, and that a write keeps the canonical form. -/

namespace Sys2Proof.Machine

variable {α : Type}

theorem Store.get_erase_self (d : Nat → α) (m : Store α) (k : Nat) :
    Store.get d (Store.erase m k) k = d k := by
  induction m with
  | nil => rfl
  | cons e r ih =>
    obtain ⟨k', v⟩ := e
    by_cases h : k' = k
    · have hc : Store.erase ((k', v) :: r) k = Store.erase r k := by simp [Store.erase, h]
      rw [hc]; exact ih
    · have h' : ¬ k = k' := fun e => h e.symm
      have hc : Store.erase ((k', v) :: r) k = (k', v) :: Store.erase r k := by simp [Store.erase, h]
      rw [hc]; simpa [Store.get, h'] using ih

theorem Store.get_erase_ne (d : Nat → α) (m : Store α) {k j : Nat} (hj : j ≠ k) :
    Store.get d (Store.erase m k) j = Store.get d m j := by
  induction m with
  | nil => rfl
  | cons e r ih =>
    obtain ⟨k', v⟩ := e
    by_cases h : k' = k
    · subst h
      have hc : Store.erase ((k', v) :: r) k' = Store.erase r k' := by simp [Store.erase]
      rw [hc]; simpa [Store.get, hj] using ih
    · have hc : Store.erase ((k', v) :: r) k = (k', v) :: Store.erase r k := by simp [Store.erase, h]
      rw [hc]; simp only [Store.get]
      split
      · rfl
      · exact ih

theorem Store.mem_erase {m : Store α} {k : Nat} {e : Nat × α} :
    e ∈ Store.erase m k ↔ e ∈ m ∧ e.1 ≠ k := by
  simp [Store.erase]

theorem Store.get_insert_self (d : Nat → α) (m : Store α) (k : Nat) (v : α) (h : ∀ e ∈ m, e.1 ≠ k) :
    Store.get d (Store.insert k v m) k = v := by
  induction m with
  | nil => simp [Store.insert, Store.get]
  | cons e r ih =>
    obtain ⟨k', v'⟩ := e
    have hk : k ≠ k' := fun e => h (k', v') (by simp) e.symm
    simp only [Store.insert]
    split
    · simp [Store.get]
    · simp only [Store.get, hk, if_false]
      exact ih fun e he => h e (by simp [he])

theorem Store.get_insert_ne (d : Nat → α) (m : Store α) {k j : Nat} (v : α) (hj : j ≠ k) :
    Store.get d (Store.insert k v m) j = Store.get d m j := by
  induction m with
  | nil => simp [Store.insert, Store.get, hj]
  | cons e r ih =>
    obtain ⟨k', v'⟩ := e
    simp only [Store.insert]
    split
    · simp [Store.get, hj]
    · simp only [Store.get]
      split
      · rfl
      · exact ih

/-- A read after a write to the same key gives the value written. -/
theorem Store.get_set_self [DecidableEq α] (d : Nat → α) (m : Store α) (k : Nat) (v : α) :
    Store.get d (Store.set d m k v) k = v := by
  unfold Store.set
  split
  · rename_i h
    rw [Store.get_erase_self, h]
  · exact Store.get_insert_self d _ k v fun e he => (Store.mem_erase.mp he).2

/-- A write leaves every other key alone. -/
theorem Store.get_set_ne [DecidableEq α] (d : Nat → α) (m : Store α) {k j : Nat} (v : α) (hj : j ≠ k) :
    Store.get d (Store.set d m k v) j = Store.get d m j := by
  unfold Store.set
  split
  · exact Store.get_erase_ne d m hj
  · rw [Store.get_insert_ne d _ v hj, Store.get_erase_ne d m hj]

theorem Store.get_set [DecidableEq α] (d : Nat → α) (m : Store α) (k j : Nat) (v : α) :
    Store.get d (Store.set d m k v) j = if j = k then v else Store.get d m j := by
  split
  · rename_i h
    rw [h, Store.get_set_self]
  · rename_i h
    exact Store.get_set_ne d m v h

theorem Store.rising_iff (m : Store α) : Store.rising m = true ↔ m.Pairwise fun a b => a.1 < b.1 := by
  induction m with
  | nil => simp [Store.rising]
  | cons e r ih =>
    cases r with
    | nil => simp [Store.rising]
    | cons f t =>
      obtain ⟨k, v⟩ := e
      obtain ⟨k', v'⟩ := f
      simp only [Store.rising, Bool.and_eq_true, decide_eq_true_eq, ih, List.pairwise_cons]
      constructor
      · rintro ⟨h, h2, h3⟩
        refine ⟨?_, h2, h3⟩
        intro a ha
        rcases List.mem_cons.mp ha with rfl | ha
        · exact h
        · exact lt_trans h (h2 a ha)
      · rintro ⟨h, h2, h3⟩
        exact ⟨h (k', v') (by simp), h2, h3⟩

theorem Store.mem_insert {m : Store α} {k : Nat} {v : α} {e : Nat × α} :
    e ∈ Store.insert k v m ↔ e = (k, v) ∨ e ∈ m := by
  induction m with
  | nil => simp [Store.insert]
  | cons f r ih =>
    obtain ⟨k', v'⟩ := f
    simp only [Store.insert]
    split
    · simp
    · simp only [List.mem_cons, ih]
      tauto

theorem Store.rising_insert {m : Store α} {k : Nat} (v : α) (h : ∀ e ∈ m, e.1 ≠ k)
    (hm : Store.rising m = true) : Store.rising (Store.insert k v m) = true := by
  rw [Store.rising_iff] at hm ⊢
  induction m with
  | nil => simp [Store.insert]
  | cons f r ih =>
    obtain ⟨k', v'⟩ := f
    rw [List.pairwise_cons] at hm
    simp only [Store.insert]
    split
    · rename_i hlt
      refine List.pairwise_cons.mpr ⟨?_, List.pairwise_cons.mpr hm⟩
      intro a ha
      rcases List.mem_cons.mp ha with rfl | ha
      · exact hlt
      · exact lt_trans hlt (hm.1 a ha)
    · rename_i hge
      refine List.pairwise_cons.mpr ⟨?_, ih (fun e he => h e (by simp [he])) hm.2⟩
      intro a ha
      rcases Store.mem_insert.mp ha with rfl | ha
      · have := h (k', v') (by simp)
        simp only at this ⊢
        omega
      · exact hm.1 a ha

/-- Every write keeps the canonical form. -/
theorem Store.wf_set [DecidableEq α] (d : Nat → α) (m : Store α) (k : Nat) (v : α)
    (hm : Store.wf d m = true) : Store.wf d (Store.set d m k v) = true := by
  simp only [Store.wf, Bool.and_eq_true, List.all_eq_true, decide_eq_true_eq] at hm ⊢
  have he : Store.rising (Store.erase m k) = true := by
    rw [Store.rising_iff]
    exact List.Pairwise.filter _ ((Store.rising_iff m).mp hm.1)
  unfold Store.set
  split
  · exact ⟨he, fun e h => hm.2 e (Store.mem_erase.mp h).1⟩
  · rename_i hv
    refine ⟨Store.rising_insert v (fun e h => (Store.mem_erase.mp h).2) he, ?_⟩
    intro e h
    rcases Store.mem_insert.mp h with rfl | h
    · exact hv
    · exact hm.2 e (Store.mem_erase.mp h).1

end Sys2Proof.Machine
end

