-- ==== Sys2Proof/Laws/Keeps.lean ====
section
/-! SUPPORT. `Keeps`: its order, the shapes of answers it is stated over, and the primitive updates of the state. -/

namespace Sys2Proof.Machine

/-! ## The order -/

theorem Keeps.refl (s : State) : Keeps s s := ⟨rfl, List.prefix_rfl, Nat.le_refl _, id⟩

theorem Keeps.trans {s t u : State} (h : Keeps s t) (k : Keeps t u) : Keeps s u :=
  ⟨k.pending.trans h.pending, h.out.trans k.out, Nat.le_trans h.free k.free, fun w => k.wf (h.wf w)⟩

/-! ## Answers -/

/-- What an answer gives when it is one. -/
def OkP {ε α : Type} (P : α → Prop) (e : Except ε α) : Prop := ∀ t, e = .ok t → P t

/-- What an option holds when it holds something. -/
def SomeP {α : Type} (P : α → Prop) (e : Option α) : Prop := ∀ t, e = some t → P t

/-- An outcome is a next state with a property. -/
def NextP (P : State → Prop) (o : Host.Outcome State Fault Refusal) : Prop := ∃ t, o = .next t ∧ P t

section
variable {ε α β : Type} {P : α → Prop}

theorem OkP.ok {t : α} (h : P t) : OkP (ε := ε) P (.ok t) := by
  intro u e; cases e; exact h
theorem OkP.pure {t : α} (h : P t) : OkP (ε := ε) P (pure t) := OkP.ok h
theorem OkP.error {e : ε} : OkP P (.error e) := by intro u h; cases h
theorem OkP.throw {e : ε} : OkP P (throw e : Except ε α) := OkP.error
theorem OkP.bind {m : Except ε β} {f : β → Except ε α} (h : ∀ b, m = .ok b → OkP P (f b)) : OkP P (m >>= f) := by
  intro t e
  cases hm : m with
  | error w => rw [hm] at e; cases e
  | ok b => rw [hm] at e; exact h b hm t e
theorem OkP.bindS {a : State} {m : Except ε State} {f : State → Except ε α} (hm : OkP (Keeps a) m)
    (h : ∀ b, Keeps a b → OkP P (f b)) : OkP P (m >>= f) := OkP.bind fun b e => h b (hm b e)
theorem OkP.bindP {a : State} {m : Except ε (State × β)} {f : State × β → Except ε α}
    (hm : OkP (fun p => Keeps a p.1) m) (h : ∀ b, Keeps a b.1 → OkP P (f b)) : OkP P (m >>= f) :=
  OkP.bind fun b e => h b (hm b e)
theorem OkP.mapS {a : State} {m : Except ε State} {f : State → α} (hm : OkP (Keeps a) m)
    (h : ∀ b, Keeps a b → P (f b)) : OkP P (m.map f) := by
  intro t e
  cases m with
  | error w => cases e
  | ok b => cases e; exact h b (hm b rfl)
theorem OkP.ite {c : Prop} [Decidable c] {x y : Except ε α} (hx : OkP P x) (hy : OkP P y) :
    OkP P (if c then x else y) := by split <;> assumption
theorem OkP.get {e : Except ε α} {t : α} (h : OkP P e) (k : e = .ok t) : P t := h t k

theorem SomeP.some {t : α} (h : P t) : SomeP P (some t) := by
  intro u e; cases e; exact h
theorem SomeP.none : SomeP P none := by intro u h; cases h
theorem SomeP.ite {c : Prop} [Decidable c] {x y : Option α} (hx : SomeP P x) (hy : SomeP P y) :
    SomeP P (if c then x else y) := by split <;> assumption
theorem SomeP.get {e : Option α} {t : α} (h : SomeP P e) (k : e = .some t) : P t := h t k
end

theorem NextP.next {P : State → Prop} {t : State} (h : P t) : NextP P (.next t) := ⟨t, rfl, h⟩
theorem NextP.ite {P : State → Prop} {c : Prop} [Decidable c] {x y : Host.Outcome State Fault Refusal}
    (hx : NextP P x) (hy : NextP P y) : NextP P (if c then x else y) := by split <;> assumption

variable {a s : State}

theorem Keeps.ite {c : Prop} [Decidable c] {x y : State} (hx : Keeps a x) (hy : Keeps a y) :
    Keeps a (if c then x else y) := by split <;> assumption

theorem Keeps.getD {e : Option State} {d : State} (h : SomeP (Keeps a) e) (hd : Keeps a d) : Keeps a (e.getD d) := by
  cases e with
  | none => exact hd
  | some x => exact h x rfl

theorem Keeps.ofOk {ε : Type} {m : Except ε State} {t : State} (e : m = .ok t) (h : OkP (Keeps a) m) : Keeps a t := h t e
theorem Keeps.ofOkFst {ε β : Type} {m : Except ε (State × β)} {t : State} {y : β} (e : m = .ok (t, y))
    (h : OkP (fun p => Keeps a p.1) m) : Keeps a t := h _ e
theorem Keeps.ofOkPair {ε β : Type} {m : Except ε (State × β)} {p : State × β} (e : m = .ok p)
    (h : OkP (fun p => Keeps a p.1) m) : Keeps a p.1 := h _ e
theorem Keeps.ofOkSome {ε : Type} {m : Except ε (Option State)} {t : State} (e : m = .ok (some t))
    (h : OkP (fun p => SomeP (Keeps a) p) m) : Keeps a t := h _ e t rfl
theorem Keeps.ofSome {m : Option State} {t : State} (e : m = some t) (h : SomeP (Keeps a) m) : Keeps a t := h t e
theorem Keeps.ofSnd {β : Type} {m : β × State} {t : State} {y : β} (e : m = (y, t)) (h : Keeps a m.2) : Keeps a t := by
  rw [e] at h; exact h
theorem Keeps.ofFst {β : Type} {m : State × β} {t : State} {y : β} (e : m = (t, y)) (h : Keeps a m.1) : Keeps a t := by
  rw [e] at h; exact h
theorem Keeps.ofThird {β γ : Type} {m : β × γ × State} {t : State} {y : β} {z : γ} (e : m = (y, z, t))
    (h : Keeps a m.2.2) : Keeps a t := by
  rw [e] at h; exact h

theorem OkP.foldS {ε β : Type} {g : State → β → Except ε State} (hg : ∀ b x, Keeps a b → OkP (Keeps a) (g b x))
    (l : List β) (h : Keeps a s) : OkP (Keeps a) (l.foldlM g s) := by
  induction l generalizing s with
  | nil => exact OkP.pure h
  | cons x r ih =>
    rw [List.foldlM_cons]
    exact OkP.bindS (hg _ _ h) fun b hb => ih hb

theorem OkP.foldP {ε β γ : Type} {g : State × γ → β → Except ε (State × γ)} {p : State × γ}
    (hg : ∀ b x, Keeps a b.1 → OkP (fun p => Keeps a p.1) (g b x)) (l : List β) (h : Keeps a p.1) :
    OkP (fun p => Keeps a p.1) (l.foldlM g p) := by
  induction l generalizing p with
  | nil => exact OkP.pure h
  | cons x r ih =>
    rw [List.foldlM_cons]
    exact OkP.bindP (hg _ _ h) fun b hb => ih hb

theorem Keeps.foldP {β γ : Type} {g : State × γ → β → State × γ} {p : State × γ}
    (hg : ∀ b x, Keeps a b.1 → Keeps a (g b x).1) (l : List β) (h : Keeps a p.1) : Keeps a (l.foldl g p).1 := by
  induction l generalizing p with
  | nil => exact h
  | cons x r ih => exact ih (hg _ _ h)

theorem Keeps.cut {x : State} {P : Prop} (hx : Keeps a x) (h : Keeps a x → P) : P := h hx

theorem Keeps.fold {β : Type} {g : State → β → State} (hg : ∀ b x, Keeps a b → Keeps a (g b x)) (l : List β)
    (h : Keeps a s) : Keeps a (l.foldl g s) := by
  induction l generalizing s with
  | nil => exact h
  | cons x r ih => exact ih (hg _ _ h)

theorem Keeps.fst {β : Type} {x : β} (h : Keeps a s) : Keeps a (s, x).1 := h
theorem Keeps.snd {β : Type} {x : β} (h : Keeps a s) : Keeps a (x, s).2 := h
theorem Keeps.fst_ite {β : Type} {c : Prop} [Decidable c] {x y : State × β} (hx : Keeps a x.1) (hy : Keeps a y.1) :
    Keeps a (if c then x else y).1 := by split <;> assumption
theorem Keeps.snd_ite {β : Type} {c : Prop} [Decidable c] {x y : β × State} (hx : Keeps a x.2) (hy : Keeps a y.2) :
    Keeps a (if c then x else y).2 := by split <;> assumption
theorem Keeps.snd2_ite {β γ : Type} {c : Prop} [Decidable c] {x y : β × γ × State} (hx : Keeps a x.2.2)
    (hy : Keeps a y.2.2) : Keeps a (if c then x else y).2.2 := by split <;> assumption

/-- What a rejection counts beside its status keeps what no command disturbs. -/
def NoteKeeps (b : BodyCheck) : Prop := ∀ a k t, Keeps a t → Keeps a (b.note k t)

theorem NoteKeeps.of_id {b : BodyCheck} (h : b.note = fun _ s => s) : NoteKeeps b := by
  intro a n t k; rw [h]; exact k

/-! ## Filtered stores -/

theorem Store.wf_filter {α : Type} [DecidableEq α] (d : Nat → α) (m : Store α) (p : Nat × α → Bool)
    (h : Store.wf d m = true) : Store.wf d (m.filter p) = true := by
  simp only [Store.wf, Bool.and_eq_true, List.all_eq_true, decide_eq_true_eq] at h ⊢
  refine ⟨?_, fun e he => h.2 e (List.mem_filter.mp he).1⟩
  rw [Store.rising_iff]
  exact List.Pairwise.filter _ ((Store.rising_iff m).mp h.1)

theorem Store.wf_foldl_set {α : Type} [DecidableEq α] (d : Nat → α) (l : List (Nat × α)) (m : Store α)
    (h : Store.wf d m = true) : Store.wf d (l.foldl (fun m e => Store.set d m e.1 e.2) m) = true := by
  induction l generalizing m with
  | nil => exact h
  | cons x r ih => exact ih _ (Store.wf_set d m _ _ h)

theorem Store.wf_map {α : Type} [DecidableEq α] (d : α) (m : Store α) (f : α → α) (hf : ∀ v, f v = d → v = d)
    (h : Store.wf (fun _ => d) m = true) : Store.wf (fun _ => d) (m.map fun e => (e.1, f e.2)) = true := by
  simp only [Store.wf, Bool.and_eq_true, List.all_eq_true, decide_eq_true_eq] at h ⊢
  refine ⟨?_, fun e he => ?_⟩
  · rw [Store.rising_iff, List.pairwise_map]
    exact (Store.rising_iff m).mp h.1
  · obtain ⟨x, hx, rfl⟩ := List.mem_map.mp he
    exact fun k => h.2 x hx (hf _ k)

/-! ## Memory -/

theorem Memory.wf_memWrite (n : Nat) (m : Store Byte) (pa : Nat) (bs : List Byte) (h : Memory.wf n m = true) :
    Memory.wf n (memWrite n m pa bs) = true := by
  induction bs generalizing m pa with
  | nil => exact h
  | cons b r ih => exact ih _ _ (Store.wf_set _ _ _ _ h)

/-- Reading after a write: the byte written inside the range, the old one outside it. -/
theorem get_memWrite (n : Nat) (m : Store Byte) (pa : Nat) (bs : List Byte) (x : Nat) :
    Store.get (memDefault n) (memWrite n m pa bs) x =
      if pa ≤ x ∧ x < pa + bs.length then bs.getD (x - pa) 0 else Store.get (memDefault n) m x := by
  induction bs generalizing m pa with
  | nil => simp [memWrite]
  | cons b r ih =>
    simp only [memWrite, ih, Store.get_set, List.length_cons]
    rcases Nat.lt_trichotomy x pa with h | h | h
    · have : ¬ pa ≤ x := by omega
      have h2 : ¬ pa + 1 ≤ x := by omega
      have h3 : x ≠ pa := by omega
      simp [this, h2, h3]
    · subst h
      simp
    · obtain ⟨k, rfl⟩ : ∃ k, x = pa + 1 + k := ⟨x - (pa + 1), by omega⟩
      have e1 : pa + 1 + k - pa = k + 1 := by omega
      have e2 : pa + 1 + k - (pa + 1) = k := by omega
      have e3 : pa + 1 + k ≠ pa := by omega
      by_cases hk : k < r.length
      · have c1 : pa + 1 ≤ pa + 1 + k ∧ pa + 1 + k < pa + 1 + r.length := by omega
        have c2 : pa ≤ pa + 1 + k ∧ pa + 1 + k < pa + (r.length + 1) := by omega
        rw [if_pos c1, if_pos c2, e1, e2]; rfl
      · have c1 : ¬ (pa + 1 ≤ pa + 1 + k ∧ pa + 1 + k < pa + 1 + r.length) := by omega
        have c2 : ¬ (pa ≤ pa + 1 + k ∧ pa + 1 + k < pa + (r.length + 1)) := by omega
        rw [if_neg c1, if_neg c2, if_neg e3]

theorem mem_insertNat {n : Nat} {l : List Nat} {x : Nat} : x ∈ insertNat n l ↔ x = n ∨ x ∈ l := by
  induction l with
  | nil => simp [insertNat]
  | cons m r ih =>
    simp only [insertNat]
    split
    · simp
    · split
      · rename_i h; subst h; simp
      · simp only [List.mem_cons, ih]; tauto

theorem insertNat_rising {n : Nat} {l : List Nat} (h : l.Pairwise (· < ·)) : (insertNat n l).Pairwise (· < ·) := by
  induction l with
  | nil => simp [insertNat]
  | cons m r ih =>
    rw [List.pairwise_cons] at h
    simp only [insertNat]
    split
    · rename_i hn
      refine List.pairwise_cons.mpr ⟨?_, List.pairwise_cons.mpr h⟩
      intro x hx
      rcases List.mem_cons.mp hx with rfl | hx
      · exact hn
      · exact lt_trans hn (h.1 x hx)
    · split
      · exact List.pairwise_cons.mpr h
      · rename_i h1 h2
        refine List.pairwise_cons.mpr ⟨?_, ih h.2⟩
        intro x hx
        rcases mem_insertNat.mp hx with rfl | hx
        · omega
        · exact h.1 x hx

/-! ## Updates of one field -/

theorem Keeps.upd {now edge served fuses storing prior writes purged prefetched items trails pend acts fresh msiHeld vfs pcie fabric
    surv power sync strong mgmt}
    (h : Keeps a s) (e1 : fabric.ports = s.fabric.ports) (e2 : fabric.mprog = s.fabric.mprog)
    (e3 : strong.imageA = s.strong.imageA) (e4 : strong.imageB = s.strong.imageB)
    (e5 : strong.records = s.strong.records) :
    Keeps a (State.mk s.pending now edge served fuses s.free s.regs s.staged s.copyA s.copyB storing s.mem s.scratch prior writes
      purged prefetched s.poison s.out s.ctxs items trails pend s.heads s.bars s.arrays s.engines s.queues acts s.events fresh
      s.msiLast msiHeld vfs pcie fabric surv power sync strong mgmt) :=
  h.trans ⟨rfl, List.prefix_rfl, Nat.le_refl _, fun w =>
    ⟨w.mem, w.poison, w.regs, w.staged, w.copyA, w.copyB, w.ctxs, w.heads, w.bars, w.arrays, w.engines, w.queues, w.msiLast,
      by rw [e1]; exact w.ports, by rw [e2]; exact w.mprog, by rw [e3]; exact w.imageA, by rw [e4]; exact w.imageB,
      w.events, by rw [e5]; exact w.records⟩⟩

theorem Keeps.setRegs {k v} (h : Keeps a s) : Keeps a { s with regs := Store.set regDefault s.regs k v } :=
  h.trans ⟨rfl, List.prefix_rfl, Nat.le_refl _, fun w => { w with regs := Store.wf_set _ _ _ _ w.regs }⟩

theorem Keeps.setStaged {k v} (h : Keeps a s) : Keeps a { s with staged := Store.set regDefault s.staged k v } :=
  h.trans ⟨rfl, List.prefix_rfl, Nat.le_refl _, fun w => { w with staged := Store.wf_set _ _ _ _ w.staged }⟩

theorem Keeps.setCtxs {k v} (h : Keeps a s) : Keeps a { s with ctxs := Store.set (fun _ => Ctx.init) s.ctxs k v } :=
  h.trans ⟨rfl, List.prefix_rfl, Nat.le_refl _, fun w => { w with ctxs := Store.wf_set _ _ _ _ w.ctxs }⟩

theorem Keeps.setHeads {k v} (h : Keeps a s) : Keeps a { s with heads := Store.set (fun _ => 0) s.heads k v } :=
  h.trans ⟨rfl, List.prefix_rfl, Nat.le_refl _, fun w => { w with heads := Store.wf_set _ _ _ _ w.heads }⟩

theorem Keeps.filterHeads {p} (h : Keeps a s) : Keeps a { s with heads := s.heads.filter p } :=
  h.trans ⟨rfl, List.prefix_rfl, Nat.le_refl _, fun w => { w with heads := Store.wf_filter _ _ _ w.heads }⟩

theorem Keeps.setBars {k v} (h : Keeps a s) : Keeps a { s with bars := Store.set (fun _ => Barrier.init) s.bars k v } :=
  h.trans ⟨rfl, List.prefix_rfl, Nat.le_refl _, fun w => { w with bars := Store.wf_set _ _ _ _ w.bars }⟩

theorem Keeps.filterBars {p} (h : Keeps a s) : Keeps a { s with bars := s.bars.filter p } :=
  h.trans ⟨rfl, List.prefix_rfl, Nat.le_refl _, fun w => { w with bars := Store.wf_filter _ _ _ w.bars }⟩

theorem Keeps.setArrays {k v} (h : Keeps a s) :
    Keeps a { s with arrays := Store.set (fun _ => MatEngine.init) s.arrays k v } :=
  h.trans ⟨rfl, List.prefix_rfl, Nat.le_refl _, fun w => { w with arrays := Store.wf_set _ _ _ _ w.arrays }⟩

theorem Keeps.setEngines {k v} (h : Keeps a s) :
    Keeps a { s with engines := Store.set (fun _ => Engine.init) s.engines k v } :=
  h.trans ⟨rfl, List.prefix_rfl, Nat.le_refl _, fun w => { w with engines := Store.wf_set _ _ _ _ w.engines }⟩

theorem Keeps.setQueues {k v} (h : Keeps a s) :
    Keeps a { s with queues := Store.set Queue.init s.queues k v } :=
  h.trans ⟨rfl, List.prefix_rfl, Nat.le_refl _, fun w => { w with queues := Store.wf_set _ _ _ _ w.queues }⟩

theorem Keeps.setMsiLast {k v} (h : Keeps a s) :
    Keeps a { s with msiLast := Store.set (fun _ => 0) s.msiLast k v } :=
  h.trans ⟨rfl, List.prefix_rfl, Nat.le_refl _, fun w => { w with msiLast := Store.wf_set _ _ _ _ w.msiLast }⟩

theorem Keeps.setPorts {k v} (h : Keeps a s) :
    Keeps a { s with fabric := { s.fabric with ports := Store.set (fun _ => Port.init) s.fabric.ports k v } } :=
  h.trans ⟨rfl, List.prefix_rfl, Nat.le_refl _, fun w => { w with ports := Store.wf_set _ _ _ _ w.ports }⟩

theorem Keeps.setMprog {k v} (h : Keeps a s) :
    Keeps a { s with fabric := { s.fabric with mprog := Store.set (fun _ => 0) s.fabric.mprog k v } } :=
  h.trans ⟨rfl, List.prefix_rfl, Nat.le_refl _, fun w => { w with mprog := Store.wf_set _ _ _ _ w.mprog }⟩

theorem Keeps.addFree {n} (h : Keeps a s) : Keeps a { s with free := s.free + n } :=
  h.trans ⟨rfl, List.prefix_rfl, Nat.le_add_right _ _, fun w => { w with mem := w.mem }⟩

theorem Keeps.addOut {l} (h : Keeps a s) : Keeps a { s with out := s.out ++ l } :=
  h.trans ⟨rfl, List.prefix_append _ _, Nat.le_refl _, fun w => { w with mem := w.mem }⟩

theorem length_drop_le {α : Type} (l : List α) (n : Nat) : (l.drop (l.length - n)).length ≤ n := by
  simp only [List.length_drop]; omega

theorem Keeps.setEvents {l n} (hl : l.length ≤ 1024) (h : Keeps a s) : Keeps a { s with events := l, fresh := n } :=
  h.trans ⟨rfl, List.prefix_rfl, Nat.le_refl _, fun w => { w with events := hl }⟩

theorem Keeps.put {pa bs} (h : Keeps a s) : Keeps a (s.put pa bs) :=
  h.trans ⟨rfl, List.prefix_rfl, Nat.le_refl _, fun w =>
    { w with
      mem := Memory.wf_memWrite _ _ _ _ w.mem
      poison := List.Pairwise.filter _ w.poison }⟩

theorem Keeps.insertPoison {n} (h : Keeps a s) : Keeps a { s with poison := insertNat n s.poison } :=
  h.trans ⟨rfl, List.prefix_rfl, Nat.le_refl _, fun w => { w with poison := insertNat_rising w.poison }⟩

theorem Keeps.imageA {u g} (hu : Keeps a u) (h : Keeps a s) :
    Keeps a { s with strong := { s.strong with imageA := imageOf u.regs, genA := g } } :=
  ⟨h.pending, h.out, h.free, fun w => { h.wf w with imageA := Store.wf_filter _ _ _ (hu.wf w).regs }⟩

theorem Keeps.imageB {u g} (hu : Keeps a u) (h : Keeps a s) :
    Keeps a { s with strong := { s.strong with imageB := imageOf u.regs, genB := g } } :=
  ⟨h.pending, h.out, h.free, fun w => { h.wf w with imageB := Store.wf_filter _ _ _ (hu.wf w).regs }⟩

theorem memDefault_other {n m pa : Nat} (h : isScratch pa = false) : memDefault n pa = memDefault m pa := by
  simp [memDefault, h]

theorem Memory.wf_noScratch {n m : Nat} {x : Store Byte} (h : Memory.wf n x = true) :
    Memory.wf m (x.filter fun e => !isScratch e.1) = true := by
  simp only [Memory.wf, Store.wf, Bool.and_eq_true, List.all_eq_true, decide_eq_true_eq] at h ⊢
  refine ⟨?_, fun e he => ?_⟩
  · rw [Store.rising_iff]
    exact List.Pairwise.filter _ ((Store.rising_iff x).mp h.1)
  · obtain ⟨h1, h2⟩ := List.mem_filter.mp he
    rw [memDefault_other (m := n) (by simpa using h2)]
    exact h.2 e h1

theorem Keeps.filterScratch {n} (h : Keeps a s) :
    Keeps a { s with mem := s.mem.filter fun e => !isScratch e.1, scratch := n } :=
  h.trans ⟨rfl, List.prefix_rfl, Nat.le_refl _, fun w => { w with mem := Memory.wf_noScratch w.mem }⟩

end Sys2Proof.Machine
end

