-- ==== Sys2Proof/Laws/KeepsOps.lean ====
section
/-! SUPPORT. The operations of `Machine/Ops.lean` keep what no command disturbs. -/

namespace Sys2Proof.Machine


theorem State.wr_keeps {a} {x0 x1 x2 x3 x4} (h : Keeps a x0) :
    Keeps a (State.wr x0 x1 x2 x3 x4) := by
  unfold State.wr
  repeat' first
    | with_reducible assumption
    | with_reducible apply Keeps.setRegs

theorem State.wrN_keeps {a} {x0 x1 x2 x3 x4} (h : Keeps a x0) :
    Keeps a (State.wrN x0 x1 x2 x3 x4) := by
  unfold State.wrN
  repeat' first
    | with_reducible assumption
    | with_reducible apply State.wr_keeps

theorem State.wrStaged_keeps {a} {x0 x1 x2 x3 x4} (h : Keeps a x0) :
    Keeps a (State.wrStaged x0 x1 x2 x3 x4) := by
  unfold State.wrStaged
  repeat' first
    | with_reducible assumption
    | with_reducible apply Keeps.setStaged

theorem State.count_keeps {a} {x0 x1 x2 x3 x4} (h : Keeps a x0) :
    Keeps a (State.count x0 x1 x2 x3 x4) := by
  unfold State.count
  repeat' first
    | with_reducible assumption
    | with_reducible apply State.wrN_keeps

theorem State.wrBytes_keeps {a} {x0 x1 x2 x3 x4} (h : Keeps a x0) :
    Keeps a (State.wrBytes x0 x1 x2 x3 x4) := by
  induction x4 generalizing x0 x1 x2 x3 with
  | nil =>
    unfold State.wrBytes
    repeat' first
      | with_reducible assumption
  | cons b r ih =>
    unfold State.wrBytes
    repeat' first
      | with_reducible assumption
      | with_reducible apply State.wr_keeps
      | with_reducible apply ih

theorem State.setCtx_keeps {a} {x0 x1 x2} (h : Keeps a x0) :
    Keeps a (State.setCtx x0 x1 x2) := by
  unfold State.setCtx
  repeat' first
    | with_reducible assumption
    | with_reducible apply Keeps.setCtxs

theorem State.updCtx_keeps {a} {x0 x1 x2} (h : Keeps a x0) :
    Keeps a (State.updCtx x0 x1 x2) := by
  unfold State.updCtx
  repeat' first
    | with_reducible assumption
    | with_reducible apply State.setCtx_keeps

theorem State.setItem_keeps {a} {x0 x1} (h : Keeps a x0) :
    Keeps a (State.setItem x0 x1) := by
  unfold State.setItem
  repeat' first
    | with_reducible assumption
    | fail_if_no_progress (with_reducible refine Keeps.upd ?_ rfl rfl rfl rfl rfl)

theorem State.dropItem_keeps {a} {x0 x1} (h : Keeps a x0) :
    Keeps a (State.dropItem x0 x1) := by
  unfold State.dropItem
  repeat' first
    | with_reducible assumption
    | fail_if_no_progress (with_reducible refine Keeps.upd ?_ rfl rfl rfl rfl rfl)

theorem State.setBar_keeps {a} {x0 x1 x2 x3} (h : Keeps a x0) :
    Keeps a (State.setBar x0 x1 x2 x3) := by
  unfold State.setBar
  repeat' first
    | with_reducible assumption
    | with_reducible apply Keeps.setBars

theorem State.setEngine_keeps {a} {x0 x1 x2} (h : Keeps a x0) :
    Keeps a (State.setEngine x0 x1 x2) := by
  unfold State.setEngine
  repeat' first
    | with_reducible assumption
    | with_reducible apply Keeps.setEngines

theorem State.setArray_keeps {a} {x0 x1 x2} (h : Keeps a x0) :
    Keeps a (State.setArray x0 x1 x2) := by
  unfold State.setArray
  repeat' first
    | with_reducible assumption
    | with_reducible apply Keeps.setArrays

theorem State.setQueue_keeps {a} {x0 x1 x2} (h : Keeps a x0) :
    Keeps a (State.setQueue x0 x1 x2) := by
  unfold State.setQueue
  repeat' first
    | with_reducible assumption
    | with_reducible apply Keeps.setQueues

theorem State.setPort_keeps {a} {x0 x1 x2} (h : Keeps a x0) :
    Keeps a (State.setPort x0 x1 x2) := by
  unfold State.setPort
  repeat' first
    | with_reducible assumption
    | (extract_lets +onlyGivenNames v; (have _w : Fabric := v); subst v)
    | with_reducible apply Keeps.setPorts

theorem State.freeW_keeps {a} {x0} (h : Keeps a x0) :
    Keeps a (State.freeW x0).2 := by
  unfold State.freeW
  repeat' first
    | with_reducible assumption
    | with_reducible apply Keeps.addFree

theorem State.emit_keeps {a} {x0 x1} (h : Keeps a x0) :
    Keeps a (State.emit x0 x1) := by
  unfold State.emit
  repeat' first
    | with_reducible assumption
    | with_reducible apply Keeps.addOut

theorem State.setBit_keeps {a} {x0 x1 x2 x3} (h : Keeps a x0) :
    Keeps a (State.setBit x0 x1 x2 x3) := by
  unfold State.setBit
  repeat' first
    | with_reducible assumption
    | with_reducible apply State.wr_keeps

theorem State.markFlag_keeps {a} {x0 x1 x2 x3} (h : Keeps a x0) :
    Keeps a (State.markFlag x0 x1 x2 x3) := by
  unfold State.markFlag
  repeat' first
    | with_reducible assumption
    | with_reducible apply State.setBit_keeps
    | (extract_lets +onlyGivenNames v; refine Keeps.cut (a := a) (x := v) ?_ (fun hv => ?_); subst v; rotate_left; clear_value v; rotate_left)
    | fail_if_no_progress (with_reducible refine Keeps.upd ?_ rfl rfl rfl rfl rfl)

theorem State.clearBit_keeps {a} {x0 x1 x2 x3} (h : Keeps a x0) :
    Keeps a (State.clearBit x0 x1 x2 x3) := by
  unfold State.clearBit
  repeat' first
    | with_reducible assumption
    | with_reducible apply State.wr_keeps

end Sys2Proof.Machine
end

