-- ==== Sys2Proof/Laws/KeepsRoute.lean ====
section
/-! SUPPORT. The operations of `Machine/Route.lean` keep what no command disturbs. -/

namespace Sys2Proof.Machine


theorem State.sendWords_keeps {a} {x0 x1 x2 x3} (h : Keeps a x0) :
    Keeps a (State.sendWords x0 x1 x2 x3) := by
  induction x3 generalizing x0 x1 x2 with
  | zero =>
    unfold State.sendWords
    repeat' first
      | with_reducible assumption
  | succ n ih =>
    unfold State.sendWords
    repeat' first
      | with_reducible assumption
      | with_reducible apply State.setPort_keeps
      | with_reducible apply State.emit_keeps
      | with_reducible apply ih

theorem State.wire_keeps {a} {x0 x1 x2} (h : Keeps a x0) :
    Keeps a (State.wire x0 x1 x2) := by
  unfold State.wire
  repeat' first
    | with_reducible assumption
    | with_reducible apply State.setPort_keeps
    | with_reducible apply State.sendWords_keeps
    | with_reducible apply State.emit_keeps
    | with_reducible apply Keeps.ite

theorem State.linkLocal_keeps {a} {x0 x1 x2 x3 x4} (h : Keeps a x0) :
    Keeps a (State.linkLocal x0 x1 x2 x3 x4) := by
  unfold State.linkLocal
  repeat' first
    | with_reducible assumption
    | with_reducible apply State.wire_keeps

theorem State.giveBack_keeps {a} {x0 x1} (h : Keeps a x0) :
    Keeps a (State.giveBack x0 x1) := by
  unfold State.giveBack
  repeat' first
    | with_reducible assumption
    | with_reducible apply State.linkLocal_keeps
    | split

theorem State.sendNow_keeps {a} {x0 x1 x2} (h : Keeps a x0) :
    Keeps a (State.sendNow x0 x1 x2) := by
  unfold State.sendNow
  repeat' first
    | with_reducible assumption
    | with_reducible apply State.giveBack_keeps
    | with_reducible apply State.wire_keeps
    | with_reducible apply State.setPort_keeps

theorem State.portSend_keeps {a} {x0 x1 x2} (h : Keeps a x0) :
    Keeps a (State.portSend x0 x1 x2) := by
  unfold State.portSend
  repeat' first
    | with_reducible assumption
    | with_reducible apply State.sendNow_keeps
    | with_reducible apply State.setPort_keeps
    | (extract_lets +onlyGivenNames v; clear_value v)
    | with_reducible apply Keeps.ite

theorem State.choosePort_keeps {a} {x0 x1 x2 x3} (h : Keeps a x0) :
    Keeps a (State.choosePort x0 x1 x2 x3).2 := by
  unfold State.choosePort
  repeat' first
    | with_reducible assumption
    | with_reducible apply State.setPort_keeps
    | (extract_lets +onlyGivenNames v; refine Keeps.cut (a := a) (x := v) ?_ (fun hv => ?_); subst v; rotate_left; clear_value v; rotate_left)
    | (extract_lets +onlyGivenNames v; clear_value v)
    | with_reducible apply Keeps.ite

theorem State.forwardOn_keeps {a} {x0 x1 x2 x3 x4} (h : Keeps a x0) :
    Keeps a (State.forwardOn x0 x1 x2 x3 x4) := by
  unfold State.forwardOn
  repeat' first
    | with_reducible assumption
    | with_reducible apply State.choosePort_keeps
    | with_reducible apply State.portSend_keeps

theorem State.sendTo_keeps {a} {x0 x1 x2} (h : Keeps a x0) :
    SomeP (Keeps a) (State.sendTo x0 x1 x2) := by
  unfold State.sendTo
  repeat' first
    | with_reducible assumption
    | with_reducible apply State.portSend_keeps
    | with_reducible apply State.emit_keeps
    | with_reducible apply State.forwardOn_keeps
    | (extract_lets +onlyGivenNames v; clear_value v)
    | with_reducible exact SomeP.none
    | with_reducible apply SomeP.some
    | split

theorem State.onTorus_keeps {a} {x0 x1} (h : Keeps a x0) :
    SomeP (Keeps a) (State.onTorus x0 x1) := by
  unfold State.onTorus
  repeat' first
    | with_reducible assumption
    | with_reducible apply State.forwardOn_keeps
    | (extract_lets +onlyGivenNames v; clear_value v)
    | with_reducible exact SomeP.none
    | with_reducible apply SomeP.some
    | split

theorem State.dropHere_keeps {a} {x0 x1} (h : Keeps a x0) :
    Keeps a (State.dropHere x0 x1) := by
  unfold State.dropHere
  repeat' first
    | with_reducible assumption
    | with_reducible apply State.count_keeps
    | with_reducible apply State.giveBack_keeps

theorem State.forward_keeps {a} {x0 x1} (h : Keeps a x0) :
    Keeps a (State.forward x0 x1) := by
  unfold State.forward
  repeat' first
    | with_reducible assumption
    | with_reducible apply State.portSend_keeps
    | with_reducible apply State.onTorus_keeps
    | with_reducible apply State.markFlag_keeps
    | with_reducible apply State.dropHere_keeps
    | with_reducible apply State.forwardOn_keeps
    | (extract_lets +onlyGivenNames v; clear_value v)
    | with_reducible apply Keeps.ite
    | with_reducible apply Keeps.getD
    | split

theorem State.treeSend_keeps {a} {x0 x1} (h : Keeps a x0) :
    Keeps a (State.treeSend x0 x1) := by
  unfold State.treeSend
  repeat' first
    | with_reducible assumption
    | with_reducible apply State.forwardOn_keeps
    | (with_reducible refine Keeps.fold (fun _ _ _ => ?_) _ ?_)

end Sys2Proof.Machine
end

