-- ==== Sys2Proof/Laws/KeepsSignal.lean ====
section
/-! SUPPORT. The operations of `Machine/Signal.lean` keep what no command disturbs. -/

namespace Sys2Proof.Machine


theorem State.dropQuiet_keeps {a} {x0} (h : Keeps a x0) :
    Keeps a (State.dropQuiet x0) := by
  unfold State.dropQuiet
  repeat' first
    | with_reducible assumption
    | with_reducible apply State.markFlag_keeps
    | with_reducible apply State.count_keeps

theorem State.nextOp_keeps {a} {x0} (h : Keeps a x0) :
    Keeps a (State.nextOp x0).2 := by
  unfold State.nextOp
  repeat' first
    | with_reducible assumption
    | (extract_lets +onlyGivenNames v; (have _w : Fabric := v); subst v)
    | fail_if_no_progress (with_reducible refine Keeps.upd ?_ rfl rfl rfl rfl rfl)

theorem State.msixSend_keeps {a} {x0 x1 x2} (h : Keeps a x0) :
    Keeps a (State.msixSend x0 x1 x2) := by
  unfold State.msixSend
  repeat' first
    | with_reducible assumption
    | with_reducible apply State.wr_keeps
    | with_reducible apply State.emit_keeps
    | (extract_lets +onlyGivenNames v; refine Keeps.cut (a := a) (x := v) ?_ (fun hv => ?_); subst v; rotate_left; clear_value v; rotate_left)
    | (extract_lets +onlyGivenNames v; clear_value v)
    | with_reducible apply Keeps.ite
    | with_reducible apply Keeps.setMsiLast

theorem State.vector_keeps {a} {x0 x1 x2} (h : Keeps a x0) :
    Keeps a (State.vector x0 x1 x2) := by
  unfold State.vector
  repeat' first
    | with_reducible assumption
    | with_reducible apply State.msixSend_keeps
    | (extract_lets +onlyGivenNames v; clear_value v)
    | with_reducible apply Keeps.ite
    | fail_if_no_progress (with_reducible refine Keeps.upd ?_ rfl rfl rfl rfl rfl)

theorem State.interrupt_keeps {a} {x0 x1 x2} (h : Keeps a x0) :
    Keeps a (State.interrupt x0 x1 x2) := by
  unfold State.interrupt
  repeat' first
    | with_reducible assumption
    | with_reducible apply State.nextOp_keeps
    | with_reducible apply State.sendTo_keeps
    | with_reducible apply State.dropQuiet_keeps
    | with_reducible apply State.vector_keeps
    | with_reducible apply Keeps.ite
    | with_reducible apply Keeps.getD

theorem State.setFlag_keeps {a} {x0 x1 x2 x3} (h : Keeps a x0) :
    Keeps a (State.setFlag x0 x1 x2 x3) := by
  unfold State.setFlag
  repeat' first
    | with_reducible assumption
    | with_reducible apply State.markFlag_keeps
    | with_reducible apply State.interrupt_keeps
    | (extract_lets +onlyGivenNames v; refine Keeps.cut (a := a) (x := v) ?_ (fun hv => ?_); subst v; rotate_left; clear_value v; rotate_left)
    | (extract_lets +onlyGivenNames v; clear_value v)
    | with_reducible apply Keeps.ite
    | split

theorem State.tally_keeps {a} {x0 x1 x2 x3 x4 x5} (h : Keeps a x0) :
    Keeps a (State.tally x0 x1 x2 x3 x4 x5) := by
  unfold State.tally
  repeat' first
    | with_reducible assumption
    | with_reducible apply State.setFlag_keeps
    | with_reducible apply State.count_keeps

theorem State.tallyN_keeps {a} {x0 x1 x2 x3 x4 x5 x6} (h : Keeps a x0) :
    Keeps a (State.tallyN x0 x1 x2 x3 x4 x5 x6) := by
  unfold State.tallyN
  repeat' first
    | with_reducible assumption
    | with_reducible apply State.setFlag_keeps
    | with_reducible apply State.count_keeps
    | with_reducible apply Keeps.ite

theorem State.fabricDrop_keeps {a} {x0} (h : Keeps a x0) :
    Keeps a (State.fabricDrop x0) := by
  unfold State.fabricDrop
  repeat' first
    | with_reducible assumption
    | with_reducible apply State.tally_keeps

theorem State.send_keeps {a} {x0 x1 x2} (h : Keeps a x0) :
    Keeps a (State.send x0 x1 x2) := by
  unfold State.send
  repeat' first
    | with_reducible assumption
    | with_reducible apply State.sendTo_keeps
    | with_reducible apply State.fabricDrop_keeps
    | with_reducible apply Keeps.getD

theorem State.broadcast_keeps {a} {x0 x1} (h : Keeps a x0) :
    Keeps a (State.broadcast x0 x1) := by
  unfold State.broadcast
  repeat' first
    | with_reducible assumption
    | with_reducible apply State.treeSend_keeps
    | with_reducible apply State.send_keeps
    | (extract_lets +onlyGivenNames v; refine Keeps.cut (a := a) (x := v) ?_ (fun hv => ?_); subst v; rotate_left; clear_value v; rotate_left)
    | (extract_lets +onlyGivenNames v; clear_value v)
    | (with_reducible refine Keeps.fold (fun _ _ _ => ?_) _ ?_)

theorem State.notify_keeps {a} {x0 x1 x2} (h : Keeps a x0) :
    Keeps a (State.notify x0 x1 x2) := by
  unfold State.notify
  repeat' first
    | with_reducible assumption
    | with_reducible apply State.emit_keeps
    | (extract_lets +onlyGivenNames v; clear_value v)
    | with_reducible apply Keeps.ite

theorem State.raise_keeps {a} {x0 x1 x2 x3} (h : Keeps a x0) :
    Keeps a (State.raise x0 x1 x2 x3) := by
  unfold State.raise
  repeat' first
    | with_reducible assumption
    | with_reducible apply State.count_keeps
    | with_reducible apply (Keeps.setEvents (length_drop_le _ 1024))

theorem State.sealEvents_keeps {a} {x0} (h : Keeps a x0) :
    Keeps a (State.sealEvents x0) := by
  unfold State.sealEvents
  repeat' first
    | with_reducible assumption
    | with_reducible apply State.notify_keeps
    | (extract_lets +onlyGivenNames v; refine Keeps.cut (a := a) (x := v) ?_ (fun hv => ?_); subst v; rotate_left; clear_value v; rotate_left)
    | (extract_lets +onlyGivenNames v; clear_value v)
    | (with_reducible refine Keeps.fold (fun _ _ _ => ?_) _ ?_)
    | fail_if_no_progress (with_reducible refine Keeps.upd ?_ rfl rfl rfl rfl rfl)

theorem State.hostError_keeps {a} {x0 x1} (h : Keeps a x0) :
    Keeps a (State.hostError x0 x1) := by
  unfold State.hostError
  repeat' first
    | with_reducible assumption
    | with_reducible apply State.tally_keeps
    | (extract_lets +onlyGivenNames v; clear_value v)
    | with_reducible apply Keeps.ite
    | fail_if_no_progress (with_reducible refine Keeps.upd ?_ rfl rfl rfl rfl rfl)

theorem State.postWrites_keeps {a} {x0 x1 x2 x3} (h : Keeps a x0) :
    Keeps a (State.postWrites x0 x1 x2 x3) := by
  unfold State.postWrites
  repeat' first
    | with_reducible assumption
    | with_reducible apply State.emit_keeps
    | (with_reducible refine Keeps.fold (fun _ _ _ => ?_) _ ?_)

theorem State.postReads_keeps {a} {x0 x1 x2 x3} (h : Keeps a x0) :
    Keeps a (State.postReads x0 x1 x2 x3) := by
  unfold State.postReads
  repeat' first
    | with_reducible assumption
    | with_reducible apply State.emit_keeps
    | (with_reducible refine Keeps.fold (fun _ _ _ => ?_) _ ?_)

theorem State.hostWriteTo_keeps {a} {x0 x1 x2 x3} (h : Keeps a x0) :
    SomeP (Keeps a) (State.hostWriteTo x0 x1 x2 x3) := by
  unfold State.hostWriteTo
  repeat' first
    | with_reducible assumption
    | with_reducible apply State.nextOp_keeps
    | with_reducible apply State.sendTo_keeps
    | with_reducible apply State.postWrites_keeps
    | with_reducible apply SomeP.ite
    | with_reducible apply SomeP.some

theorem State.hostWrite_keeps {a} {x0 x1 x2 x3} (h : Keeps a x0) :
    Keeps a (State.hostWrite x0 x1 x2 x3) := by
  unfold State.hostWrite
  repeat' first
    | with_reducible assumption
    | with_reducible apply State.hostWriteTo_keeps
    | with_reducible apply State.hostError_keeps
    | with_reducible apply State.fabricDrop_keeps
    | with_reducible apply Keeps.getD

theorem State.writeRec_keeps {a} {x0 x1 x2} (h : Keeps a x0) :
    Keeps a (State.writeRec x0 x1 x2) := by
  unfold State.writeRec
  repeat' first
    | with_reducible assumption
    | with_reducible apply State.hostWrite_keeps
    | with_reducible apply State.wrN_keeps
    | with_reducible apply State.interrupt_keeps
    | (extract_lets +onlyGivenNames v; refine Keeps.cut (a := a) (x := v) ?_ (fun hv => ?_); subst v; rotate_left; clear_value v; rotate_left)
    | (extract_lets +onlyGivenNames v; clear_value v)
    | with_reducible apply Keeps.ite

theorem State.writeWaiting_keeps {a} {x0 x1 x2} (h : Keeps a x0) :
    Keeps a (State.writeWaiting x0 x1 x2) := by
  induction x2 generalizing x0 x1 with
  | nil =>
    unfold State.writeWaiting
    repeat' first
      | with_reducible assumption
      | with_reducible apply State.updCtx_keeps
  | cons b r ih =>
    unfold State.writeWaiting
    repeat' first
      | with_reducible assumption
      | with_reducible apply State.updCtx_keeps
      | with_reducible apply State.writeRec_keeps
      | with_reducible apply ih
      | with_reducible apply Keeps.ite

theorem State.drainRecs_keeps {a} {x0 x1} (h : Keeps a x0) :
    Keeps a (State.drainRecs x0 x1) := by
  unfold State.drainRecs
  repeat' first
    | with_reducible assumption
    | with_reducible apply State.writeWaiting_keeps

theorem State.postRec_keeps {a} {x0 x1 x2} (h : Keeps a x0) :
    Keeps a (State.postRec x0 x1 x2) := by
  unfold State.postRec
  repeat' first
    | with_reducible assumption
    | with_reducible apply State.drainRecs_keeps
    | with_reducible apply State.updCtx_keeps

theorem State.countStatus_keeps {a} {x0 x1 x2} (h : Keeps a x0) :
    Keeps a (State.countStatus x0 x1 x2) := by
  unfold State.countStatus
  repeat' first
    | with_reducible assumption
    | with_reducible apply State.count_keeps
    | with_reducible apply Keeps.ite

end Sys2Proof.Machine
end

