-- ==== Sys2Proof/Laws/KeepsMem.lean ====
section
/-! SUPPORT. The operations of `Machine/Mem.lean` keep what no command disturbs. -/

namespace Sys2Proof.Machine


theorem State.fitFetched_keeps {a} {x0} (h : Keeps a x0) :
    Keeps a (State.fitFetched x0) := by
  unfold State.fitFetched
  repeat' first
    | with_reducible assumption
    | fail_if_no_progress (with_reducible refine Keeps.upd ?_ rfl rfl rfl rfl rfl)

theorem State.unfetch_keeps {a} {x0 x1} (h : Keeps a x0) :
    Keeps a (State.unfetch x0 x1) := by
  unfold State.unfetch
  repeat' first
    | with_reducible assumption
    | with_reducible apply State.tally_keeps
    | (with_reducible refine Keeps.fold (fun _ _ _ => ?_) _ ?_)
    | fail_if_no_progress (with_reducible refine Keeps.upd ?_ rfl rfl rfl rfl rfl)

theorem State.put_keeps {a x0 x1 x2} (h : Keeps a x0) : Keeps a (State.put x0 x1 x2) := Keeps.put h

theorem State.poke_keeps {a} {x0 x1 x2} (h : Keeps a x0) :
    Keeps a (State.poke x0 x1 x2) := by
  unfold State.poke
  repeat' first
    | with_reducible assumption
    | with_reducible apply State.put_keeps
    | with_reducible apply State.unfetch_keeps

theorem State.poisonWord_keeps {a} {x0 x1} (h : Keeps a x0) :
    Keeps a (State.poisonWord x0 x1) := by
  unfold State.poisonWord
  repeat' first
    | with_reducible assumption
    | with_reducible apply State.count_keeps
    | (extract_lets +onlyGivenNames v; refine Keeps.cut (a := a) (x := v) ?_ (fun hv => ?_); subst v; rotate_left; clear_value v; rotate_left)
    | with_reducible apply Keeps.ite
    | with_reducible apply Keeps.insertPoison

theorem State.foundUeIn_keeps {a} {x0 x1 x2} (h : Keeps a x0) :
    Keeps a (State.foundUeIn x0 x1 x2) := by
  unfold State.foundUeIn
  repeat' first
    | with_reducible assumption
    | with_reducible apply State.count_keeps
    | with_reducible apply State.wrBytes_keeps
    | with_reducible apply State.setFlag_keeps

theorem State.foundUe_keeps {a} {x0 x1} (h : Keeps a x0) :
    Keeps a (State.foundUe x0 x1) := by
  unfold State.foundUe
  repeat' first
    | with_reducible assumption
    | with_reducible apply State.foundUeIn_keeps

theorem State.foundCorrectedIn_keeps {a} {x0 x1} (h : Keeps a x0) :
    Keeps a (State.foundCorrectedIn x0 x1) := by
  unfold State.foundCorrectedIn
  repeat' first
    | with_reducible assumption
    | with_reducible apply State.setFlag_keeps
    | with_reducible apply State.count_keeps

theorem State.foundCorrected_keeps {a} {x0 x1} (h : Keeps a x0) :
    Keeps a (State.foundCorrected x0 x1) := by
  unfold State.foundCorrected
  repeat' first
    | with_reducible assumption
    | with_reducible apply State.foundCorrectedIn_keeps

theorem State.meetError_keeps {a} {x0 x1} (h : Keeps a x0) :
    Keeps a (State.meetError x0 x1) := by
  unfold State.meetError
  repeat' first
    | with_reducible assumption
    | with_reducible apply State.foundCorrectedIn_keeps
    | with_reducible apply State.count_keeps
    | with_reducible apply State.foundUeIn_keeps
    | with_reducible apply State.poisonWord_keeps
    | (extract_lets +onlyGivenNames v; refine Keeps.cut (a := a) (x := v) ?_ (fun hv => ?_); subst v; rotate_left; clear_value v; rotate_left)
    | with_reducible apply Keeps.ite

theorem State.noteUe_keeps {a} {x0 x1} (h : Keeps a x0) :
    Keeps a (State.noteUe x0 x1) := by
  unfold State.noteUe
  repeat' first
    | with_reducible assumption
    | with_reducible apply State.foundUe_keeps
    | with_reducible apply State.foundUeIn_keeps
    | split

theorem State.store_keeps {a} {x0 x1 x2} (h : Keeps a x0) :
    Keeps a (State.store x0 x1 x2) := by
  induction x1 generalizing x0 x2 with
  | nil =>
    unfold State.store
    repeat' first
      | with_reducible assumption
  | cons b r ih =>
    unfold State.store
    repeat' first
      | with_reducible assumption
      | with_reducible apply State.poke_keeps
      | with_reducible apply ih

theorem State.storeAll_keeps {a} {x0 x1 x2} (h : Keeps a x0) :
    OkP (Keeps a) (State.storeAll x0 x1 x2) := by
  unfold State.storeAll
  repeat' first
    | with_reducible assumption
    | with_reducible apply State.store_keeps
    | with_reducible exact OkP.error
    | with_reducible apply OkP.ok
    | split

theorem State.vwrite_keeps {a} {x0 x1 x2 x3} (h : Keeps a x0) :
    OkP (Keeps a) (State.vwrite x0 x1 x2 x3) := by
  unfold State.vwrite
  repeat' first
    | with_reducible assumption
    | with_reducible apply State.storeAll_keeps
    | (with_reducible refine OkP.bind fun _ _ => ?_)

theorem State.writeHeld_keeps {a} {x0 x1 x2 x3 x4} (h : Keeps a x0) :
    OkP (Keeps a) (State.writeHeld x0 x1 x2 x3 x4) := by
  unfold State.writeHeld
  repeat' first
    | with_reducible assumption
    | with_reducible apply State.storeAll_keeps
    | (with_reducible refine OkP.bind fun _ _ => ?_)

end Sys2Proof.Machine
end

