-- ==== Sys2Proof/Laws/KeepsJournal.lean ====
section
/-! SUPPORT. The operations of `Machine/Journal.lean` keep what no command disturbs. -/

namespace Sys2Proof.Machine


theorem State.logAppend_keeps {a} {x0 x1 x2} (h : Keeps a x0) :
    Keeps a (State.logAppend x0 x1 x2).1 := by
  unfold State.logAppend
  repeat' first
    | with_reducible assumption
    | with_reducible apply State.poke_keeps
    | with_reducible apply State.setItem_keeps
    | with_reducible apply State.tally_keeps
    | (extract_lets +onlyGivenNames v; refine Keeps.cut (a := a) (x := v) ?_ (fun hv => ?_); subst v; rotate_left; clear_value v; rotate_left)
    | (extract_lets +onlyGivenNames v; clear_value v)
    | with_reducible apply Keeps.ite
    | with_reducible apply Keeps.setHeads
    | split

theorem State.log_keeps {a} {x0 x1 x2 x3 x4} (h : Keeps a x0) :
    Keeps a (State.log x0 x1 x2 x3 x4).1 := by
  unfold State.log
  repeat' first
    | with_reducible assumption
    | with_reducible apply State.logAppend_keeps

theorem State.countDenied_keeps {a} {x0 x1} (h : Keeps a x0) :
    Keeps a (State.countDenied x0 x1) := by
  unfold State.countDenied
  repeat' first
    | with_reducible assumption
    | with_reducible apply State.tally_keeps

theorem State.logLast_keeps {a} {x0 x1 x2 x3 x4} (h : Keeps a x0) :
    Keeps a (State.logLast x0 x1 x2 x3 x4) := by
  unfold State.logLast
  repeat' first
    | with_reducible assumption
    | with_reducible apply State.log_keeps
    | with_reducible apply State.countDenied_keeps
    | with_reducible apply Keeps.ite

theorem State.itemRec_keeps {a} {x0 x1 x2 x3} (h : Keeps a x0) :
    Keeps a (State.itemRec x0 x1 x2 x3) := by
  unfold State.itemRec
  repeat' first
    | with_reducible assumption
    | with_reducible apply State.countStatus_keeps
    | with_reducible apply State.updCtx_keeps
    | with_reducible apply State.postRec_keeps
    | (extract_lets +onlyGivenNames v; refine Keeps.cut (a := a) (x := v) ?_ (fun hv => ?_); subst v; rotate_left; clear_value v; rotate_left)
    | (extract_lets +onlyGivenNames v; clear_value v)
    | with_reducible apply Keeps.ite

theorem State.emptyQueues_keeps {a} {x0 x1} (h : Keeps a x0) :
    Keeps a (State.emptyQueues x0 x1) := by
  unfold State.emptyQueues
  repeat' first
    | with_reducible assumption
    | with_reducible apply State.setQueue_keeps
    | (with_reducible refine Keeps.fold (fun _ _ _ => ?_) _ ?_)

theorem State.releaseDemand_keeps {a} {x0 x1} (h : Keeps a x0) :
    Keeps a (State.releaseDemand x0 x1) := by
  unfold State.releaseDemand
  repeat' first
    | with_reducible assumption
    | with_reducible apply State.wrN_keeps
    | (with_reducible refine Keeps.fold (fun _ _ _ => ?_) _ ?_)

theorem State.dropSends_keeps {a} {x0 x1} (h : Keeps a x0) :
    Keeps a (State.dropSends x0 x1) := by
  unfold State.dropSends
  repeat' first
    | with_reducible assumption
    | with_reducible apply State.setQueue_keeps
    | (with_reducible refine Keeps.fold (fun _ _ _ => ?_) _ ?_)

theorem State.dropEngine_keeps {a} {x0 x1 x2} (h : Keeps a x0) :
    Keeps a (State.dropEngine x0 x1 x2) := by
  unfold State.dropEngine
  repeat' first
    | with_reducible assumption
    | with_reducible apply State.dropSends_keeps
    | with_reducible apply State.releaseDemand_keeps
    | with_reducible apply State.setEngine_keeps
    | (with_reducible refine Keeps.fold (fun _ _ _ => ?_) _ ?_)

theorem State.dropStreams_keeps {a} {x0 x1 x2} (h : Keeps a x0) :
    Keeps a (State.dropStreams x0 x1 x2) := by
  unfold State.dropStreams
  repeat' first
    | with_reducible assumption
    | with_reducible apply State.emptyQueues_keeps
    | with_reducible apply State.dropEngine_keeps
    | (with_reducible refine Keeps.fold (fun _ _ _ => ?_) _ ?_)

theorem State.keepTrail_keeps {a} {x0 x1 x2 x3} (h : Keeps a x0) :
    Keeps a (State.keepTrail x0 x1 x2 x3) := by
  unfold State.keepTrail
  repeat' first
    | with_reducible assumption
    | (extract_lets +onlyGivenNames v; clear_value v)
    | fail_if_no_progress (with_reducible refine Keeps.upd ?_ rfl rfl rfl rfl rfl)

theorem State.writeHeader_keeps {a} {x0 x1 x2} (h : Keeps a x0) :
    OkP (Keeps a) (State.writeHeader x0 x1 x2) := by
  unfold State.writeHeader
  repeat' first
    | with_reducible assumption
    | with_reducible apply State.vwrite_keeps
    | with_reducible apply State.keepTrail_keeps
    | (extract_lets +onlyGivenNames v; clear_value v)
    | with_reducible apply OkP.pure
    | (with_reducible refine OkP.bindS (a := a) ?_ fun _ _ => ?_)

theorem State.stopHeader_keeps {a} {x0 x1} (h : Keeps a x0) :
    Keeps a (State.stopHeader x0 x1) := by
  unfold State.stopHeader
  repeat' first
    | with_reducible assumption
    | with_reducible apply State.writeHeader_keeps
    | with_reducible apply State.noteUe_keeps
    | (with_reducible apply Keeps.ofOk; · with_reducible assumption)
    | with_reducible apply Keeps.ite
    | split

theorem State.rewriteTrail_keeps {a} {x0 x1 x2 x3} (h : Keeps a x0) :
    Keeps a (State.rewriteTrail x0 x1 x2 x3) := by
  unfold State.rewriteTrail
  repeat' first
    | with_reducible assumption
    | with_reducible apply State.vwrite_keeps
    | with_reducible apply State.tally_keeps
    | with_reducible apply State.noteUe_keeps
    | (with_reducible apply Keeps.ofOk; · with_reducible assumption)
    | (extract_lets +onlyGivenNames v; clear_value v)
    | split

theorem State.rewindTrails_keeps {a} {x0 x1} (h : Keeps a x0) :
    Keeps a (State.rewindTrails x0 x1) := by
  unfold State.rewindTrails
  repeat' first
    | with_reducible assumption
    | with_reducible apply State.unfetch_keeps
    | with_reducible apply State.rewriteTrail_keeps
    | (extract_lets +onlyGivenNames v; refine Keeps.cut (a := a) (x := v) ?_ (fun hv => ?_); subst v; rotate_left; clear_value v; rotate_left)
    | (with_reducible refine Keeps.fold (fun _ _ _ => ?_) _ ?_)
    | fail_if_no_progress (with_reducible refine Keeps.upd ?_ rfl rfl rfl rfl rfl)

theorem State.abortItem_keeps {a} {x0 x1 x2 x3} (h : Keeps a x0) :
    Keeps a (State.abortItem x0 x1 x2 x3) := by
  unfold State.abortItem
  repeat' first
    | with_reducible assumption
    | with_reducible apply State.logLast_keeps
    | with_reducible apply State.itemRec_keeps
    | with_reducible apply State.dropItem_keeps
    | with_reducible apply Keeps.ite

theorem State.abortItems_keeps {a} {x0 x1 x2} (h : Keeps a x0) :
    Keeps a (State.abortItems x0 x1 x2) := by
  unfold State.abortItems
  repeat' first
    | with_reducible assumption
    | with_reducible apply State.abortItem_keeps
    | (with_reducible refine Keeps.fold (fun _ _ _ => ?_) _ ?_)

theorem State.cancelArmed_keeps {a} {x0 x1} (h : Keeps a x0) :
    Keeps a (State.cancelArmed x0 x1) := by
  unfold State.cancelArmed
  repeat' first
    | with_reducible assumption
    | with_reducible apply State.wrBytes_keeps
    | with_reducible apply State.wrN_keeps
    | with_reducible apply State.tally_keeps
    | with_reducible apply State.raise_keeps
    | (extract_lets +onlyGivenNames v; refine Keeps.cut (a := a) (x := v) ?_ (fun hv => ?_); subst v; rotate_left; clear_value v; rotate_left)
    | (extract_lets +onlyGivenNames v; clear_value v)
    | with_reducible apply Keeps.ite
    | fail_if_no_progress (with_reducible refine Keeps.upd ?_ rfl rfl rfl rfl rfl)
    | split

theorem State.dropAhead_keeps {a} {x0 x1 x2 x3} (h : Keeps a x0) :
    Keeps a (State.dropAhead x0 x1 x2 x3) := by
  unfold State.dropAhead
  repeat' first
    | with_reducible assumption
    | with_reducible apply State.dropEngine_keeps
    | with_reducible apply State.setEngine_keeps
    | with_reducible apply State.releaseDemand_keeps
    | (extract_lets +onlyGivenNames v; clear_value v)
    | with_reducible apply Keeps.ite
    | split

theorem State.discardAhead_keeps {a} {x0 x1 x2} (h : Keeps a x0) :
    Keeps a (State.discardAhead x0 x1 x2) := by
  unfold State.discardAhead
  repeat' first
    | with_reducible assumption
    | with_reducible apply State.updCtx_keeps
    | with_reducible apply State.abortItems_keeps
    | with_reducible apply State.dropAhead_keeps
    | with_reducible apply State.rewindTrails_keeps
    | with_reducible apply State.tallyN_keeps
    | (with_reducible refine Keeps.fold (fun _ _ _ => ?_) _ ?_)

theorem State.enterFaulted_keeps {a} {x0 x1} (h : Keeps a x0) :
    Keeps a (State.enterFaulted x0 x1) := by
  unfold State.enterFaulted
  repeat' first
    | with_reducible assumption
    | with_reducible apply State.updCtx_keeps
    | with_reducible apply State.setFlag_keeps
    | with_reducible apply State.cancelArmed_keeps
    | with_reducible apply State.discardAhead_keeps
    | (extract_lets +onlyGivenNames v; refine Keeps.cut (a := a) (x := v) ?_ (fun hv => ?_); subst v; rotate_left; clear_value v; rotate_left)
    | with_reducible apply Keeps.ite

theorem State.stopPartition_keeps {a} {x0 x1 x2 x3} (h : Keeps a x0) :
    Keeps a (State.stopPartition x0 x1 x2 x3) := by
  unfold State.stopPartition
  repeat' first
    | with_reducible assumption
    | with_reducible apply State.abortItems_keeps
    | with_reducible apply State.dropStreams_keeps
    | with_reducible apply State.rewindTrails_keeps
    | with_reducible apply State.tally_keeps
    | with_reducible apply State.updCtx_keeps
    | with_reducible apply State.enterFaulted_keeps
    | (extract_lets +onlyGivenNames v; refine Keeps.cut (a := a) (x := v) ?_ (fun hv => ?_); subst v; rotate_left; clear_value v; rotate_left)
    | with_reducible apply Keeps.ite
    | (with_reducible refine Keeps.fold (fun _ _ _ => ?_) _ ?_)

theorem State.haltPartition_keeps {a} {x0 x1 x2 x3} (h : Keeps a x0) :
    Keeps a (State.haltPartition x0 x1 x2 x3) := by
  unfold State.haltPartition
  repeat' first
    | with_reducible assumption
    | with_reducible apply State.stopPartition_keeps
    | with_reducible apply State.stopHeader_keeps
    | with_reducible apply State.updCtx_keeps
    | with_reducible apply State.enterFaulted_keeps
    | (extract_lets +onlyGivenNames v; refine Keeps.cut (a := a) (x := v) ?_ (fun hv => ?_); subst v; rotate_left; clear_value v; rotate_left)
    | (extract_lets +onlyGivenNames v; clear_value v)
    | with_reducible apply Keeps.ite
    | (with_reducible refine Keeps.fold (fun _ _ _ => ?_) _ ?_)
    | fail_if_no_progress (with_reducible refine Keeps.upd ?_ rfl rfl rfl rfl rfl)

theorem State.failItem_keeps {a} {x0 x1 x2} (h : Keeps a x0) :
    Keeps a (State.failItem x0 x1 x2) := by
  unfold State.failItem
  repeat' first
    | with_reducible assumption
    | with_reducible apply State.stopPartition_keeps
    | with_reducible apply State.abortItem_keeps

theorem State.faultRecord_keeps {a} {x0 x1 x2 x3 x4 x5 x6} (h : Keeps a x0) :
    Keeps a (State.faultRecord x0 x1 x2 x3 x4 x5 x6) := by
  unfold State.faultRecord
  repeat' first
    | with_reducible assumption
    | with_reducible apply State.tally_keeps
    | with_reducible apply State.vwrite_keeps
    | with_reducible apply State.interrupt_keeps
    | with_reducible apply State.updCtx_keeps
    | with_reducible apply State.noteUe_keeps
    | (with_reducible apply Keeps.ofOk; · with_reducible assumption)
    | (extract_lets +onlyGivenNames v; (have _w : State → State := v); subst v)
    | (extract_lets +onlyGivenNames v; clear_value v)
    | with_reducible apply Keeps.ite
    | split

theorem State.logThen_keeps {a} {x0 x1 x2} (h : Keeps a x0) :
    Keeps a (State.logThen x0 x1 x2) := by
  unfold State.logThen
  repeat' first
    | with_reducible assumption
    | with_reducible apply State.log_keeps
    | with_reducible apply State.itemRec_keeps
    | with_reducible apply State.failItem_keeps
    | with_reducible apply State.countDenied_keeps
    | with_reducible apply Keeps.ite

theorem State.enterParked_keeps {a} {x0 x1} (h : Keeps a x0) :
    Keeps a (State.enterParked x0 x1) := by
  unfold State.enterParked
  repeat' first
    | with_reducible assumption
    | with_reducible apply State.updCtx_keeps
    | with_reducible apply Keeps.ite

theorem State.parkItem_keeps {a} {x0 x1 x2 x3 x4 x5} (h : Keeps a x0) :
    Keeps a (State.parkItem x0 x1 x2 x3 x4 x5) := by
  unfold State.parkItem
  repeat' first
    | with_reducible assumption
    | with_reducible apply State.tally_keeps
    | with_reducible apply State.updCtx_keeps
    | with_reducible apply State.setItem_keeps
    | with_reducible apply State.faultRecord_keeps
    | with_reducible apply State.logThen_keeps
    | with_reducible apply State.enterParked_keeps

theorem State.stopItem_keeps {a} {x0 x1 x2} (h : Keeps a x0) :
    Keeps a (State.stopItem x0 x1 x2) := by
  unfold State.stopItem
  repeat' first
    | with_reducible assumption
    | with_reducible apply State.parkItem_keeps
    | with_reducible apply State.failItem_keeps
    | with_reducible apply State.countDenied_keeps
    | with_reducible apply State.foundUe_keeps
    | with_reducible apply State.foundUeIn_keeps
    | split

theorem State.meetDue_keeps {a} {x0 x1} (h : Keeps a x0) :
    Keeps a (State.meetDue x0 x1) := by
  unfold State.meetDue
  repeat' first
    | with_reducible assumption
    | with_reducible apply State.meetError_keeps
    | with_reducible apply State.setItem_keeps
    | with_reducible apply State.failItem_keeps
    | (extract_lets +onlyGivenNames v; refine Keeps.cut (a := a) (x := v) ?_ (fun hv => ?_); subst v; rotate_left; clear_value v; rotate_left)
    | (extract_lets +onlyGivenNames v; clear_value v)
    | with_reducible apply Keeps.ite
    | (with_reducible refine Keeps.fold (fun _ _ _ => ?_) _ ?_)
    | split

theorem State.advance_keeps {a} {x0 x1 x2} (h : Keeps a x0) :
    Keeps a (State.advance x0 x1 x2) := by
  unfold State.advance
  repeat' first
    | with_reducible assumption
    | with_reducible apply State.setItem_keeps
    | with_reducible apply State.log_keeps
    | with_reducible apply State.meetDue_keeps
    | with_reducible apply State.failItem_keeps
    | with_reducible apply State.countDenied_keeps
    | (extract_lets +onlyGivenNames v; refine Keeps.cut (a := a) (x := v) ?_ (fun hv => ?_); subst v; rotate_left; clear_value v; rotate_left)
    | (extract_lets +onlyGivenNames v; clear_value v)
    | with_reducible apply Keeps.ite

theorem State.preemptItem_keeps {a} {x0 x1} (h : Keeps a x0) :
    Keeps a (State.preemptItem x0 x1) := by
  unfold State.preemptItem
  repeat' first
    | with_reducible assumption
    | with_reducible apply State.logThen_keeps
    | with_reducible apply State.setItem_keeps

theorem State.finish_keeps {a} {x0 x1 x2} (h : Keeps a x0) :
    Keeps a (State.finish x0 x1 x2) := by
  unfold State.finish
  repeat' first
    | with_reducible assumption
    | with_reducible apply State.setItem_keeps
    | split

end Sys2Proof.Machine
end

