-- ==== Sys2Proof/Laws/KeepsSequencer.lean ====
section
/-! SUPPORT. The operations of `Machine/Sequencer.lean` keep what no command disturbs. -/

namespace Sys2Proof.Machine


theorem State.rejectHeader_keeps {a} {x0 x1 x2 x3} (h : Keeps a x0) :
    Keeps a (State.rejectHeader x0 x1 x2 x3) := by
  unfold State.rejectHeader
  repeat' first
    | with_reducible assumption
    | with_reducible apply State.postRec_keeps
    | with_reducible apply State.countStatus_keeps

theorem State.mirrorHeader_keeps {a} {x0 x1 x2} (h : Keeps a x0) :
    Keeps a (State.mirrorHeader x0 x1 x2) := by
  unfold State.mirrorHeader
  repeat' first
    | with_reducible assumption
    | with_reducible apply State.wrN_keeps
    | (extract_lets +onlyGivenNames v; refine Keeps.cut (a := a) (x := v) ?_ (fun hv => ?_); subst v; rotate_left; clear_value v; rotate_left)
    | (with_reducible refine Keeps.fold (fun _ _ _ => ?_) _ ?_)

theorem State.openStep_keeps {a} {x0 x1 x2} (h : Keeps a x0) :
    Keeps a (State.openStep x0 x1 x2) := by
  unfold State.openStep
  repeat' first
    | with_reducible assumption
    | with_reducible apply State.wrN_keeps
    | with_reducible apply State.updCtx_keeps
    | with_reducible apply State.mirrorHeader_keeps
    | (extract_lets +onlyGivenNames v; clear_value v)
    | fail_if_no_progress (with_reducible refine Keeps.upd ?_ rfl rfl rfl rfl rfl)
    | split

theorem State.serve_keeps {a} {x0 x1 x2} (h : Keeps a x0) :
    Keeps a (State.serve x0 x1 x2) := by
  unfold State.serve
  repeat' first
    | with_reducible assumption
    | with_reducible apply Keeps.ite
    | fail_if_no_progress (with_reducible refine Keeps.upd ?_ rfl rfl rfl rfl rfl)

theorem State.reject_keeps {a} {x0 x1 x2 x3} (h : Keeps a x0) :
    Keeps a (State.reject x0 x1 x2 x3) := by
  unfold State.reject
  repeat' first
    | with_reducible assumption
    | with_reducible apply State.logLast_keeps
    | with_reducible apply State.haltPartition_keeps
    | with_reducible apply State.serve_keeps
    | with_reducible apply State.itemRec_keeps

theorem State.accept_keeps {a} {x0 x1 x2} (h : Keeps a x0) :
    Keeps a (State.accept x0 x1 x2) := by
  unfold State.accept
  repeat' first
    | with_reducible assumption
    | with_reducible apply State.updCtx_keeps
    | with_reducible apply State.serve_keeps
    | with_reducible apply State.log_keeps
    | with_reducible apply State.failItem_keeps
    | with_reducible apply State.countDenied_keeps
    | (extract_lets +onlyGivenNames v; refine Keeps.cut (a := a) (x := v) ?_ (fun hv => ?_); subst v; rotate_left; clear_value v; rotate_left)
    | (extract_lets +onlyGivenNames v; clear_value v)
    | with_reducible apply Keeps.ite
    | fail_if_no_progress (with_reducible refine Keeps.upd ?_ rfl rfl rfl rfl rfl)
    | split

theorem State.takePlan_keeps {a} {x0 x1 x2 x3 x4} (h : Keeps a x0) :
    Keeps a (State.takePlan x0 x1 x2 x3 x4) := by
  unfold State.takePlan
  repeat' first
    | with_reducible assumption
    | with_reducible apply State.updCtx_keeps
    | with_reducible apply State.wrN_keeps
    | with_reducible apply Keeps.ite

theorem BodyCheck.ok_keeps  : NoteKeeps (BodyCheck.ok) := NoteKeeps.of_id rfl

theorem BodyCheck.rsvd_keeps  : NoteKeeps (BodyCheck.rsvd) := NoteKeeps.of_id rfl

theorem BodyCheck.fieldIf_keeps {x0} : NoteKeeps (BodyCheck.fieldIf x0) := NoteKeeps.of_id rfl

theorem State.usePlan_keeps {a} {x0 x1 x2} (h : Keeps a x0) :
    Keeps a (State.usePlan x0 x1 x2) := by
  unfold State.usePlan
  repeat' first
    | with_reducible assumption
    | with_reducible apply State.takePlan_keeps
    | split

theorem State.begin__keeps {a} {x0 x1 x2 x3 x4} (h : Keeps a x0) (hf4 : ∀ y0 y1 y2, Keeps a y2 → Keeps a (x4 y0 y1 y2)) :
    Keeps a (State.begin_ x0 x1 x2 x3 x4) := by
  unfold State.begin_
  repeat' first
    | with_reducible assumption
    | with_reducible apply State.meetDue_keeps
    | with_reducible apply State.setItem_keeps
    | with_reducible apply hf4
    | (extract_lets +onlyGivenNames v; refine Keeps.cut (a := a) (x := v) ?_ (fun hv => ?_); subst v; rotate_left; clear_value v; rotate_left)
    | (extract_lets +onlyGivenNames v; clear_value v)
    | split

theorem State.launch_keeps {a} {x0 x1 x2 x3 x4} (h : Keeps a x0) (hf4 : ∀ y0 y1 y2, Keeps a y2 → Keeps a (x4 y0 y1 y2)) :
    Keeps a (State.launch x0 x1 x2 x3 x4) := by
  unfold State.launch
  repeat' first
    | with_reducible intro _
    | with_reducible assumption
    | with_reducible apply State.accept_keeps
    | with_reducible apply State.usePlan_keeps
    | with_reducible apply State.begin__keeps
    | with_reducible apply hf4
    | (extract_lets +onlyGivenNames v; refine Keeps.cut (a := a) (x := v) ?_ (fun hv => ?_); subst v; rotate_left; clear_value v; rotate_left)
    | with_reducible apply Keeps.ite

theorem State.parkSeq_keeps {a} {x0 x1 x2 x3 x4 x5} (h : Keeps a x0) :
    Keeps a (State.parkSeq x0 x1 x2 x3 x4 x5) := by
  unfold State.parkSeq
  repeat' first
    | with_reducible assumption
    | with_reducible apply State.tally_keeps
    | with_reducible apply State.updCtx_keeps
    | with_reducible apply State.enterParked_keeps
    | with_reducible apply State.faultRecord_keeps

theorem State.seqStop_keeps {a} {x0 x1 x2 x3} (h : Keeps a x0) :
    Keeps a (State.seqStop x0 x1 x2 x3) := by
  unfold State.seqStop
  repeat' first
    | with_reducible assumption
    | with_reducible apply State.parkSeq_keeps
    | with_reducible apply State.stopItem_keeps
    | with_reducible apply State.accept_keeps
    | split

theorem State.noteSuccessor_keeps {a} {x0 x1} (h : Keeps a x0) :
    Keeps a (State.noteSuccessor x0 x1) := by
  unfold State.noteSuccessor
  repeat' first
    | with_reducible assumption
    | with_reducible apply State.noteUe_keeps
    | (extract_lets +onlyGivenNames v; clear_value v)
    | with_reducible apply Keeps.ite
    | split

theorem State.unreadable_keeps {a} {x0 x1} (h : Keeps a x0) :
    Keeps a (State.unreadable x0 x1) := by
  unfold State.unreadable
  repeat' first
    | with_reducible assumption
    | with_reducible apply State.noteSuccessor_keeps
    | with_reducible apply State.seqStop_keeps
    | (extract_lets +onlyGivenNames v; clear_value v)
    | with_reducible apply Keeps.ite
    | split

theorem State.issue_keeps {a} {x0 x1 x2 x3 x4} (h : Keeps a x0) (hf3 : ∀ s j, OkP NoteKeeps (x3 s j))
    (hf4 : ∀ i j s, Keeps a s → Keeps a (x4 i j s)) : Keeps a (State.issue x0 x1 x2 x3 x4) := by
  unfold State.issue
  have hb : ∀ (c : Bool) j body, (if c = true then Except.ok BodyCheck.ok else x3 x0 j) = .ok body → NoteKeeps body := by
    intro c j body e
    split at e
    · cases e; exact NoteKeeps.of_id rfl
    · exact hf3 _ _ _ e
  repeat' first
  | with_reducible assumption
  | with_reducible apply State.seqStop_keeps
  | with_reducible apply State.unreadable_keeps
  | with_reducible apply State.accept_keeps
  | with_reducible apply State.launch_keeps
  | with_reducible apply hf4
  | with_reducible apply Keeps.ite
  | split
  exact hb _ _ _ ‹_› _ _ _ (State.reject_keeps h)

end Sys2Proof.Machine
end

