-- ==== Sys2Proof/Laws/KeepsStream.lean ====
section
/-! SUPPORT. The operations of `Machine/Stream.lean` keep what no command disturbs. -/

namespace Sys2Proof.Machine


theorem State.takeDemand_keeps {a} {x0 x1} (h : Keeps a x0) :
    Keeps a (State.takeDemand x0 x1) := by
  unfold State.takeDemand
  repeat' first
    | with_reducible assumption
    | with_reducible apply State.wrN_keeps
    | (with_reducible refine Keeps.fold (fun _ _ _ => ?_) _ ?_)

theorem checkStream_keeps {x0 x1 x2}  :
    OkP NoteKeeps (checkStream x0 x1 x2) := by
  unfold checkStream
  repeat' first
    | with_reducible intro _
    | with_reducible assumption
    | with_reducible apply BodyCheck.rsvd_keeps
    | with_reducible apply State.tally_keeps
    | (extract_lets +onlyGivenNames v; clear_value v)
    | with_reducible apply Keeps.ite
    | with_reducible apply OkP.ite
    | with_reducible apply OkP.pure
    | (with_reducible refine OkP.bind fun _ _ => ?_)
    | split
    | (intro _ _ _ ; dsimp only)

theorem State.precCount_keeps {a} {x0 x1 x2 x3 x4 x5} (h : Keeps a x0) :
    Keeps a (State.precCount x0 x1 x2 x3 x4 x5) := by
  unfold State.precCount
  repeat' first
    | with_reducible assumption
    | with_reducible apply State.tallyN_keeps

theorem State.convCount_keeps {a} {x0 x1 x2} (h : Keeps a x0) :
    Keeps a (State.convCount x0 x1 x2) := by
  unfold State.convCount
  repeat' first
    | with_reducible assumption
    | with_reducible apply State.precCount_keeps

theorem State.streamCount_keeps {a} {x0 x1 x2} (h : Keeps a x0) :
    Keeps a (State.streamCount x0 x1 x2) := by
  unfold State.streamCount
  repeat' first
    | with_reducible assumption
    | with_reducible apply State.precCount_keeps
    | with_reducible apply State.tallyN_keeps

theorem State.readAgain_keeps {a} {x0 x1} (h : Keeps a x0) :
    Keeps a (State.readAgain x0 x1) := by
  unfold State.readAgain
  repeat' first
    | with_reducible assumption
    | with_reducible apply State.setQueue_keeps
    | with_reducible apply State.emit_keeps
    | (extract_lets +onlyGivenNames v; clear_value v)
    | with_reducible apply Keeps.ite

theorem State.deliverTo_keeps {a} {x0 x1 x2} (h : Keeps a x0) :
    Keeps a (State.deliverTo x0 x1 x2) := by
  unfold State.deliverTo
  repeat' first
    | with_reducible assumption
    | with_reducible apply State.poke_keeps
    | with_reducible apply State.readAgain_keeps
    | with_reducible apply State.setQueue_keeps
    | with_reducible apply Keeps.ite

theorem State.drainSend_keeps {a} {x0 x1 x2} (h : Keeps a x0) :
    Keeps a (State.drainSend x0 x1 x2) := by
  induction x2 generalizing x0 x1 with
  | zero =>
    unfold State.drainSend
    repeat' first
      | with_reducible assumption
  | succ n ih =>
    unfold State.drainSend
    repeat' first
      | with_reducible assumption
      | with_reducible apply State.setQueue_keeps
      | with_reducible apply State.nextOp_keeps
      | with_reducible apply State.broadcast_keeps
      | with_reducible apply ih
      | (extract_lets +onlyGivenNames v; clear_value v)
      | with_reducible apply Keeps.ite
      | split

theorem State.deliverLines_keeps {a} {x0 x1 x2} (h : Keeps a x0) :
    Keeps a (State.deliverLines x0 x1 x2).1 := by
  induction x2 generalizing x0 x1 with
  | nil =>
    unfold State.deliverLines
    repeat' first
      | with_reducible assumption
  | cons b r ih =>
    unfold State.deliverLines
    repeat' first
      | with_reducible assumption
      | with_reducible apply State.deliverTo_keeps
      | with_reducible apply ih
      | (extract_lets +onlyGivenNames v; refine Keeps.cut (a := a) (x := v) ?_ (fun hv => ?_); subst v; rotate_left; clear_value v; rotate_left)
      | (extract_lets +onlyGivenNames v; clear_value v)
      | (with_reducible refine Keeps.fold (fun _ _ _ => ?_) _ ?_)
      | split

theorem State.setActive_keeps {a} {x0 x1 x2} (h : Keeps a x0) :
    Keeps a (State.setActive x0 x1 x2) := by
  unfold State.setActive
  repeat' first
    | with_reducible assumption
    | with_reducible apply State.setEngine_keeps

theorem State.streamStop_keeps {a} {x0 x1 x2 x3} (h : Keeps a x0) :
    Keeps a (State.streamStop x0 x1 x2 x3) := by
  unfold State.streamStop
  repeat' first
    | with_reducible assumption
    | with_reducible apply State.stopItem_keeps
    | with_reducible apply State.setItem_keeps
    | with_reducible apply State.setEngine_keeps
    | with_reducible apply State.setActive_keeps
    | (extract_lets +onlyGivenNames v; clear_value v)
    | split

theorem State.countDone_keeps {a} {x0 x1 x2} (h : Keeps a x0) :
    Keeps a (State.countDone x0 x1 x2) := by
  unfold State.countDone
  repeat' first
    | with_reducible assumption
    | with_reducible apply State.streamCount_keeps
    | with_reducible apply State.setActive_keeps
    | (with_reducible refine Keeps.fold (fun _ _ _ => ?_) _ ?_)

theorem State.streamAdvance_keeps {a} {x0 x1 x2} (h : Keeps a x0) :
    Keeps a (State.streamAdvance x0 x1 x2) := by
  unfold State.streamAdvance
  repeat' first
    | with_reducible assumption
    | with_reducible apply State.countDone_keeps
    | with_reducible apply State.advance_keeps
    | (extract_lets +onlyGivenNames v; refine Keeps.cut (a := a) (x := v) ?_ (fun hv => ?_); subst v; rotate_left; clear_value v; rotate_left)
    | split

theorem State.streamStep_keeps {a} {x0 x1} (h : Keeps a x0) :
    SomeP (Keeps a) (State.streamStep x0 x1) := by
  unfold State.streamStep
  repeat' first
    | with_reducible assumption
    | with_reducible apply State.deliverLines_keeps
    | with_reducible apply State.streamAdvance_keeps
    | with_reducible apply State.drainSend_keeps
    | with_reducible apply State.setActive_keeps
    | with_reducible apply State.streamStop_keeps
    | with_reducible apply State.vwrite_keeps
    | (with_reducible apply Keeps.ofOk; · with_reducible assumption)
    | (extract_lets +onlyGivenNames v; refine Keeps.cut (a := a) (x := v) ?_ (fun hv => ?_); subst v; rotate_left; clear_value v; rotate_left)
    | (extract_lets +onlyGivenNames v; clear_value v)
    | with_reducible apply Keeps.ite
    | with_reducible apply SomeP.ite
    | with_reducible exact SomeP.none
    | with_reducible apply SomeP.some
    | (with_reducible refine Keeps.fold (fun _ _ _ => ?_) _ ?_)
    | split

theorem State.pumpFor_keeps {a} {x0 x1 x2} (h : Keeps a x0) :
    Keeps a (State.pumpFor x0 x1 x2) := by
  induction x2 generalizing x0 x1 with
  | zero =>
    unfold State.pumpFor
    repeat' first
      | with_reducible assumption
  | succ n ih =>
    unfold State.pumpFor
    repeat' first
      | with_reducible assumption
      | with_reducible apply State.streamStep_keeps
      | with_reducible apply ih
      | (with_reducible apply Keeps.ofSome; · with_reducible assumption)
      | split

theorem State.pump_keeps {a} {x0 x1} (h : Keeps a x0) :
    Keeps a (State.pump x0 x1) := by
  unfold State.pump
  repeat' first
    | with_reducible assumption
    | with_reducible apply State.pumpFor_keeps
    | split

theorem State.pumpQueue_keeps {a} {x0 x1} (h : Keeps a x0) :
    Keeps a (State.pumpQueue x0 x1) := by
  unfold State.pumpQueue
  repeat' first
    | with_reducible assumption
    | with_reducible apply State.pump_keeps
    | split

theorem State.openSluices_keeps {a} {x0 x1} (h : Keeps a x0) :
    Keeps a (State.openSluices x0 x1) := by
  unfold State.openSluices
  repeat' first
    | with_reducible assumption
    | with_reducible apply State.setQueue_keeps
    | (extract_lets +onlyGivenNames v; clear_value v)
    | (with_reducible refine Keeps.fold (fun _ _ _ => ?_) _ ?_)

theorem State.activate_keeps {a} {x0 x1 x2} (h : Keeps a x0) :
    Keeps a (State.activate x0 x1 x2) := by
  unfold State.activate
  repeat' first
    | with_reducible assumption
    | with_reducible apply State.openSluices_keeps
    | with_reducible apply State.setEngine_keeps
    | with_reducible apply State.pump_keeps
    | (extract_lets +onlyGivenNames v; refine Keeps.cut (a := a) (x := v) ?_ (fun hv => ?_); subst v; rotate_left; clear_value v; rotate_left)
    | (extract_lets +onlyGivenNames v; clear_value v)
    | with_reducible apply Keeps.ite

theorem State.nextProgram_keeps {a} {x0 x1 x2} (h : Keeps a x0) :
    Keeps a (State.nextProgram x0 x1 x2).2 := by
  unfold State.nextProgram
  repeat' first
    | with_reducible assumption
    | (extract_lets +onlyGivenNames v; (have _w : Fabric := v); subst v)
    | with_reducible apply Keeps.setMprog
    | split

theorem startStream_keeps {a} {x0 x1 x2} (h : Keeps a x2) :
    Keeps a (startStream x0 x1 x2) := by
  unfold startStream
  repeat' first
    | with_reducible assumption
    | with_reducible apply State.takeDemand_keeps
    | with_reducible apply State.nextProgram_keeps
    | with_reducible apply State.activate_keeps
    | with_reducible apply State.count_keeps
    | with_reducible apply State.setEngine_keeps
    | (with_reducible apply Keeps.ofSnd; · with_reducible assumption)
    | (extract_lets +onlyGivenNames v; refine Keeps.cut (a := a) (x := v) ?_ (fun hv => ?_); subst v; rotate_left; clear_value v; rotate_left)
    | (extract_lets +onlyGivenNames v; clear_value v)
    | split

end Sys2Proof.Machine
end

