-- ==== Sys2Proof/Laws/KeepsBarrier.lean ====
section
/-! SUPPORT. The operations of `Machine/Barrier.lean` keep what no command disturbs. -/

namespace Sys2Proof.Machine


theorem State.endSlot_keeps {a} {x0 x1 x2 x3} (h : Keeps a x0) :
    Keeps a (State.endSlot x0 x1 x2 x3) := by
  unfold State.endSlot
  repeat' first
    | with_reducible assumption
    | with_reducible apply State.setCtx_keeps
    | with_reducible apply State.wrN_keeps
    | with_reducible apply State.tally_keeps
    | with_reducible apply State.raise_keeps
    | (extract_lets +onlyGivenNames v; refine Keeps.cut (a := a) (x := v) ?_ (fun hv => ?_); subst v; rotate_left; clear_value v; rotate_left)
    | (extract_lets +onlyGivenNames v; clear_value v)
    | with_reducible apply Keeps.ite

theorem State.endSlots_keeps {a} {x0 x1 x2 x3} (h : Keeps a x0) :
    Keeps a (State.endSlots x0 x1 x2 x3) := by
  induction x3 generalizing x0 x1 x2 with
  | zero =>
    unfold State.endSlots
    repeat' first
      | with_reducible assumption
  | succ n ih =>
    unfold State.endSlots
    repeat' first
      | with_reducible assumption
      | with_reducible apply State.endSlot_keeps
      | with_reducible apply ih
      | with_reducible apply Keeps.ite
      | split

theorem State.closeSlots_keeps {a} {x0 x1 x2} (h : Keeps a x0) :
    Keeps a (State.closeSlots x0 x1 x2) := by
  unfold State.closeSlots
  repeat' first
    | with_reducible assumption
    | with_reducible apply State.endSlots_keeps
    | split

theorem State.arrive_keeps {a} {x0 x1 x2} (h : Keeps a x0) :
    Keeps a (State.arrive x0 x1 x2) := by
  unfold State.arrive
  repeat' first
    | with_reducible assumption
    | with_reducible apply State.tally_keeps
    | with_reducible apply State.setBar_keeps
    | with_reducible apply State.closeSlots_keeps
    | with_reducible apply State.updCtx_keeps
    | (extract_lets +onlyGivenNames v; refine Keeps.cut (a := a) (x := v) ?_ (fun hv => ?_); subst v; rotate_left; clear_value v; rotate_left)
    | (extract_lets +onlyGivenNames v; clear_value v)
    | with_reducible apply Keeps.ite

theorem State.pace_keeps {a} {x0 x1} (h : Keeps a x0) :
    Keeps a (State.pace x0 x1) := by
  unfold State.pace
  repeat' first
    | with_reducible assumption
    | with_reducible apply State.setCtx_keeps
    | with_reducible apply State.arrive_keeps
    | (extract_lets +onlyGivenNames v; refine Keeps.cut (a := a) (x := v) ?_ (fun hv => ?_); subst v; rotate_left; clear_value v; rotate_left)
    | (extract_lets +onlyGivenNames v; clear_value v)
    | with_reducible apply Keeps.ite
    | split

theorem checkBarrier_keeps {x0 x1 x2}  :
    OkP NoteKeeps (checkBarrier x0 x1 x2) := by
  unfold checkBarrier
  repeat' first
    | (extract_lets +onlyGivenNames v; clear_value v)
    | with_reducible apply OkP.ok
    | split
    | exact NoteKeeps.of_id rfl

theorem startBarrier_keeps {a} {x0 x1 x2} (h : Keeps a x2) :
    Keeps a (startBarrier x0 x1 x2) := by
  unfold startBarrier
  repeat' first
    | with_reducible assumption
    | with_reducible apply State.finish_keeps
    | with_reducible apply State.setBar_keeps

end Sys2Proof.Machine
end

