-- ==== Sys2Proof/Laws/KeepsCommit.lean ====
section
/-! SUPPORT. The operations of `Machine/Commit.lean` keep what no command disturbs. -/

namespace Sys2Proof.Machine


theorem State.commitItem_keeps {a} {x0 x1 x2 x3} (h : Keeps a x0) :
    Keeps a (State.commitItem x0 x1 x2 x3) := by
  unfold State.commitItem
  repeat' first
    | with_reducible assumption
    | with_reducible apply State.log_keeps
    | with_reducible apply State.failItem_keeps
    | with_reducible apply State.countDenied_keeps
    | with_reducible apply State.updCtx_keeps
    | with_reducible apply State.itemRec_keeps
    | with_reducible apply State.setItem_keeps
    | with_reducible apply State.dropItem_keeps
    | (extract_lets +onlyGivenNames v; refine Keeps.cut (a := a) (x := v) ?_ (fun hv => ?_); subst v; rotate_left; clear_value v; rotate_left)
    | (extract_lets +onlyGivenNames v; clear_value v)
    | with_reducible apply Keeps.ite

theorem State.endProgram_keeps {a} {x0 x1} (h : Keeps a x0) :
    Keeps a (State.endProgram x0 x1) := by
  unfold State.endProgram
  repeat' first
    | with_reducible assumption
    | with_reducible apply State.setEngine_keeps
    | with_reducible apply State.commitItem_keeps
    | with_reducible apply State.releaseDemand_keeps
    | with_reducible apply State.activate_keeps
    | (extract_lets +onlyGivenNames v; refine Keeps.cut (a := a) (x := v) ?_ (fun hv => ?_); subst v; rotate_left; clear_value v; rotate_left)
    | (extract_lets +onlyGivenNames v; clear_value v)
    | with_reducible apply Keeps.ite
    | split

end Sys2Proof.Machine
end

