-- ==== Sys2Proof/Laws/KeepsFlags.lean ====
section
/-! SUPPORT. The operations of `Machine/Flags.lean` keep what no command disturbs. -/

namespace Sys2Proof.Machine


theorem State.clearFlags_keeps {a} {x0 x1 x2 x3} (h : Keeps a x0) :
    Keeps a (State.clearFlags x0 x1 x2 x3) := by
  unfold State.clearFlags
  repeat' first
    | with_reducible assumption
    | with_reducible apply State.wr_keeps
    | split

end Sys2Proof.Machine
end

