-- ==== Sys2Proof/Laws/KeepsDictionary.lean ====
section
/-! SUPPORT. The operations of `Machine/Dictionary.lean` keep what no command disturbs. -/

namespace Sys2Proof.Machine


theorem settle_keeps {a} {x0} (h : Keeps a x0.2) :
    Keeps a (settle x0) := by
  unfold settle
  repeat' first
    | with_reducible assumption
    | with_reducible apply State.tally_keeps
    | split

theorem State.stageElems_keeps {a} {x0 x1 x2 x3} (h : Keeps a x0) :
    Keeps a (State.stageElems x0 x1 x2 x3) := by
  induction x3 generalizing x0 x1 x2 with
  | nil =>
    unfold State.stageElems
    repeat' first
      | with_reducible assumption
  | cons b r ih =>
    unfold State.stageElems
    repeat' first
      | with_reducible assumption
      | with_reducible apply State.wrStaged_keeps
      | with_reducible apply ih

theorem State.writeElems_keeps {a} {x0 x1 x2 x3} (h : Keeps a x0) :
    Keeps a (State.writeElems x0 x1 x2 x3) := by
  induction x3 generalizing x0 x1 x2 with
  | nil =>
    unfold State.writeElems
    repeat' first
      | with_reducible assumption
  | cons b r ih =>
    unfold State.writeElems
    repeat' first
      | with_reducible assumption
      | with_reducible apply State.wr_keeps
      | with_reducible apply ih

theorem State.writeRw_keeps {a} {x0 x1 x2 x3} (h : Keeps a x0) :
    OkP (Keeps a) (State.writeRw x0 x1 x2 x3) := by
  unfold State.writeRw
  repeat' first
    | with_reducible assumption
    | with_reducible apply State.clearFlags_keeps
    | with_reducible apply State.writeElems_keeps
    | with_reducible apply State.fitFetched_keeps
    | (extract_lets +onlyGivenNames v; refine Keeps.cut (a := a) (x := v) ?_ (fun hv => ?_); subst v; rotate_left; clear_value v; rotate_left)
    | with_reducible apply Keeps.ite
    | with_reducible apply OkP.ite
    | with_reducible exact OkP.error
    | with_reducible apply OkP.ok
    | fail_if_no_progress (with_reducible refine Keeps.upd ?_ rfl rfl rfl rfl rfl)
    | split

theorem State.writeEntry_keeps {a} {x0 x1 x2 x3 x4 x5} (h : Keeps a x0) (hf1 : ∀ y0 y1 y2 y3, Keeps a y3 → Keeps a (x1 y0 y1 y2 y3).2) :
    Keeps a (State.writeEntry x0 x1 x2 x3 x4 x5).2 := by
  unfold State.writeEntry
  repeat' first
    | with_reducible assumption
    | with_reducible apply State.stageElems_keeps
    | with_reducible apply State.writeRw_keeps
    | with_reducible apply hf1
    | (with_reducible apply Keeps.ofOk; · with_reducible assumption)
    | (extract_lets +onlyGivenNames v; clear_value v)
    | split

end Sys2Proof.Machine
end

