-- ==== Sys2Proof/Laws/KeepsSample.lean ====
section
/-! SUPPORT. The operations of `Machine/Sample.lean` keep what no command disturbs. -/

namespace Sys2Proof.Machine


theorem checkSample_keeps {x0 x1 x2}  :
    OkP NoteKeeps (checkSample x0 x1 x2) := by
  unfold checkSample
  repeat' first
    | with_reducible apply OkP.pure
    | (with_reducible refine OkP.bind fun _ _ => ?_)
    | exact NoteKeeps.of_id rfl

theorem State.writeSegment_keeps {a} {x0 x1} (h : Keeps a x0) :
    OkP (Keeps a) (State.writeSegment x0 x1) := by
  unfold State.writeSegment
  repeat' first
    | with_reducible assumption
    | with_reducible apply State.vwrite_keeps

theorem State.placeUnit_keeps {a} {x0 x1 x2} (h : Keeps a x0) :
    OkP (fun p => Keeps a p.1) (State.placeUnit x0 x1 x2) := by
  unfold State.placeUnit
  repeat' first
    | with_reducible assumption
    | with_reducible apply State.vwrite_keeps
    | with_reducible apply State.tallyN_keeps
    | (extract_lets +onlyGivenNames v; refine Keeps.cut (a := a) (x := v) ?_ (fun hv => ?_); subst v; rotate_left; clear_value v; rotate_left)
    | (extract_lets +onlyGivenNames v; clear_value v)
    | with_reducible apply OkP.ite
    | with_reducible apply OkP.pure
    | (with_reducible refine OkP.bindS (a := a) ?_ fun _ _ => ?_)
    | split

theorem State.nextSegment_keeps {a} {x0 x1} (h : Keeps a x0) :
    OkP (fun p => Keeps a p.1) (State.nextSegment x0 x1) := by
  unfold State.nextSegment
  repeat' first
    | with_reducible assumption
    | with_reducible apply State.writeSegment_keeps
    | with_reducible apply State.writeHeader_keeps
    | with_reducible apply State.logLast_keeps
    | with_reducible apply State.setItem_keeps
    | with_reducible apply State.count_keeps
    | (extract_lets +onlyGivenNames v; refine Keeps.cut (a := a) (x := v) ?_ (fun hv => ?_); subst v; rotate_left; clear_value v; rotate_left)
    | (extract_lets +onlyGivenNames v; clear_value v)
    | with_reducible apply OkP.pure
    | (with_reducible refine OkP.bindS (a := a) ?_ fun _ _ => ?_)

theorem State.sampleStop_keeps {a} {x0 x1 x2} (h : Keeps a x0) :
    Keeps a (State.sampleStop x0 x1 x2) := by
  unfold State.sampleStop
  repeat' first
    | with_reducible assumption
    | with_reducible apply State.setItem_keeps
    | with_reducible apply State.writeHeader_keeps
    | with_reducible apply State.noteUe_keeps
    | with_reducible apply State.stopItem_keeps
    | (with_reducible apply Keeps.ofOk; · with_reducible assumption)
    | (extract_lets +onlyGivenNames v; refine Keeps.cut (a := a) (x := v) ?_ (fun hv => ?_); subst v; rotate_left; clear_value v; rotate_left)
    | with_reducible apply Keeps.ite
    | split

theorem State.sampleFrom_keeps {a} {x0 x1 x2 x3 x4} (h : Keeps a x0) :
    Keeps a (State.sampleFrom x0 x1 x2 x3 x4) := by
  induction x3 generalizing x0 x1 x2 x4 with
  | zero =>
    unfold State.sampleFrom
    repeat' first
      | with_reducible assumption
      | with_reducible apply State.setItem_keeps
  | succ n ih =>
    unfold State.sampleFrom
    repeat' first
      | with_reducible assumption
      | with_reducible apply State.setItem_keeps
      | with_reducible apply State.finish_keeps
      | with_reducible apply State.sampleStop_keeps
      | with_reducible apply State.nextSegment_keeps
      | with_reducible apply State.placeUnit_keeps
      | with_reducible apply State.advance_keeps
      | with_reducible apply ih
      | (with_reducible apply Keeps.ofOkFst; · with_reducible assumption)
      | (extract_lets +onlyGivenNames v; refine Keeps.cut (a := a) (x := v) ?_ (fun hv => ?_); subst v; rotate_left; clear_value v; rotate_left)
      | (extract_lets +onlyGivenNames v; (have _w : Except _ _ := v); subst v)
      | (extract_lets +onlyGivenNames v; clear_value v)
      | with_reducible apply Keeps.ite
      | with_reducible apply OkP.ite
      | with_reducible apply OkP.ok
      | split

theorem workSample_keeps {a} {x0 x1} (h : Keeps a x1) :
    Keeps a (workSample x0 x1) := by
  unfold workSample
  repeat' first
    | with_reducible assumption
    | with_reducible apply State.sampleStop_keeps
    | with_reducible apply State.writeHeader_keeps
    | with_reducible apply State.sampleFrom_keeps
    | (with_reducible apply Keeps.ofOk; · with_reducible assumption)
    | (extract_lets +onlyGivenNames v; clear_value v)
    | split

theorem State.sealSample_keeps {a} {x0 x1} (h : Keeps a x0) :
    OkP (Keeps a) (State.sealSample x0 x1) := by
  unfold State.sealSample
  repeat' first
    | with_reducible assumption
    | with_reducible apply State.writeSegment_keeps
    | with_reducible apply State.writeHeader_keeps
    | (with_reducible refine OkP.bindS (a := a) ?_ fun _ _ => ?_)

end Sys2Proof.Machine
end

