-- ==== Sys2Proof/Laws/KeepsTile.lean ====
section
/-! SUPPORT. The operations of `Machine/Tile.lean` keep what no command disturbs. -/

namespace Sys2Proof.Machine


theorem checkTile_keeps {x0 x1 x2}  :
    OkP NoteKeeps (checkTile x0 x1 x2) := by
  unfold checkTile
  repeat' first
    | (extract_lets +onlyGivenNames v; clear_value v)
    | with_reducible apply OkP.pure
    | (with_reducible refine OkP.bind fun _ _ => ?_)
    | exact NoteKeeps.of_id rfl

theorem State.twrite_keeps {a} {x0 x1 x2 x3} (h : Keeps a x0) :
    OkP (Keeps a) (State.twrite x0 x1 x2 x3) := by
  unfold State.twrite
  repeat' first
    | with_reducible assumption
    | with_reducible apply State.writeHeld_keeps

theorem State.drainCount_keeps {a} {x0 x1 x2} (h : Keeps a x0) :
    Keeps a (State.drainCount x0 x1 x2) := by
  unfold State.drainCount
  repeat' first
    | with_reducible assumption
    | with_reducible apply State.precCount_keeps
    | with_reducible apply State.tallyN_keeps
    | with_reducible apply State.setFlag_keeps
    | (extract_lets +onlyGivenNames v; refine Keeps.cut (a := a) (x := v) ?_ (fun hv => ?_); subst v; rotate_left; clear_value v; rotate_left)
    | with_reducible apply Keeps.ite
    | (with_reducible refine Keeps.fold (fun _ _ _ => ?_) _ ?_)

theorem State.writeRows_keeps {a} {x0 x1 x2 x3 x4 x5} (h : Keeps a x0) :
    OkP (Keeps a) (State.writeRows x0 x1 x2 x3 x4 x5) := by
  unfold State.writeRows
  repeat' first
    | with_reducible assumption
    | with_reducible apply State.twrite_keeps
    | (extract_lets +onlyGivenNames v; clear_value v)
    | with_reducible apply OkP.ite
    | with_reducible apply OkP.ok
    | (with_reducible refine OkP.foldS (fun _ _ _ => ?_) _ ?_)

theorem State.drain_keeps {a} {x0 x1 x2 x3 x4 x5 x6 x7} (h : Keeps a x0) :
    OkP (fun p => Keeps a p.1) (State.drain x0 x1 x2 x3 x4 x5 x6 x7) := by
  unfold State.drain
  repeat' first
    | with_reducible assumption
    | with_reducible apply State.writeRows_keeps
    | with_reducible apply State.twrite_keeps
    | (extract_lets +onlyGivenNames v; clear_value v)
    | with_reducible apply OkP.ite
    | with_reducible apply OkP.pure
    | (with_reducible refine OkP.bindS (a := a) ?_ fun _ _ => ?_)
    | (with_reducible refine OkP.bindP (a := a) ?_ fun _ _ => ?_)
    | (with_reducible refine OkP.bind fun _ _ => ?_)
    | (with_reducible refine OkP.foldP (fun _ _ _ => ?_) _ ?_)

theorem State.feedCore_keeps {a} {x0 x1 x2 x3 x4 x5 x6} (h : Keeps a x0) :
    Keeps a (State.feedCore x0 x1 x2 x3 x4 x5 x6).1 := by
  induction x5 generalizing x0 x1 x2 x3 x4 x6 with
  | zero =>
    unfold State.feedCore
    repeat' first
      | with_reducible assumption
  | succ n ih =>
    unfold State.feedCore
    repeat' first
      | with_reducible assumption
      | with_reducible apply State.setQueue_keeps
      | with_reducible apply ih
      | (extract_lets +onlyGivenNames v; clear_value v)
      | split

theorem State.feedStream_keeps {a} {x0 x1 x2 x3 x4 x5 x6 x7} (h : Keeps a x0) :
    Keeps a (State.feedStream x0 x1 x2 x3 x4 x5 x6 x7).1 := by
  induction x6 generalizing x0 x1 x2 x3 x4 x5 x7 with
  | zero =>
    unfold State.feedStream
    repeat' first
      | with_reducible assumption
  | succ n ih =>
    unfold State.feedStream
    repeat' first
      | with_reducible assumption
      | with_reducible apply State.feedCore_keeps
      | with_reducible apply State.tallyN_keeps
      | with_reducible apply State.pumpQueue_keeps
      | with_reducible apply ih
      | (with_reducible apply Keeps.ofFst; · with_reducible assumption)
      | (extract_lets +onlyGivenNames v; refine Keeps.cut (a := a) (x := v) ?_ (fun hv => ?_); subst v; rotate_left; clear_value v; rotate_left)
      | split

theorem State.loadLines_keeps {a} {x0 x1 x2 x3 x4 x5} (h : Keeps a x0) :
    OkP (fun p => Keeps a p.1) (State.loadLines x0 x1 x2 x3 x4 x5) := by
  induction x4 generalizing x0 x1 x2 x3 x5 with
  | zero =>
    unfold State.loadLines
    repeat' first
      | with_reducible assumption
      | with_reducible apply OkP.ok
  | succ n ih =>
    unfold State.loadLines
    repeat' first
      | with_reducible assumption
      | with_reducible apply State.deliverTo_keeps
      | with_reducible apply ih
      | (extract_lets +onlyGivenNames v; refine Keeps.cut (a := a) (x := v) ?_ (fun hv => ?_); subst v; rotate_left; clear_value v; rotate_left)
      | (extract_lets +onlyGivenNames v; clear_value v)
      | with_reducible apply OkP.ite
      | with_reducible apply OkP.ok
      | (with_reducible refine OkP.bind fun _ _ => ?_)
      | (with_reducible refine Keeps.fold (fun _ _ _ => ?_) _ ?_)
      | split

theorem State.loadBand_keeps {a} {x0 x1 x2 x3} (h : Keeps a x0) :
    OkP (Keeps a) (State.loadBand x0 x1 x2 x3) := by
  unfold State.loadBand
  repeat' first
    | with_reducible assumption
    | with_reducible apply State.loadLines_keeps
    | with_reducible apply State.setItem_keeps
    | (extract_lets +onlyGivenNames v; clear_value v)
    | with_reducible apply OkP.pure
    | (with_reducible refine OkP.bindP (a := a) ?_ fun _ _ => ?_)

theorem State.feedLoad_keeps {a} {x0 x1 x2 x3 x4 x5 x6} (h : Keeps a x0) :
    OkP (fun p => Keeps a p.1) (State.feedLoad x0 x1 x2 x3 x4 x5 x6) := by
  induction x5 generalizing x0 x1 x2 x3 x4 x6 with
  | zero =>
    unfold State.feedLoad
    repeat' first
      | with_reducible assumption
      | with_reducible apply OkP.ok
  | succ n ih =>
    unfold State.feedLoad
    repeat' first
      | with_reducible assumption
      | with_reducible apply State.loadBand_keeps
      | with_reducible apply State.feedCore_keeps
      | with_reducible apply State.tallyN_keeps
      | with_reducible apply ih
      | with_reducible apply OkP.ite
      | with_reducible apply OkP.pure
      | (with_reducible refine OkP.bindS (a := a) ?_ fun _ _ => ?_)

theorem State.feed_keeps {a} {x0 x1 x2 x3} (h : Keeps a x0) :
    OkP (fun p => Keeps a p.1) (State.feed x0 x1 x2 x3) := by
  unfold State.feed
  repeat' first
    | with_reducible assumption
    | with_reducible apply State.feedStream_keeps
    | with_reducible apply State.feedLoad_keeps
    | (extract_lets +onlyGivenNames v; clear_value v)
    | with_reducible apply OkP.ite
    | with_reducible apply OkP.ok
    | with_reducible apply OkP.pure
    | (with_reducible refine OkP.bindP (a := a) ?_ fun _ _ => ?_)

theorem State.abortMissed_keeps {a} {x0 x1} (h : Keeps a x0) :
    Keeps a (State.abortMissed x0 x1) := by
  unfold State.abortMissed
  repeat' first
    | with_reducible assumption
    | with_reducible apply State.abortItem_keeps
    | split

theorem State.deadlineMiss_keeps {a} {x0 x1 x2 x3 x4 x5} (h : Keeps a x0) :
    Keeps a (State.deadlineMiss x0 x1 x2 x3 x4 x5) := by
  unfold State.deadlineMiss
  repeat' first
    | with_reducible assumption
    | with_reducible apply State.wrN_keeps
    | with_reducible apply State.tally_keeps
    | with_reducible apply State.abortMissed_keeps
    | with_reducible apply State.stopPartition_keeps
    | (extract_lets +onlyGivenNames v; refine Keeps.cut (a := a) (x := v) ?_ (fun hv => ?_); subst v; rotate_left; clear_value v; rotate_left)
    | (extract_lets +onlyGivenNames v; clear_value v)
    | with_reducible apply Keeps.ite

theorem State.countLoaded_keeps {a} {x0 x1 x2 x3 x4} (h : Keeps a x0) :
    Keeps a (State.countLoaded x0 x1 x2 x3 x4) := by
  unfold State.countLoaded
  repeat' first
    | with_reducible assumption
    | with_reducible apply State.setItem_keeps
    | with_reducible apply State.tallyN_keeps
    | (extract_lets +onlyGivenNames v; refine Keeps.cut (a := a) (x := v) ?_ (fun hv => ?_); subst v; rotate_left; clear_value v; rotate_left)
    | (extract_lets +onlyGivenNames v; clear_value v)
    | with_reducible apply Keeps.ite
    | split

theorem State.loadShadow_keeps {a} {x0 x1 x2 x3 x4} (h : Keeps a x0) :
    OkP (Keeps a) (State.loadShadow x0 x1 x2 x3 x4) := by
  unfold State.loadShadow
  repeat' first
    | with_reducible assumption
    | with_reducible apply State.countLoaded_keeps
    | with_reducible apply State.setArray_keeps
    | (extract_lets +onlyGivenNames v; clear_value v)
    | with_reducible apply OkP.pure
    | (with_reducible refine OkP.bind fun _ _ => ?_)

theorem State.startPass_keeps {a} {x0 x1 x2 x3} (h : Keeps a x0) :
    OkP (Keeps a) (State.startPass x0 x1 x2 x3) := by
  unfold State.startPass
  repeat' first
    | with_reducible assumption
    | with_reducible apply State.loadShadow_keeps
    | with_reducible apply State.setArray_keeps
    | (extract_lets +onlyGivenNames v; refine Keeps.cut (a := a) (x := v) ?_ (fun hv => ?_); subst v; rotate_left; clear_value v; rotate_left)
    | with_reducible apply OkP.ite
    | with_reducible apply OkP.pure
    | (with_reducible refine OkP.bindS (a := a) ?_ fun _ _ => ?_)
    | (with_reducible refine OkP.bind fun _ _ => ?_)

theorem State.decide__keeps {a} {x0 x1 x2 x3} (h : Keeps a x0) :
    OkP (fun p => Keeps a p.1) (State.decide_ x0 x1 x2 x3) := by
  unfold State.decide_
  repeat' first
    | with_reducible assumption
    | with_reducible apply State.startPass_keeps
    | with_reducible apply State.setArray_keeps
    | with_reducible apply State.setQueue_keeps
    | (extract_lets +onlyGivenNames v; refine Keeps.cut (a := a) (x := v) ?_ (fun hv => ?_); subst v; rotate_left; clear_value v; rotate_left)
    | (extract_lets +onlyGivenNames v; clear_value v)
    | with_reducible apply Keeps.ite
    | with_reducible apply OkP.ite
    | with_reducible apply OkP.pure
    | (with_reducible refine OkP.bindS (a := a) ?_ fun _ _ => ?_)
    | (with_reducible refine OkP.bind fun _ _ => ?_)

theorem State.expand_keeps {a} {x0 x1 x2 x3} (h : Keeps a x0) :
    OkP (Keeps a) (State.expand x0 x1 x2 x3) := by
  unfold State.expand
  repeat' first
    | with_reducible assumption
    | with_reducible apply State.setArray_keeps
    | (extract_lets +onlyGivenNames v; clear_value v)
    | with_reducible apply OkP.ite
    | with_reducible apply OkP.pure
    | (with_reducible refine OkP.bind fun _ _ => ?_)

theorem State.runPass_keeps {a} {x0 x1 x2 x3} (h : Keeps a x0) :
    Keeps a (State.runPass x0 x1 x2 x3) := by
  unfold State.runPass
  repeat' first
    | with_reducible assumption
    | with_reducible apply State.setArray_keeps

theorem State.releasePass_keeps {a} {x0 x1} (h : Keeps a x0) :
    Keeps a (State.releasePass x0 x1) := by
  unfold State.releasePass
  repeat' first
    | with_reducible assumption
    | with_reducible apply State.setArray_keeps

theorem State.engineMove_keeps {a} {x0 x1 x2 x3} (h : Keeps a x0) :
    OkP (fun p => Keeps a p.1) (State.engineMove x0 x1 x2 x3) := by
  unfold State.engineMove
  repeat' first
    | with_reducible assumption
    | with_reducible apply State.decide__keeps
    | with_reducible apply State.feed_keeps
    | with_reducible apply State.expand_keeps
    | with_reducible apply State.runPass_keeps
    | with_reducible apply State.releasePass_keeps
    | (extract_lets +onlyGivenNames v; refine Keeps.cut (a := a) (x := v) ?_ (fun hv => ?_); subst v; rotate_left; clear_value v; rotate_left)
    | with_reducible apply OkP.ite
    | with_reducible apply OkP.ok
    | with_reducible apply OkP.pure
    | (with_reducible refine OkP.bindS (a := a) ?_ fun _ _ => ?_)
    | (with_reducible refine OkP.bindP (a := a) ?_ fun _ _ => ?_)
    | split

theorem State.engineRun_keeps {a} {x0 x1 x2 x3 x4} (h : Keeps a x0) :
    OkP (fun p => Keeps a p.1) (State.engineRun x0 x1 x2 x3 x4) := by
  induction x3 generalizing x0 x1 x2 x4 with
  | zero =>
    unfold State.engineRun
    repeat' first
      | with_reducible assumption
      | with_reducible apply OkP.ok
  | succ n ih =>
    unfold State.engineRun
    repeat' first
      | with_reducible assumption
      | with_reducible apply State.engineMove_keeps
      | with_reducible apply ih
      | with_reducible apply OkP.ite
      | with_reducible apply OkP.ok
      | with_reducible apply OkP.pure
      | (with_reducible refine OkP.bindP (a := a) ?_ fun _ _ => ?_)

theorem State.showTile_keeps {a} {x0 x1 x2 x3} (h : Keeps a x0) :
    Keeps a (State.showTile x0 x1 x2 x3) := by
  unfold State.showTile
  repeat' first
    | with_reducible assumption
    | with_reducible apply State.setItem_keeps
    | with_reducible apply State.advance_keeps
    | split

theorem State.drainTile_keeps {a} {x0 x1 x2 x3} (h : Keeps a x0) :
    OkP (Keeps a) (State.drainTile x0 x1 x2 x3) := by
  unfold State.drainTile
  repeat' first
    | with_reducible assumption
    | with_reducible apply State.drain_keeps
    | with_reducible apply State.showTile_keeps
    | with_reducible apply State.drainCount_keeps
    | with_reducible apply OkP.pure
    | (with_reducible refine OkP.bindP (a := a) ?_ fun _ _ => ?_)

theorem State.runEngine_keeps {a} {x0 x1 x2 x3} (h : Keeps a x2) :
    Keeps a (State.runEngine x0 x1 x2 x3) := by
  unfold State.runEngine
  repeat' first
    | with_reducible assumption
    | with_reducible apply State.engineRun_keeps
    | with_reducible apply State.stopItem_keeps
    | with_reducible apply State.setItem_keeps
    | with_reducible apply State.drainTile_keeps
    | (with_reducible apply Keeps.ofOk; · with_reducible assumption)
    | (with_reducible apply Keeps.ofOkFst; · with_reducible assumption)
    | (extract_lets +onlyGivenNames v; refine Keeps.cut (a := a) (x := v) ?_ (fun hv => ?_); subst v; rotate_left; clear_value v; rotate_left)
    | (extract_lets +onlyGivenNames v; clear_value v)
    | with_reducible apply Keeps.ite
    | split

theorem State.startWave_keeps {a} {x0 x1 x2 x3 x4} (h : Keeps a x0) :
    Keeps a (State.startWave x0 x1 x2 x3 x4) := by
  unfold State.startWave
  repeat' first
    | with_reducible assumption
    | with_reducible apply State.stopItem_keeps
    | with_reducible apply State.setItem_keeps
    | (extract_lets +onlyGivenNames v; clear_value v)
    | split

theorem State.tileWaves_keeps {a} {x0 x1 x2 x3} (h : Keeps a x0) :
    Keeps a (State.tileWaves x0 x1 x2 x3) := by
  induction x3 generalizing x0 x1 x2 with
  | zero =>
    unfold State.tileWaves
    repeat' first
      | with_reducible assumption
  | succ n ih =>
    unfold State.tileWaves
    repeat' first
      | with_reducible assumption
      | with_reducible apply State.finish_keeps
      | with_reducible apply State.startWave_keeps
      | with_reducible apply State.setItem_keeps
      | with_reducible apply State.runEngine_keeps
      | with_reducible apply State.deadlineMiss_keeps
      | with_reducible apply ih
      | (extract_lets +onlyGivenNames v; refine Keeps.cut (a := a) (x := v) ?_ (fun hv => ?_); subst v; rotate_left; clear_value v; rotate_left)
      | (extract_lets +onlyGivenNames v; clear_value v)
      | with_reducible apply Keeps.ite
      | (with_reducible refine Keeps.fold (fun _ _ _ => ?_) _ ?_)
      | split

theorem workTile_keeps {a} {x0 x1} (h : Keeps a x1) :
    Keeps a (workTile x0 x1) := by
  unfold workTile
  repeat' first
    | with_reducible assumption
    | with_reducible apply State.tileWaves_keeps

theorem startTile_keeps {a} {x0 x1} (h : Keeps a x1) :
    Keeps a (startTile x0 x1) := by
  unfold startTile
  repeat' first
    | with_reducible assumption
    | with_reducible apply State.stopItem_keeps
    | with_reducible apply workTile_keeps
    | with_reducible apply State.setItem_keeps
    | (extract_lets +onlyGivenNames v; clear_value v)
    | split

theorem State.countVerify_keeps {a} {x0 x1 x2 x3 x4} (h : Keeps a x0) :
    Keeps a (State.countVerify x0 x1 x2 x3 x4) := by
  unfold State.countVerify
  repeat' first
    | with_reducible assumption
    | with_reducible apply State.tallyN_keeps

theorem State.verifyRun_keeps {a} {x0 x1 x2 x3 x4} (h : Keeps a x0) :
    OkP (Keeps a) (State.verifyRun x0 x1 x2 x3 x4) := by
  unfold State.verifyRun
  repeat' first
    | with_reducible assumption
    | with_reducible apply State.countVerify_keeps
    | with_reducible apply State.setQueue_keeps
    | with_reducible apply State.releasePass_keeps
    | with_reducible apply State.setItem_keeps
    | with_reducible apply State.setArray_keeps
    | (extract_lets +onlyGivenNames v; refine Keeps.cut (a := a) (x := v) ?_ (fun hv => ?_); subst v; rotate_left; clear_value v; rotate_left)
    | (extract_lets +onlyGivenNames v; clear_value v)
    | with_reducible apply Keeps.ite
    | with_reducible apply OkP.ite
    | with_reducible apply OkP.pure
    | (with_reducible refine OkP.bind fun _ _ => ?_)

theorem State.verifyPass_keeps {a} {x0 x1 x2 x3} (h : Keeps a x0) :
    Keeps a (State.verifyPass x0 x1 x2 x3) := by
  unfold State.verifyPass
  repeat' first
    | with_reducible assumption
    | with_reducible apply State.verifyRun_keeps
    | with_reducible apply State.stopItem_keeps
    | (with_reducible apply Keeps.ofOk; · with_reducible assumption)
    | (extract_lets +onlyGivenNames v; clear_value v)
    | with_reducible apply Keeps.ite
    | split

theorem State.compared_keeps {a} {x0 x1 x2} (h : Keeps a x0) :
    Keeps a (State.compared x0 x1 x2) := by
  unfold State.compared
  repeat' first
    | with_reducible assumption
    | with_reducible apply State.count_keeps
    | with_reducible apply State.raise_keeps
    | with_reducible apply State.tally_keeps
    | with_reducible apply State.wr_keeps
    | (extract_lets +onlyGivenNames v; refine Keeps.cut (a := a) (x := v) ?_ (fun hv => ?_); subst v; rotate_left; clear_value v; rotate_left)
    | (extract_lets +onlyGivenNames v; clear_value v)
    | with_reducible apply Keeps.ite
    | split

theorem State.checked_keeps {a} {x0 x1 x2 x3} (h : Keeps a x0) :
    Keeps a (State.checked x0 x1 x2 x3) := by
  unfold State.checked
  repeat' first
    | with_reducible assumption
    | with_reducible apply State.setItem_keeps
    | with_reducible apply State.compared_keeps
    | with_reducible apply workTile_keeps
    | (extract_lets +onlyGivenNames v; refine Keeps.cut (a := a) (x := v) ?_ (fun hv => ?_); subst v; rotate_left; clear_value v; rotate_left)
    | (extract_lets +onlyGivenNames v; clear_value v)
    | with_reducible apply Keeps.ite

theorem State.compareTile_keeps {a} {x0 x1 x2} (h : Keeps a x0) :
    Keeps a (State.compareTile x0 x1 x2) := by
  unfold State.compareTile
  repeat' first
    | with_reducible assumption
    | with_reducible apply State.stopItem_keeps
    | with_reducible apply State.checked_keeps
    | (extract_lets +onlyGivenNames v; clear_value v)
    | split

end Sys2Proof.Machine
end

