-- ==== Sys2Proof/Laws/KeepsCollect.lean ====
section
/-! SUPPORT. The operations of `Machine/Collect.lean` keep what no command disturbs. -/

namespace Sys2Proof.Machine


theorem State.setResid_keeps {a} {x0 x1 x2 x3 x4} (h : Keeps a x0) :
    OkP (Keeps a) (State.setResid x0 x1 x2 x3 x4) := by
  unfold State.setResid
  repeat' first
    | with_reducible assumption
    | with_reducible apply State.vwrite_keeps

theorem State.setSlot_keeps {a} {x0 x1 x2 x3 x4} (h : Keeps a x0) :
    OkP (Keeps a) (State.setSlot x0 x1 x2 x3 x4) := by
  unfold State.setSlot
  repeat' first
    | with_reducible assumption
    | with_reducible apply State.vwrite_keeps
    | (extract_lets +onlyGivenNames v; clear_value v)
    | (with_reducible refine OkP.bind fun _ _ => ?_)

theorem State.lookUp_keeps {a} {x0 x1 x2 x3 x4} (h : Keeps a x0) :
    OkP (fun p => Keeps a p.1) (State.lookUp x0 x1 x2 x3 x4) := by
  unfold State.lookUp
  repeat' first
    | with_reducible assumption
    | with_reducible apply State.count_keeps
    | with_reducible apply OkP.ite
    | with_reducible apply OkP.pure
    | (with_reducible refine OkP.bind fun _ _ => ?_)

theorem State.lookUpIndex_keeps {a} {x0 x1 x2 x3 x4} (h : Keeps a x0) :
    OkP (fun p => Keeps a p.1) (State.lookUpIndex x0 x1 x2 x3 x4) := by
  unfold State.lookUpIndex
  repeat' first
    | with_reducible assumption
    | with_reducible apply State.lookUp_keeps
    | (extract_lets +onlyGivenNames v; clear_value v)
    | with_reducible apply OkP.ok
    | with_reducible apply OkP.pure
    | (with_reducible refine OkP.bindP (a := a) ?_ fun _ _ => ?_)
    | split

theorem State.setPend_keeps {a} {x0 x1} (h : Keeps a x0) :
    Keeps a (State.setPend x0 x1) := by
  unfold State.setPend
  repeat' first
    | with_reducible assumption
    | with_reducible apply State.wrN_keeps
    | (extract_lets +onlyGivenNames v; refine Keeps.cut (a := a) (x := v) ?_ (fun hv => ?_); subst v; rotate_left; clear_value v; rotate_left)
    | (with_reducible refine Keeps.fold (fun _ _ _ => ?_) _ ?_)
    | fail_if_no_progress (with_reducible refine Keeps.upd ?_ rfl rfl rfl rfl rfl)

theorem State.dropPend_keeps {a} {x0 x1 x2 x3} (h : Keeps a x0) :
    Keeps a (State.dropPend x0 x1 x2 x3) := by
  unfold State.dropPend
  repeat' first
    | with_reducible assumption
    | with_reducible apply State.setPend_keeps

theorem State.addPend_keeps {a} {x0 x1 x2 x3 x4} (h : Keeps a x0) :
    Keeps a (State.addPend x0 x1 x2 x3 x4) := by
  unfold State.addPend
  repeat' first
    | with_reducible assumption
    | with_reducible apply State.setPend_keeps

theorem checkMigrate_keeps {x0 x1 x2}  :
    OkP NoteKeeps (checkMigrate x0 x1 x2) := by
  unfold checkMigrate
  repeat' first
    | with_reducible apply OkP.pure
    | (with_reducible refine OkP.bind fun _ _ => ?_)
    | exact NoteKeeps.of_id rfl

theorem State.startCopy_keeps {a} {x0 x1 x2 x3} (h : Keeps a x0) :
    OkP (fun p => Keeps a p.1) (State.startCopy x0 x1 x2 x3) := by
  unfold State.startCopy
  repeat' first
    | with_reducible assumption
    | with_reducible apply State.tally_keeps
    | with_reducible apply State.freeW_keeps
    | with_reducible apply State.setSlot_keeps
    | with_reducible apply State.setResid_keeps
    | with_reducible apply State.addPend_keeps
    | (extract_lets +onlyGivenNames v; clear_value v)
    | with_reducible apply OkP.ite
    | with_reducible apply OkP.pure
    | (with_reducible refine OkP.bindS (a := a) ?_ fun _ _ => ?_)
    | (with_reducible refine OkP.bind fun _ _ => ?_)

theorem State.loadRow_keeps {a} {x0 x1 x2 x3} (h : Keeps a x0) :
    OkP (fun p => Keeps a p.1) (State.loadRow x0 x1 x2 x3) := by
  unfold State.loadRow
  repeat' first
    | with_reducible assumption
    | with_reducible apply State.startCopy_keeps
    | with_reducible apply State.setResid_keeps
    | with_reducible apply State.setPend_keeps
    | with_reducible apply State.dropPend_keeps
    | (extract_lets +onlyGivenNames v; clear_value v)
    | with_reducible apply OkP.ok
    | with_reducible apply OkP.pure
    | (with_reducible refine OkP.bindS (a := a) ?_ fun _ _ => ?_)
    | (with_reducible refine OkP.bind fun _ _ => ?_)
    | split

theorem State.evictRow_keeps {a} {x0 x1 x2 x3} (h : Keeps a x0) :
    OkP (fun p => Keeps a p.1) (State.evictRow x0 x1 x2 x3) := by
  unfold State.evictRow
  repeat' first
    | with_reducible assumption
    | with_reducible apply State.setSlot_keeps
    | with_reducible apply State.setResid_keeps
    | with_reducible apply State.dropPend_keeps
    | with_reducible apply State.addPend_keeps
    | (extract_lets +onlyGivenNames v; clear_value v)
    | with_reducible apply OkP.ite
    | with_reducible apply OkP.ok
    | with_reducible apply OkP.pure
    | (with_reducible refine OkP.bindS (a := a) ?_ fun _ _ => ?_)
    | (with_reducible refine OkP.bind fun _ _ => ?_)
    | split

theorem State.migrateFrom_keeps {a} {x0 x1 x2 x3} (h : Keeps a x0) :
    Keeps a (State.migrateFrom x0 x1 x2 x3) := by
  induction x3 generalizing x0 x1 x2 with
  | zero =>
    unfold State.migrateFrom
    repeat' first
      | with_reducible assumption
  | succ n ih =>
    unfold State.migrateFrom
    repeat' first
      | with_reducible assumption
      | with_reducible apply State.finish_keeps
      | with_reducible apply State.stopItem_keeps
      | with_reducible apply State.advance_keeps
      | with_reducible apply State.setItem_keeps
      | with_reducible apply State.tally_keeps
      | with_reducible apply State.evictRow_keeps
      | with_reducible apply State.loadRow_keeps
      | with_reducible apply ih
      | (with_reducible apply Keeps.ofOkFst; · with_reducible assumption)
      | (extract_lets +onlyGivenNames v; (have _w : State → State := v); subst v)
      | (extract_lets +onlyGivenNames v; clear_value v)
      | with_reducible apply Keeps.ite
      | with_reducible apply OkP.ite
      | split

theorem workMigrate_keeps {a} {x0 x1} (h : Keeps a x1) :
    Keeps a (workMigrate x0 x1) := by
  unfold workMigrate
  repeat' first
    | with_reducible assumption
    | with_reducible apply State.stopItem_keeps
    | with_reducible apply State.migrateFrom_keeps
    | split

theorem State.copyRow_keeps {a} {x0 x1} (h : Keeps a x0) :
    OkP (Keeps a) (State.copyRow x0 x1) := by
  unfold State.copyRow
  repeat' first
    | with_reducible assumption
    | with_reducible apply State.poke_keeps
    | (extract_lets +onlyGivenNames v; clear_value v)
    | with_reducible apply OkP.pure
    | (with_reducible refine OkP.bind fun _ _ => ?_)

theorem State.copyDone_keeps {a} {x0 x1 x2 x3} (h : Keeps a x0) :
    Keeps a (State.copyDone x0 x1 x2 x3) := by
  unfold State.copyDone
  repeat' first
    | with_reducible assumption
    | with_reducible apply State.copyRow_keeps
    | with_reducible apply State.setResid_keeps
    | with_reducible apply State.stopItem_keeps
    | with_reducible apply State.setItem_keeps
    | with_reducible apply State.noteUe_keeps
    | (with_reducible apply Keeps.ofOk; · with_reducible assumption)
    | (extract_lets +onlyGivenNames v; (have _w : Except _ _ := v); subst v)
    | (extract_lets +onlyGivenNames v; clear_value v)
    | with_reducible apply OkP.ite
    | with_reducible apply OkP.pure
    | (with_reducible refine OkP.bindS (a := a) ?_ fun _ _ => ?_)
    | (with_reducible refine OkP.bind fun _ _ => ?_)
    | split

theorem State.flip_keeps {a} {x0 x1 x2} (h : Keeps a x0) :
    Keeps a (State.flip x0 x1 x2) := by
  unfold State.flip
  repeat' first
    | with_reducible assumption
    | with_reducible apply State.setSlot_keeps
    | with_reducible apply State.setResid_keeps
    | with_reducible apply State.tally_keeps
    | with_reducible apply State.dropPend_keeps
    | with_reducible apply State.copyRow_keeps
    | with_reducible apply State.count_keeps
    | with_reducible apply State.noteUe_keeps
    | (with_reducible apply Keeps.ofOk; · with_reducible assumption)
    | (extract_lets +onlyGivenNames v; (have _w : State → _ → _ → Except _ _ := v); subst v)
    | (extract_lets +onlyGivenNames v; (have _w : Except _ _ := v); subst v)
    | (extract_lets +onlyGivenNames v; clear_value v)
    | with_reducible apply OkP.ite
    | with_reducible apply OkP.pure
    | (with_reducible refine OkP.bindS (a := a) ?_ fun _ _ => ?_)
    | (with_reducible refine OkP.bind fun _ _ => ?_)
    | (with_reducible refine OkP.mapS (a := a) ?_ fun _ _ => ?_)
    | split

theorem State.flipAll_keeps {a} {x0 x1 x2} (h : Keeps a x0) :
    Keeps a (State.flipAll x0 x1 x2) := by
  unfold State.flipAll
  repeat' first
    | with_reducible assumption
    | with_reducible apply State.flip_keeps
    | (with_reducible refine Keeps.fold (fun _ _ _ => ?_) _ ?_)

theorem State.writeRow_keeps {a} {x0 x1 x2 x3 x4 x5} (h : Keeps a x0) :
    OkP (Keeps a) (State.writeRow x0 x1 x2 x3 x4 x5) := by
  unfold State.writeRow
  repeat' first
    | with_reducible assumption
    | with_reducible apply State.vwrite_keeps
    | with_reducible apply State.setResid_keeps
    | with_reducible apply State.tally_keeps
    | with_reducible apply State.poke_keeps
    | with_reducible apply OkP.ok
    | with_reducible apply OkP.pure
    | (with_reducible refine OkP.bindS (a := a) ?_ fun _ _ => ?_)
    | (with_reducible refine OkP.bind fun _ _ => ?_)
    | split

theorem State.allHome_keeps {a} {x0 x1 x2} (h : Keeps a x0) :
    Keeps a (State.allHome x0 x1 x2) := by
  unfold State.allHome
  repeat' first
    | with_reducible assumption
    | with_reducible apply State.setPend_keeps
    | with_reducible apply State.noteUe_keeps
    | with_reducible apply State.vwrite_keeps
    | (with_reducible apply Keeps.ofOk; · with_reducible assumption)
    | (extract_lets +onlyGivenNames v; refine Keeps.cut (a := a) (x := v) ?_ (fun hv => ?_); subst v; rotate_left; clear_value v; rotate_left)
    | (extract_lets +onlyGivenNames v; (have _w : State → _ → _ → State := v); subst v)
    | (extract_lets +onlyGivenNames v; clear_value v)
    | with_reducible apply Keeps.ite
    | (with_reducible refine Keeps.fold (fun _ _ _ => ?_) _ ?_)
    | split

end Sys2Proof.Machine
end

