-- ==== Sys2Proof/Laws/KeepsCheck.lean ====
section
/-! SUPPORT. The operations of `Machine/Check.lean` keep what no command disturbs. -/

namespace Sys2Proof.Machine


theorem State.takeStaged_keeps {a} {x0 x1} (h : Keeps a x0) :
    Keeps a (State.takeStaged x0 x1) := by
  induction x1 generalizing x0 with
  | nil =>
    unfold State.takeStaged
    repeat' first
      | with_reducible assumption
  | cons b r ih =>
    unfold State.takeStaged
    repeat' first
      | with_reducible assumption
      | with_reducible apply ih
      | with_reducible apply Keeps.setRegs

theorem State.candidate_keeps {a} {x0 x1} (h : Keeps a x0) :
    Keeps a (State.candidate x0 x1) := by
  unfold State.candidate
  repeat' first
    | with_reducible assumption
    | with_reducible apply State.takeStaged_keeps

theorem State.runCheck_keeps {a} {x0 x1 x2 x3} (h : Keeps a x0) :
    Keeps a (State.runCheck x0 x1 x2 x3).2 := by
  unfold State.runCheck
  repeat' first
    | with_reducible assumption
    | with_reducible apply State.noteUe_keeps
    | with_reducible apply State.wrBytes_keeps
    | with_reducible apply State.tally_keeps
    | (extract_lets +onlyGivenNames v; refine Keeps.cut (a := a) (x := v) ?_ (fun hv => ?_); subst v; rotate_left; clear_value v; rotate_left)
    | (extract_lets +onlyGivenNames v; clear_value v)
    | with_reducible apply Keeps.ite
    | (with_reducible refine Keeps.fold (fun _ _ _ => ?_) _ ?_)

end Sys2Proof.Machine
end

