-- ==== Sys2Proof/Laws/KeepsVector.lean ====
section
/-! SUPPORT. The operations of `Machine/Vector.lean` keep what no command disturbs. -/

namespace Sys2Proof.Machine


theorem checkVector_keeps {x0 x1 x2}  :
    OkP NoteKeeps (checkVector x0 x1 x2) := by
  unfold checkVector
  repeat' first
    | with_reducible apply BodyCheck.fieldIf_keeps
    | (extract_lets +onlyGivenNames v; clear_value v)
    | with_reducible apply OkP.pure
    | (with_reducible refine OkP.bind fun _ _ => ?_)

theorem State.vecTally_keeps {a} {x0 x1 x2} (h : Keeps a x0) :
    Keeps a (State.vecTally x0 x1 x2) := by
  unfold State.vecTally
  repeat' first
    | with_reducible assumption
    | with_reducible apply State.tallyN_keeps
    | with_reducible apply State.precCount_keeps

theorem State.vectorBlock_keeps {a} {x0 x1 x2 x3} (h : Keeps a x0) :
    OkP (Keeps a) (State.vectorBlock x0 x1 x2 x3) := by
  unfold State.vectorBlock
  repeat' first
    | with_reducible assumption
    | with_reducible apply State.setItem_keeps
    | with_reducible apply State.vwrite_keeps
    | with_reducible apply State.vecTally_keeps
    | (extract_lets +onlyGivenNames v; clear_value v)
    | with_reducible apply OkP.pure
    | (with_reducible refine OkP.bindS (a := a) ?_ fun _ _ => ?_)
    | (with_reducible refine OkP.bind fun _ _ => ?_)
    | split

theorem State.vectorCombine_keeps {a} {x0 x1} (h : Keeps a x0) :
    OkP (Keeps a) (State.vectorCombine x0 x1) := by
  unfold State.vectorCombine
  repeat' first
    | with_reducible assumption
    | with_reducible apply State.vwrite_keeps
    | with_reducible apply State.vecTally_keeps
    | (extract_lets +onlyGivenNames v; clear_value v)
    | with_reducible apply OkP.pure
    | (with_reducible refine OkP.bindS (a := a) ?_ fun _ _ => ?_)
    | (with_reducible refine OkP.bind fun _ _ => ?_)
    | split

theorem State.vectorFrom_keeps {a} {x0 x1 x2 x3} (h : Keeps a x0) :
    Keeps a (State.vectorFrom x0 x1 x2 x3) := by
  induction x3 generalizing x0 x1 x2 with
  | zero =>
    unfold State.vectorFrom
    repeat' first
      | with_reducible assumption
  | succ n ih =>
    unfold State.vectorFrom
    repeat' first
      | with_reducible assumption
      | with_reducible apply State.vectorCombine_keeps
      | with_reducible apply State.stopItem_keeps
      | with_reducible apply State.finish_keeps
      | with_reducible apply State.vectorBlock_keeps
      | with_reducible apply State.advance_keeps
      | with_reducible apply ih
      | (with_reducible apply Keeps.ofOk; · with_reducible assumption)
      | with_reducible apply Keeps.ite
      | split

theorem workVector_keeps {a} {x0 x1} (h : Keeps a x1) :
    Keeps a (workVector x0 x1) := by
  unfold workVector
  repeat' first
    | with_reducible assumption
    | with_reducible apply State.vectorFrom_keeps

end Sys2Proof.Machine
end

