-- ==== Sys2Proof/Laws/KeepsGather.lean ====
section
/-! SUPPORT. The operations of `Machine/Gather.lean` keep what no command disturbs. -/

namespace Sys2Proof.Machine


theorem State.countSplit_keeps {a} {x0 x1 x2 x3} (h : Keeps a x0) :
    Keeps a (State.countSplit x0 x1 x2 x3) := by
  unfold State.countSplit
  repeat' first
    | with_reducible assumption
    | with_reducible apply State.tallyN_keeps
    | with_reducible apply Keeps.ite

theorem checkGather_keeps {x0 x1 x2}  :
    OkP NoteKeeps (checkGather x0 x1 x2) := by
  unfold checkGather
  repeat' first
    | (extract_lets +onlyGivenNames v; clear_value v)
    | with_reducible apply OkP.ite
    | with_reducible apply OkP.pure
    | (with_reducible refine OkP.bind fun _ _ => ?_)
    | exact NoteKeeps.of_id rfl

theorem State.addFetched_keeps {a} {x0 x1} (h : Keeps a x0) :
    Keeps a (State.addFetched x0 x1) := by
  unfold State.addFetched
  repeat' first
    | with_reducible assumption
    | with_reducible apply State.fitFetched_keeps
    | with_reducible apply Keeps.ite
    | fail_if_no_progress (with_reducible refine Keeps.upd ?_ rfl rfl rfl rfl rfl)

theorem State.prefetchRow_keeps {a} {x0 x1 x2 x3} (h : Keeps a x0) :
    Keeps a (State.prefetchRow x0 x1 x2 x3) := by
  unfold State.prefetchRow
  repeat' first
    | with_reducible assumption
    | with_reducible apply State.noteUe_keeps
    | with_reducible apply State.addFetched_keeps
    | (extract_lets +onlyGivenNames v; (have _w : Except _ _ := v); subst v)
    | split

theorem State.prefetch_keeps {a} {x0 x1} (h : Keeps a x0) :
    Keeps a (State.prefetch x0 x1) := by
  unfold State.prefetch
  repeat' first
    | with_reducible assumption
    | with_reducible apply State.noteUe_keeps
    | with_reducible apply State.freeW_keeps
    | with_reducible apply State.prefetchRow_keeps
    | (extract_lets +onlyGivenNames v; clear_value v)
    | with_reducible apply Keeps.ite
    | (with_reducible refine Keeps.fold (fun _ _ _ => ?_) _ ?_)
    | split

theorem State.tableRow_keeps {a} {x0 x1 x2} (h : Keeps a x0) :
    OkP (fun p => Keeps a p.1) (State.tableRow x0 x1 x2) := by
  unfold State.tableRow
  repeat' first
    | with_reducible assumption
    | with_reducible apply State.count_keeps
    | (extract_lets +onlyGivenNames v; clear_value v)
    | with_reducible apply Keeps.ite
    | with_reducible apply OkP.pure
    | (with_reducible refine OkP.bind fun _ _ => ?_)

theorem State.sourceVals_keeps {a} {x0 x1 x2 x3} (h : Keeps a x0) :
    OkP (fun p => Keeps a p.1) (State.sourceVals x0 x1 x2 x3) := by
  unfold State.sourceVals
  repeat' first
    | with_reducible assumption
    | with_reducible apply State.tableRow_keeps
    | with_reducible apply State.lookUpIndex_keeps
    | with_reducible apply OkP.pure
    | (with_reducible refine OkP.bindP (a := a) ?_ fun _ _ => ?_)
    | split

theorem State.sourceBytes_keeps {a} {x0 x1 x2 x3} (h : Keeps a x0) :
    OkP (fun p => Keeps a p.1) (State.sourceBytes x0 x1 x2 x3) := by
  unfold State.sourceBytes
  repeat' first
    | with_reducible assumption
    | with_reducible apply State.tableRow_keeps
    | with_reducible apply State.lookUp_keeps
    | split

theorem State.judged_keeps {a} {x0 x1 x2 x3 x4} (h : Keeps a x0) :
    OkP (fun p => Keeps a p.1) (State.judged x0 x1 x2 x3 x4) := by
  unfold State.judged
  repeat' first
    | with_reducible assumption
    | with_reducible apply State.tallyN_keeps
    | (extract_lets +onlyGivenNames v; refine Keeps.cut (a := a) (x := v) ?_ (fun hv => ?_); subst v; rotate_left; clear_value v; rotate_left)
    | (extract_lets +onlyGivenNames v; clear_value v)
    | with_reducible apply OkP.pure
    | (with_reducible refine OkP.bind fun _ _ => ?_)

theorem State.gatherDest_keeps {a} {x0 x1 x2 x3 x4} (h : Keeps a x0) :
    OkP (Keeps a) (State.gatherDest x0 x1 x2 x3 x4) := by
  unfold State.gatherDest
  repeat' first
    | with_reducible assumption
    | with_reducible apply State.judged_keeps
    | with_reducible apply State.sourceBytes_keeps
    | with_reducible apply State.vwrite_keeps
    | with_reducible apply State.sourceVals_keeps
    | with_reducible apply State.countSplit_keeps
    | with_reducible apply State.tallyN_keeps
    | (extract_lets +onlyGivenNames v; refine Keeps.cut (a := a) (x := v) ?_ (fun hv => ?_); subst v; rotate_left; clear_value v; rotate_left)
    | (extract_lets +onlyGivenNames v; clear_value v)
    | with_reducible apply OkP.ite
    | with_reducible apply OkP.pure
    | (with_reducible refine OkP.bindS (a := a) ?_ fun _ _ => ?_)
    | (with_reducible refine OkP.bindP (a := a) ?_ fun _ _ => ?_)
    | (with_reducible refine OkP.bind fun _ _ => ?_)
    | (with_reducible refine OkP.foldS (fun _ _ _ => ?_) _ ?_)
    | (with_reducible refine OkP.foldP (fun _ _ _ => ?_) _ ?_)
    | split

theorem State.nextInstance_keeps {a} {x0 x1} (h : Keeps a x0) :
    Keeps a (State.nextInstance x0 x1) := by
  unfold State.nextInstance
  repeat' first
    | with_reducible assumption
    | with_reducible apply State.logLast_keeps
    | with_reducible apply State.setItem_keeps

theorem State.startGather_keeps {a} {x0 x1} (h : Keeps a x0) :
    Keeps a (State.startGather x0 x1) := by
  unfold State.startGather
  repeat' first
    | with_reducible assumption
    | with_reducible apply State.log_keeps
    | with_reducible apply State.setItem_keeps
    | with_reducible apply State.failItem_keeps
    | with_reducible apply State.countDenied_keeps
    | (extract_lets +onlyGivenNames v; clear_value v)
    | with_reducible apply Keeps.ite

theorem State.gatherList_keeps {a} {x0 x1 x2 x3 x4} (h : Keeps a x0) :
    Keeps a (State.gatherList x0 x1 x2 x3 x4) := by
  induction x4 generalizing x0 x1 x2 x3 with
  | nil =>
    unfold State.gatherList
    repeat' first
      | with_reducible assumption
  | cons b r ih =>
    unfold State.gatherList
    repeat' first
      | with_reducible assumption
      | with_reducible apply State.gatherDest_keeps
      | with_reducible apply State.stopItem_keeps
      | with_reducible apply State.advance_keeps
      | with_reducible apply ih
      | (with_reducible apply Keeps.ofOk; · with_reducible assumption)
      | with_reducible apply Keeps.ite
      | split

theorem State.gatherSegs_keeps {a} {x0 x1 x2 x3 x4 x5 x6} (h : Keeps a x0) :
    Keeps a (State.gatherSegs x0 x1 x2 x3 x4 x5 x6) := by
  induction x5 generalizing x0 x1 x2 x3 x4 x6 with
  | zero =>
    unfold State.gatherSegs
    repeat' first
      | with_reducible assumption
  | succ n ih =>
    unfold State.gatherSegs
    repeat' first
      | with_reducible assumption
      | with_reducible apply State.finish_keeps
      | with_reducible apply State.prefetch_keeps
      | with_reducible apply State.stopItem_keeps
      | with_reducible apply State.startGather_keeps
      | with_reducible apply State.nextInstance_keeps
      | with_reducible apply State.gatherList_keeps
      | with_reducible apply ih
      | (extract_lets +onlyGivenNames v; refine Keeps.cut (a := a) (x := v) ?_ (fun hv => ?_); subst v; rotate_left; clear_value v; rotate_left)
      | with_reducible apply Keeps.ite
      | split

theorem workGather_keeps {a} {x0 x1} (h : Keeps a x1) :
    Keeps a (workGather x0 x1) := by
  unfold workGather
  repeat' first
    | with_reducible assumption
    | with_reducible apply State.prefetch_keeps
    | with_reducible apply State.stopItem_keeps
    | with_reducible apply State.gatherSegs_keeps
    | (extract_lets +onlyGivenNames v; (have _w : Except _ _ := v); subst v)
    | with_reducible apply Keeps.ite
    | split

theorem State.publish_keeps {a} {x0 x1 x2} (h : Keeps a x0) :
    OkP (Keeps a) (State.publish x0 x1 x2) := by
  unfold State.publish
  repeat' first
    | with_reducible assumption
    | with_reducible apply State.vwrite_keeps
    | (extract_lets +onlyGivenNames v; clear_value v)
    | (with_reducible refine OkP.bindS (a := a) ?_ fun _ _ => ?_)

theorem State.sourceItems_keeps {a} {x0 x1 x2 x3 x4} (h : Keeps a x0) :
    OkP (fun p => Keeps a p.1) (State.sourceItems x0 x1 x2 x3 x4) := by
  unfold State.sourceItems
  repeat' first
    | with_reducible assumption
    | with_reducible apply State.lookUp_keeps
    | (extract_lets +onlyGivenNames v; clear_value v)
    | with_reducible apply OkP.ite
    | with_reducible apply OkP.ok
    | with_reducible apply OkP.pure
    | (with_reducible refine OkP.bindP (a := a) ?_ fun _ _ => ?_)
    | split

theorem State.scatterDest_keeps {a} {x0 x1 x2 x3 x4 x5 x6} (h : Keeps a x0) :
    OkP (fun p => Keeps a p.1) (State.scatterDest x0 x1 x2 x3 x4 x5 x6) := by
  unfold State.scatterDest
  repeat' first
    | with_reducible assumption
    | with_reducible apply State.judged_keeps
    | with_reducible apply State.sourceItems_keeps
    | with_reducible apply State.vwrite_keeps
    | (extract_lets +onlyGivenNames v; clear_value v)
    | with_reducible apply OkP.pure
    | (with_reducible refine OkP.bindS (a := a) ?_ fun _ _ => ?_)
    | (with_reducible refine OkP.bindP (a := a) ?_ fun _ _ => ?_)
    | (with_reducible refine OkP.bind fun _ _ => ?_)
    | (with_reducible refine OkP.foldP (fun _ _ _ => ?_) _ ?_)

theorem State.closeScatter_keeps {a} {x0 x1 x2 x3 x4} (h : Keeps a x0) :
    OkP (fun p => Keeps a p.1) (State.closeScatter x0 x1 x2 x3 x4) := by
  unfold State.closeScatter
  repeat' first
    | with_reducible assumption
    | with_reducible apply State.vwrite_keeps
    | with_reducible apply State.publish_keeps
    | (extract_lets +onlyGivenNames v; clear_value v)
    | with_reducible apply OkP.ite
    | with_reducible apply OkP.pure
    | (with_reducible refine OkP.bindS (a := a) ?_ fun _ _ => ?_)

theorem State.scatterStop_keeps {a} {x0 x1 x2 x3} (h : Keeps a x0) :
    Keeps a (State.scatterStop x0 x1 x2 x3) := by
  unfold State.scatterStop
  repeat' first
    | with_reducible assumption
    | with_reducible apply State.setItem_keeps
    | with_reducible apply State.publish_keeps
    | with_reducible apply State.noteUe_keeps
    | with_reducible apply State.stopItem_keeps
    | (with_reducible apply Keeps.ofOk; · with_reducible assumption)
    | split

theorem State.scatterList_keeps {a} {x0 x1 x2 x3 x4 x5 x6} (h : Keeps a x0) :
    Keeps a (State.scatterList x0 x1 x2 x3 x4 x5 x6) := by
  induction x6 generalizing x0 x1 x2 x3 x4 x5 with
  | nil =>
    unfold State.scatterList
    repeat' first
      | with_reducible assumption
  | cons b r ih =>
    unfold State.scatterList
    repeat' first
      | with_reducible assumption
      | with_reducible apply State.scatterDest_keeps
      | with_reducible apply State.scatterStop_keeps
      | with_reducible apply State.advance_keeps
      | with_reducible apply State.setItem_keeps
      | with_reducible apply ih
      | (with_reducible apply Keeps.ofOkFst; · with_reducible assumption)
      | with_reducible apply Keeps.ite
      | split

theorem State.scatterSegs_keeps {a} {x0 x1 x2 x3 x4 x5 x6 x7} (h : Keeps a x0) :
    Keeps a (State.scatterSegs x0 x1 x2 x3 x4 x5 x6 x7) := by
  induction x6 generalizing x0 x1 x2 x3 x4 x5 x7 with
  | zero =>
    unfold State.scatterSegs
    repeat' first
      | with_reducible assumption
      | with_reducible apply State.finish_keeps
  | succ n ih =>
    unfold State.scatterSegs
    repeat' first
      | with_reducible assumption
      | with_reducible apply State.finish_keeps
      | with_reducible apply State.scatterStop_keeps
      | with_reducible apply State.scatterList_keeps
      | with_reducible apply State.closeScatter_keeps
      | with_reducible apply State.setItem_keeps
      | with_reducible apply State.nextInstance_keeps
      | with_reducible apply ih
      | (with_reducible apply Keeps.ofOkFst; · with_reducible assumption)
      | (extract_lets +onlyGivenNames v; refine Keeps.cut (a := a) (x := v) ?_ (fun hv => ?_); subst v; rotate_left; clear_value v; rotate_left)
      | (extract_lets +onlyGivenNames v; clear_value v)
      | with_reducible apply Keeps.ite
      | split

theorem workScatter_keeps {a} {x0 x1} (h : Keeps a x1) :
    Keeps a (workScatter x0 x1) := by
  unfold workScatter
  repeat' first
    | with_reducible assumption
    | with_reducible apply State.stopItem_keeps
    | with_reducible apply State.updCtx_keeps
    | with_reducible apply State.scatterSegs_keeps
    | (extract_lets +onlyGivenNames v; (have _w : Except _ _ := v); subst v)
    | split

theorem checkCoalesce_keeps {x0 x1 x2}  :
    OkP NoteKeeps (checkCoalesce x0 x1 x2) := by
  unfold checkCoalesce
  repeat' first
    | (extract_lets +onlyGivenNames v; clear_value v)
    | with_reducible apply OkP.pure
    | (with_reducible refine OkP.bind fun _ _ => ?_)
    | exact NoteKeeps.of_id rfl

theorem State.emitRecords_keeps {a} {x0 x1 x2 x3 x4 x5} (h : Keeps a x0) :
    Keeps a (State.emitRecords x0 x1 x2 x3 x4 x5) := by
  induction x4 generalizing x0 x1 x2 x3 x5 with
  | nil =>
    unfold State.emitRecords
    repeat' first
      | with_reducible assumption
  | cons b r ih =>
    unfold State.emitRecords
    repeat' first
      | with_reducible assumption
      | with_reducible apply State.vwrite_keeps
      | with_reducible apply State.stopItem_keeps
      | with_reducible apply State.advance_keeps
      | with_reducible apply State.setItem_keeps
      | with_reducible apply State.count_keeps
      | with_reducible apply ih
      | (with_reducible apply Keeps.ofOk; · with_reducible assumption)
      | (extract_lets +onlyGivenNames v; clear_value v)
      | with_reducible apply Keeps.ite
      | split

theorem State.fillSort_keeps {a} {x0 x1 x2 x3} (h : Keeps a x0) :
    OkP (Keeps a) (State.fillSort x0 x1 x2 x3) := by
  unfold State.fillSort
  repeat' first
    | with_reducible assumption
    | with_reducible apply State.vwrite_keeps
    | with_reducible apply OkP.pure
    | (with_reducible refine OkP.bindS (a := a) ?_ fun _ _ => ?_)
    | with_reducible apply Keeps.addFree

theorem State.mergeSegment_keeps {a} {x0 x1 x2 x3 x4} (h : Keeps a x0) :
    Keeps a (State.mergeSegment x0 x1 x2 x3 x4) := by
  unfold State.mergeSegment
  repeat' first
    | with_reducible assumption
    | with_reducible apply State.tallyN_keeps
    | with_reducible apply State.fillSort_keeps
    | with_reducible apply State.stopItem_keeps
    | with_reducible apply State.emitRecords_keeps
    | with_reducible apply State.vwrite_keeps
    | with_reducible apply State.setItem_keeps
    | (with_reducible apply Keeps.ofOk; · with_reducible assumption)
    | (with_reducible apply Keeps.ofOkFst; · with_reducible assumption)
    | (extract_lets +onlyGivenNames v; refine Keeps.cut (a := a) (x := v) ?_ (fun hv => ?_); subst v; rotate_left; clear_value v; rotate_left)
    | (extract_lets +onlyGivenNames v; (have _w : Except _ _ := v); subst v)
    | (extract_lets +onlyGivenNames v; clear_value v)
    | with_reducible apply Keeps.ite
    | with_reducible apply OkP.ite
    | with_reducible apply OkP.pure
    | (with_reducible refine OkP.bindS (a := a) ?_ fun _ _ => ?_)
    | (with_reducible refine OkP.bind fun _ _ => ?_)
    | (with_reducible refine OkP.mapS (a := a) ?_ fun _ _ => ?_)
    | split

theorem State.mergeFrom_keeps {a} {x0 x1 x2 x3} (h : Keeps a x0) :
    Keeps a (State.mergeFrom x0 x1 x2 x3) := by
  induction x3 generalizing x0 x1 x2 with
  | zero =>
    unfold State.mergeFrom
    repeat' first
      | with_reducible assumption
  | succ n ih =>
    unfold State.mergeFrom
    repeat' first
      | with_reducible assumption
      | with_reducible apply State.stopItem_keeps
      | with_reducible apply State.finish_keeps
      | with_reducible apply State.nextInstance_keeps
      | with_reducible apply State.setItem_keeps
      | with_reducible apply State.mergeSegment_keeps
      | with_reducible apply ih
      | (extract_lets +onlyGivenNames v; refine Keeps.cut (a := a) (x := v) ?_ (fun hv => ?_); subst v; rotate_left; clear_value v; rotate_left)
      | with_reducible apply Keeps.ite
      | split

theorem workCoalesce_keeps {a} {x0 x1} (h : Keeps a x1) :
    Keeps a (workCoalesce x0 x1) := by
  unfold workCoalesce
  repeat' first
    | with_reducible assumption
    | with_reducible apply State.vwrite_keeps
    | with_reducible apply State.stopItem_keeps
    | with_reducible apply State.updCtx_keeps
    | with_reducible apply State.mergeFrom_keeps
    | (with_reducible apply Keeps.ofOkFst; · with_reducible assumption)
    | (extract_lets +onlyGivenNames v; (have _w : Except _ _ := v); subst v)
    | (extract_lets +onlyGivenNames v; clear_value v)
    | with_reducible apply OkP.ite
    | with_reducible apply OkP.pure
    | (with_reducible refine OkP.bindS (a := a) ?_ fun _ _ => ?_)
    | (with_reducible refine OkP.bind fun _ _ => ?_)
    | split

theorem State.sealCoalesce_keeps {a} {x0 x1} (h : Keeps a x0) :
    OkP (Keeps a) (State.sealCoalesce x0 x1) := by
  unfold State.sealCoalesce
  repeat' first
    | with_reducible assumption
    | with_reducible apply State.vwrite_keeps
    | (with_reducible refine OkP.bind fun _ _ => ?_)

end Sys2Proof.Machine
end

