-- ==== Sys2Proof/Laws/KeepsReduce.lean ====
section
/-! SUPPORT. The operations of `Machine/Reduce.lean` keep what no command disturbs. -/

namespace Sys2Proof.Machine

/-- The state that a step of a `REDUCE` leaves, if any, keeps what no command disturbs. -/
def RedKeeps (a : State) : RedStep → Prop
  | .on s => Keeps a s
  | .wait => True
  | .lost s => Keeps a s

theorem RedKeeps.on {a s} (h : Keeps a s) : RedKeeps a (.on s) := h
theorem RedKeeps.lost {a s} (h : Keeps a s) : RedKeeps a (.lost s) := h
theorem RedKeeps.wait {a} : RedKeeps a .wait := trivial
theorem Keeps.ofRedOn {ε : Type} {m : Except ε RedStep} {a t} (e : m = .ok (.on t)) (h : OkP (RedKeeps a) m) : Keeps a t :=
  h _ e
theorem Keeps.ofRedLost {ε : Type} {m : Except ε RedStep} {a t} (e : m = .ok (.lost t)) (h : OkP (RedKeeps a) m) :
    Keeps a t := h _ e

theorem State.passOn_keeps {a} {x0 x1} (h : Keeps a x0) :
    Keeps a (State.passOn x0 x1) := by
  unfold State.passOn
  repeat' first
    | with_reducible assumption
    | with_reducible apply State.treeSend_keeps
    | with_reducible apply State.forward_keeps
    | with_reducible apply Keeps.ite

theorem State.landed_keeps {a} {x0 x1} (h : Keeps a x0) :
    Keeps a (State.landed x0 x1).1 := by
  unfold State.landed
  repeat' first
    | with_reducible assumption
    | with_reducible apply State.setPort_keeps
    | split

theorem State.allowIn_keeps {a} {x0 x1} (h : Keeps a x0) :
    Keeps a (State.allowIn x0 x1) := by
  unfold State.allowIn
  repeat' first
    | with_reducible assumption
    | with_reducible apply State.landed_keeps
    | with_reducible apply State.passOn_keeps
    | with_reducible apply State.giveBack_keeps
    | with_reducible apply Keeps.ite

theorem State.refusePacket_keeps {a} {x0 x1} (h : Keeps a x0) :
    Keeps a (State.refusePacket x0 x1) := by
  unfold State.refusePacket
  repeat' first
    | with_reducible assumption
    | with_reducible apply State.landed_keeps
    | with_reducible apply State.giveBack_keeps
    | with_reducible apply State.fabricDrop_keeps
    | with_reducible apply Keeps.ite

theorem State.receive_keeps {a} {x0 x1 x2} (h : Keeps a x0) (hf2 : ∀ y0, Keeps a y0 → Keeps a (x2 y0)) :
    Keeps a (State.receive x0 x1 x2) := by
  unfold State.receive
  repeat' first
    | with_reducible assumption
    | with_reducible apply State.refusePacket_keeps
    | with_reducible apply State.allowIn_keeps
    | with_reducible apply State.fabricDrop_keeps
    | with_reducible apply hf2
    | (extract_lets +onlyGivenNames v; refine Keeps.cut (a := a) (x := v) ?_ (fun hv => ?_); subst v; rotate_left; clear_value v; rotate_left)
    | with_reducible apply Keeps.ite

theorem State.receiveColl_keeps {a} {x0 x1 x2} (h : Keeps a x0) (hf2 : ∀ y0, Keeps a y0 → Keeps a (x2 y0)) :
    Keeps a (State.receiveColl x0 x1 x2) := by
  unfold State.receiveColl
  repeat' first
    | with_reducible intro _
    | with_reducible assumption
    | with_reducible apply State.receive_keeps
    | with_reducible apply State.fabricDrop_keeps
    | with_reducible apply hf2
    | with_reducible apply Keeps.ite

theorem State.setColl_keeps {a} {x0 x1} (h : Keeps a x0) :
    Keeps a (State.setColl x0 x1) := by
  unfold State.setColl
  repeat' first
    | with_reducible assumption
    | (extract_lets +onlyGivenNames v; (have _w : Fabric := v); subst v)
    | fail_if_no_progress (with_reducible refine Keeps.upd ?_ rfl rfl rfl rfl rfl)

theorem State.dropColls_keeps {a} {x0 x1} (h : Keeps a x0) :
    Keeps a (State.dropColls x0 x1) := by
  unfold State.dropColls
  repeat' first
    | with_reducible assumption
    | (extract_lets +onlyGivenNames v; (have _w : Fabric := v); subst v)
    | fail_if_no_progress (with_reducible refine Keeps.upd ?_ rfl rfl rfl rfl rfl)

theorem State.dropColl_keeps {a} {x0 x1} (h : Keeps a x0) :
    Keeps a (State.dropColl x0 x1) := by
  unfold State.dropColl
  repeat' first
    | with_reducible assumption
    | with_reducible apply State.dropColls_keeps

theorem State.combineHeaders_keeps {a} {x0 x1 x2} (h : Keeps a x0) :
    Keeps a (State.combineHeaders x0 x1 x2) := by
  unfold State.combineHeaders
  repeat' first
    | with_reducible assumption
    | with_reducible apply State.wrBytes_keeps
    | with_reducible apply State.updCtx_keeps

theorem checkReduce_keeps {x0 x1 x2}  :
    OkP NoteKeeps (checkReduce x0 x1 x2) := by
  unfold checkReduce
  repeat' first
    | with_reducible apply BodyCheck.fieldIf_keeps
    | with_reducible apply OkP.ok

theorem State.abortColl_keeps {a} {x0 x1 x2 x3 x4} (h : Keeps a x0) :
    Keeps a (State.abortColl x0 x1 x2 x3 x4) := by
  unfold State.abortColl
  repeat' first
    | with_reducible assumption
    | with_reducible apply State.broadcast_keeps
    | with_reducible apply State.wrN_keeps
    | with_reducible apply State.tally_keeps
    | with_reducible apply State.raise_keeps

theorem State.loseColl_keeps {a} {x0 x1 x2} (h : Keeps a x0) :
    Keeps a (State.loseColl x0 x1 x2) := by
  unfold State.loseColl
  repeat' first
    | with_reducible assumption
    | with_reducible apply State.abortColl_keeps
    | with_reducible apply State.stopItem_keeps
    | with_reducible apply State.dropColl_keeps

theorem State.sendAll_keeps {a} {x0 x1 x2} (h : Keeps a x0) :
    Keeps a (State.sendAll x0 x1 x2).1 := by
  induction x2 generalizing x0 x1 with
  | nil =>
    unfold State.sendAll
    repeat' first
      | with_reducible assumption
  | cons b r ih =>
    unfold State.sendAll
    repeat' first
      | with_reducible assumption
      | with_reducible apply State.sendTo_keeps
      | with_reducible apply State.fabricDrop_keeps
      | with_reducible apply ih
      | (with_reducible apply Keeps.ofSome; · with_reducible assumption)
      | split

theorem State.redBegin_keeps {a} {x0 x1} (h : Keeps a x0) :
    OkP (Keeps a) (State.redBegin x0 x1) := by
  unfold State.redBegin
  repeat' first
    | with_reducible assumption
    | with_reducible apply State.tally_keeps
    | with_reducible apply State.updCtx_keeps
    | with_reducible apply State.setColl_keeps
    | with_reducible apply State.broadcast_keeps
    | with_reducible apply State.setItem_keeps
    | (extract_lets +onlyGivenNames v; refine Keeps.cut (a := a) (x := v) ?_ (fun hv => ?_); subst v; rotate_left; clear_value v; rotate_left)
    | (extract_lets +onlyGivenNames v; clear_value v)
    | with_reducible apply Keeps.ite
    | with_reducible apply OkP.pure
    | (with_reducible refine OkP.bind fun _ _ => ?_)

theorem State.redOvf_keeps {a} {x0 x1 x2 x3} (h : Keeps a x0) :
    Keeps a (State.redOvf x0 x1 x2 x3).2 := by
  unfold State.redOvf
  repeat' first
    | with_reducible assumption
    | with_reducible apply State.freeW_keeps
    | (extract_lets +onlyGivenNames v; clear_value v)
    | split

theorem State.redWrite_keeps {a} {x0 x1 x2 x3 x4} (h : Keeps a x0) :
    OkP (Keeps a) (State.redWrite x0 x1 x2 x3 x4) := by
  unfold State.redWrite
  repeat' first
    | with_reducible assumption
    | with_reducible apply State.vwrite_keeps
    | with_reducible apply State.redOvf_keeps
    | with_reducible apply State.precCount_keeps
    | with_reducible apply State.convCount_keeps
    | (extract_lets +onlyGivenNames v; clear_value v)
    | with_reducible apply OkP.ite
    | with_reducible apply OkP.pure
    | (with_reducible refine OkP.bindS (a := a) ?_ fun _ _ => ?_)

theorem State.redChunk_keeps {a} {x0 x1 x2} (h : Keeps a x0) :
    OkP (RedKeeps a) (State.redChunk x0 x1 x2) := by
  unfold State.redChunk
  repeat' first
    | with_reducible assumption
    | with_reducible apply State.redWrite_keeps
    | with_reducible apply State.advance_keeps
    | with_reducible apply State.broadcast_keeps
    | with_reducible apply State.setItem_keeps
    | with_reducible apply State.sendAll_keeps
    | (extract_lets +onlyGivenNames v; refine Keeps.cut (a := a) (x := v) ?_ (fun hv => ?_); subst v; rotate_left; clear_value v; rotate_left)
    | (extract_lets +onlyGivenNames v; (have _w : State → _ → _ → Except _ _ := v); subst v)
    | (extract_lets +onlyGivenNames v; clear_value v)
    | with_reducible apply OkP.ite
    | with_reducible apply OkP.pure
    | (with_reducible refine OkP.bindS (a := a) ?_ fun _ _ => ?_)
    | (with_reducible refine OkP.bind fun _ _ => ?_)
    | (with_reducible refine Keeps.fold (fun _ _ _ => ?_) _ ?_)
    | split
    | with_reducible apply RedKeeps.on
    | with_reducible apply RedKeeps.lost
    | with_reducible exact RedKeeps.wait

theorem State.redList_keeps {a} {x0 x1 x2 x3} (h : Keeps a x0) :
    OkP (Keeps a) (State.redList x0 x1 x2 x3) := by
  unfold State.redList
  repeat' first
    | with_reducible assumption
    | with_reducible apply State.vwrite_keeps
    | with_reducible apply State.advance_keeps
    | with_reducible apply State.tallyN_keeps
    | with_reducible apply State.finish_keeps
    | (extract_lets +onlyGivenNames v; refine Keeps.cut (a := a) (x := v) ?_ (fun hv => ?_); subst v; rotate_left; clear_value v; rotate_left)
    | (extract_lets +onlyGivenNames v; clear_value v)
    | with_reducible apply OkP.pure
    | (with_reducible refine OkP.bindS (a := a) ?_ fun _ _ => ?_)
    | (with_reducible refine OkP.bind fun _ _ => ?_)
    | split

theorem State.redSparse_keeps {a} {x0 x1} (h : Keeps a x0) :
    OkP (RedKeeps a) (State.redSparse x0 x1) := by
  unfold State.redSparse
  repeat' first
    | with_reducible assumption
    | with_reducible apply State.broadcast_keeps
    | with_reducible apply State.setItem_keeps
    | with_reducible apply State.sendAll_keeps
    | with_reducible apply State.redList_keeps
    | (extract_lets +onlyGivenNames v; refine Keeps.cut (a := a) (x := v) ?_ (fun hv => ?_); subst v; rotate_left; clear_value v; rotate_left)
    | (extract_lets +onlyGivenNames v; clear_value v)
    | with_reducible apply OkP.ite
    | with_reducible apply OkP.pure
    | (with_reducible refine OkP.bind fun _ _ => ?_)
    | (with_reducible refine OkP.mapS (a := a) ?_ fun _ _ => ?_)
    | (with_reducible refine Keeps.fold (fun _ _ _ => ?_) _ ?_)
    | split
    | with_reducible apply RedKeeps.on
    | with_reducible apply RedKeeps.lost
    | with_reducible exact RedKeeps.wait

theorem State.abortHere_keeps {a} {x0 x1} (h : Keeps a x0) :
    Keeps a (State.abortHere x0 x1) := by
  unfold State.abortHere
  repeat' first
    | with_reducible assumption
    | with_reducible apply State.stopItem_keeps
    | with_reducible apply State.dropColl_keeps

theorem State.redStep_keeps {a} {x0 x1} (h : Keeps a x0) :
    OkP (RedKeeps a) (State.redStep x0 x1) := by
  unfold State.redStep
  repeat' first
    | with_reducible assumption
    | with_reducible apply State.redBegin_keeps
    | with_reducible apply State.setItem_keeps
    | with_reducible apply State.combineHeaders_keeps
    | with_reducible apply State.redChunk_keeps
    | with_reducible apply State.finish_keeps
    | with_reducible apply State.redSparse_keeps
    | (extract_lets +onlyGivenNames v; clear_value v)
    | with_reducible apply OkP.ite
    | with_reducible exact OkP.error
    | with_reducible apply OkP.pure
    | (with_reducible refine OkP.mapS (a := a) ?_ fun _ _ => ?_)
    | split
    | with_reducible apply RedKeeps.on
    | with_reducible exact RedKeeps.wait

theorem State.redFrom_keeps {a} {x0 x1 x2} (h : Keeps a x0) :
    Keeps a (State.redFrom x0 x1 x2) := by
  induction x2 generalizing x0 x1 with
  | zero =>
    unfold State.redFrom
    repeat' first
      | with_reducible assumption
  | succ n ih =>
    unfold State.redFrom
    repeat' first
      | with_reducible assumption
      | with_reducible apply State.abortHere_keeps
      | with_reducible apply State.redStep_keeps
      | with_reducible apply State.loseColl_keeps
      | with_reducible apply State.stopItem_keeps
      | with_reducible apply ih
      | with_reducible apply Keeps.ite
      | split
      | (with_reducible apply Keeps.ofRedOn; · with_reducible assumption)
      | (with_reducible apply Keeps.ofRedLost; · with_reducible assumption)

theorem workReduce_keeps {a} {x0 x1} (h : Keeps a x1) :
    Keeps a (workReduce x0 x1) := by
  unfold workReduce
  repeat' first
    | with_reducible assumption
    | with_reducible apply State.redFrom_keeps

theorem State.sealReduce_keeps {a} {x0 x1} (h : Keeps a x0) :
    Keeps a (State.sealReduce x0 x1) := by
  unfold State.sealReduce
  repeat' first
    | with_reducible assumption
    | with_reducible apply State.dropColl_keeps

theorem State.takeHeader_keeps {a} {x0 x1} (h : Keeps a x0) :
    Keeps a (State.takeHeader x0 x1) := by
  unfold State.takeHeader
  repeat' first
    | with_reducible intro _
    | with_reducible assumption
    | with_reducible apply State.receiveColl_keeps
    | with_reducible apply State.send_keeps
    | with_reducible apply State.setColl_keeps
    | (extract_lets +onlyGivenNames v; clear_value v)
    | with_reducible apply Keeps.ite

theorem State.takePart_keeps {a} {x0 x1} (h : Keeps a x0) :
    Keeps a (State.takePart x0 x1) := by
  unfold State.takePart
  repeat' first
    | with_reducible intro _
    | with_reducible assumption
    | with_reducible apply State.receiveColl_keeps
    | with_reducible apply State.setColl_keeps
    | (extract_lets +onlyGivenNames v; clear_value v)
    | with_reducible apply Keeps.ite

theorem State.takeAbort_keeps {a} {x0 x1} (h : Keeps a x0) :
    Keeps a (State.takeAbort x0 x1) := by
  unfold State.takeAbort
  repeat' first
    | with_reducible intro _
    | with_reducible assumption
    | with_reducible apply State.receiveColl_keeps
    | with_reducible apply State.setColl_keeps
    | with_reducible apply State.abortHere_keeps
    | (extract_lets +onlyGivenNames v; refine Keeps.cut (a := a) (x := v) ?_ (fun hv => ?_); subst v; rotate_left; clear_value v; rotate_left)
    | (extract_lets +onlyGivenNames v; clear_value v)
    | with_reducible apply Keeps.ite
    | split

theorem State.collTimeout_keeps {a} {x0 x1} (h : Keeps a x0) :
    Keeps a (State.collTimeout x0 x1) := by
  unfold State.collTimeout
  repeat' first
    | with_reducible assumption
    | with_reducible apply State.loseColl_keeps
    | split

end Sys2Proof.Machine
end

