-- ==== Sys2Proof/Laws/KeepsApply.lean ====
section
/-! SUPPORT. The operations of `Machine/Apply.lean` keep what no command disturbs. -/

namespace Sys2Proof.Machine


theorem State.setEngineActive_keeps {a} {x0 x1 x2} (h : Keeps a x0) :
    Keeps a (State.setEngineActive x0 x1 x2) := by
  unfold State.setEngineActive
  repeat' first
    | with_reducible assumption
    | with_reducible apply State.wr_keeps
    | with_reducible apply Keeps.ite

theorem State.regangCluster_keeps {a} {x0 x1} (h : Keeps a x0) :
    Keeps a (State.regangCluster x0 x1) := by
  unfold State.regangCluster
  repeat' first
    | with_reducible assumption
    | with_reducible apply State.setEngineActive_keeps
    | with_reducible apply State.dropStreams_keeps
    | with_reducible apply State.wr_keeps
    | (extract_lets +onlyGivenNames v; refine Keeps.cut (a := a) (x := v) ?_ (fun hv => ?_); subst v; rotate_left; clear_value v; rotate_left)
    | with_reducible apply Keeps.ite
    | (with_reducible refine Keeps.fold (fun _ _ _ => ?_) _ ?_)

theorem State.regang_keeps {a} {x0 x1} (h : Keeps a x0) :
    Keeps a (State.regang x0 x1) := by
  unfold State.regang
  repeat' first
    | with_reducible assumption
    | with_reducible apply State.regangCluster_keeps
    | (with_reducible refine Keeps.fold (fun _ _ _ => ?_) _ ?_)

theorem State.regangIdle_keeps {a} {x0} (h : Keeps a x0) :
    Keeps a (State.regangIdle x0) := by
  unfold State.regangIdle
  repeat' first
    | with_reducible assumption
    | with_reducible apply State.regang_keeps

theorem State.regangOf_keeps {a} {x0 x1} (h : Keeps a x0) :
    Keeps a (State.regangOf x0 x1) := by
  unfold State.regangOf
  repeat' first
    | with_reducible assumption
    | with_reducible apply State.regang_keeps

theorem State.wrDevice_keeps {a} {x0 x1 x2 x3 x4} (h : Keeps a x0) :
    Keeps a (State.wrDevice x0 x1 x2 x3 x4) := by
  unfold State.wrDevice
  repeat' first
    | with_reducible assumption
    | with_reducible apply State.wr_keeps
    | with_reducible apply State.wrStaged_keeps
    | with_reducible apply Keeps.ite

theorem State.bumpGen_keeps {a} {x0} (h : Keeps a x0) :
    Keeps a (State.bumpGen x0) := by
  unfold State.bumpGen
  repeat' first
    | with_reducible assumption
    | with_reducible apply State.wrN_keeps

theorem State.applyRegistry_keeps {a} {x0 x1} (h : Keeps a x0) :
    Keeps a (State.applyRegistry x0 x1) := by
  unfold State.applyRegistry
  repeat' first
    | with_reducible assumption
    | with_reducible apply State.allHome_keeps
    | (extract_lets +onlyGivenNames v; clear_value v)
    | (with_reducible refine Keeps.fold (fun _ _ _ => ?_) _ ?_)

theorem State.applyRetire_keeps {a} {x0 x1} (h : Keeps a x0) :
    Keeps a (State.applyRetire x0 x1) := by
  unfold State.applyRetire
  repeat' first
    | with_reducible assumption
    | with_reducible apply State.wrN_keeps
    | split

theorem State.applyLog_keeps {a} {x0 x1} (h : Keeps a x0) :
    Keeps a (State.applyLog x0 x1) := by
  unfold State.applyLog
  repeat' first
    | with_reducible assumption
    | with_reducible apply State.poke_keeps
    | (extract_lets +onlyGivenNames v; refine Keeps.cut (a := a) (x := v) ?_ (fun hv => ?_); subst v; rotate_left; clear_value v; rotate_left)
    | with_reducible apply Keeps.ite
    | with_reducible apply Keeps.filterHeads

theorem State.applyScratch_keeps {a} {x0} (h : Keeps a x0) :
    Keeps a (State.applyScratch x0) := by
  unfold State.applyScratch
  repeat' first
    | with_reducible assumption
    | with_reducible apply Keeps.filterScratch

theorem State.writeLevel_keeps {a} {x0 x1 x2 x3} (h : Keeps a x0) :
    Keeps a (State.writeLevel x0 x1 x2 x3) := by
  unfold State.writeLevel
  repeat' first
    | with_reducible assumption
    | with_reducible apply State.vwrite_keeps
    | with_reducible apply State.noteUe_keeps
    | (with_reducible apply Keeps.ofOk; · with_reducible assumption)
    | (extract_lets +onlyGivenNames v; clear_value v)
    | with_reducible apply Keeps.ite
    | split

theorem State.applyLevels_keeps {a} {x0 x1} (h : Keeps a x0) :
    Keeps a (State.applyLevels x0 x1) := by
  unfold State.applyLevels
  repeat' first
    | with_reducible assumption
    | with_reducible apply State.writeLevel_keeps
    | (with_reducible refine Keeps.fold (fun _ _ _ => ?_) _ ?_)

theorem State.restoreShow_keeps {a} {x0 x1 x2 x3} (h : Keeps a x0) :
    Keeps a (State.restoreShow x0 x1 x2 x3) := by
  unfold State.restoreShow
  repeat' first
    | with_reducible assumption
    | with_reducible apply State.wrN_keeps

theorem State.endRestore_keeps {a} {x0 x1 x2 x3} (h : Keeps a x0) :
    Keeps a (State.endRestore x0 x1 x2 x3) := by
  unfold State.endRestore
  repeat' first
    | with_reducible assumption
    | with_reducible apply State.tally_keeps
    | with_reducible apply State.restoreShow_keeps
    | (extract_lets +onlyGivenNames v; refine Keeps.cut (a := a) (x := v) ?_ (fun hv => ?_); subst v; rotate_left; clear_value v; rotate_left)
    | (extract_lets +onlyGivenNames v; clear_value v)
    | with_reducible apply Keeps.ite
    | fail_if_no_progress (with_reducible refine Keeps.upd ?_ rfl rfl rfl rfl rfl)

theorem State.provShow_keeps {a} {x0 x1} (h : Keeps a x0) :
    Keeps a (State.provShow x0 x1) := by
  unfold State.provShow
  repeat' first
    | with_reducible assumption
    | with_reducible apply State.wrBytes_keeps

theorem State.setProv_keeps {a} {x0 x1} (h : Keeps a x0) :
    Keeps a (State.setProv x0 x1) := by
  unfold State.setProv
  repeat' first
    | with_reducible assumption
    | (extract_lets +onlyGivenNames v; clear_value v)
    | fail_if_no_progress (with_reducible refine Keeps.upd ?_ rfl rfl rfl rfl rfl)

theorem State.endProv_keeps {a} {x0 x1} (h : Keeps a x0) :
    Keeps a (State.endProv x0 x1) := by
  unfold State.endProv
  repeat' first
    | with_reducible assumption
    | with_reducible apply State.provShow_keeps
    | with_reducible apply State.setProv_keeps

theorem State.applyFaults_keeps {a} {x0 x1} (h : Keeps a x0) :
    Keeps a (State.applyFaults x0 x1) := by
  unfold State.applyFaults
  repeat' first
    | with_reducible assumption
    | with_reducible apply State.endRestore_keeps
    | with_reducible apply State.endProv_keeps
    | with_reducible apply State.loseColl_keeps
    | (extract_lets +onlyGivenNames v; refine Keeps.cut (a := a) (x := v) ?_ (fun hv => ?_); subst v; rotate_left; clear_value v; rotate_left)
    | (extract_lets +onlyGivenNames v; clear_value v)
    | with_reducible apply Keeps.ite
    | (with_reducible refine Keeps.fold (fun _ _ _ => ?_) _ ?_)
    | split

theorem State.reconfigPort_keeps {a} {x0 x1 x2} (h : Keeps a x0) :
    Keeps a (State.reconfigPort x0 x1 x2) := by
  unfold State.reconfigPort
  repeat' first
    | with_reducible assumption
    | with_reducible apply State.wrN_keeps
    | with_reducible apply State.setPort_keeps
    | (extract_lets +onlyGivenNames v; refine Keeps.cut (a := a) (x := v) ?_ (fun hv => ?_); subst v; rotate_left; clear_value v; rotate_left)
    | (extract_lets +onlyGivenNames v; clear_value v)
    | with_reducible apply Keeps.ite

theorem State.applyPorts_keeps {a} {x0 x1} (h : Keeps a x0) :
    Keeps a (State.applyPorts x0 x1) := by
  unfold State.applyPorts
  repeat' first
    | with_reducible assumption
    | with_reducible apply State.reconfigPort_keeps
    | (extract_lets +onlyGivenNames v; clear_value v)
    | with_reducible apply Keeps.ite
    | (with_reducible refine Keeps.fold (fun _ _ _ => ?_) _ ?_)

theorem State.writeImage_keeps {a} {x0 x1 x2} (h : Keeps a x0) (hu : Keeps a x1) :
    Keeps a (State.writeImage x0 x1 x2) := by
  unfold State.writeImage
  extract_lets g
  split
  · exact Keeps.imageA hu h
  · exact Keeps.imageB hu h

theorem State.flipImage_keeps {a} {x0} (h : Keeps a x0) :
    Keeps a (State.flipImage x0) := by
  unfold State.flipImage
  repeat' first
    | with_reducible assumption
    | (extract_lets +onlyGivenNames v; (have _w : Strongroom := v); subst v)
    | fail_if_no_progress (with_reducible refine Keeps.upd ?_ rfl rfl rfl rfl rfl)

theorem State.failureEvent_keeps {a} {x0} (h : Keeps a x0) :
    Keeps a (State.failureEvent x0) := by
  unfold State.failureEvent
  repeat' first
    | with_reducible assumption
    | with_reducible apply State.wrN_keeps
    | with_reducible apply State.tally_keeps
    | with_reducible apply State.wrDevice_keeps
    | (extract_lets +onlyGivenNames v; refine Keeps.cut (a := a) (x := v) ?_ (fun hv => ?_); subst v; rotate_left; clear_value v; rotate_left)
    | (extract_lets +onlyGivenNames v; clear_value v)
    | fail_if_no_progress (with_reducible refine Keeps.upd ?_ rfl rfl rfl rfl rfl)

theorem State.applyScope_keeps {a} {x0 x1 x2} (h : Keeps a x0) :
    Keeps a (State.applyScope x0 x1 x2) := by
  unfold State.applyScope
  repeat' first
    | with_reducible assumption
    | with_reducible apply State.takeStaged_keeps
    | with_reducible apply State.regangIdle_keeps
    | with_reducible apply State.applyRegistry_keeps
    | with_reducible apply State.applyRetire_keeps
    | with_reducible apply State.applyLog_keeps
    | with_reducible apply State.applyScratch_keeps
    | with_reducible apply State.applyLevels_keeps
    | with_reducible apply State.applyFaults_keeps
    | with_reducible apply State.count_keeps
    | with_reducible apply State.applyPorts_keeps
    | with_reducible apply State.failureEvent_keeps
    | with_reducible apply State.flipImage_keeps
    | with_reducible apply State.writeImage_keeps
    | with_reducible apply State.raise_keeps
    | with_reducible apply Keeps.ite
    | (with_reducible refine Keeps.fold (fun _ _ _ => ?_) _ ?_)
    | fail_if_no_progress (with_reducible refine Keeps.upd ?_ rfl rfl rfl rfl rfl)

theorem State.arm_keeps {a} {x0 x1 x2 x3} (h : Keeps a x0) :
    Keeps a (State.arm x0 x1 x2 x3) := by
  unfold State.arm
  repeat' first
    | with_reducible assumption
    | with_reducible apply State.writeImage_keeps
    | with_reducible apply State.candidate_keeps
    | with_reducible apply State.wrBytes_keeps
    | (extract_lets +onlyGivenNames v; clear_value v)
    | fail_if_no_progress (with_reducible refine Keeps.upd ?_ rfl rfl rfl rfl rfl)

theorem State.disarm_keeps {a} {x0} (h : Keeps a x0) :
    Keeps a (State.disarm x0) := by
  unfold State.disarm
  repeat' first
    | with_reducible assumption
    | with_reducible apply State.wrBytes_keeps
    | (extract_lets +onlyGivenNames v; clear_value v)
    | fail_if_no_progress (with_reducible refine Keeps.upd ?_ rfl rfl rfl rfl rfl)

theorem State.fire_keeps {a} {x0 x1} (h : Keeps a x0) :
    Keeps a (State.fire x0 x1) := by
  unfold State.fire
  repeat' first
    | with_reducible assumption
    | with_reducible apply State.bumpGen_keeps
    | with_reducible apply State.disarm_keeps
    | with_reducible apply State.applyScope_keeps

theorem State.discardScope_keeps {a} {x0 x1} (h : Keeps a x0) :
    Keeps a (State.discardScope x0 x1) := by
  unfold State.discardScope
  repeat' first
    | with_reducible assumption
    | (with_reducible refine Keeps.fold (fun _ _ _ => ?_) _ ?_)
    | with_reducible apply Keeps.setStaged

theorem State.opCheck_keeps {a} {x0 x1 x2} (h : Keeps a x0) :
    Keeps a (State.opCheck x0 x1 x2).2.2 := by
  unfold State.opCheck
  repeat' first
    | with_reducible assumption
    | with_reducible apply State.runCheck_keeps
    | split

theorem State.opApply_keeps {a} {x0 x1 x2 x3 x4} (h : Keeps a x0) :
    Keeps a (State.opApply x0 x1 x2 x3 x4).2.2 := by
  unfold State.opApply
  repeat' first
    | with_reducible assumption
    | with_reducible apply State.runCheck_keeps
    | with_reducible apply State.applyScope_keeps
    | with_reducible apply State.arm_keeps
    | (with_reducible apply Keeps.ofSnd; · with_reducible assumption)
    | (extract_lets +onlyGivenNames v; clear_value v)
    | split

theorem State.opDiscard_keeps {a} {x0 x1} (h : Keeps a x0) :
    Keeps a (State.opDiscard x0 x1).2 := by
  unfold State.opDiscard
  repeat' first
    | with_reducible assumption
    | with_reducible apply State.discardScope_keeps
    | split

theorem State.fireBoundary_keeps {a} {x0 x1} (h : Keeps a x0) :
    Keeps a (State.fireBoundary x0 x1) := by
  unfold State.fireBoundary
  repeat' first
    | with_reducible assumption
    | with_reducible apply State.fire_keeps
    | with_reducible apply Keeps.ite
    | split

theorem State.fireTime_keeps {a} {x0} (h : Keeps a x0) :
    Keeps a (State.fireTime x0) := by
  unfold State.fireTime
  repeat' first
    | with_reducible assumption
    | with_reducible apply State.fire_keeps
    | with_reducible apply Keeps.ite
    | split

end Sys2Proof.Machine
end

