-- ==== Sys2Proof/Laws/KeepsSubmit.lean ====
section
/-! SUPPORT. The operations of `Machine/Submit.lean` keep what no command disturbs. -/

namespace Sys2Proof.Machine


theorem State.hostRead_keeps {a} {x0 x1 x2 x3 x4} (h : Keeps a x0) :
    Keeps a (State.hostRead x0 x1 x2 x3 x4) := by
  unfold State.hostRead
  repeat' first
    | with_reducible assumption
    | with_reducible apply State.nextOp_keeps
    | with_reducible apply State.send_keeps
    | with_reducible apply State.postReads_keeps
    | (extract_lets +onlyGivenNames v; (have _w : Fabric := v); subst v)
    | with_reducible apply Keeps.ite
    | fail_if_no_progress (with_reducible refine Keeps.upd ?_ rfl rfl rfl rfl rfl)

theorem State.doorbellErr_keeps {a} {x0 x1} (h : Keeps a x0) :
    Keeps a (State.doorbellErr x0 x1) := by
  unfold State.doorbellErr
  repeat' first
    | with_reducible assumption
    | with_reducible apply State.tally_keeps

theorem State.fetchMore_keeps {a} {x0 x1} (h : Keeps a x0) :
    Keeps a (State.fetchMore x0 x1) := by
  unfold State.fetchMore
  repeat' first
    | with_reducible assumption
    | with_reducible apply State.hostRead_keeps
    | with_reducible apply State.updCtx_keeps
    | (extract_lets +onlyGivenNames v; clear_value v)
    | with_reducible apply Keeps.ite

theorem State.noteRead_keeps {a} {x0 x1 x2} (h : Keeps a x0) :
    Keeps a (State.noteRead x0 x1 x2) := by
  unfold State.noteRead
  repeat' first
    | with_reducible assumption
    | with_reducible apply State.countDenied_keeps
    | with_reducible apply State.noteUe_keeps
    | split

theorem State.judgeEntry_keeps {a} {x0 x1 x2} (h : Keeps a x0) :
    Keeps a (State.judgeEntry x0 x1 x2).1 := by
  unfold State.judgeEntry
  repeat' first
    | with_reducible assumption
    | with_reducible apply State.noteRead_keeps
    | split

theorem State.openEntry_keeps {a} {x0 x1 x2} (h : Keeps a x0) :
    Keeps a (State.openEntry x0 x1 x2) := by
  unfold State.openEntry
  repeat' first
    | with_reducible assumption
    | with_reducible apply State.judgeEntry_keeps
    | with_reducible apply State.openStep_keeps
    | with_reducible apply State.rejectHeader_keeps
    | (with_reducible apply Keeps.ofFst; · with_reducible assumption)
    | split

theorem State.fetched_keeps {a} {x0 x1 x2} (h : Keeps a x0) :
    Keeps a (State.fetched x0 x1 x2) := by
  unfold State.fetched
  repeat' first
    | with_reducible assumption
    | with_reducible apply State.count_keeps
    | with_reducible apply State.updCtx_keeps
    | with_reducible apply State.hostError_keeps
    | with_reducible apply State.openEntry_keeps
    | with_reducible apply State.fetchMore_keeps
    | (extract_lets +onlyGivenNames v; refine Keeps.cut (a := a) (x := v) ?_ (fun hv => ?_); subst v; rotate_left; clear_value v; rotate_left)
    | (extract_lets +onlyGivenNames v; clear_value v)
    | with_reducible apply Keeps.ite

theorem State.writeSqTail_keeps {a} {x0 x1 x2} (h : Keeps a x0) :
    Keeps a (State.writeSqTail x0 x1 x2) := by
  unfold State.writeSqTail
  repeat' first
    | with_reducible assumption
    | with_reducible apply State.doorbellErr_keeps
    | with_reducible apply State.fetchMore_keeps
    | with_reducible apply State.updCtx_keeps
    | (extract_lets +onlyGivenNames v; clear_value v)
    | with_reducible apply Keeps.ite

theorem State.writeCqHead_keeps {a} {x0 x1 x2} (h : Keeps a x0) :
    Keeps a (State.writeCqHead x0 x1 x2) := by
  unfold State.writeCqHead
  repeat' first
    | with_reducible assumption
    | with_reducible apply State.doorbellErr_keeps
    | with_reducible apply State.drainRecs_keeps
    | with_reducible apply State.updCtx_keeps
    | (extract_lets +onlyGivenNames v; clear_value v)
    | with_reducible apply Keeps.ite

theorem State.writeSqCfg_keeps {a} {x0 x1 x2} (h : Keeps a x0) :
    Keeps a (State.writeSqCfg x0 x1 x2) := by
  unfold State.writeSqCfg
  repeat' first
    | with_reducible assumption
    | with_reducible apply State.doorbellErr_keeps
    | with_reducible apply State.wrN_keeps
    | with_reducible apply State.updCtx_keeps
    | with_reducible apply State.wr_keeps
    | (extract_lets +onlyGivenNames v; refine Keeps.cut (a := a) (x := v) ?_ (fun hv => ?_); subst v; rotate_left; clear_value v; rotate_left)
    | (extract_lets +onlyGivenNames v; clear_value v)
    | with_reducible apply Keeps.ite

theorem State.writeCqCfg_keeps {a} {x0 x1 x2} (h : Keeps a x0) :
    Keeps a (State.writeCqCfg x0 x1 x2) := by
  unfold State.writeCqCfg
  repeat' first
    | with_reducible assumption
    | with_reducible apply State.doorbellErr_keeps
    | with_reducible apply State.wrN_keeps
    | with_reducible apply State.updCtx_keeps
    | with_reducible apply State.wr_keeps
    | with_reducible apply State.drainRecs_keeps
    | (extract_lets +onlyGivenNames v; refine Keeps.cut (a := a) (x := v) ?_ (fun hv => ?_); subst v; rotate_left; clear_value v; rotate_left)
    | (extract_lets +onlyGivenNames v; clear_value v)
    | with_reducible apply Keeps.ite

end Sys2Proof.Machine
end

