-- ==== Sys2Proof/Laws/KeepsSnapshot.lean ====
section
/-! SUPPORT. The operations of `Machine/Snapshot.lean` keep what no command disturbs. -/

namespace Sys2Proof.Machine


theorem State.copyBlocks_keeps {a} {x0 x1 x2 x3 x4 x5} (h : Keeps a x0) :
    Keeps a (State.copyBlocks x0 x1 x2 x3 x4 x5).1 := by
  induction x4 generalizing x0 x1 x2 x3 x5 with
  | zero =>
    unfold State.copyBlocks
    repeat' first
      | with_reducible assumption
  | succ n ih =>
    unfold State.copyBlocks
    repeat' first
      | with_reducible assumption
      | with_reducible apply State.vwrite_keeps
      | with_reducible apply ih
      | (with_reducible apply Keeps.ofOk; · with_reducible assumption)
      | split

theorem State.freezeImage_keeps {a} {x0 x1 x2 x3} (h : Keeps a x0) :
    Keeps a (State.freezeImage x0 x1 x2 x3).1 := by
  unfold State.freezeImage
  repeat' first
    | with_reducible assumption
    | with_reducible apply State.vwrite_keeps
    | with_reducible apply State.copyBlocks_keeps
    | (with_reducible apply Keeps.ofOk; · with_reducible assumption)
    | (with_reducible apply Keeps.ofFst; · with_reducible assumption)
    | (extract_lets +onlyGivenNames v; clear_value v)
    | split

theorem State.freeze_keeps {a} {x0 x1 x2} (h : Keeps a x0) :
    Keeps a (State.freeze x0 x1 x2) := by
  unfold State.freeze
  repeat' first
    | with_reducible assumption
    | with_reducible apply State.count_keeps
    | with_reducible apply State.tally_keeps
    | with_reducible apply State.freezeImage_keeps
    | with_reducible apply State.noteRead_keeps
    | (with_reducible apply Keeps.ofFst; · with_reducible assumption)
    | (extract_lets +onlyGivenNames v; refine Keeps.cut (a := a) (x := v) ?_ (fun hv => ?_); subst v; rotate_left; clear_value v; rotate_left)
    | (extract_lets +onlyGivenNames v; (have _w : State → State := v); subst v)
    | (extract_lets +onlyGivenNames v; clear_value v)
    | with_reducible apply Keeps.ite
    | fail_if_no_progress (with_reducible refine Keeps.upd ?_ rfl rfl rfl rfl rfl)
    | split

theorem checkSnapshot_keeps {x0 x1 x2}  :
    OkP NoteKeeps (checkSnapshot x0 x1 x2) := by
  unfold checkSnapshot
  repeat' first
    | with_reducible apply BodyCheck.fieldIf_keeps
    | with_reducible apply OkP.ok

theorem workSnapshot_keeps {a} {x0 x1} (h : Keeps a x1) :
    Keeps a (workSnapshot x0 x1) := by
  unfold workSnapshot
  repeat' first
    | with_reducible assumption
    | with_reducible apply State.finish_keeps
    | with_reducible apply State.stopItem_keeps
    | with_reducible apply State.nextOp_keeps
    | with_reducible apply State.sendAll_keeps
    | with_reducible apply State.setItem_keeps
    | with_reducible apply State.failItem_keeps
    | with_reducible apply Keeps.ite
    | split

theorem State.chunkAnswered_keeps {a} {x0 x1 x2} (h : Keeps a x0) :
    Keeps a (State.chunkAnswered x0 x1 x2) := by
  unfold State.chunkAnswered
  repeat' first
    | with_reducible assumption
    | with_reducible apply State.failItem_keeps
    | with_reducible apply State.advance_keeps
    | with_reducible apply State.setItem_keeps
    | with_reducible apply State.preemptItem_keeps
    | with_reducible apply workSnapshot_keeps
    | (extract_lets +onlyGivenNames v; refine Keeps.cut (a := a) (x := v) ?_ (fun hv => ?_); subst v; rotate_left; clear_value v; rotate_left)
    | (extract_lets +onlyGivenNames v; clear_value v)
    | with_reducible apply Keeps.ite

theorem State.sealSnapshot_keeps {a} {x0 x1} (h : Keeps a x0) :
    Keeps a (State.sealSnapshot x0 x1) := by
  unfold State.sealSnapshot
  repeat' first
    | with_reducible assumption
    | with_reducible apply State.noteUe_keeps
    | with_reducible apply State.wr_keeps
    | (with_reducible apply Keeps.ofFst; · with_reducible assumption)
    | (extract_lets +onlyGivenNames v; refine Keeps.cut (a := a) (x := v) ?_ (fun hv => ?_); subst v; rotate_left; clear_value v; rotate_left)
    | (extract_lets +onlyGivenNames v; clear_value v)
    | with_reducible apply Keeps.ite
    | fail_if_no_progress (with_reducible refine Keeps.upd ?_ rfl rfl rfl rfl rfl)
    | split

theorem State.depotRefuse_keeps {a} {x0 x1} (h : Keeps a x0) :
    Keeps a (State.depotRefuse x0 x1) := by
  unfold State.depotRefuse
  repeat' first
    | with_reducible assumption
    | with_reducible apply State.send_keeps
    | with_reducible apply State.tally_keeps

theorem State.chunkWhole_keeps {a} {x0 x1 x2 x3} (h : Keeps a x0) :
    Keeps a (State.chunkWhole x0 x1 x2 x3) := by
  unfold State.chunkWhole
  repeat' first
    | with_reducible assumption
    | with_reducible apply State.depotRefuse_keeps
    | with_reducible apply State.poke_keeps
    | with_reducible apply State.count_keeps
    | with_reducible apply State.send_keeps
    | (extract_lets +onlyGivenNames v; refine Keeps.cut (a := a) (x := v) ?_ (fun hv => ?_); subst v; rotate_left; clear_value v; rotate_left)
    | (extract_lets +onlyGivenNames v; clear_value v)
    | with_reducible apply Keeps.ite

theorem State.takeDepotWrite_keeps {a} {x0 x1} (h : Keeps a x0) :
    Keeps a (State.takeDepotWrite x0 x1) := by
  unfold State.takeDepotWrite
  repeat' first
    | with_reducible assumption
    | with_reducible apply State.depotRefuse_keeps
    | with_reducible apply State.poke_keeps
    | with_reducible apply State.chunkWhole_keeps
    | (extract_lets +onlyGivenNames v; refine Keeps.cut (a := a) (x := v) ?_ (fun hv => ?_); subst v; rotate_left; clear_value v; rotate_left)
    | (extract_lets +onlyGivenNames v; clear_value v)
    | with_reducible apply Keeps.ite
    | fail_if_no_progress (with_reducible refine Keeps.upd ?_ rfl rfl rfl rfl rfl)
    | split

theorem State.takeDepotRead_keeps {a} {x0 x1} (h : Keeps a x0) :
    Keeps a (State.takeDepotRead x0 x1) := by
  unfold State.takeDepotRead
  repeat' first
    | with_reducible assumption
    | with_reducible apply State.send_keeps
    | with_reducible apply State.fabricDrop_keeps
    | with_reducible apply State.noteUe_keeps
    | (extract_lets +onlyGivenNames v; (have _w : State → State := v); subst v)
    | (extract_lets +onlyGivenNames v; (have _w : State → _ → _ → State := v); subst v)
    | (extract_lets +onlyGivenNames v; (have _w : Except _ _ := v); subst v)
    | (extract_lets +onlyGivenNames v; clear_value v)
    | with_reducible apply Keeps.ite
    | split

theorem State.setRestore_keeps {a} {x0 x1} (h : Keeps a x0) :
    Keeps a (State.setRestore x0 x1) := by
  unfold State.setRestore
  repeat' first
    | with_reducible assumption
    | (extract_lets +onlyGivenNames v; clear_value v)
    | fail_if_no_progress (with_reducible refine Keeps.upd ?_ rfl rfl rfl rfl rfl)

theorem State.restoreAsk_keeps {a} {x0 x1} (h : Keeps a x0) :
    Keeps a (State.restoreAsk x0 x1) := by
  unfold State.restoreAsk
  repeat' first
    | with_reducible assumption
    | with_reducible apply State.endRestore_keeps
    | with_reducible apply State.nextOp_keeps
    | with_reducible apply State.restoreShow_keeps
    | with_reducible apply State.setRestore_keeps
    | with_reducible apply State.sendTo_keeps
    | with_reducible apply State.fabricDrop_keeps
    | (with_reducible apply Keeps.ofSome; · with_reducible assumption)
    | (with_reducible apply Keeps.ofSnd; · with_reducible assumption)
    | (extract_lets +onlyGivenNames v; refine Keeps.cut (a := a) (x := v) ?_ (fun hv => ?_); subst v; rotate_left; clear_value v; rotate_left)
    | (extract_lets +onlyGivenNames v; clear_value v)
    | with_reducible apply Keeps.ite
    | split

theorem State.restoreJudge_keeps {a} {x0 x1} (h : Keeps a x0) :
    Keeps a (State.restoreJudge x0 x1) := by
  unfold State.restoreJudge
  repeat' first
    | with_reducible assumption
    | with_reducible apply State.restoreAsk_keeps
    | with_reducible apply State.setRestore_keeps
    | with_reducible apply State.endRestore_keeps
    | with_reducible apply Keeps.ite
    | split

theorem State.restoreTake_keeps {a} {x0 x1 x2} (h : Keeps a x0) :
    Keeps a (State.restoreTake x0 x1 x2) := by
  unfold State.restoreTake
  repeat' first
    | with_reducible assumption
    | with_reducible apply State.endRestore_keeps
    | with_reducible apply State.restoreJudge_keeps
    | with_reducible apply State.setRestore_keeps
    | with_reducible apply State.poke_keeps
    | with_reducible apply State.restoreShow_keeps
    | (extract_lets +onlyGivenNames v; refine Keeps.cut (a := a) (x := v) ?_ (fun hv => ?_); subst v; rotate_left; clear_value v; rotate_left)
    | (extract_lets +onlyGivenNames v; clear_value v)
    | with_reducible apply Keeps.ite

theorem State.restoreStart_keeps {a} {x0 x1} (h : Keeps a x0) :
    Keeps a (State.restoreStart x0 x1).2 := by
  unfold State.restoreStart
  repeat' first
    | with_reducible assumption
    | with_reducible apply State.restoreAsk_keeps
    | (extract_lets +onlyGivenNames v; clear_value v)
    | split

theorem State.provCount_keeps {a} {x0 x1} (h : Keeps a x0) :
    Keeps a (State.provCount x0 x1) := by
  unfold State.provCount
  repeat' first
    | with_reducible assumption
    | with_reducible apply State.wrBytes_keeps

theorem State.provSend_keeps {a} {x0 x1 x2} (h : Keeps a x0) :
    Keeps a (State.provSend x0 x1 x2) := by
  unfold State.provSend
  repeat' first
    | with_reducible assumption
    | with_reducible apply State.sendTo_keeps
    | with_reducible apply State.setProv_keeps
    | with_reducible apply State.endProv_keeps
    | with_reducible apply State.fabricDrop_keeps
    | (with_reducible apply Keeps.ofSome; · with_reducible assumption)
    | (extract_lets +onlyGivenNames v; clear_value v)
    | split

theorem State.provAsk_keeps {a} {x0 x1} (h : Keeps a x0) :
    Keeps a (State.provAsk x0 x1) := by
  unfold State.provAsk
  repeat' first
    | with_reducible assumption
    | with_reducible apply State.endProv_keeps
    | with_reducible apply State.noteUe_keeps
    | with_reducible apply State.nextOp_keeps
    | with_reducible apply State.provSend_keeps
    | with_reducible apply Keeps.ite
    | split

theorem State.provTake_keeps {a} {x0 x1 x2} (h : Keeps a x0) :
    Keeps a (State.provTake x0 x1 x2) := by
  unfold State.provTake
  repeat' first
    | with_reducible assumption
    | with_reducible apply State.endProv_keeps
    | with_reducible apply State.noteUe_keeps
    | with_reducible apply State.provCount_keeps
    | with_reducible apply State.provAsk_keeps
    | with_reducible apply State.tally_keeps
    | with_reducible apply State.provSend_keeps
    | with_reducible apply State.poke_keeps
    | with_reducible apply State.count_keeps
    | (extract_lets +onlyGivenNames v; refine Keeps.cut (a := a) (x := v) ?_ (fun hv => ?_); subst v; rotate_left; clear_value v; rotate_left)
    | (extract_lets +onlyGivenNames v; clear_value v)
    | with_reducible apply Keeps.ite
    | split

theorem State.provStart_keeps {a} {x0 x1} (h : Keeps a x0) :
    Keeps a (State.provStart x0 x1).2 := by
  unfold State.provStart
  repeat' first
    | with_reducible assumption
    | with_reducible apply State.wrBytes_keeps
    | with_reducible apply State.provAsk_keeps
    | (extract_lets +onlyGivenNames v; refine Keeps.cut (a := a) (x := v) ?_ (fun hv => ?_); subst v; rotate_left; clear_value v; rotate_left)
    | (extract_lets +onlyGivenNames v; clear_value v)
    | split

theorem State.takeDepotData_keeps {a} {x0 x1} (h : Keeps a x0) :
    Keeps a (State.takeDepotData x0 x1) := by
  unfold State.takeDepotData
  repeat' first
    | with_reducible assumption
    | with_reducible apply State.chunkAnswered_keeps
    | with_reducible apply State.restoreTake_keeps
    | with_reducible apply State.provTake_keeps
    | with_reducible apply Keeps.ite
    | split

end Sys2Proof.Machine
end

