-- ==== Sys2Proof/Laws/KeepsFence.lean ====
section
/-! SUPPORT. The operations of `Machine/Fence.lean` keep what no command disturbs. -/

namespace Sys2Proof.Machine


theorem State.stopCtx_keeps {a} {x0 x1} (h : Keeps a x0) :
    Keeps a (State.stopCtx x0 x1) := by
  unfold State.stopCtx
  repeat' first
    | with_reducible assumption
    | with_reducible apply State.stopPartition_keeps
    | with_reducible apply Keeps.ite
    | (with_reducible refine Keeps.fold (fun _ _ _ => ?_) _ ?_)

theorem State.stopAll_keeps {a} {x0 x1} (h : Keeps a x0) :
    Keeps a (State.stopAll x0 x1) := by
  unfold State.stopAll
  repeat' first
    | with_reducible assumption
    | with_reducible apply State.stopCtx_keeps
    | with_reducible apply Keeps.ite
    | (with_reducible refine Keeps.fold (fun _ _ _ => ?_) _ ?_)

theorem State.fenceNow_keeps {a} {x0 x1} (h : Keeps a x0) :
    Keeps a (State.fenceNow x0 x1) := by
  unfold State.fenceNow
  repeat' first
    | with_reducible assumption
    | with_reducible apply State.tally_keeps
    | with_reducible apply State.wrN_keeps
    | with_reducible apply State.stopAll_keeps
    | with_reducible apply State.raise_keeps
    | (extract_lets +onlyGivenNames v; refine Keeps.cut (a := a) (x := v) ?_ (fun hv => ?_); subst v; rotate_left; clear_value v; rotate_left)
    | with_reducible apply Keeps.ite

theorem State.fenceLeave_keeps {a} {x0} (h : Keeps a x0) :
    Keeps a (State.fenceLeave x0).2 := by
  unfold State.fenceLeave
  repeat' first
    | with_reducible assumption
    | with_reducible apply State.wrN_keeps
    | split

theorem State.latchToken_keeps {a} {x0 x1 x2} (h : Keeps a x0) :
    Keeps a (State.latchToken x0 x1 x2) := by
  unfold State.latchToken
  repeat' first
    | with_reducible assumption
    | with_reducible apply State.updCtx_keeps
    | with_reducible apply State.wrBytes_keeps

theorem State.keepSent_keeps {a} {x0 x1 x2} (h : Keeps a x0) :
    Keeps a (State.keepSent x0 x1 x2) := by
  unfold State.keepSent
  repeat' first
    | with_reducible assumption
    | (extract_lets +onlyGivenNames v; clear_value v)
    | fail_if_no_progress (with_reducible refine Keeps.upd ?_ rfl rfl rfl rfl rfl)

theorem State.formToken_keeps {a} {x0 x1 x2 x3} (h : Keeps a x0) :
    Keeps a (State.formToken x0 x1 x2 x3) := by
  unfold State.formToken
  repeat' first
    | with_reducible assumption
    | with_reducible apply State.latchToken_keeps
    | with_reducible apply State.nextOp_keeps
    | with_reducible apply State.broadcast_keeps
    | with_reducible apply State.keepSent_keeps
    | (extract_lets +onlyGivenNames v; refine Keeps.cut (a := a) (x := v) ?_ (fun hv => ?_); subst v; rotate_left; clear_value v; rotate_left)
    | with_reducible apply Keeps.ite

theorem State.actVerdict_keeps {a} {x0 x1 x2 x3} (h : Keeps a x0) :
    Keeps a (State.actVerdict x0 x1 x2 x3) := by
  unfold State.actVerdict
  repeat' first
    | with_reducible assumption
    | with_reducible apply State.fenceNow_keeps
    | with_reducible apply State.setFlag_keeps
    | (extract_lets +onlyGivenNames v; refine Keeps.cut (a := a) (x := v) ?_ (fun hv => ?_); subst v; rotate_left; clear_value v; rotate_left)
    | (extract_lets +onlyGivenNames v; clear_value v)
    | with_reducible apply Keeps.ite
    | fail_if_no_progress (with_reducible refine Keeps.upd ?_ rfl rfl rfl rfl rfl)

theorem State.takeVerdict_keeps {a} {x0 x1 x2} (h : Keeps a x0) :
    Keeps a (State.takeVerdict x0 x1 x2) := by
  unfold State.takeVerdict
  repeat' first
    | with_reducible assumption
    | with_reducible apply State.actVerdict_keeps
    | (extract_lets +onlyGivenNames v; clear_value v)
    | fail_if_no_progress (with_reducible refine Keeps.upd ?_ rfl rfl rfl rfl rfl)
    | split

theorem State.recordCompared_keeps {a} {x0 x1} (h : Keeps a x0) :
    Keeps a (State.recordCompared x0 x1) := by
  unfold State.recordCompared
  repeat' first
    | with_reducible assumption
    | with_reducible apply State.actVerdict_keeps
    | (extract_lets +onlyGivenNames v; refine Keeps.cut (a := a) (x := v) ?_ (fun hv => ?_); subst v; rotate_left; clear_value v; rotate_left)
    | (extract_lets +onlyGivenNames v; clear_value v)
    | fail_if_no_progress (with_reducible refine Keeps.upd ?_ rfl rfl rfl rfl rfl)
    | split

theorem State.lateReport_keeps {a} {x0} (h : Keeps a x0) :
    Keeps a (State.lateReport x0) := by
  unfold State.lateReport
  repeat' first
    | with_reducible assumption
    | with_reducible apply State.tally_keeps

theorem State.takeReport_keeps {a} {x0 x1 x2 x3} (h : Keeps a x0) :
    Keeps a (State.takeReport x0 x1 x2 x3) := by
  unfold State.takeReport
  repeat' first
    | with_reducible assumption
    | with_reducible apply State.lateReport_keeps
    | (extract_lets +onlyGivenNames v; clear_value v)
    | with_reducible apply Keeps.ite
    | fail_if_no_progress (with_reducible refine Keeps.upd ?_ rfl rfl rfl rfl rfl)
    | split

theorem State.report_keeps {a} {x0 x1 x2} (h : Keeps a x0) :
    Keeps a (State.report x0 x1 x2) := by
  unfold State.report
  repeat' first
    | with_reducible assumption
    | with_reducible apply State.count_keeps
    | with_reducible apply State.takeReport_keeps
    | with_reducible apply State.nextOp_keeps
    | with_reducible apply State.send_keeps
    | (extract_lets +onlyGivenNames v; refine Keeps.cut (a := a) (x := v) ?_ (fun hv => ?_); subst v; rotate_left; clear_value v; rotate_left)
    | (extract_lets +onlyGivenNames v; clear_value v)
    | with_reducible apply Keeps.ite
    | fail_if_no_progress (with_reducible refine Keeps.upd ?_ rfl rfl rfl rfl rfl)

theorem State.closeVote_keeps {a} {x0} (h : Keeps a x0) :
    Keeps a (State.closeVote x0) := by
  unfold State.closeVote
  repeat' first
    | with_reducible assumption
    | with_reducible apply State.nextOp_keeps
    | with_reducible apply State.takeVerdict_keeps
    | with_reducible apply State.broadcast_keeps
    | (extract_lets +onlyGivenNames v; clear_value v)
    | fail_if_no_progress (with_reducible refine Keeps.upd ?_ rfl rfl rfl rfl rfl)
    | split

theorem State.verdictLate_keeps {a} {x0 x1} (h : Keeps a x0) :
    Keeps a (State.verdictLate x0 x1) := by
  unfold State.verdictLate
  repeat' first
    | with_reducible assumption
    | with_reducible apply State.fenceNow_keeps
    | (extract_lets +onlyGivenNames v; clear_value v)
    | with_reducible apply Keeps.ite
    | fail_if_no_progress (with_reducible refine Keeps.upd ?_ rfl rfl rfl rfl rfl)

end Sys2Proof.Machine
end

