-- ==== Sys2Proof/Laws/KeepsDomain.lean ====
section
/-! SUPPORT. The operations of `Machine/Domain.lean` keep what no command disturbs. -/

namespace Sys2Proof.Machine


theorem State.setDom_keeps {a} {x0 x1} (h : Keeps a x0) :
    Keeps a (State.setDom x0 x1) := by
  unfold State.setDom
  repeat' first
    | with_reducible assumption
    | (extract_lets +onlyGivenNames v; (have _w : Fabric := v); subst v)
    | fail_if_no_progress (with_reducible refine Keeps.upd ?_ rfl rfl rfl rfl rfl)

theorem State.domResult_keeps {a} {x0 x1 x2 x3 x4} (h : Keeps a x0) :
    Keeps a (State.domResult x0 x1 x2 x3 x4) := by
  unfold State.domResult
  repeat' first
    | with_reducible assumption
    | with_reducible apply State.wrBytes_keeps

theorem State.judgePrep_keeps {a} {x0 x1 x2} (h : Keeps a x0) :
    Keeps a (State.judgePrep x0 x1 x2).2 := by
  unfold State.judgePrep
  repeat' first
    | with_reducible assumption
    | with_reducible apply State.runCheck_keeps
    | (with_reducible apply Keeps.ofSnd; · with_reducible assumption)
    | split

theorem State.prepare_keeps {a} {x0 x1 x2 x3 x4} (h : Keeps a x0) :
    Keeps a (State.prepare x0 x1 x2 x3 x4).2 := by
  unfold State.prepare
  repeat' first
    | with_reducible assumption
    | with_reducible apply State.judgePrep_keeps
    | with_reducible apply State.domResult_keeps
    | with_reducible apply State.arm_keeps
    | with_reducible apply State.setDom_keeps
    | with_reducible apply Keeps.ite

theorem State.domFire_keeps {a} {x0 x1} (h : Keeps a x0) :
    Keeps a (State.domFire x0 x1) := by
  unfold State.domFire
  repeat' first
    | with_reducible assumption
    | with_reducible apply State.setDom_keeps
    | with_reducible apply State.fire_keeps
    | with_reducible apply State.count_keeps
    | with_reducible apply State.domResult_keeps
    | (extract_lets +onlyGivenNames v; clear_value v)
    | with_reducible apply Keeps.ite
    | split

theorem State.domGo_keeps {a} {x0 x1} (h : Keeps a x0) :
    Keeps a (State.domGo x0 x1) := by
  unfold State.domGo
  repeat' first
    | with_reducible assumption
    | with_reducible apply State.domFire_keeps
    | with_reducible apply State.setDom_keeps
    | with_reducible apply Keeps.ite
    | split

theorem State.domCancel_keeps {a} {x0 x1 x2 x3} (h : Keeps a x0) :
    Keeps a (State.domCancel x0 x1 x2 x3) := by
  unfold State.domCancel
  repeat' first
    | with_reducible assumption
    | with_reducible apply State.setDom_keeps
    | with_reducible apply State.bumpGen_keeps
    | with_reducible apply State.discardScope_keeps
    | with_reducible apply State.disarm_keeps
    | with_reducible apply State.tally_keeps
    | with_reducible apply State.raise_keeps
    | with_reducible apply State.domResult_keeps
    | (extract_lets +onlyGivenNames v; refine Keeps.cut (a := a) (x := v) ?_ (fun hv => ?_); subst v; rotate_left; clear_value v; rotate_left)
    | with_reducible apply Keeps.ite
    | split

theorem State.decideVotes_keeps {a} {x0} (h : Keeps a x0) :
    Keeps a (State.decideVotes x0) := by
  unfold State.decideVotes
  repeat' first
    | with_reducible assumption
    | with_reducible apply State.nextOp_keeps
    | with_reducible apply State.domGo_keeps
    | with_reducible apply State.broadcast_keeps
    | with_reducible apply State.domCancel_keeps
    | (extract_lets +onlyGivenNames v; clear_value v)
    | with_reducible apply Keeps.ite
    | split

theorem State.takeVote_keeps {a} {x0 x1 x2 x3} (h : Keeps a x0) :
    Keeps a (State.takeVote x0 x1 x2 x3) := by
  unfold State.takeVote
  repeat' first
    | with_reducible assumption
    | with_reducible apply State.setDom_keeps
    | with_reducible apply State.decideVotes_keeps
    | (extract_lets +onlyGivenNames v; refine Keeps.cut (a := a) (x := v) ?_ (fun hv => ?_); subst v; rotate_left; clear_value v; rotate_left)
    | (extract_lets +onlyGivenNames v; clear_value v)
    | with_reducible apply Keeps.ite
    | split

theorem State.domStart_keeps {a} {x0 x1 x2} (h : Keeps a x0) :
    Keeps a (State.domStart x0 x1 x2).2 := by
  unfold State.domStart
  repeat' first
    | with_reducible assumption
    | with_reducible apply State.nextOp_keeps
    | with_reducible apply State.broadcast_keeps
    | with_reducible apply State.prepare_keeps
    | with_reducible apply State.takeVote_keeps
    | (extract_lets +onlyGivenNames v; clear_value v)
    | split

theorem State.takePrep_keeps {a} {x0 x1} (h : Keeps a x0) :
    Keeps a (State.takePrep x0 x1) := by
  unfold State.takePrep
  repeat' first
    | with_reducible assumption
    | with_reducible apply State.prepare_keeps
    | with_reducible apply State.nextOp_keeps
    | with_reducible apply State.send_keeps
    | (extract_lets +onlyGivenNames v; clear_value v)
    | with_reducible apply Keeps.ite
    | split

theorem State.voteDeadline_keeps {a} {x0} (h : Keeps a x0) :
    Keeps a (State.voteDeadline x0) := by
  unfold State.voteDeadline
  repeat' first
    | with_reducible assumption
    | with_reducible apply State.decideVotes_keeps

theorem State.domInstant_keeps {a} {x0} (h : Keeps a x0) :
    Keeps a (State.domInstant x0) := by
  unfold State.domInstant
  repeat' first
    | with_reducible assumption
    | with_reducible apply State.domFire_keeps
    | with_reducible apply State.disarm_keeps
    | with_reducible apply State.setDom_keeps
    | with_reducible apply State.tally_keeps
    | with_reducible apply State.raise_keeps
    | with_reducible apply State.domResult_keeps
    | (extract_lets +onlyGivenNames v; refine Keeps.cut (a := a) (x := v) ?_ (fun hv => ?_); subst v; rotate_left; clear_value v; rotate_left)
    | with_reducible apply Keeps.ite
    | split

theorem State.domBoundary_keeps {a} {x0 x1} (h : Keeps a x0) :
    Keeps a (State.domBoundary x0 x1) := by
  unfold State.domBoundary
  repeat' first
    | with_reducible assumption
    | with_reducible apply State.domFire_keeps
    | with_reducible apply Keeps.ite
    | split

theorem State.decideBefore_keeps {a} {x0 x1} (h : Keeps a x0) :
    Keeps a (State.decideBefore x0 x1) := by
  unfold State.decideBefore
  repeat' first
    | with_reducible assumption
    | with_reducible apply State.decideVotes_keeps
    | with_reducible apply Keeps.ite
    | split

end Sys2Proof.Machine
end

