-- ==== Sys2Proof/Laws/KeepsBoundary.lean ====
section
/-! SUPPORT. The operations of `Machine/Boundary.lean` keep what no command disturbs. -/

namespace Sys2Proof.Machine


theorem checkCommit_keeps {x0 x1 x2}  :
    OkP NoteKeeps (checkCommit x0 x1 x2) := by
  unfold checkCommit
  repeat' first
    | with_reducible apply BodyCheck.fieldIf_keeps
    | with_reducible apply OkP.ok

theorem State.compareToken_keeps {a} {x0 x1 x2} (h : Keeps a x0) :
    Keeps a (State.compareToken x0 x1 x2) := by
  unfold State.compareToken
  repeat' first
    | with_reducible assumption
    | with_reducible apply State.updCtx_keeps
    | with_reducible apply State.finish_keeps
    | with_reducible apply State.setItem_keeps
    | with_reducible apply State.report_keeps
    | with_reducible apply State.stopItem_keeps
    | with_reducible apply State.count_keeps
    | with_reducible apply State.recordCompared_keeps
    | (extract_lets +onlyGivenNames v; clear_value v)
    | with_reducible apply Keeps.ite

theorem workCommit_keeps {a} {x0 x1} (h : Keeps a x1) :
    Keeps a (workCommit x0 x1) := by
  unfold workCommit
  repeat' first
    | with_reducible assumption
    | with_reducible apply State.formToken_keeps
    | with_reducible apply State.decideBefore_keeps
    | with_reducible apply State.compareToken_keeps
    | with_reducible apply State.setItem_keeps
    | (extract_lets +onlyGivenNames v; refine Keeps.cut (a := a) (x := v) ?_ (fun hv => ?_); subst v; rotate_left; clear_value v; rotate_left)
    | with_reducible apply Keeps.ite
    | split

theorem startCommit_keeps {a} {x0 x1 x2} (h : Keeps a x2) :
    Keeps a (startCommit x0 x1 x2) := by
  unfold startCommit
  repeat' first
    | with_reducible assumption
    | with_reducible apply workCommit_keeps
    | with_reducible apply State.closeSlots_keeps

theorem State.commitLate_keeps {a} {x0 x1} (h : Keeps a x0) :
    Keeps a (State.commitLate x0 x1) := by
  unfold State.commitLate
  repeat' first
    | with_reducible assumption
    | with_reducible apply State.stopItem_keeps
    | with_reducible apply Keeps.ite
    | split

theorem State.commitTrails_keeps {a} {x0 x1} (h : Keeps a x0) :
    Keeps a (State.commitTrails x0 x1) := by
  unfold State.commitTrails
  repeat' first
    | with_reducible assumption
    | with_reducible apply State.rewriteTrail_keeps
    | (extract_lets +onlyGivenNames v; refine Keeps.cut (a := a) (x := v) ?_ (fun hv => ?_); subst v; rotate_left; clear_value v; rotate_left)
    | (extract_lets +onlyGivenNames v; clear_value v)
    | (with_reducible refine Keeps.fold (fun _ _ _ => ?_) _ ?_)
    | fail_if_no_progress (with_reducible refine Keeps.upd ?_ rfl rfl rfl rfl rfl)

theorem State.skippedStep_keeps {a} {x0 x1 x2 x3} (h : Keeps a x0) :
    Keeps a (State.skippedStep x0 x1 x2 x3) := by
  unfold State.skippedStep
  repeat' first
    | with_reducible assumption
    | with_reducible apply State.raise_keeps
    | with_reducible apply State.tally_keeps
    | with_reducible apply State.wrN_keeps
    | with_reducible apply State.wr_keeps

theorem State.markStep_keeps {a} {x0 x1 x2} (h : Keeps a x0) :
    Keeps a (State.markStep x0 x1 x2) := by
  unfold State.markStep
  repeat' first
    | with_reducible assumption
    | with_reducible apply State.emit_keeps
    | with_reducible apply Keeps.ite

theorem State.commitStep_keeps {a} {x0 x1 x2} (h : Keeps a x0) :
    Keeps a (State.commitStep x0 x1 x2) := by
  unfold State.commitStep
  repeat' first
    | with_reducible assumption
    | with_reducible apply State.commitTrails_keeps
    | with_reducible apply State.wr_keeps
    | with_reducible apply State.skippedStep_keeps
    | with_reducible apply State.markStep_keeps
    | with_reducible apply Keeps.ite

theorem State.promote_keeps {a} {x0 x1 x2} (h : Keeps a x0) :
    Keeps a (State.promote x0 x1 x2) := by
  unfold State.promote
  repeat' first
    | with_reducible assumption
    | with_reducible apply State.noteUe_keeps
    | with_reducible apply State.wrDevice_keeps
    | with_reducible apply State.writeLevel_keeps
    | with_reducible apply State.tally_keeps
    | with_reducible apply State.count_keeps
    | (extract_lets +onlyGivenNames v; refine Keeps.cut (a := a) (x := v) ?_ (fun hv => ?_); subst v; rotate_left; clear_value v; rotate_left)
    | (extract_lets +onlyGivenNames v; clear_value v)
    | with_reducible apply Keeps.ite
    | split

theorem State.promoteAll_keeps {a} {x0 x1 x2} (h : Keeps a x0) :
    Keeps a (State.promoteAll x0 x1 x2) := by
  unfold State.promoteAll
  repeat' first
    | with_reducible assumption
    | with_reducible apply State.promote_keeps
    | with_reducible apply Keeps.ite
    | (with_reducible refine Keeps.fold (fun _ _ _ => ?_) _ ?_)

theorem State.boundaryChanges_keeps {a} {x0 x1 x2} (h : Keeps a x0) :
    Keeps a (State.boundaryChanges x0 x1 x2) := by
  unfold State.boundaryChanges
  repeat' first
    | with_reducible assumption
    | with_reducible apply State.flipAll_keeps
    | with_reducible apply State.promoteAll_keeps
    | with_reducible apply State.domBoundary_keeps
    | with_reducible apply State.fireBoundary_keeps
    | with_reducible apply State.regangOf_keeps

theorem State.confirmEngines_keeps {a} {x0 x1} (h : Keeps a x0) : Keeps a (State.confirmEngines x0 x1) :=
  h.trans ⟨rfl, List.prefix_rfl, Nat.le_refl _, fun w => { w with
    engines := Store.wf_map _ _ (fun e : Engine => { e with active := e.active.map (StreamProg.confirmed x1), shadow := e.shadow.map (StreamProg.confirmed x1) })
      (fun v e => by
        obtain ⟨st, ac, sh⟩ := v
        simp only [Engine.init, Engine.mk.injEq, Option.map_eq_none_iff] at e ⊢
        exact e) w.engines }⟩

theorem State.confirmAhead_keeps {a} {x0 x1} (h : Keeps a x0) :
    Keeps a (State.confirmAhead x0 x1) := by
  unfold State.confirmAhead
  repeat' first
    | with_reducible assumption
    | with_reducible apply State.rewriteTrail_keeps
    | with_reducible apply State.confirmEngines_keeps
    | (extract_lets +onlyGivenNames v; refine Keeps.cut (a := a) (x := v) ?_ (fun hv => ?_); subst v; rotate_left; clear_value v; rotate_left)
    | (extract_lets +onlyGivenNames v; clear_value v)
    | (with_reducible refine Keeps.fold (fun _ _ _ => ?_) _ ?_)
    | fail_if_no_progress (with_reducible refine Keeps.upd ?_ rfl rfl rfl rfl rfl)

theorem State.runState_keeps {a} {x0 x1} (h : Keeps a x0) :
    Keeps a (State.runState x0 x1) := by
  unfold State.runState
  repeat' first
    | with_reducible assumption
    | with_reducible apply State.updCtx_keeps

theorem State.successor_keeps {a} {x0 x1 x2} (h : Keeps a x0) :
    Keeps a (State.successor x0 x1 x2).1 := by
  unfold State.successor
  repeat' first
    | with_reducible assumption
    | with_reducible apply State.judgeEntry_keeps
    | split

theorem State.boundaryNext_keeps {a} {x0 x1} (h : Keeps a x0) :
    Keeps a (State.boundaryNext x0 x1) := by
  unfold State.boundaryNext
  repeat' first
    | with_reducible assumption
    | with_reducible apply State.updCtx_keeps
    | with_reducible apply State.successor_keeps
    | with_reducible apply State.confirmAhead_keeps
    | with_reducible apply State.postRec_keeps
    | with_reducible apply State.runState_keeps
    | with_reducible apply State.closeSlots_keeps
    | with_reducible apply State.openStep_keeps
    | with_reducible apply State.discardAhead_keeps
    | with_reducible apply State.rejectHeader_keeps
    | (with_reducible apply Keeps.ofFst; · with_reducible assumption)
    | (extract_lets +onlyGivenNames v; (have _w : State → State := v); subst v)
    | with_reducible apply Keeps.ite
    | (with_reducible refine Keeps.fold (fun _ _ _ => ?_) _ ?_)
    | split

theorem State.snapInterval_keeps {a} {x0} (h : Keeps a x0) :
    Keeps a (State.snapInterval x0) := by
  unfold State.snapInterval
  repeat' first
    | with_reducible assumption
    | with_reducible apply State.freeW_keeps
    | with_reducible apply State.wrN_keeps
    | (extract_lets +onlyGivenNames v; clear_value v)
    | with_reducible apply Keeps.ite

theorem State.boundaryTimes_keeps {a} {x0 x1} (h : Keeps a x0) :
    Keeps a (State.boundaryTimes x0 x1) := by
  unfold State.boundaryTimes
  repeat' first
    | with_reducible assumption
    | with_reducible apply State.wrN_keeps
    | with_reducible apply State.snapInterval_keeps
    | (extract_lets +onlyGivenNames v; refine Keeps.cut (a := a) (x := v) ?_ (fun hv => ?_); subst v; rotate_left; clear_value v; rotate_left)
    | (extract_lets +onlyGivenNames v; clear_value v)
    | fail_if_no_progress (with_reducible refine Keeps.upd ?_ rfl rfl rfl rfl rfl)
    | split

theorem State.boundaryRest_keeps {a} {x0 x1 x2 x3} (h : Keeps a x0) :
    Keeps a (State.boundaryRest x0 x1 x2 x3) := by
  unfold State.boundaryRest
  repeat' first
    | with_reducible assumption
    | with_reducible apply State.boundaryChanges_keeps
    | with_reducible apply State.freeze_keeps
    | with_reducible apply State.boundaryNext_keeps
    | with_reducible apply State.updCtx_keeps
    | with_reducible apply State.wrBytes_keeps
    | with_reducible apply State.boundaryTimes_keeps
    | with_reducible apply State.wrN_keeps
    | with_reducible apply State.fetchMore_keeps
    | with_reducible apply Keeps.ite

theorem State.sealCommit_keeps {a} {x0 x1} (h : Keeps a x0) :
    Keeps a (State.sealCommit x0 x1) := by
  unfold State.sealCommit
  repeat' first
    | with_reducible assumption
    | with_reducible apply State.commitItem_keeps
    | with_reducible apply State.boundaryRest_keeps
    | with_reducible apply State.commitStep_keeps
    | (extract_lets +onlyGivenNames v; refine Keeps.cut (a := a) (x := v) ?_ (fun hv => ?_); subst v; rotate_left; clear_value v; rotate_left)
    | (extract_lets +onlyGivenNames v; clear_value v)
    | with_reducible apply Keeps.ite
    | split

end Sys2Proof.Machine
end

