-- ==== Sys2Proof/Laws/KeepsHalt.lean ====
section
/-! SUPPORT. The operations of `Machine/Halt.lean` keep what no command disturbs. -/

namespace Sys2Proof.Machine


theorem State.stopEngine_keeps {a} {x0 x1 x2} (h : Keeps a x0) :
    Keeps a (State.stopEngine x0 x1 x2) := by
  unfold State.stopEngine
  repeat' first
    | with_reducible assumption
    | with_reducible apply State.setEngine_keeps
    | (extract_lets +onlyGivenNames v; clear_value v)
    | with_reducible apply Keeps.ite
    | split

theorem State.discardLines_keeps {a} {x0 x1} (h : Keeps a x0) :
    Keeps a (State.discardLines x0 x1) := by
  unfold State.discardLines
  repeat' first
    | with_reducible assumption
    | with_reducible apply State.setQueue_keeps
    | (extract_lets +onlyGivenNames v; clear_value v)
    | (with_reducible refine Keeps.fold (fun _ _ _ => ?_) _ ?_)

theorem State.abandonTile_keeps {a} {x0 x1} (h : Keeps a x0) :
    Keeps a (State.abandonTile x0 x1) := by
  unfold State.abandonTile
  repeat' first
    | with_reducible assumption
    | with_reducible apply State.setItem_keeps
    | with_reducible apply Keeps.ite
    | split

theorem State.stopAtPoint_keeps {a} {x0 x1} (h : Keeps a x0) :
    Keeps a (State.stopAtPoint x0 x1) := by
  unfold State.stopAtPoint
  repeat' first
    | with_reducible assumption
    | with_reducible apply State.preemptItem_keeps
    | with_reducible apply State.stopHeader_keeps
    | with_reducible apply Keeps.ite
    | split

theorem State.stopUnits_keeps {a} {x0 x1} (h : Keeps a x0) :
    Keeps a (State.stopUnits x0 x1) := by
  unfold State.stopUnits
  repeat' first
    | with_reducible assumption
    | with_reducible apply State.abandonTile_keeps
    | with_reducible apply State.stopEngine_keeps
    | with_reducible apply State.stopAtPoint_keeps
    | with_reducible apply State.discardLines_keeps
    | (with_reducible refine Keeps.fold (fun _ _ _ => ?_) _ ?_)

theorem State.stopLate_keeps {a} {x0} (h : Keeps a x0) :
    Keeps a (State.stopLate x0) := by
  unfold State.stopLate
  repeat' first
    | with_reducible assumption
    | with_reducible apply State.stopUnits_keeps
    | with_reducible apply Keeps.ite
    | (with_reducible refine Keeps.fold (fun _ _ _ => ?_) _ ?_)

end Sys2Proof.Machine
end

