-- ==== Sys2Proof/Laws/KeepsDma.lean ====
section
/-! SUPPORT. The operations of `Machine/Dma.lean` keep what no command disturbs. -/

namespace Sys2Proof.Machine


theorem startNop_keeps {a} {x0 x1 x2} (h : Keeps a x2) :
    Keeps a (startNop x0 x1 x2) := by
  unfold startNop
  repeat' first
    | with_reducible assumption
    | with_reducible apply State.finish_keeps

theorem checkNop_keeps {x0 x1 x2}  :
    OkP NoteKeeps (checkNop x0 x1 x2) := by
  unfold checkNop
  repeat' first
    | with_reducible apply BodyCheck.ok_keeps
    | with_reducible apply OkP.ok

theorem checkDma_keeps {x0 x1 x2}  :
    OkP NoteKeeps (checkDma x0 x1 x2) := by
  unfold checkDma
  repeat' first
    | with_reducible apply BodyCheck.fieldIf_keeps
    | with_reducible apply OkP.ok

theorem State.dmaError_keeps {a} {x0 x1} (h : Keeps a x0) :
    Keeps a (State.dmaError x0 x1) := by
  unfold State.dmaError
  repeat' first
    | with_reducible assumption
    | with_reducible apply State.failItem_keeps
    | with_reducible apply State.hostError_keeps

theorem State.dmaUnit_keeps {a} {x0 x1 x2} (h : Keeps a x0) :
    OkP (fun p => SomeP (Keeps a) p) (State.dmaUnit x0 x1 x2) := by
  unfold State.dmaUnit
  repeat' first
    | with_reducible assumption
    | with_reducible apply State.hostWriteTo_keeps
    | with_reducible apply State.vwrite_keeps
    | with_reducible apply State.setItem_keeps
    | with_reducible apply State.hostRead_keeps
    | (extract_lets +onlyGivenNames v; refine Keeps.cut (a := a) (x := v) ?_ (fun hv => ?_); subst v; rotate_left; clear_value v; rotate_left)
    | (extract_lets +onlyGivenNames v; clear_value v)
    | with_reducible apply OkP.ite
    | with_reducible apply OkP.pure
    | (with_reducible refine OkP.bindS (a := a) ?_ fun _ _ => ?_)
    | (with_reducible refine OkP.bind fun _ _ => ?_)
    | with_reducible exact SomeP.none
    | with_reducible apply SomeP.some
    | with_reducible apply Keeps.getD

theorem State.dmaFrom_keeps {a} {x0 x1 x2} (h : Keeps a x0) :
    Keeps a (State.dmaFrom x0 x1 x2) := by
  induction x2 generalizing x0 x1 with
  | zero =>
    unfold State.dmaFrom
    repeat' first
      | with_reducible assumption
  | succ n ih =>
    unfold State.dmaFrom
    repeat' first
      | with_reducible assumption
      | with_reducible apply State.finish_keeps
      | with_reducible apply State.preemptItem_keeps
      | with_reducible apply State.stopItem_keeps
      | with_reducible apply State.dmaError_keeps
      | with_reducible apply State.dmaUnit_keeps
      | with_reducible apply State.advance_keeps
      | with_reducible apply State.hostRead_keeps
      | with_reducible apply State.setItem_keeps
      | with_reducible apply ih
      | (with_reducible apply Keeps.ofOkSome; · with_reducible assumption)
      | (extract_lets +onlyGivenNames v; clear_value v)
      | with_reducible apply Keeps.ite
      | split

theorem workDma_keeps {a} {x0 x1} (h : Keeps a x1) :
    Keeps a (workDma x0 x1) := by
  unfold workDma
  repeat' first
    | with_reducible assumption
    | with_reducible apply State.dmaFrom_keeps

theorem startDma_keeps {a} {x0 x1 x2 x3 x4} (h : Keeps a x4) :
    Keeps a (startDma x0 x1 x2 x3 x4) := by
  unfold startDma
  repeat' first
    | with_reducible assumption
    | with_reducible apply workDma_keeps
    | with_reducible apply State.setItem_keeps

theorem State.dmaData_keeps {a} {x0 x1 x2} (h : Keeps a x0) :
    Keeps a (State.dmaData x0 x1 x2) := by
  unfold State.dmaData
  repeat' first
    | with_reducible assumption
    | with_reducible apply State.dmaError_keeps
    | with_reducible apply workDma_keeps
    | with_reducible apply State.setItem_keeps
    | split

end Sys2Proof.Machine
end

