-- ==== Sys2Proof/Laws/KeepsUpdate.lean ====
section
/-! SUPPORT. The operations of `Machine/Update.lean` keep what no command disturbs. -/

namespace Sys2Proof.Machine


theorem checkUpdate_keeps {x0 x1 x2}  :
    OkP NoteKeeps (checkUpdate x0 x1 x2) := by
  unfold checkUpdate
  repeat' first
    | (extract_lets +onlyGivenNames v; clear_value v)
    | with_reducible apply OkP.pure
    | (with_reducible refine OkP.bind fun _ _ => ?_)
    | exact NoteKeeps.of_id rfl

theorem State.writeBlock_keeps {a} {x0 x1 x2 x3 x4 x5} (h : Keeps a x0) :
    OkP (Keeps a) (State.writeBlock x0 x1 x2 x3 x4 x5) := by
  unfold State.writeBlock
  repeat' first
    | with_reducible assumption
    | with_reducible apply State.writeRow_keeps
    | with_reducible apply State.vwrite_keeps
    | with_reducible apply State.precCount_keeps
    | with_reducible apply State.tallyN_keeps
    | (extract_lets +onlyGivenNames v; refine Keeps.cut (a := a) (x := v) ?_ (fun hv => ?_); subst v; rotate_left; clear_value v; rotate_left)
    | (extract_lets +onlyGivenNames v; clear_value v)
    | with_reducible apply OkP.ite
    | with_reducible apply OkP.pure
    | (with_reducible refine OkP.bindS (a := a) ?_ fun _ _ => ?_)
    | split

theorem State.closeGroup_keeps {a} {x0 x1 x2 x3 x4} (h : Keeps a x0) :
    OkP (Keeps a) (State.closeGroup x0 x1 x2 x3 x4) := by
  unfold State.closeGroup
  repeat' first
    | with_reducible assumption
    | with_reducible apply State.vwrite_keeps
    | with_reducible apply State.wrN_keeps
    | with_reducible apply OkP.pure
    | (with_reducible refine OkP.bindS (a := a) ?_ fun _ _ => ?_)

theorem State.updBlock_keeps {a} {x0 x1 x2 x3 x4 x5} (h : Keeps a x0) :
    OkP (fun p => Keeps a p.1) (State.updBlock x0 x1 x2 x3 x4 x5) := by
  unfold State.updBlock
  repeat' first
    | with_reducible assumption
    | with_reducible apply State.tally_keeps
    | with_reducible apply State.writeBlock_keeps
    | with_reducible apply State.tallyN_keeps
    | with_reducible apply State.closeGroup_keeps
    | (extract_lets +onlyGivenNames v; clear_value v)
    | with_reducible apply OkP.ite
    | with_reducible apply OkP.pure
    | (with_reducible refine OkP.bindS (a := a) ?_ fun _ _ => ?_)
    | (with_reducible refine OkP.bindP (a := a) ?_ fun _ _ => ?_)
    | (with_reducible refine OkP.bind fun _ _ => ?_)
    | split

theorem State.updStep_keeps {a} {x0 x1 x2} (h : Keeps a x0) :
    OkP (fun p => Keeps a p.1) (State.updStep x0 x1 x2) := by
  unfold State.updStep
  repeat' first
    | with_reducible assumption
    | with_reducible apply State.tally_keeps
    | with_reducible apply State.closeGroup_keeps
    | with_reducible apply State.updBlock_keeps
    | (extract_lets +onlyGivenNames v; clear_value v)
    | with_reducible apply Keeps.ite
    | with_reducible apply OkP.ite
    | with_reducible apply OkP.pure
    | (with_reducible refine OkP.bindS (a := a) ?_ fun _ _ => ?_)
    | (with_reducible refine OkP.bindP (a := a) ?_ fun _ _ => ?_)
    | (with_reducible refine OkP.bind fun _ _ => ?_)

theorem State.updFrom_keeps {a} {x0 x1 x2 x3} (h : Keeps a x0) :
    Keeps a (State.updFrom x0 x1 x2 x3) := by
  induction x3 generalizing x0 x1 x2 with
  | zero =>
    unfold State.updFrom
    repeat' first
      | with_reducible assumption
  | succ n ih =>
    unfold State.updFrom
    repeat' first
      | with_reducible assumption
      | with_reducible apply State.finish_keeps
      | with_reducible apply State.updStep_keeps
      | with_reducible apply State.stopItem_keeps
      | with_reducible apply State.advance_keeps
      | with_reducible apply State.setItem_keeps
      | with_reducible apply ih
      | (with_reducible apply Keeps.ofOkFst; · with_reducible assumption)
      | with_reducible apply Keeps.ite
      | split

theorem workUpdate_keeps {a} {x0 x1} (h : Keeps a x1) :
    Keeps a (workUpdate x0 x1) := by
  unfold workUpdate
  repeat' first
    | with_reducible assumption
    | with_reducible apply State.finish_keeps
    | with_reducible apply State.updFrom_keeps
    | with_reducible apply Keeps.ite
    | split

theorem startUpdate_keeps {a} {x0 x1 x2} (h : Keeps a x2) :
    Keeps a (startUpdate x0 x1 x2) := by
  unfold startUpdate
  repeat' first
    | with_reducible assumption
    | with_reducible apply workUpdate_keeps
    | with_reducible apply State.updCtx_keeps
    | with_reducible apply State.setItem_keeps

theorem State.sealUpdate_keeps {a} {x0 x1} (h : Keeps a x0) :
    Keeps a (State.sealUpdate x0 x1) := by
  unfold State.sealUpdate
  repeat' first
    | with_reducible assumption
    | with_reducible apply State.count_keeps
    | with_reducible apply State.tallyN_keeps
    | (extract_lets +onlyGivenNames v; clear_value v)
    | with_reducible apply Keeps.ite

end Sys2Proof.Machine
end

