-- ==== Sys2Proof/Laws/KeepsProgress.lean ====
section
/-! SUPPORT. The operations of `Machine/Progress.lean` keep what no command disturbs. -/

namespace Sys2Proof.Machine


theorem workStream_keeps {a} {x0 x1} (h : Keeps a x1) :
    Keeps a (workStream x0 x1) := by
  unfold workStream
  repeat' first
    | with_reducible assumption
    | with_reducible apply State.pump_keeps
    | with_reducible apply State.activate_keeps
    | (extract_lets +onlyGivenNames v; clear_value v)
    | with_reducible apply Keeps.ite
    | split

theorem workItem_keeps {a} {x0 x1} (h : Keeps a x1) :
    Keeps a (workItem x0 x1) := by
  unfold workItem
  repeat' first
    | with_reducible assumption
    | with_reducible apply workTile_keeps
    | with_reducible apply workVector_keeps
    | with_reducible apply workStream_keeps
    | with_reducible apply workSample_keeps
    | with_reducible apply workGather_keeps
    | with_reducible apply workScatter_keeps
    | with_reducible apply workCoalesce_keeps
    | with_reducible apply workReduce_keeps
    | with_reducible apply workUpdate_keeps
    | with_reducible apply workCommit_keeps
    | with_reducible apply workMigrate_keeps
    | with_reducible apply workSnapshot_keeps
    | with_reducible apply workDma_keeps
    | with_reducible apply State.finish_keeps
    | split

theorem State.kickItem_keeps {a} {x0 x1} (h : Keeps a x0) :
    Keeps a (State.kickItem x0 x1) := by
  unfold State.kickItem
  repeat' first
    | with_reducible assumption
    | with_reducible apply workItem_keeps
    | with_reducible apply Keeps.ite
    | split

theorem State.unpark_keeps {a} {x0} (h : Keeps a x0) :
    Keeps a (State.unpark x0) := by
  unfold State.unpark
  repeat' first
    | with_reducible assumption
    | with_reducible apply State.runState_keeps
    | with_reducible apply Keeps.ite
    | (with_reducible refine Keeps.fold (fun _ _ _ => ?_) _ ?_)

theorem State.kickFor_keeps {a} {x0 x1} (h : Keeps a x0) :
    Keeps a (State.kickFor x0 x1) := by
  induction x1 generalizing x0 with
  | zero =>
    unfold State.kickFor
    repeat' first
      | with_reducible assumption
  | succ n ih =>
    unfold State.kickFor
    repeat' first
      | with_reducible assumption
      | with_reducible apply State.kickItem_keeps
      | with_reducible apply ih
      | (with_reducible refine Keeps.fold (fun _ _ _ => ?_) _ ?_)

theorem State.kick_keeps {a} {x0} (h : Keeps a x0) :
    Keeps a (State.kick x0) := by
  unfold State.kick
  repeat' first
    | with_reducible assumption
    | with_reducible apply State.stopLate_keeps
    | with_reducible apply State.unpark_keeps
    | with_reducible apply State.kickFor_keeps

theorem State.sealItem_keeps {a} {x0 x1} (h : Keeps a x0) :
    OkP (Keeps a) (State.sealItem x0 x1) := by
  unfold State.sealItem
  repeat' first
    | with_reducible assumption
    | with_reducible apply State.sealSample_keeps
    | with_reducible apply State.sealCoalesce_keeps
    | with_reducible apply State.sealReduce_keeps
    | with_reducible apply State.sealUpdate_keeps
    | with_reducible apply State.sealSnapshot_keeps
    | with_reducible apply OkP.ok
    | split

theorem State.completeItem_keeps {a} {x0 x1} (h : Keeps a x0) :
    Keeps a (State.completeItem x0 x1) := by
  unfold State.completeItem
  repeat' first
    | with_reducible assumption
    | with_reducible apply State.sealCommit_keeps
    | with_reducible apply State.sealItem_keeps
    | with_reducible apply State.sampleStop_keeps
    | with_reducible apply State.stopItem_keeps
    | with_reducible apply State.commitItem_keeps
    | with_reducible apply State.count_keeps
    | (with_reducible apply Keeps.ofOk; · with_reducible assumption)
    | (extract_lets +onlyGivenNames v; refine Keeps.cut (a := a) (x := v) ?_ (fun hv => ?_); subst v; rotate_left; clear_value v; rotate_left)
    | (extract_lets +onlyGivenNames v; clear_value v)
    | with_reducible apply Keeps.ite
    | split

end Sys2Proof.Machine
end

