-- ==== Sys2Proof/Laws/KeepsControl.lean ====
section
/-! SUPPORT. The operations of `Machine/Control.lean` keep what no command disturbs. -/

namespace Sys2Proof.Machine


theorem State.refuseControl_keeps {a} {x0 x1} (h : Keeps a x0) :
    Keeps a (State.refuseControl x0 x1).2 := by
  unfold State.refuseControl
  repeat' first
    | with_reducible assumption
    | with_reducible apply State.count_keeps

theorem State.preempt_keeps {a} {x0 x1} (h : Keeps a x0) :
    Keeps a (State.preempt x0 x1).2 := by
  unfold State.preempt
  repeat' first
    | with_reducible assumption
    | with_reducible apply State.refuseControl_keeps
    | with_reducible apply State.noteUe_keeps
    | with_reducible apply State.setCtx_keeps
    | with_reducible apply State.stopUnits_keeps
    | (extract_lets +onlyGivenNames v; clear_value v)
    | split

theorem State.saved_keeps {a} {x0 x1} (h : Keeps a x0) :
    Keeps a (State.saved x0 x1) := by
  unfold State.saved
  repeat' first
    | with_reducible assumption
    | with_reducible apply State.countDenied_keeps
    | with_reducible apply State.poke_keeps
    | with_reducible apply State.wrN_keeps
    | with_reducible apply State.count_keeps
    | with_reducible apply State.updCtx_keeps
    | (extract_lets +onlyGivenNames v; refine Keeps.cut (a := a) (x := v) ?_ (fun hv => ?_); subst v; rotate_left; clear_value v; rotate_left)
    | (extract_lets +onlyGivenNames v; clear_value v)
    | with_reducible apply Keeps.ite
    | (with_reducible refine Keeps.fold (fun _ _ _ => ?_) _ ?_)

theorem State.restartEngine_keeps {a} {x0 x1 x2} (h : Keeps a x0) :
    Keeps a (State.restartEngine x0 x1 x2) := by
  unfold State.restartEngine
  repeat' first
    | with_reducible assumption
    | with_reducible apply State.setEngine_keeps
    | with_reducible apply State.openSluices_keeps
    | (extract_lets +onlyGivenNames v; clear_value v)
    | with_reducible apply Keeps.ite
    | split

theorem State.wake_keeps {a} {x0 x1} (h : Keeps a x0) :
    Keeps a (State.wake x0 x1) := by
  unfold State.wake
  repeat' first
    | with_reducible assumption
    | fail_if_no_progress (with_reducible refine Keeps.upd ?_ rfl rfl rfl rfl rfl)

theorem State.reread_keeps {a} {x0 x1} (h : Keeps a x0) :
    Keeps a (State.reread x0 x1) := by
  unfold State.reread
  repeat' first
    | with_reducible assumption
    | with_reducible apply State.setItem_keeps
    | with_reducible apply State.stopItem_keeps
    | with_reducible apply Keeps.ite
    | split

theorem State.resumed_keeps {a} {x0 x1} (h : Keeps a x0) :
    Keeps a (State.resumed x0 x1) := by
  unfold State.resumed
  repeat' first
    | with_reducible assumption
    | with_reducible apply State.setCtx_keeps
    | with_reducible apply State.wake_keeps
    | with_reducible apply State.reread_keeps
    | with_reducible apply State.kick_keeps
    | with_reducible apply State.restartEngine_keeps
    | with_reducible apply State.openEntry_keeps
    | with_reducible apply State.updCtx_keeps
    | with_reducible apply State.fetchMore_keeps
    | with_reducible apply Keeps.ite
    | (with_reducible refine Keeps.fold (fun _ _ _ => ?_) _ ?_)
    | split

theorem State.resume_keeps {a} {x0 x1} (h : Keeps a x0) :
    Keeps a (State.resume x0 x1).2 := by
  unfold State.resume
  repeat' first
    | with_reducible assumption
    | with_reducible apply State.refuseControl_keeps
    | with_reducible apply State.foundUe_keeps
    | with_reducible apply State.count_keeps
    | with_reducible apply State.tally_keeps
    | with_reducible apply State.resumed_keeps
    | (extract_lets +onlyGivenNames v; refine Keeps.cut (a := a) (x := v) ?_ (fun hv => ?_); subst v; rotate_left; clear_value v; rotate_left)
    | split

theorem State.resetUnits_keeps {a} {x0 x1} (h : Keeps a x0) :
    Keeps a (State.resetUnits x0 x1) := by
  unfold State.resetUnits
  repeat' first
    | with_reducible assumption
    | with_reducible apply State.dropStreams_keeps
    | with_reducible apply State.rewindTrails_keeps
    | (extract_lets +onlyGivenNames v; refine Keeps.cut (a := a) (x := v) ?_ (fun hv => ?_); subst v; rotate_left; clear_value v; rotate_left)
    | (with_reducible refine Keeps.fold (fun _ _ _ => ?_) _ ?_)
    | with_reducible apply Keeps.filterBars

theorem State.resetFabric_keeps {a} {x0 x1} (h : Keeps a x0) :
    Keeps a (State.resetFabric x0 x1) := by
  unfold State.resetFabric
  repeat' first
    | with_reducible assumption
    | (extract_lets +onlyGivenNames v; (have _w : Fabric := v); subst v)
    | (extract_lets +onlyGivenNames v; clear_value v)
    | fail_if_no_progress (with_reducible refine Keeps.upd ?_ rfl rfl rfl rfl rfl)

theorem State.resetCtx_keeps {a} {x0 x1 x2} (h : Keeps a x0) :
    Keeps a (State.resetCtx x0 x1 x2) := by
  unfold State.resetCtx
  repeat' first
    | with_reducible assumption
    | with_reducible apply State.discardAhead_keeps
    | with_reducible apply State.abortItems_keeps
    | with_reducible apply State.cancelArmed_keeps
    | with_reducible apply State.resetUnits_keeps
    | with_reducible apply State.resetFabric_keeps
    | with_reducible apply State.updCtx_keeps
    | with_reducible apply State.wrN_keeps

theorem State.unparkEngine_keeps {a} {x0 x1} (h : Keeps a x0) :
    Keeps a (State.unparkEngine x0 x1) := by
  unfold State.unparkEngine
  repeat' first
    | with_reducible assumption
    | with_reducible apply State.setEngine_keeps
    | with_reducible apply Keeps.ite
    | split

theorem State.faultResume_keeps {a} {x0 x1 x2} (h : Keeps a x0) :
    Keeps a (State.faultResume x0 x1 x2).2 := by
  unfold State.faultResume
  repeat' first
    | with_reducible assumption
    | with_reducible apply State.refuseControl_keeps
    | with_reducible apply State.updCtx_keeps
    | with_reducible apply State.unparkEngine_keeps
    | with_reducible apply State.kick_keeps
    | with_reducible apply State.wake_keeps
    | (extract_lets +onlyGivenNames v; refine Keeps.cut (a := a) (x := v) ?_ (fun hv => ?_); subst v; rotate_left; clear_value v; rotate_left)
    | (extract_lets +onlyGivenNames v; clear_value v)
    | (with_reducible refine Keeps.fold (fun _ _ _ => ?_) _ ?_)
    | split

theorem execPreempt_keeps {a} {x0 x1} (h : Keeps a x1) :
    NextP (Keeps a) (execPreempt x0 x1) := by
  unfold execPreempt
  repeat' first
    | with_reducible assumption
    | with_reducible apply State.updCtx_keeps
    | with_reducible apply State.refuseControl_keeps
    | with_reducible apply State.preempt_keeps
    | with_reducible apply NextP.ite
    | with_reducible apply NextP.next

theorem execResume_keeps {a} {x0 x1} (h : Keeps a x1) :
    NextP (Keeps a) (execResume x0 x1) := by
  unfold execResume
  repeat' first
    | with_reducible assumption
    | with_reducible apply State.resume_keeps
    | with_reducible apply NextP.next

theorem execReset_keeps {a} {x0 x1} (h : Keeps a x1) :
    NextP (Keeps a) (execReset x0 x1) := by
  unfold execReset
  repeat' first
    | with_reducible assumption
    | with_reducible apply State.updCtx_keeps
    | with_reducible apply State.resetCtx_keeps
    | with_reducible apply State.stopCtx_keeps
    | with_reducible apply NextP.ite
    | with_reducible apply NextP.next

theorem execSaveAreaWritten_keeps {a} {x0 x1} (h : Keeps a x1) :
    NextP (Keeps a) (execSaveAreaWritten x0 x1) := by
  unfold execSaveAreaWritten
  repeat' first
    | with_reducible assumption
    | with_reducible apply State.saved_keeps
    | with_reducible apply NextP.next

theorem execFaultResume_keeps {a} {x0 x1 x2} (h : Keeps a x2) :
    NextP (Keeps a) (execFaultResume x0 x1 x2) := by
  unfold execFaultResume
  repeat' first
    | with_reducible assumption
    | with_reducible apply settle_keeps
    | with_reducible apply State.faultResume_keeps
    | with_reducible apply NextP.next

end Sys2Proof.Machine
end

