-- ==== Sys2Proof/Laws/KeepsEvents.lean ====
section
/-! SUPPORT. The operations of `Machine/Events.lean` keep what no command disturbs. -/

namespace Sys2Proof.Machine


theorem execBarrierArrival_keeps {a} {x0 x1 x2} (h : Keeps a x2) :
    NextP (Keeps a) (execBarrierArrival x0 x1 x2) := by
  unfold execBarrierArrival
  repeat' first
    | with_reducible assumption
    | with_reducible apply State.kick_keeps
    | with_reducible apply State.arrive_keeps
    | with_reducible apply State.updCtx_keeps
    | with_reducible apply NextP.ite
    | with_reducible apply NextP.next

theorem execPaceRelease_keeps {a} {x0 x1} (h : Keeps a x1) :
    NextP (Keeps a) (execPaceRelease x0 x1) := by
  unfold execPaceRelease
  repeat' first
    | with_reducible assumption
    | with_reducible apply State.kick_keeps
    | with_reducible apply State.pace_keeps
    | with_reducible apply NextP.next

theorem execCommitTimeout_keeps {a} {x0 x1} (h : Keeps a x1) :
    NextP (Keeps a) (execCommitTimeout x0 x1) := by
  unfold execCommitTimeout
  repeat' first
    | with_reducible assumption
    | with_reducible apply State.commitLate_keeps
    | with_reducible apply NextP.next

theorem execSpecVerify_keeps {a} {x0 x1 x2 x3} (h : Keeps a x3) :
    NextP (Keeps a) (execSpecVerify x0 x1 x2 x3) := by
  unfold execSpecVerify
  repeat' first
    | with_reducible assumption
    | with_reducible apply State.kickItem_keeps
    | with_reducible apply State.verifyPass_keeps
    | with_reducible apply NextP.ite
    | with_reducible apply NextP.next
    | split

theorem execConservatorCompare_keeps {a} {x0 x1 x2} (h : Keeps a x2) :
    NextP (Keeps a) (execConservatorCompare x0 x1 x2) := by
  unfold execConservatorCompare
  repeat' first
    | with_reducible assumption
    | with_reducible apply State.compareTile_keeps
    | with_reducible apply NextP.ite
    | with_reducible apply NextP.next
    | split

theorem State.translated_keeps {a} {x0 x1} (h : Keeps a x0) :
    Keeps a (State.translated x0 x1) := by
  unfold State.translated
  repeat' first
    | with_reducible assumption
    | with_reducible apply State.pump_keeps
    | with_reducible apply State.setEngine_keeps
    | with_reducible apply State.streamStop_keeps
    | with_reducible apply State.stopItem_keeps
    | (extract_lets +onlyGivenNames v; clear_value v)
    | with_reducible apply Keeps.ite
    | split

theorem execStreamTranslated_keeps {a} {x0 x1} (h : Keeps a x1) :
    NextP (Keeps a) (execStreamTranslated x0 x1) := by
  unfold execStreamTranslated
  repeat' first
    | with_reducible assumption
    | with_reducible apply State.kick_keeps
    | with_reducible apply State.translated_keeps
    | with_reducible apply NextP.next

theorem execStreamProgramEnd_keeps {a} {x0 x1} (h : Keeps a x1) :
    NextP (Keeps a) (execStreamProgramEnd x0 x1) := by
  unfold execStreamProgramEnd
  repeat' first
    | with_reducible assumption
    | with_reducible apply State.kick_keeps
    | with_reducible apply State.endProgram_keeps
    | with_reducible apply NextP.next

theorem execArbitrationWindow_keeps {a} {x0} (h : Keeps a x0) :
    NextP (Keeps a) (execArbitrationWindow x0) := by
  unfold execArbitrationWindow
  repeat' first
    | with_reducible assumption
    | with_reducible apply NextP.next

theorem State.misuse_keeps {a} {x0 x1} (h : Keeps a x0) :
    Keeps a (State.misuse x0 x1) := by
  unfold State.misuse
  repeat' first
    | with_reducible assumption
    | with_reducible apply State.tally_keeps
    | split

theorem State.missedRead_keeps {a} {x0 x1} (h : Keeps a x0) :
    Keeps a (State.missedRead x0 x1) := by
  unfold State.missedRead
  repeat' first
    | with_reducible assumption
    | with_reducible apply State.deadlineMiss_keeps
    | (extract_lets +onlyGivenNames v; clear_value v)
    | with_reducible apply Keeps.ite
    | split

theorem State.actMark_keeps {a} {x0 x1} (h : Keeps a x0) :
    Keeps a (State.actMark x0 x1) := by
  unfold State.actMark
  repeat' first
    | with_reducible assumption
    | with_reducible apply State.setQueue_keeps

theorem State.actUnmark_keeps {a} {x0 x1} (h : Keeps a x0) :
    Keeps a (State.actUnmark x0 x1) := by
  unfold State.actUnmark
  repeat' first
    | with_reducible assumption
    | with_reducible apply State.setQueue_keeps

theorem State.actRewind_keeps {a} {x0 x1} (h : Keeps a x0) :
    Keeps a (State.actRewind x0 x1) := by
  unfold State.actRewind
  repeat' first
    | with_reducible assumption
    | with_reducible apply State.misuse_keeps
    | with_reducible apply State.setQueue_keeps
    | with_reducible apply State.tally_keeps
    | (extract_lets +onlyGivenNames v; refine Keeps.cut (a := a) (x := v) ?_ (fun hv => ?_); subst v; rotate_left; clear_value v; rotate_left)
    | (extract_lets +onlyGivenNames v; clear_value v)
    | split

theorem State.actRelease_keeps {a} {x0 x1 x2} (h : Keeps a x0) :
    Keeps a (State.actRelease x0 x1 x2) := by
  unfold State.actRelease
  repeat' first
    | with_reducible assumption
    | with_reducible apply State.setQueue_keeps
    | with_reducible apply State.misuse_keeps
    | (extract_lets +onlyGivenNames v; refine Keeps.cut (a := a) (x := v) ?_ (fun hv => ?_); subst v; rotate_left; clear_value v; rotate_left)
    | (extract_lets +onlyGivenNames v; clear_value v)
    | with_reducible apply Keeps.ite

theorem State.actRead_keeps {a} {x0 x1 x2} (h : Keeps a x0) :
    Keeps a (State.actRead x0 x1 x2) := by
  unfold State.actRead
  repeat' first
    | with_reducible assumption
    | with_reducible apply State.setQueue_keeps
    | with_reducible apply State.emit_keeps
    | with_reducible apply State.missedRead_keeps
    | (extract_lets +onlyGivenNames v; refine Keeps.cut (a := a) (x := v) ?_ (fun hv => ?_); subst v; rotate_left; clear_value v; rotate_left)
    | (extract_lets +onlyGivenNames v; clear_value v)
    | with_reducible apply Keeps.ite

theorem State.act_keeps {a} {x0 x1} (h : Keeps a x0) :
    Keeps a (State.act x0 x1) := by
  unfold State.act
  repeat' first
    | with_reducible assumption
    | with_reducible apply State.actRelease_keeps
    | with_reducible apply State.actUnmark_keeps
    | with_reducible apply State.actRewind_keeps
    | with_reducible apply State.actMark_keeps
    | with_reducible apply State.actRead_keeps
    | split

theorem State.queueAct_keeps {a} {x0 x1 x2} (h : Keeps a x0) :
    Keeps a (State.queueAct x0 x1 x2) := by
  unfold State.queueAct
  repeat' first
    | with_reducible assumption
    | with_reducible apply State.act_keeps
    | with_reducible apply State.kick_keeps
    | with_reducible apply State.pumpQueue_keeps
    | (extract_lets +onlyGivenNames v; refine Keeps.cut (a := a) (x := v) ?_ (fun hv => ?_); subst v; rotate_left; clear_value v; rotate_left)
    | (extract_lets +onlyGivenNames v; clear_value v)
    | with_reducible apply Keeps.ite
    | (with_reducible refine Keeps.fold (fun _ _ _ => ?_) _ ?_)
    | fail_if_no_progress (with_reducible refine Keeps.upd ?_ rfl rfl rfl rfl rfl)

theorem execMark_keeps {a} {x0 x1} (h : Keeps a x1) :
    NextP (Keeps a) (execMark x0 x1) := by
  unfold execMark
  repeat' first
    | with_reducible assumption
    | with_reducible apply State.queueAct_keeps
    | with_reducible apply NextP.next

theorem execUnmark_keeps {a} {x0 x1} (h : Keeps a x1) :
    NextP (Keeps a) (execUnmark x0 x1) := by
  unfold execUnmark
  repeat' first
    | with_reducible assumption
    | with_reducible apply State.queueAct_keeps
    | with_reducible apply NextP.next

theorem execRewind_keeps {a} {x0 x1} (h : Keeps a x1) :
    NextP (Keeps a) (execRewind x0 x1) := by
  unfold execRewind
  repeat' first
    | with_reducible assumption
    | with_reducible apply State.queueAct_keeps
    | with_reducible apply NextP.next

theorem execRelease_keeps {a} {x0 x1 x2} (h : Keeps a x2) :
    NextP (Keeps a) (execRelease x0 x1 x2) := by
  unfold execRelease
  repeat' first
    | with_reducible assumption
    | with_reducible apply State.queueAct_keeps
    | with_reducible apply NextP.next

theorem execQueueRead_keeps {a} {x0 x1} (h : Keeps a x1) :
    NextP (Keeps a) (execQueueRead x0 x1) := by
  unfold execQueueRead
  repeat' first
    | with_reducible assumption
    | with_reducible apply State.queueAct_keeps
    | with_reducible apply NextP.next

theorem execVitrineCopyDone_keeps {a} {x0 x1 x2 x3} (h : Keeps a x3) :
    NextP (Keeps a) (execVitrineCopyDone x0 x1 x2 x3) := by
  unfold execVitrineCopyDone
  repeat' first
    | with_reducible assumption
    | with_reducible apply State.kick_keeps
    | with_reducible apply State.copyDone_keeps
    | with_reducible apply NextP.next

end Sys2Proof.Machine
end

