-- ==== Sys2Proof/Laws/KeepsFabric.lean ====
section
/-! SUPPORT. The operations of `Machine/Fabric.lean` keep what no command disturbs. -/

namespace Sys2Proof.Machine


theorem State.unprune_keeps {a} {x0 x1 x2} (h : Keeps a x0) :
    Keeps a (State.unprune x0 x1 x2) := by
  unfold State.unprune
  repeat' first
    | with_reducible assumption
    | with_reducible apply State.poke_keeps
    | (extract_lets +onlyGivenNames v; refine Keeps.cut (a := a) (x := v) ?_ (fun hv => ?_); subst v; rotate_left; clear_value v; rotate_left)
    | (extract_lets +onlyGivenNames v; (have _w : Fabric := v); subst v)
    | (extract_lets +onlyGivenNames v; clear_value v)
    | with_reducible apply Keeps.ite
    | fail_if_no_progress (with_reducible refine Keeps.upd ?_ rfl rfl rfl rfl rfl)

theorem State.mcastWrite_keeps {a} {x0 x1 x2} (h : Keeps a x0) :
    SomeP (Keeps a) (State.mcastWrite x0 x1 x2) := by
  unfold State.mcastWrite
  repeat' first
    | with_reducible assumption
    | with_reducible apply State.fabricDrop_keeps
    | with_reducible apply State.poke_keeps
    | (extract_lets +onlyGivenNames v; refine Keeps.cut (a := a) (x := v) ?_ (fun hv => ?_); subst v; rotate_left; clear_value v; rotate_left)
    | (extract_lets +onlyGivenNames v; clear_value v)
    | with_reducible apply SomeP.ite
    | with_reducible exact SomeP.none
    | with_reducible apply SomeP.some

theorem State.retryLines_keeps {a} {x0 x1 x2} (h : Keeps a x0) :
    Keeps a (State.retryLines x0 x1 x2).1 := by
  induction x1 generalizing x0 x2 with
  | nil =>
    unfold State.retryLines
    repeat' first
      | with_reducible assumption
  | cons b r ih =>
    unfold State.retryLines
    repeat' first
      | with_reducible assumption
      | with_reducible apply State.mcastWrite_keeps
      | with_reducible apply ih
      | (with_reducible apply Keeps.ofSome; · with_reducible assumption)
      | split

theorem State.retryMcast_keeps {a} {x0 x1} (h : Keeps a x0) :
    Keeps a (State.retryMcast x0 x1) := by
  unfold State.retryMcast
  repeat' first
    | with_reducible assumption
    | with_reducible apply State.retryLines_keeps
    | with_reducible apply State.setPort_keeps
    | with_reducible apply Keeps.ite

theorem State.pruneFrom_keeps {a} {x0 x1} (h : Keeps a x0) :
    Keeps a (State.pruneFrom x0 x1) := by
  unfold State.pruneFrom
  repeat' first
    | with_reducible assumption
    | with_reducible apply State.setPort_keeps
    | with_reducible apply State.poke_keeps
    | with_reducible apply State.tally_keeps
    | with_reducible apply State.raise_keeps
    | with_reducible apply State.nextOp_keeps
    | with_reducible apply State.send_keeps
    | (extract_lets +onlyGivenNames v; (have _w : Fabric := v); subst v)
    | with_reducible apply Keeps.ite
    | (with_reducible refine Keeps.fold (fun _ _ _ => ?_) _ ?_)
    | fail_if_no_progress (with_reducible refine Keeps.upd ?_ rfl rfl rfl rfl rfl)
    | split

theorem State.takeLine_keeps {a} {x0 x1 x2} (h : Keeps a x0) :
    Keeps a (State.takeLine x0 x1 x2) := by
  unfold State.takeLine
  repeat' first
    | with_reducible assumption
    | with_reducible apply State.retryMcast_keeps
    | with_reducible apply State.unprune_keeps
    | with_reducible apply State.mcastWrite_keeps
    | with_reducible apply State.pruneFrom_keeps
    | with_reducible apply State.setPort_keeps
    | (with_reducible apply Keeps.ofSome; · with_reducible assumption)
    | (extract_lets +onlyGivenNames v; refine Keeps.cut (a := a) (x := v) ?_ (fun hv => ?_); subst v; rotate_left; clear_value v; rotate_left)
    | (extract_lets +onlyGivenNames v; clear_value v)
    | with_reducible apply Keeps.ite
    | with_reducible apply SomeP.ite
    | with_reducible exact SomeP.none
    | split

theorem execMcast_keeps {a} {x0 x1 x2} (h : Keeps a x2) :
    NextP (Keeps a) (execMcast x0 x1 x2) := by
  unfold execMcast
  repeat' first
    | with_reducible intro _
    | with_reducible assumption
    | with_reducible apply State.receive_keeps
    | with_reducible apply State.takeLine_keeps
    | with_reducible apply NextP.next

theorem execMcastPruneTimeout_keeps {a} {x0 x1} (h : Keeps a x1) :
    NextP (Keeps a) (execMcastPruneTimeout x0 x1) := by
  unfold execMcastPruneTimeout
  repeat' first
    | with_reducible assumption
    | with_reducible apply State.retryMcast_keeps
    | with_reducible apply State.pruneFrom_keeps
    | (extract_lets +onlyGivenNames v; refine Keeps.cut (a := a) (x := v) ?_ (fun hv => ?_); subst v; rotate_left; clear_value v; rotate_left)
    | (extract_lets +onlyGivenNames v; clear_value v)
    | with_reducible apply NextP.ite
    | with_reducible apply NextP.next
    | split

theorem execPrune_keeps {a} {x0 x1} (h : Keeps a x1) :
    NextP (Keeps a) (execPrune x0 x1) := by
  unfold execPrune
  repeat' first
    | with_reducible intro _
    | with_reducible assumption
    | with_reducible apply State.receive_keeps
    | with_reducible apply State.tally_keeps
    | with_reducible apply NextP.next

theorem State.stepTime_keeps {a} {x0 x1 x2} (h : Keeps a x0) :
    Keeps a (State.stepTime x0 x1 x2) := by
  unfold State.stepTime
  repeat' first
    | with_reducible assumption
    | with_reducible apply State.wr_keeps
    | with_reducible apply State.raise_keeps
    | with_reducible apply State.tally_keeps
    | (extract_lets +onlyGivenNames v; (have _w : Fabric := v); subst v)
    | fail_if_no_progress (with_reducible refine Keeps.upd ?_ rfl rfl rfl rfl rfl)

theorem State.discipline_keeps {a} {x0 x1 x2} (h : Keeps a x0) :
    Keeps a (State.discipline x0 x1 x2) := by
  unfold State.discipline
  repeat' first
    | with_reducible assumption
    | with_reducible apply State.stepTime_keeps
    | (extract_lets +onlyGivenNames v; (have _w : Fabric := v); subst v)
    | with_reducible apply Keeps.ite
    | fail_if_no_progress (with_reducible refine Keeps.upd ?_ rfl rfl rfl rfl rfl)

theorem execShxTimePacket_keeps {a} {x0 x1 x2 x3 x4} (h : Keeps a x4) :
    NextP (Keeps a) (execShxTimePacket x0 x1 x2 x3 x4) := by
  unfold execShxTimePacket
  repeat' first
    | with_reducible assumption
    | with_reducible apply State.wr_keeps
    | with_reducible apply State.discipline_keeps
    | (extract_lets +onlyGivenNames v; (have _w : Fabric := v); subst v)
    | with_reducible apply NextP.ite
    | with_reducible apply NextP.next
    | fail_if_no_progress (with_reducible refine Keeps.upd ?_ rfl rfl rfl rfl rfl)

theorem State.sendTime_keeps {a} {x0 x1 x2 x3} (h : Keeps a x0) :
    Keeps a (State.sendTime x0 x1 x2 x3) := by
  unfold State.sendTime
  repeat' first
    | with_reducible assumption
    | with_reducible apply State.nextOp_keeps
    | with_reducible apply State.forwardOn_keeps

theorem State.stamp_keeps {a} {x0} (h : Keeps a x0) :
    Keeps a (State.stamp x0).2 := by
  unfold State.stamp
  repeat' first
    | with_reducible assumption
    | with_reducible apply State.freeW_keeps

theorem State.answerTime_keeps {a} {x0 x1} (h : Keeps a x0) :
    Keeps a (State.answerTime x0 x1) := by
  unfold State.answerTime
  repeat' first
    | with_reducible assumption
    | with_reducible apply State.freeW_keeps
    | with_reducible apply State.stamp_keeps
    | with_reducible apply State.sendTime_keeps

theorem execShxTimeExchange_keeps {a} {x0} (h : Keeps a x0) :
    NextP (Keeps a) (execShxTimeExchange x0) := by
  unfold execShxTimeExchange
  repeat' first
    | with_reducible assumption
    | with_reducible apply State.stamp_keeps
    | with_reducible apply State.sendTime_keeps
    | with_reducible apply State.answerTime_keeps
    | (extract_lets +onlyGivenNames v; refine Keeps.cut (a := a) (x := v) ?_ (fun hv => ?_); subst v; rotate_left; clear_value v; rotate_left)
    | (extract_lets +onlyGivenNames v; clear_value v)
    | with_reducible apply NextP.next
    | (with_reducible refine Keeps.fold (fun _ _ _ => ?_) _ ?_)
    | split

end Sys2Proof.Machine
end

