-- ==== Sys2Proof/Laws/KeepsMmu.lean ====
section
/-! SUPPORT. The operations of `Machine/Mmu.lean` keep what no command disturbs. -/

namespace Sys2Proof.Machine


theorem State.mmuInvalidate_keeps {a} {x0 x1 x2 x3} (h : Keeps a x0) :
    Keeps a (State.mmuInvalidate x0 x1 x2 x3).2 := by
  unfold State.mmuInvalidate
  repeat' first
    | with_reducible assumption
    | with_reducible apply State.updCtx_keeps
    | split

theorem execMmuInval_keeps {a} {x0 x1 x2 x3} (h : Keeps a x3) :
    NextP (Keeps a) (execMmuInval x0 x1 x2 x3) := by
  unfold execMmuInval
  repeat' first
    | with_reducible assumption
    | with_reducible apply settle_keeps
    | with_reducible apply State.mmuInvalidate_keeps
    | with_reducible apply NextP.next

theorem execInvalDone_keeps {a} {x0 x1} (h : Keeps a x1) :
    NextP (Keeps a) (execInvalDone x0 x1) := by
  unfold execInvalDone
  repeat' first
    | with_reducible assumption
    | with_reducible apply State.updCtx_keeps
    | (extract_lets +onlyGivenNames v; refine Keeps.cut (a := a) (x := v) ?_ (fun hv => ?_); subst v; rotate_left; clear_value v; rotate_left)
    | with_reducible apply NextP.ite
    | with_reducible apply NextP.next
    | fail_if_no_progress (with_reducible refine Keeps.upd ?_ rfl rfl rfl rfl rfl)
    | split

theorem State.scrubbed_keeps {a} {x0 x1} (h : Keeps a x0) :
    Keeps a (State.scrubbed x0 x1) := by
  unfold State.scrubbed
  repeat' first
    | with_reducible assumption
    | with_reducible apply State.foundCorrected_keeps
    | with_reducible apply State.count_keeps
    | with_reducible apply State.poisonWord_keeps
    | with_reducible apply State.foundUe_keeps
    | split

theorem State.raiseDegraded_keeps {a} {x0 x1} (h : Keeps a x0) :
    Keeps a (State.raiseDegraded x0 x1) := by
  unfold State.raiseDegraded
  repeat' first
    | with_reducible assumption
    | with_reducible apply State.raise_keeps
    | with_reducible apply State.setFlag_keeps

theorem execHbmScrubPass_keeps {a} {x0 x1} (h : Keeps a x1) :
    NextP (Keeps a) (execHbmScrubPass x0 x1) := by
  unfold execHbmScrubPass
  repeat' first
    | with_reducible assumption
    | with_reducible apply State.scrubbed_keeps
    | with_reducible apply State.raiseDegraded_keeps
    | (extract_lets +onlyGivenNames v; refine Keeps.cut (a := a) (x := v) ?_ (fun hv => ?_); subst v; rotate_left; clear_value v; rotate_left)
    | with_reducible apply NextP.next
    | (with_reducible refine Keeps.fold (fun _ _ _ => ?_) _ ?_)

theorem execRetireCopyDone_keeps {a} {x0 x1} (h : Keeps a x1) :
    NextP (Keeps a) (execRetireCopyDone x0 x1) := by
  unfold execRetireCopyDone
  repeat' first
    | with_reducible assumption
    | with_reducible apply State.wrN_keeps
    | with_reducible apply State.count_keeps
    | with_reducible apply NextP.ite
    | with_reducible apply NextP.next

end Sys2Proof.Machine
end

