-- ==== Sys2Proof/Laws/KeepsLink.lean ====
section
/-! SUPPORT. The operations of `Machine/Link.lean` keep what no command disturbs. -/

namespace Sys2Proof.Machine


theorem State.portSendAll_keeps {a} {x0 x1 x2} (h : Keeps a x0) :
    Keeps a (State.portSendAll x0 x1 x2) := by
  unfold State.portSendAll
  repeat' first
    | with_reducible assumption
    | with_reducible apply State.portSend_keeps
    | (with_reducible refine Keeps.fold (fun _ _ _ => ?_) _ ?_)

theorem State.drainFor_keeps {a} {x0 x1 x2} (h : Keeps a x0) :
    Keeps a (State.drainFor x0 x1 x2) := by
  induction x2 generalizing x0 x1 with
  | zero =>
    unfold State.drainFor
    repeat' first
      | with_reducible assumption
  | succ n ih =>
    unfold State.drainFor
    repeat' first
      | with_reducible assumption
      | with_reducible apply State.sendNow_keeps
      | with_reducible apply State.setPort_keeps
      | with_reducible apply ih
      | (extract_lets +onlyGivenNames v; clear_value v)
      | split

theorem State.drainPort_keeps {a} {x0 x1} (h : Keeps a x0) :
    Keeps a (State.drainPort x0 x1) := by
  unfold State.drainPort
  repeat' first
    | with_reducible assumption
    | with_reducible apply State.drainFor_keeps

theorem State.takeOver_keeps {a} {x0 x1} (h : Keeps a x0) :
    Keeps a (State.takeOver x0 x1) := by
  unfold State.takeOver
  repeat' first
    | with_reducible assumption
    | with_reducible apply State.portSendAll_keeps
    | with_reducible apply State.setPort_keeps
    | (extract_lets +onlyGivenNames v; clear_value v)
    | with_reducible apply Keeps.ite
    | split

theorem State.drainSends_keeps {a} {x0} (h : Keeps a x0) :
    Keeps a (State.drainSends x0) := by
  unfold State.drainSends
  repeat' first
    | with_reducible assumption
    | with_reducible apply State.pumpQueue_keeps
    | with_reducible apply State.drainSend_keeps
    | with_reducible apply Keeps.ite
    | (with_reducible refine Keeps.fold (fun _ _ _ => ?_) _ ?_)

theorem State.portGoes_keeps {a} {x0 x1} (h : Keeps a x0) :
    Keeps a (State.portGoes x0 x1) := by
  unfold State.portGoes
  repeat' first
    | with_reducible assumption
    | with_reducible apply State.kick_keeps
    | with_reducible apply State.drainSends_keeps
    | with_reducible apply State.takeOver_keeps
    | with_reducible apply State.drainPort_keeps
    | with_reducible apply Keeps.ite

theorem State.setBudget_keeps {a} {x0 x1 x2} (h : Keeps a x0) :
    Keeps a (State.setBudget x0 x1 x2) := by
  unfold State.setBudget
  repeat' first
    | with_reducible assumption
    | with_reducible apply State.wrN_keeps

theorem State.laneDegraded_keeps {a} {x0 x1 x2} (h : Keeps a x0) :
    Keeps a (State.laneDegraded x0 x1 x2) := by
  unfold State.laneDegraded
  repeat' first
    | with_reducible assumption
    | with_reducible apply State.raise_keeps
    | with_reducible apply State.setFlag_keeps

theorem State.toUp3_keeps {a} {x0 x1 x2} (h : Keeps a x0) :
    Keeps a (State.toUp3 x0 x1 x2) := by
  unfold State.toUp3
  repeat' first
    | with_reducible assumption
    | with_reducible apply State.setBudget_keeps
    | with_reducible apply State.setPort_keeps
    | with_reducible apply State.laneDegraded_keeps
    | with_reducible apply State.count_keeps

theorem State.toUp_keeps {a} {x0 x1} (h : Keeps a x0) :
    Keeps a (State.toUp x0 x1) := by
  unfold State.toUp
  repeat' first
    | with_reducible assumption
    | with_reducible apply State.setBudget_keeps
    | with_reducible apply State.setPort_keeps

theorem State.leaveAux_keeps {a} {x0 x1} (h : Keeps a x0) :
    Keeps a (State.leaveAux x0 x1) := by
  unfold State.leaveAux
  repeat' first
    | with_reducible assumption
    | with_reducible apply State.onTorus_keeps
    | with_reducible apply State.fabricDrop_keeps
    | with_reducible apply State.giveBack_keeps
    | with_reducible apply Keeps.getD
    | (with_reducible refine Keeps.fold (fun _ _ _ => ?_) _ ?_)

theorem State.linkDown_keeps {a} {x0 x1} (h : Keeps a x0) :
    Keeps a (State.linkDown x0 x1) := by
  unfold State.linkDown
  repeat' first
    | with_reducible assumption
    | with_reducible apply State.setPort_keeps
    | with_reducible apply State.tally_keeps
    | with_reducible apply State.setBudget_keeps
    | with_reducible apply State.raise_keeps
    | with_reducible apply State.portSendAll_keeps
    | with_reducible apply State.leaveAux_keeps
    | (extract_lets +onlyGivenNames v; refine Keeps.cut (a := a) (x := v) ?_ (fun hv => ?_); subst v; rotate_left; clear_value v; rotate_left)
    | (extract_lets +onlyGivenNames v; clear_value v)
    | with_reducible apply Keeps.ite
    | split

theorem State.sendIdent_keeps {a} {x0 x1} (h : Keeps a x0) :
    Keeps a (State.sendIdent x0 x1) := by
  unfold State.sendIdent
  repeat' first
    | with_reducible assumption
    | with_reducible apply State.linkLocal_keeps

theorem State.tellLanes_keeps {a} {x0 x1 x2 x3} (h : Keeps a x0) :
    Keeps a (State.tellLanes x0 x1 x2 x3) := by
  unfold State.tellLanes
  repeat' first
    | with_reducible assumption
    | with_reducible apply State.linkLocal_keeps

theorem State.sendLaneChange_keeps {a} {x0 x1 x2} (h : Keeps a x0) :
    Keeps a (State.sendLaneChange x0 x1 x2) := by
  unfold State.sendLaneChange
  repeat' first
    | with_reducible assumption
    | with_reducible apply State.tellLanes_keeps
    | with_reducible apply State.setPort_keeps

theorem State.tryTrain_keeps {a} {x0 x1} (h : Keeps a x0) :
    Keeps a (State.tryTrain x0 x1) := by
  unfold State.tryTrain
  repeat' first
    | with_reducible assumption
    | with_reducible apply State.setPort_keeps
    | (extract_lets +onlyGivenNames v; clear_value v)
    | with_reducible apply Keeps.ite

theorem State.portMove_keeps {a} {x0 x1 x2 x3} (h : Keeps a x0) :
    Keeps a (State.portMove x0 x1 x2 x3) := by
  unfold State.portMove
  repeat' first
    | with_reducible assumption
    | with_reducible apply State.setPort_keeps
    | (extract_lets +onlyGivenNames v; clear_value v)
    | with_reducible apply Keeps.ite

theorem execSignalDetect_keeps {a} {x0 x1 x2} (h : Keeps a x2) :
    NextP (Keeps a) (execSignalDetect x0 x1 x2) := by
  unfold execSignalDetect
  repeat' first
    | with_reducible assumption
    | with_reducible apply State.tryTrain_keeps
    | with_reducible apply State.setPort_keeps
    | (extract_lets +onlyGivenNames v; clear_value v)
    | with_reducible apply NextP.next

theorem execLinkRetryTimer_keeps {a} {x0 x1} (h : Keeps a x1) :
    NextP (Keeps a) (execLinkRetryTimer x0 x1) := by
  unfold execLinkRetryTimer
  repeat' first
    | with_reducible assumption
    | with_reducible apply State.tryTrain_keeps
    | with_reducible apply NextP.next

theorem execTrainConverged_keeps {a} {x0 x1} (h : Keeps a x1) :
    NextP (Keeps a) (execTrainConverged x0 x1) := by
  unfold execTrainConverged
  repeat' first
    | with_reducible assumption
    | with_reducible apply State.portMove_keeps
    | with_reducible apply NextP.next

theorem execTrainTimeout_keeps {a} {x0 x1} (h : Keeps a x1) :
    NextP (Keeps a) (execTrainTimeout x0 x1) := by
  unfold execTrainTimeout
  repeat' first
    | with_reducible assumption
    | with_reducible apply State.portMove_keeps
    | with_reducible apply NextP.next

theorem execAlignDone_keeps {a} {x0 x1} (h : Keeps a x1) :
    NextP (Keeps a) (execAlignDone x0 x1) := by
  unfold execAlignDone
  repeat' first
    | with_reducible assumption
    | with_reducible apply State.sendIdent_keeps
    | with_reducible apply State.portMove_keeps
    | with_reducible apply NextP.ite
    | with_reducible apply NextP.next

theorem execAlignTimeout_keeps {a} {x0 x1} (h : Keeps a x1) :
    NextP (Keeps a) (execAlignTimeout x0 x1) := by
  unfold execAlignTimeout
  repeat' first
    | with_reducible assumption
    | with_reducible apply State.portMove_keeps
    | with_reducible apply NextP.next

theorem State.miswired_keeps {a} {x0 x1} (h : Keeps a x0) :
    Keeps a (State.miswired x0 x1) := by
  unfold State.miswired
  repeat' first
    | with_reducible assumption
    | with_reducible apply State.setPort_keeps
    | with_reducible apply State.raise_keeps
    | with_reducible apply State.tally_keeps

theorem execIdent_keeps {a} {x0 x1 x2 x3 x4 x5} (h : Keeps a x5) :
    NextP (Keeps a) (execIdent x0 x1 x2 x3 x4 x5) := by
  unfold execIdent
  repeat' first
    | with_reducible assumption
    | with_reducible apply State.miswired_keeps
    | with_reducible apply State.wrN_keeps
    | with_reducible apply State.toUp_keeps
    | with_reducible apply State.toUp3_keeps
    | with_reducible apply State.portGoes_keeps
    | (extract_lets +onlyGivenNames v; refine Keeps.cut (a := a) (x := v) ?_ (fun hv => ?_); subst v; rotate_left; clear_value v; rotate_left)
    | (extract_lets +onlyGivenNames v; clear_value v)
    | with_reducible apply Keeps.ite
    | with_reducible apply NextP.ite
    | with_reducible apply NextP.next

theorem execVerifyTimeout_keeps {a} {x0 x1} (h : Keeps a x1) :
    NextP (Keeps a) (execVerifyTimeout x0 x1) := by
  unfold execVerifyTimeout
  repeat' first
    | with_reducible assumption
    | with_reducible apply State.miswired_keeps
    | with_reducible apply NextP.ite
    | with_reducible apply NextP.next

theorem State.loseLanes_keeps {a} {x0 x1} (h : Keeps a x0) :
    Keeps a (State.loseLanes x0 x1) := by
  unfold State.loseLanes
  repeat' first
    | with_reducible assumption
    | with_reducible apply State.linkDown_keeps
    | with_reducible apply State.sendLaneChange_keeps
    | (extract_lets +onlyGivenNames v; clear_value v)
    | with_reducible apply Keeps.ite

theorem State.widthDue_keeps {a} {x0 x1} (h : Keeps a x0) :
    Keeps a (State.widthDue x0 x1) := by
  unfold State.widthDue
  repeat' first
    | with_reducible assumption
    | with_reducible apply State.setPort_keeps
    | with_reducible apply State.loseLanes_keeps
    | with_reducible apply State.toUp3_keeps
    | with_reducible apply State.portGoes_keeps
    | with_reducible apply State.toUp_keeps
    | (extract_lets +onlyGivenNames v; refine Keeps.cut (a := a) (x := v) ?_ (fun hv => ?_); subst v; rotate_left; clear_value v; rotate_left)
    | (extract_lets +onlyGivenNames v; clear_value v)
    | with_reducible apply Keeps.ite
    | split

theorem execLaneLockLoss_keeps {a} {x0 x1 x2} (h : Keeps a x2) :
    NextP (Keeps a) (execLaneLockLoss x0 x1 x2) := by
  unfold execLaneLockLoss
  repeat' first
    | with_reducible assumption
    | with_reducible apply State.setPort_keeps
    | with_reducible apply State.loseLanes_keeps
    | (extract_lets +onlyGivenNames v; refine Keeps.cut (a := a) (x := v) ?_ (fun hv => ?_); subst v; rotate_left; clear_value v; rotate_left)
    | (extract_lets +onlyGivenNames v; clear_value v)
    | with_reducible apply NextP.next

theorem execLaneRestored_keeps {a} {x0 x1 x2} (h : Keeps a x2) :
    NextP (Keeps a) (execLaneRestored x0 x1 x2) := by
  unfold execLaneRestored
  repeat' first
    | with_reducible assumption
    | with_reducible apply State.setPort_keeps
    | with_reducible apply State.sendLaneChange_keeps
    | (extract_lets +onlyGivenNames v; refine Keeps.cut (a := a) (x := v) ?_ (fun hv => ?_); subst v; rotate_left; clear_value v; rotate_left)
    | (extract_lets +onlyGivenNames v; clear_value v)
    | with_reducible apply NextP.ite
    | with_reducible apply NextP.next

theorem State.laneDisable_keeps {a} {x0 x1 x2} (h : Keeps a x0) :
    Keeps a (State.laneDisable x0 x1 x2).2 := by
  unfold State.laneDisable
  repeat' first
    | with_reducible assumption
    | with_reducible apply State.wrN_keeps
    | with_reducible apply State.setPort_keeps
    | with_reducible apply State.loseLanes_keeps
    | (extract_lets +onlyGivenNames v; refine Keeps.cut (a := a) (x := v) ?_ (fun hv => ?_); subst v; rotate_left; clear_value v; rotate_left)
    | (extract_lets +onlyGivenNames v; clear_value v)
    | with_reducible apply Keeps.ite
    | split

theorem execLaneDisable_keeps {a} {x0 x1 x2} (h : Keeps a x2) :
    NextP (Keeps a) (execLaneDisable x0 x1 x2) := by
  unfold execLaneDisable
  repeat' first
    | with_reducible assumption
    | with_reducible apply settle_keeps
    | with_reducible apply State.laneDisable_keeps
    | with_reducible apply NextP.next

theorem State.agreeLanes_keeps {a} {x0 x1 x2 x3 x4} (h : Keeps a x0) :
    Keeps a (State.agreeLanes x0 x1 x2 x3 x4) := by
  unfold State.agreeLanes
  repeat' first
    | with_reducible assumption
    | with_reducible apply State.widthDue_keeps
    | with_reducible apply State.setPort_keeps

theorem execLaneChange_keeps {a} {x0 x1 x2 x3} (h : Keeps a x3) :
    NextP (Keeps a) (execLaneChange x0 x1 x2 x3) := by
  unfold execLaneChange
  repeat' first
    | with_reducible assumption
    | with_reducible apply State.agreeLanes_keeps
    | with_reducible apply State.tellLanes_keeps
    | (extract_lets +onlyGivenNames v; clear_value v)
    | with_reducible apply NextP.ite
    | with_reducible apply NextP.next

theorem execLaneSymbolRateWindow_keeps {a} {x0 x1 x2 x3 x4 x5} (h : Keeps a x5) :
    NextP (Keeps a) (execLaneSymbolRateWindow x0 x1 x2 x3 x4 x5) := by
  unfold execLaneSymbolRateWindow
  repeat' first
    | with_reducible assumption
    | with_reducible apply State.laneDegraded_keeps
    | with_reducible apply Keeps.ite
    | with_reducible apply NextP.next
    | (with_reducible refine Keeps.fold (fun _ _ _ => ?_) _ ?_)

theorem State.sendAgain_keeps {a} {x0 x1 x2} (h : Keeps a x0) :
    Keeps a (State.sendAgain x0 x1 x2) := by
  unfold State.sendAgain
  repeat' first
    | with_reducible assumption
    | with_reducible apply State.emit_keeps
    | (with_reducible refine Keeps.fold (fun _ _ _ => ?_) _ ?_)

theorem State.resend_keeps {a} {x0 x1} (h : Keeps a x0) :
    Keeps a (State.resend x0 x1) := by
  unfold State.resend
  repeat' first
    | with_reducible assumption
    | with_reducible apply State.count_keeps
    | with_reducible apply State.setPort_keeps
    | with_reducible apply State.linkDown_keeps
    | with_reducible apply State.sendAgain_keeps
    | (extract_lets +onlyGivenNames v; refine Keeps.cut (a := a) (x := v) ?_ (fun hv => ?_); subst v; rotate_left; clear_value v; rotate_left)
    | (extract_lets +onlyGivenNames v; clear_value v)
    | with_reducible apply Keeps.ite
    | (with_reducible refine Keeps.fold (fun _ _ _ => ?_) _ ?_)

theorem State.acknowledge_keeps {a} {x0 x1 x2} (h : Keeps a x0) :
    Keeps a (State.acknowledge x0 x1 x2) := by
  unfold State.acknowledge
  repeat' first
    | with_reducible assumption
    | with_reducible apply State.setPort_keeps
    | with_reducible apply State.resend_keeps
    | (extract_lets +onlyGivenNames v; refine Keeps.cut (a := a) (x := v) ?_ (fun hv => ?_); subst v; rotate_left; clear_value v; rotate_left)
    | (extract_lets +onlyGivenNames v; clear_value v)
    | with_reducible apply Keeps.ite

theorem State.answerWord_keeps {a} {x0 x1} (h : Keeps a x0) :
    Keeps a (State.answerWord x0 x1) := by
  unfold State.answerWord
  repeat' first
    | with_reducible assumption
    | with_reducible apply State.widthDue_keeps
    | with_reducible apply State.sendWords_keeps
    | (extract_lets +onlyGivenNames v; clear_value v)
    | with_reducible apply Keeps.ite

theorem execCodeword_keeps {a} {x0 x1 x2 x3 x4 x5} (h : Keeps a x5) :
    NextP (Keeps a) (execCodeword x0 x1 x2 x3 x4 x5) := by
  unfold execCodeword
  repeat' first
    | with_reducible assumption
    | with_reducible apply State.answerWord_keeps
    | with_reducible apply State.count_keeps
    | with_reducible apply State.setPort_keeps
    | with_reducible apply State.acknowledge_keeps
    | (extract_lets +onlyGivenNames v; refine Keeps.cut (a := a) (x := v) ?_ (fun hv => ?_); subst v; rotate_left; clear_value v; rotate_left)
    | (extract_lets +onlyGivenNames v; clear_value v)
    | with_reducible apply NextP.ite
    | with_reducible apply NextP.next

theorem execCredit_keeps {a} {x0 x1 x2 x3 x4} (h : Keeps a x4) :
    NextP (Keeps a) (execCredit x0 x1 x2 x3 x4) := by
  unfold execCredit
  repeat' first
    | with_reducible assumption
    | with_reducible apply State.portGoes_keeps
    | with_reducible apply State.setPort_keeps
    | (extract_lets +onlyGivenNames v; clear_value v)
    | with_reducible apply NextP.next

theorem execShxHopTimeout_keeps {a} {x0 x1} (h : Keeps a x1) :
    NextP (Keeps a) (execShxHopTimeout x0 x1) := by
  unfold execShxHopTimeout
  repeat' first
    | with_reducible assumption
    | with_reducible apply State.kick_keeps
    | with_reducible apply State.drainSends_keeps
    | with_reducible apply State.fabricDrop_keeps
    | with_reducible apply State.giveBack_keeps
    | with_reducible apply State.setPort_keeps
    | (extract_lets +onlyGivenNames v; clear_value v)
    | with_reducible apply NextP.ite
    | with_reducible apply NextP.next
    | split

end Sys2Proof.Machine
end

