-- ==== Sys2Proof/Laws/KeepsPower.lean ====
section
/-! SUPPORT. The operations of `Machine/Power.lean` keep what no command disturbs. -/

namespace Sys2Proof.Machine

theorem State.loadRegs_wf {s : State} (w : s.Wf) : Store.wf regDefault s.loadRegs = true :=
  Store.wf_foldl_set _ _ _ (Store.wf_filter _ _ _ w.regs)

theorem State.resetKeeps_other {s : State} {pa : Nat} (h : s.resetKeeps pa = true) : isScratch pa = false := by
  have h2 : pa < 0x24000000000 := by
    have := h
    simp only [State.resetKeeps, Bool.and_eq_true, decide_eq_true_eq] at this
    exact this.2
  have h3 : ¬ 0x38040000000 ≤ pa := by omega
  simp [isScratch, h3]

theorem Memory.wf_reset {s : State} (w : s.Wf) : Memory.wf 0 (s.mem.filter fun e => s.resetKeeps e.1) = true := by
  have h := w.mem
  simp only [Memory.wf, Store.wf, Bool.and_eq_true, List.all_eq_true, decide_eq_true_eq] at h ⊢
  refine ⟨?_, fun e he => ?_⟩
  · rw [Store.rising_iff]
    exact List.Pairwise.filter _ ((Store.rising_iff s.mem).mp h.1)
  · obtain ⟨h1, h2⟩ := List.mem_filter.mp he
    rw [memDefault_other (m := s.scratch) (State.resetKeeps_other h2)]
    exact h.2 e h1

theorem Keeps.clearMem {a s : State} {p} (h : Keeps a s) :
    Keeps a { s with mem := [], prior := [], poison := [], scratch := 0, power := p } :=
  h.trans ⟨rfl, List.prefix_rfl, Nat.le_refl _, fun w => { w with mem := rfl, poison := List.Pairwise.nil }⟩

theorem length_take_two {α : Type} (l : List α) : (l.take 2).length ≤ 2 := List.length_take_le _ _

theorem Keeps.addRecord {a s : State} {r p} (h : Keeps a s) :
    Keeps a { s with strong := { s.strong with records := (r :: s.strong.records).take 2 }, power := p } :=
  h.trans ⟨rfl, List.prefix_rfl, Nat.le_refl _, fun w => { w with records := length_take_two _ }⟩

theorem State.setPower_keeps {a} {x0 x1} (h : Keeps a x0) :
    Keeps a (State.setPower x0 x1) := by
  unfold State.setPower
  repeat' first
    | with_reducible assumption
    | fail_if_no_progress (with_reducible refine Keeps.upd ?_ rfl rfl rfl rfl rfl)

theorem State.toPwr_keeps {a} {x0 x1} (h : Keeps a x0) :
    Keeps a (State.toPwr x0 x1) := by
  unfold State.toPwr
  repeat' first
    | with_reducible assumption
    | with_reducible apply State.wrN_keeps

theorem State.sampleStraps_keeps {a} {x0} (h : Keeps a x0) :
    Keeps a (State.sampleStraps x0) := by
  unfold State.sampleStraps
  repeat' first
    | with_reducible assumption
    | with_reducible apply State.wrN_keeps

theorem State.pwrEvent_keeps {a} {x0 x1 x2 x3} (h : Keeps a x0) :
    Keeps a (State.pwrEvent x0 x1 x2 x3) := by
  unfold State.pwrEvent
  repeat' first
    | with_reducible assumption
    | with_reducible apply State.raise_keeps
    | with_reducible apply State.setFlag_keeps

theorem State.linkLost_keeps {a} {x0} (h : Keeps a x0) :
    Keeps a (State.linkLost x0) := by
  unfold State.linkLost
  repeat' first
    | with_reducible assumption
    | with_reducible apply State.markFlag_keeps
    | with_reducible apply State.wrN_keeps

theorem State.stopWork_keeps {a} {x0} (h : Keeps a x0) : Keeps a (State.stopWork x0) := by
  unfold State.stopWork
  apply State.linkLost_keeps
  exact h.trans ⟨rfl, List.prefix_rfl, Nat.le_refl _, fun w => { w with
    ctxs := rfl, heads := rfl, bars := rfl, arrays := rfl, engines := rfl, queues := rfl, ports := rfl, mprog := rfl }⟩

theorem State.setOldCopy_keeps {a} {x0 x1} (h : Keeps a x0)
    (hf : ∀ x : StoreCopy, x0.Wf → Store.wf regDefault x.vals = true → Store.wf regDefault (x1 x).vals = true) :
    Keeps a (State.setOldCopy x0 x1) := by
  unfold State.setOldCopy
  split
  · exact h.trans ⟨rfl, List.prefix_rfl, Nat.le_refl _, fun w => { w with copyA := hf _ w w.copyA }⟩
  · exact h.trans ⟨rfl, List.prefix_rfl, Nat.le_refl _, fun w => { w with copyB := hf _ w w.copyB }⟩

theorem State.applyFuses_keeps {a} {x0} (h : Keeps a x0) :
    Keeps a (State.applyFuses x0) := by
  unfold State.applyFuses
  repeat' first
    | with_reducible assumption
    | with_reducible apply State.wr_keeps

theorem State.loadDict_keeps {a} {x0} (h : Keeps a x0) : Keeps a (State.loadDict x0) := by
  unfold State.loadDict
  apply State.applyFuses_keeps
  exact h.trans ⟨rfl, List.prefix_rfl, Nat.le_refl _, fun w => { w with
    regs := State.loadRegs_wf w, staged := Store.wf_filter _ _ _ (State.loadRegs_wf w) }⟩

theorem State.off_keeps {a} {x0} (h : Keeps a x0) : Keeps a (State.off x0) := by
  have ht := State.sealEvents_keeps (Keeps.refl x0)
  have hu : Keeps x0 (if x0.storing then x0.setOldCopy StoreCopy.torn else x0) :=
    Keeps.ite (State.setOldCopy_keeps (Keeps.refl x0) fun _ _ w => w) (Keeps.refl x0)
  unfold State.off
  extract_lets t u
  apply State.toPwr_keeps
  exact h.trans ⟨rfl, ht.out, Nat.le_refl _, fun w =>
    { mem := rfl, poison := List.Pairwise.nil, regs := Store.wf_filter _ _ _ w.regs, staged := rfl
      copyA := (hu.wf w).copyA, copyB := (hu.wf w).copyB
      ctxs := rfl, heads := rfl, bars := rfl, arrays := rfl, engines := rfl, queues := rfl, msiLast := rfl, ports := rfl, mprog := rfl,
      imageA := w.imageA, imageB := w.imageB, events := Nat.zero_le _, records := w.records }⟩

theorem State.tryPower_keeps {a} {x0} (h : Keeps a x0) :
    Keeps a (State.tryPower x0) := by
  unfold State.tryPower
  repeat' first
    | with_reducible assumption
    | with_reducible apply State.toPwr_keeps
    | (extract_lets +onlyGivenNames v; clear_value v)
    | with_reducible apply Keeps.ite
    | fail_if_no_progress (with_reducible refine Keeps.upd ?_ rfl rfl rfl rfl rfl)

theorem State.toStandby_keeps {a} {x0} (h : Keeps a x0) :
    Keeps a (State.toStandby x0) := by
  unfold State.toStandby
  repeat' first
    | with_reducible assumption
    | with_reducible apply State.tryPower_keeps
    | with_reducible apply State.sampleStraps_keeps
    | with_reducible apply State.toPwr_keeps
    | with_reducible apply State.off_keeps
    | with_reducible apply Keeps.ite

theorem State.beginReset_keeps {a} {x0 x1 x2} (h : Keeps a x0) :
    Keeps a (State.beginReset x0 x1 x2) := by
  unfold State.beginReset
  repeat' first
    | with_reducible assumption
    | with_reducible apply State.stopWork_keeps
    | with_reducible apply State.sampleStraps_keeps
    | (extract_lets +onlyGivenNames v; clear_value v)
    | fail_if_no_progress (with_reducible refine Keeps.upd ?_ rfl rfl rfl rfl rfl)

theorem State.startReset_keeps {a} {x0 x1 x2} (h : Keeps a x0) :
    Keeps a (State.startReset x0 x1 x2) := by
  unfold State.startReset
  repeat' first
    | with_reducible assumption
    | with_reducible apply State.beginReset_keeps
    | (extract_lets +onlyGivenNames v; clear_value v)
    | with_reducible apply Keeps.ite
    | fail_if_no_progress (with_reducible refine Keeps.upd ?_ rfl rfl rfl rfl rfl)

theorem State.clearLatches_keeps {a} {x0} (h : Keeps a x0) :
    Keeps a (State.clearLatches x0) := by
  unfold State.clearLatches
  repeat' first
    | with_reducible assumption
    | with_reducible apply State.tryPower_keeps
    | (extract_lets +onlyGivenNames v; clear_value v)
    | fail_if_no_progress (with_reducible refine Keeps.upd ?_ rfl rfl rfl rfl rfl)

theorem State.actAfter_keeps {a} {x0 x1} (h : Keeps a x0) :
    Keeps a (State.actAfter x0 x1) := by
  unfold State.actAfter
  repeat' first
    | with_reducible assumption
    | with_reducible apply State.clearLatches_keeps
    | with_reducible apply State.startReset_keeps
    | with_reducible apply Keeps.ite

theorem State.powerDown_keeps {a} {x0} (h : Keeps a x0) :
    Keeps a (State.powerDown x0) := by
  unfold State.powerDown
  repeat' first
    | with_reducible assumption
    | with_reducible apply State.stopWork_keeps
    | with_reducible apply State.actAfter_keeps
    | with_reducible apply State.toStandby_keeps
    | (extract_lets +onlyGivenNames v; refine Keeps.cut (a := a) (x := v) ?_ (fun hv => ?_); subst v; rotate_left; clear_value v; rotate_left)
    | (extract_lets +onlyGivenNames v; clear_value v)
    | (with_reducible refine Keeps.fold (fun _ _ _ => ?_) _ ?_)
    | with_reducible apply Keeps.clearMem

theorem State.afterLoad_keeps {a} {x0} (h : Keeps a x0) : Keeps a (State.afterLoad x0) :=
  h.trans ⟨rfl, (State.sealEvents_keeps (Keeps.refl x0)).out, Nat.le_refl _, fun w =>
    { mem := Memory.wf_reset w, poison := List.Pairwise.filter _ w.poison, regs := State.loadRegs_wf w,
      staged := Store.wf_filter _ _ _ (State.loadRegs_wf w), copyA := w.copyA, copyB := w.copyB,
      ctxs := rfl, heads := rfl, bars := rfl, arrays := rfl, engines := rfl, queues := rfl, msiLast := rfl, ports := rfl, mprog := rfl,
      imageA := w.imageA, imageB := w.imageB, events := Nat.zero_le _, records := w.records }⟩

theorem State.afterReset_keeps {a} {x0} (h : Keeps a x0) :
    Keeps a (State.afterReset x0) := by
  unfold State.afterReset
  repeat' first
    | with_reducible assumption
    | with_reducible apply State.sampleStraps_keeps
    | with_reducible apply State.wrN_keeps
    | with_reducible apply State.applyFuses_keeps
    | with_reducible apply State.toPwr_keeps
    | with_reducible apply State.afterLoad_keeps
    | with_reducible apply State.reconfigPort_keeps
    | (extract_lets +onlyGivenNames v; refine Keeps.cut (a := a) (x := v) ?_ (fun hv => ?_); subst v; rotate_left; clear_value v; rotate_left)
    | (with_reducible refine Keeps.fold (fun _ _ _ => ?_) _ ?_)

theorem State.reportSag_keeps {a} {x0} (h : Keeps a x0) :
    Keeps a (State.reportSag x0) := by
  unfold State.reportSag
  repeat' first
    | with_reducible assumption
    | with_reducible apply State.wrBytes_keeps
    | with_reducible apply State.wr_keeps
    | with_reducible apply State.pwrEvent_keeps
    | (extract_lets +onlyGivenNames v; refine Keeps.cut (a := a) (x := v) ?_ (fun hv => ?_); subst v; rotate_left; clear_value v; rotate_left)
    | (extract_lets +onlyGivenNames v; clear_value v)
    | with_reducible apply Keeps.ite
    | split

theorem State.resetDone_keeps {a} {x0} (h : Keeps a x0) :
    Keeps a (State.resetDone x0) := by
  unfold State.resetDone
  repeat' first
    | with_reducible assumption
    | with_reducible apply State.afterReset_keeps
    | with_reducible apply State.reportSag_keeps
    | with_reducible apply State.raise_keeps
    | (extract_lets +onlyGivenNames v; refine Keeps.cut (a := a) (x := v) ?_ (fun hv => ?_); subst v; rotate_left; clear_value v; rotate_left)
    | with_reducible apply Keeps.ite

theorem State.beginSave_keeps {a} {x0 x1} (h : Keeps a x0) :
    Keeps a (State.beginSave x0 x1) := by
  unfold State.beginSave
  repeat' first
    | with_reducible assumption
    | with_reducible apply State.count_keeps
    | with_reducible apply State.stopWork_keeps
    | with_reducible apply State.toPwr_keeps
    | (extract_lets +onlyGivenNames v; refine Keeps.cut (a := a) (x := v) ?_ (fun hv => ?_); subst v; rotate_left; clear_value v; rotate_left)
    | (extract_lets +onlyGivenNames v; clear_value v)
    | with_reducible apply Keeps.ite
    | fail_if_no_progress (with_reducible refine Keeps.upd ?_ rfl rfl rfl rfl rfl)

theorem State.endSave_keeps {a} {x0 x1} (h : Keeps a x0) :
    Keeps a (State.endSave x0 x1) := by
  unfold State.endSave
  repeat' first
    | with_reducible assumption
    | with_reducible apply State.powerDown_keeps
    | (extract_lets +onlyGivenNames v; (have _w : Strongroom := v); subst v)
    | (extract_lets +onlyGivenNames v; clear_value v)
    | with_reducible apply Keeps.ite
    | with_reducible apply Keeps.addRecord

theorem execStandbyPower_keeps {a} {x0 x1} (h : Keeps a x1) :
    NextP (Keeps a) (execStandbyPower x0 x1) := by
  unfold execStandbyPower
  repeat' first
    | with_reducible assumption
    | with_reducible apply State.setPower_keeps
    | with_reducible apply State.toStandby_keeps
    | with_reducible apply State.emit_keeps
    | with_reducible apply State.loadDict_keeps
    | (extract_lets +onlyGivenNames v; refine Keeps.cut (a := a) (x := v) ?_ (fun hv => ?_); subst v; rotate_left; clear_value v; rotate_left)
    | (extract_lets +onlyGivenNames v; clear_value v)
    | with_reducible apply NextP.ite
    | with_reducible apply NextP.next

theorem execStandbyLost_keeps {a} {x0} (h : Keeps a x0) :
    NextP (Keeps a) (execStandbyLost x0) := by
  unfold execStandbyLost
  repeat' first
    | with_reducible assumption
    | with_reducible apply State.setPower_keeps
    | with_reducible apply State.off_keeps
    | (extract_lets +onlyGivenNames v; refine Keeps.cut (a := a) (x := v) ?_ (fun hv => ?_); subst v; rotate_left; clear_value v; rotate_left)
    | (extract_lets +onlyGivenNames v; clear_value v)
    | with_reducible apply NextP.ite
    | with_reducible apply NextP.next

theorem execMainInputQualified_keeps {a} {x0} (h : Keeps a x0) :
    NextP (Keeps a) (execMainInputQualified x0) := by
  unfold execMainInputQualified
  repeat' first
    | with_reducible assumption
    | with_reducible apply State.tryPower_keeps
    | (extract_lets +onlyGivenNames v; clear_value v)
    | with_reducible apply NextP.next
    | fail_if_no_progress (with_reducible refine Keeps.upd ?_ rfl rfl rfl rfl rfl)

theorem State.holdupLow_keeps {a} {x0} (h : Keeps a x0) :
    Keeps a (State.holdupLow x0) := by
  unfold State.holdupLow
  repeat' first
    | with_reducible assumption
    | with_reducible apply State.pwrEvent_keeps
    | (extract_lets +onlyGivenNames v; refine Keeps.cut (a := a) (x := v) ?_ (fun hv => ?_); subst v; rotate_left; clear_value v; rotate_left)
    | (extract_lets +onlyGivenNames v; clear_value v)
    | fail_if_no_progress (with_reducible refine Keeps.upd ?_ rfl rfl rfl rfl rfl)

theorem execHoldupCharged_keeps {a} {x0 x1 x2} (h : Keeps a x2) :
    NextP (Keeps a) (execHoldupCharged x0 x1 x2) := by
  unfold execHoldupCharged
  repeat' first
    | with_reducible assumption
    | with_reducible apply State.wrN_keeps
    | with_reducible apply State.holdupLow_keeps
    | (extract_lets +onlyGivenNames v; refine Keeps.cut (a := a) (x := v) ?_ (fun hv => ?_); subst v; rotate_left; clear_value v; rotate_left)
    | (extract_lets +onlyGivenNames v; clear_value v)
    | with_reducible apply Keeps.ite
    | with_reducible apply NextP.ite
    | with_reducible apply NextP.next
    | fail_if_no_progress (with_reducible refine Keeps.upd ?_ rfl rfl rfl rfl rfl)

theorem execRailGroupRegulated_keeps {a} {x0 x1} (h : Keeps a x1) :
    NextP (Keeps a) (execRailGroupRegulated x0 x1) := by
  unfold execRailGroupRegulated
  repeat' first
    | with_reducible assumption
    | with_reducible apply State.beginReset_keeps
    | with_reducible apply State.toPwr_keeps
    | (extract_lets +onlyGivenNames v; clear_value v)
    | with_reducible apply NextP.ite
    | with_reducible apply NextP.next
    | fail_if_no_progress (with_reducible refine Keeps.upd ?_ rfl rfl rfl rfl rfl)

theorem execPwrFault_keeps {a} {x0 x1} (h : Keeps a x1) :
    NextP (Keeps a) (execPwrFault x0 x1) := by
  unfold execPwrFault
  repeat' first
    | with_reducible assumption
    | with_reducible apply State.pwrEvent_keeps
    | with_reducible apply State.powerDown_keeps
    | (extract_lets +onlyGivenNames v; refine Keeps.cut (a := a) (x := v) ?_ (fun hv => ?_); subst v; rotate_left; clear_value v; rotate_left)
    | (extract_lets +onlyGivenNames v; clear_value v)
    | with_reducible apply NextP.ite
    | with_reducible apply NextP.next
    | fail_if_no_progress (with_reducible refine Keeps.upd ?_ rfl rfl rfl rfl rfl)

theorem execPwrRetryTimer_keeps {a} {x0} (h : Keeps a x0) :
    NextP (Keeps a) (execPwrRetryTimer x0) := by
  unfold execPwrRetryTimer
  repeat' first
    | with_reducible assumption
    | with_reducible apply State.tryPower_keeps
    | (extract_lets +onlyGivenNames v; clear_value v)
    | with_reducible apply NextP.ite
    | with_reducible apply NextP.next
    | fail_if_no_progress (with_reducible refine Keeps.upd ?_ rfl rfl rfl rfl rfl)

theorem execSupplyWarn_keeps {a} {x0 x1} (h : Keeps a x1) :
    NextP (Keeps a) (execSupplyWarn x0 x1) := by
  unfold execSupplyWarn
  repeat' first
    | with_reducible assumption
    | with_reducible apply State.count_keeps
    | with_reducible apply State.wrN_keeps
    | with_reducible apply State.pwrEvent_keeps
    | (extract_lets +onlyGivenNames v; refine Keeps.cut (a := a) (x := v) ?_ (fun hv => ?_); subst v; rotate_left; clear_value v; rotate_left)
    | with_reducible apply NextP.ite
    | with_reducible apply NextP.next

theorem execSag_keeps {a} {x0} (h : Keeps a x0) :
    NextP (Keeps a) (execSag x0) := by
  unfold execSag
  repeat' first
    | with_reducible assumption
    | with_reducible apply State.setPower_keeps
    | with_reducible apply State.powerDown_keeps
    | with_reducible apply State.beginSave_keeps
    | (extract_lets +onlyGivenNames v; refine Keeps.cut (a := a) (x := v) ?_ (fun hv => ?_); subst v; rotate_left; clear_value v; rotate_left)
    | (extract_lets +onlyGivenNames v; clear_value v)
    | with_reducible apply NextP.ite
    | with_reducible apply NextP.next

theorem execSagGlitch_keeps {a} {x0} (h : Keeps a x0) :
    NextP (Keeps a) (execSagGlitch x0) := by
  unfold execSagGlitch
  repeat' first
    | with_reducible assumption
    | with_reducible apply State.tally_keeps
    | with_reducible apply NextP.ite
    | with_reducible apply NextP.next

theorem execOvervoltage_keeps {a} {x0 x1} (h : Keeps a x1) :
    NextP (Keeps a) (execOvervoltage x0 x1) := by
  unfold execOvervoltage
  repeat' first
    | with_reducible assumption
    | with_reducible apply State.raise_keeps
    | with_reducible apply State.wrN_keeps
    | with_reducible apply State.beginSave_keeps
    | (extract_lets +onlyGivenNames v; refine Keeps.cut (a := a) (x := v) ?_ (fun hv => ?_); subst v; rotate_left; clear_value v; rotate_left)
    | (extract_lets +onlyGivenNames v; clear_value v)
    | with_reducible apply NextP.ite
    | with_reducible apply NextP.next
    | fail_if_no_progress (with_reducible refine Keeps.upd ?_ rfl rfl rfl rfl rfl)

theorem execSaveDone_keeps {a} {x0 x1} (h : Keeps a x1) :
    NextP (Keeps a) (execSaveDone x0 x1) := by
  unfold execSaveDone
  repeat' first
    | with_reducible assumption
    | with_reducible apply State.endSave_keeps
    | with_reducible apply NextP.next

theorem execSaveTimeout_keeps {a} {x0} (h : Keeps a x0) :
    NextP (Keeps a) (execSaveTimeout x0) := by
  unfold execSaveTimeout
  repeat' first
    | with_reducible assumption
    | with_reducible apply State.endSave_keeps
    | with_reducible apply NextP.next

theorem State.takeReadings_keeps {a} {x0 x1} (h : Keeps a x0) :
    Keeps a (State.takeReadings x0 x1) := by
  unfold State.takeReadings
  repeat' first
    | with_reducible assumption
    | with_reducible apply State.wrN_keeps
    | (with_reducible refine Keeps.fold (fun _ _ _ => ?_) _ ?_)

theorem State.throttle_keeps {a} {x0 x1} (h : Keeps a x0) :
    Keeps a (State.throttle x0 x1) := by
  unfold State.throttle
  repeat' first
    | with_reducible assumption
    | with_reducible apply State.setPower_keeps
    | with_reducible apply State.pwrEvent_keeps
    | (extract_lets +onlyGivenNames v; clear_value v)
    | with_reducible apply Keeps.ite

theorem State.coolant_keeps {a} {x0 x1} (h : Keeps a x0) :
    Keeps a (State.coolant x0 x1) := by
  unfold State.coolant
  repeat' first
    | with_reducible assumption
    | with_reducible apply State.setPower_keeps
    | with_reducible apply State.pwrEvent_keeps
    | (extract_lets +onlyGivenNames v; refine Keeps.cut (a := a) (x := v) ?_ (fun hv => ?_); subst v; rotate_left; clear_value v; rotate_left)
    | (extract_lets +onlyGivenNames v; clear_value v)
    | with_reducible apply Keeps.ite

theorem State.trip_keeps {a} {x0 x1} (h : Keeps a x0) :
    Keeps a (State.trip x0 x1) := by
  unfold State.trip
  repeat' first
    | with_reducible assumption
    | with_reducible apply State.setPower_keeps
    | with_reducible apply State.raise_keeps
    | with_reducible apply State.beginSave_keeps
    | (extract_lets +onlyGivenNames v; refine Keeps.cut (a := a) (x := v) ?_ (fun hv => ?_); subst v; rotate_left; clear_value v; rotate_left)
    | (extract_lets +onlyGivenNames v; clear_value v)
    | with_reducible apply Keeps.ite
    | fail_if_no_progress (with_reducible refine Keeps.upd ?_ rfl rfl rfl rfl rfl)
    | split

theorem execThermalSample_keeps {a} {x0 x1} (h : Keeps a x1) :
    NextP (Keeps a) (execThermalSample x0 x1) := by
  unfold execThermalSample
  repeat' first
    | with_reducible assumption
    | with_reducible apply State.takeReadings_keeps
    | with_reducible apply State.coolant_keeps
    | with_reducible apply State.trip_keeps
    | with_reducible apply State.throttle_keeps
    | (extract_lets +onlyGivenNames v; refine Keeps.cut (a := a) (x := v) ?_ (fun hv => ?_); subst v; rotate_left; clear_value v; rotate_left)
    | with_reducible apply Keeps.ite
    | with_reducible apply NextP.ite
    | with_reducible apply NextP.next

theorem State.moduleReset_keeps {a} {x0 x1} (h : Keeps a x0) :
    Keeps a (State.moduleReset x0 x1).2 := by
  unfold State.moduleReset
  repeat' first
    | with_reducible assumption
    | with_reducible apply State.clearLatches_keeps
    | (extract_lets +onlyGivenNames v; clear_value v)
    | fail_if_no_progress (with_reducible refine Keeps.upd ?_ rfl rfl rfl rfl rfl)
    | split

theorem execModuleResetWarm_keeps {a} {x0} (h : Keeps a x0) :
    NextP (Keeps a) (execModuleResetWarm x0) := by
  unfold execModuleResetWarm
  repeat' first
    | with_reducible assumption
    | with_reducible apply settle_keeps
    | with_reducible apply State.moduleReset_keeps
    | with_reducible apply NextP.next

theorem execModuleResetCold_keeps {a} {x0} (h : Keeps a x0) :
    NextP (Keeps a) (execModuleResetCold x0) := by
  unfold execModuleResetCold
  repeat' first
    | with_reducible assumption
    | with_reducible apply settle_keeps
    | with_reducible apply State.moduleReset_keeps
    | with_reducible apply NextP.next

theorem execModuleResetDelay_keeps {a} {x0} (h : Keeps a x0) :
    NextP (Keeps a) (execModuleResetDelay x0) := by
  unfold execModuleResetDelay
  repeat' first
    | with_reducible assumption
    | with_reducible apply State.startReset_keeps
    | (extract_lets +onlyGivenNames v; clear_value v)
    | with_reducible apply NextP.next
    | fail_if_no_progress (with_reducible refine Keeps.upd ?_ rfl rfl rfl rfl rfl)
    | split

theorem execWatchdogExpiry_keeps {a} {x0} (h : Keeps a x0) :
    NextP (Keeps a) (execWatchdogExpiry x0) := by
  unfold execWatchdogExpiry
  repeat' first
    | with_reducible assumption
    | with_reducible apply State.startReset_keeps
    | with_reducible apply NextP.next

theorem execPerstAssert_keeps {a} {x0} (h : Keeps a x0) :
    NextP (Keeps a) (execPerstAssert x0) := by
  unfold execPerstAssert
  repeat' first
    | with_reducible assumption
    | with_reducible apply State.startReset_keeps
    | (extract_lets +onlyGivenNames v; clear_value v)
    | with_reducible apply NextP.next
    | fail_if_no_progress (with_reducible refine Keeps.upd ?_ rfl rfl rfl rfl rfl)

theorem execPerstDeassert_keeps {a} {x0} (h : Keeps a x0) :
    NextP (Keeps a) (execPerstDeassert x0) := by
  unfold execPerstDeassert
  repeat' first
    | with_reducible assumption
    | (extract_lets +onlyGivenNames v; clear_value v)
    | with_reducible apply NextP.next
    | fail_if_no_progress (with_reducible refine Keeps.upd ?_ rfl rfl rfl rfl rfl)

theorem execPllUnlock_keeps {a} {x0} (h : Keeps a x0) :
    NextP (Keeps a) (execPllUnlock x0) := by
  unfold execPllUnlock
  repeat' first
    | with_reducible assumption
    | with_reducible apply State.startReset_keeps
    | with_reducible apply State.raise_keeps
    | with_reducible apply NextP.ite
    | with_reducible apply NextP.next

theorem execModuleResetDone_keeps {a} {x0} (h : Keeps a x0) :
    NextP (Keeps a) (execModuleResetDone x0) := by
  unfold execModuleResetDone
  repeat' first
    | with_reducible assumption
    | with_reducible apply State.resetDone_keeps
    | with_reducible apply NextP.next

theorem execRefLost_keeps {a} {x0} (h : Keeps a x0) :
    NextP (Keeps a) (execRefLost x0) := by
  unfold execRefLost
  repeat' first
    | with_reducible assumption
    | with_reducible apply State.setPower_keeps
    | with_reducible apply State.pwrEvent_keeps
    | with_reducible apply State.wrN_keeps
    | (extract_lets +onlyGivenNames v; refine Keeps.cut (a := a) (x := v) ?_ (fun hv => ?_); subst v; rotate_left; clear_value v; rotate_left)
    | (extract_lets +onlyGivenNames v; clear_value v)
    | with_reducible apply NextP.ite
    | with_reducible apply NextP.next

theorem execRefclkPresent_keeps {a} {x0} (h : Keeps a x0) :
    NextP (Keeps a) (execRefclkPresent x0) := by
  unfold execRefclkPresent
  repeat' first
    | with_reducible assumption
    | with_reducible apply State.wrN_keeps
    | (extract_lets +onlyGivenNames v; clear_value v)
    | with_reducible apply NextP.next
    | fail_if_no_progress (with_reducible refine Keeps.upd ?_ rfl rfl rfl rfl rfl)

theorem State.srExport_keeps {a} {x0 x1} (h : Keeps a x0) :
    Keeps a (State.srExport x0 x1).2 := by
  unfold State.srExport
  repeat' first
    | with_reducible assumption
    | with_reducible apply State.poke_keeps
    | split

theorem execSrExport_keeps {a} {x0} (h : Keeps a x0) :
    NextP (Keeps a) (execSrExport x0) := by
  unfold execSrExport
  repeat' first
    | with_reducible assumption
    | with_reducible apply settle_keeps
    | with_reducible apply State.srExport_keeps
    | with_reducible apply NextP.next

theorem execPersistWrite_keeps {a} {x0 x1 x2} (h : Keeps a x2) : NextP (Keeps a) (execPersistWrite x0 x1 x2) := by
  have k : Keeps a ({ x2 with storing := false } : State) := Keeps.upd h rfl rfl rfl rfl rfl
  unfold execPersistWrite
  apply NextP.ite (NextP.next h)
  apply NextP.ite
  · exact NextP.next (State.setOldCopy_keeps k fun _ w _ => Store.wf_filter _ _ _ w.regs)
  · exact NextP.next (State.tally_keeps (State.setOldCopy_keeps k fun _ _ w => w))

end Sys2Proof.Machine
end

