-- ==== Sys2Proof/Laws/KeepsSync.lean ====
section
/-! SUPPORT. The operations of `Machine/Sync.lean` keep what no command disturbs. -/

namespace Sys2Proof.Machine


theorem State.syncSend_keeps {a} {x0 x1 x2 x3} (h : Keeps a x0) :
    Keeps a (State.syncSend x0 x1 x2 x3) := by
  unfold State.syncSend
  repeat' first
    | with_reducible assumption
    | with_reducible apply State.emit_keeps
    | with_reducible apply Keeps.ite

theorem State.badFrame_keeps {a} {x0} (h : Keeps a x0) :
    Keeps a (State.badFrame x0) := by
  unfold State.badFrame
  repeat' first
    | with_reducible assumption
    | with_reducible apply State.tally_keeps

theorem State.takeFrame_keeps {a} {x0 x1 x2 x3 x4} (h : Keeps a x0) (hf4 : ∀ y0, Keeps a y0 → Keeps a (x4 y0)) :
    Keeps a (State.takeFrame x0 x1 x2 x3 x4) := by
  unfold State.takeFrame
  repeat' first
    | with_reducible assumption
    | with_reducible apply State.emit_keeps
    | with_reducible apply State.badFrame_keeps
    | with_reducible apply State.wrN_keeps
    | with_reducible apply hf4
    | (extract_lets +onlyGivenNames v; refine Keeps.cut (a := a) (x := v) ?_ (fun hv => ?_); subst v; rotate_left; clear_value v; rotate_left)
    | (extract_lets +onlyGivenNames v; clear_value v)
    | with_reducible apply Keeps.ite
    | fail_if_no_progress (with_reducible refine Keeps.upd ?_ rfl rfl rfl rfl rfl)

theorem execSyncFrameDiscard_keeps {a} {x0 x1} (h : Keeps a x1) :
    NextP (Keeps a) (execSyncFrameDiscard x0 x1) := by
  unfold execSyncFrameDiscard
  repeat' first
    | with_reducible assumption
    | with_reducible apply State.badFrame_keeps
    | with_reducible apply NextP.ite
    | with_reducible apply NextP.next

theorem State.takeTime_keeps {a} {x0 x1} (h : Keeps a x0) :
    Keeps a (State.takeTime x0 x1) := by
  unfold State.takeTime
  repeat' first
    | with_reducible assumption
    | with_reducible apply State.wr_keeps
    | with_reducible apply State.discipline_keeps
    | (extract_lets +onlyGivenNames v; clear_value v)
    | with_reducible apply Keeps.ite
    | fail_if_no_progress (with_reducible refine Keeps.upd ?_ rfl rfl rfl rfl rfl)

theorem execSyncTimeFrame_keeps {a} {x0 x1} (h : Keeps a x1) :
    NextP (Keeps a) (execSyncTimeFrame x0 x1) := by
  unfold execSyncTimeFrame
  repeat' first
    | with_reducible intro _
    | with_reducible assumption
    | with_reducible apply State.takeFrame_keeps
    | with_reducible apply State.takeTime_keeps
    | with_reducible apply NextP.next

theorem execSyncTimeTimer_keeps {a} {x0} (h : Keeps a x0) :
    NextP (Keeps a) (execSyncTimeTimer x0) := by
  unfold execSyncTimeTimer
  repeat' first
    | with_reducible assumption
    | with_reducible apply State.syncSend_keeps
    | with_reducible apply NextP.ite
    | with_reducible apply NextP.next

theorem execSyncEchoTimer_keeps {a} {x0} (h : Keeps a x0) :
    NextP (Keeps a) (execSyncEchoTimer x0) := by
  unfold execSyncEchoTimer
  repeat' first
    | with_reducible assumption
    | with_reducible apply State.syncSend_keeps
    | (extract_lets +onlyGivenNames v; clear_value v)
    | with_reducible apply NextP.ite
    | with_reducible apply NextP.next
    | fail_if_no_progress (with_reducible refine Keeps.upd ?_ rfl rfl rfl rfl rfl)

theorem execEchoReq_keeps {a} {x0 x1 x2} (h : Keeps a x2) :
    NextP (Keeps a) (execEchoReq x0 x1 x2) := by
  unfold execEchoReq
  repeat' first
    | with_reducible intro _
    | with_reducible assumption
    | with_reducible apply State.takeFrame_keeps
    | with_reducible apply State.syncSend_keeps
    | with_reducible apply NextP.next

theorem execEchoRsp_keeps {a} {x0 x1 x2 x3} (h : Keeps a x3) :
    NextP (Keeps a) (execEchoRsp x0 x1 x2 x3) := by
  unfold execEchoRsp
  repeat' first
    | with_reducible intro _
    | with_reducible assumption
    | with_reducible apply State.takeFrame_keeps
    | with_reducible apply State.wrN_keeps
    | with_reducible apply Keeps.ite
    | with_reducible apply NextP.next

theorem execSyncLoss_keeps {a} {x0 x1} (h : Keeps a x1) :
    NextP (Keeps a) (execSyncLoss x0 x1) := by
  unfold execSyncLoss
  repeat' first
    | with_reducible assumption
    | with_reducible apply State.pwrEvent_keeps
    | with_reducible apply State.count_keeps
    | (extract_lets +onlyGivenNames v; refine Keeps.cut (a := a) (x := v) ?_ (fun hv => ?_); subst v; rotate_left; clear_value v; rotate_left)
    | (extract_lets +onlyGivenNames v; clear_value v)
    | with_reducible apply NextP.ite
    | with_reducible apply NextP.next
    | fail_if_no_progress (with_reducible refine Keeps.upd ?_ rfl rfl rfl rfl rfl)

theorem State.takeStepMark_keeps {a} {x0 x1} (h : Keeps a x0) :
    Keeps a (State.takeStepMark x0 x1) := by
  unfold State.takeStepMark
  repeat' first
    | with_reducible assumption
    | with_reducible apply State.syncSend_keeps
    | with_reducible apply State.wr_keeps
    | with_reducible apply State.pwrEvent_keeps
    | with_reducible apply State.count_keeps
    | (extract_lets +onlyGivenNames v; refine Keeps.cut (a := a) (x := v) ?_ (fun hv => ?_); subst v; rotate_left; clear_value v; rotate_left)
    | (extract_lets +onlyGivenNames v; clear_value v)
    | with_reducible apply Keeps.ite
    | fail_if_no_progress (with_reducible refine Keeps.upd ?_ rfl rfl rfl rfl rfl)

theorem execSyncStepFrame_keeps {a} {x0 x1} (h : Keeps a x1) :
    NextP (Keeps a) (execSyncStepFrame x0 x1) := by
  unfold execSyncStepFrame
  repeat' first
    | with_reducible intro _
    | with_reducible assumption
    | with_reducible apply State.takeFrame_keeps
    | with_reducible apply State.takeStepMark_keeps
    | with_reducible apply NextP.next

theorem State.latchStop_keeps {a} {x0 x1} (h : Keeps a x0) :
    Keeps a (State.latchStop x0 x1) := by
  unfold State.latchStop
  repeat' first
    | with_reducible assumption
    | with_reducible apply State.pwrEvent_keeps
    | with_reducible apply State.count_keeps
    | with_reducible apply State.stopAll_keeps
    | (extract_lets +onlyGivenNames v; refine Keeps.cut (a := a) (x := v) ?_ (fun hv => ?_); subst v; rotate_left; clear_value v; rotate_left)
    | (extract_lets +onlyGivenNames v; clear_value v)
    | with_reducible apply Keeps.ite
    | fail_if_no_progress (with_reducible refine Keeps.upd ?_ rfl rfl rfl rfl rfl)

theorem execEstop_keeps {a} {x0 x1 x2} (h : Keeps a x2) :
    NextP (Keeps a) (execEstop x0 x1 x2) := by
  unfold execEstop
  repeat' first
    | with_reducible intro _
    | with_reducible assumption
    | with_reducible apply State.takeFrame_keeps
    | with_reducible apply State.syncSend_keeps
    | with_reducible apply State.latchStop_keeps
    | (extract_lets +onlyGivenNames v; clear_value v)
    | with_reducible apply NextP.next
    | fail_if_no_progress (with_reducible refine Keeps.upd ?_ rfl rfl rfl rfl rfl)

theorem State.sendStop_keeps {a} {x0} (h : Keeps a x0) :
    Keeps a (State.sendStop x0) := by
  unfold State.sendStop
  repeat' first
    | with_reducible assumption
    | with_reducible apply State.syncSend_keeps

theorem State.estopControl_keeps {a} {x0 x1} (h : Keeps a x0) :
    Keeps a (State.estopControl x0 x1).2 := by
  unfold State.estopControl
  repeat' first
    | with_reducible assumption
    | with_reducible apply State.latchStop_keeps
    | with_reducible apply State.sendStop_keeps
    | (extract_lets +onlyGivenNames v; refine Keeps.cut (a := a) (x := v) ?_ (fun hv => ?_); subst v; rotate_left; clear_value v; rotate_left)
    | (extract_lets +onlyGivenNames v; clear_value v)
    | fail_if_no_progress (with_reducible refine Keeps.upd ?_ rfl rfl rfl rfl rfl)
    | split

theorem execEstopRaise_keeps {a} {x0} (h : Keeps a x0) :
    NextP (Keeps a) (execEstopRaise x0) := by
  unfold execEstopRaise
  repeat' first
    | with_reducible assumption
    | with_reducible apply settle_keeps
    | with_reducible apply State.estopControl_keeps
    | with_reducible apply NextP.next

theorem execEstopClear_keeps {a} {x0} (h : Keeps a x0) :
    NextP (Keeps a) (execEstopClear x0) := by
  unfold execEstopClear
  repeat' first
    | with_reducible assumption
    | with_reducible apply settle_keeps
    | with_reducible apply State.estopControl_keeps
    | with_reducible apply NextP.next

theorem execEstopRepeat_keeps {a} {x0} (h : Keeps a x0) :
    NextP (Keeps a) (execEstopRepeat x0) := by
  unfold execEstopRepeat
  repeat' first
    | with_reducible assumption
    | with_reducible apply State.sendStop_keeps
    | with_reducible apply NextP.ite
    | with_reducible apply NextP.next

end Sys2Proof.Machine
end

