-- ==== Sys2Proof/Laws/KeepsPackets.lean ====
section
/-! SUPPORT. The operations of `Machine/Packets.lean` keep what no command disturbs. -/

namespace Sys2Proof.Machine


theorem execRedHdr_keeps {a} {x0 x1} (h : Keeps a x1) :
    NextP (Keeps a) (execRedHdr x0 x1) := by
  unfold execRedHdr
  repeat' first
    | with_reducible assumption
    | with_reducible apply State.kick_keeps
    | with_reducible apply State.takeHeader_keeps
    | with_reducible apply NextP.next

theorem execRedDense_keeps {a} {x0 x1} (h : Keeps a x1) :
    NextP (Keeps a) (execRedDense x0 x1) := by
  unfold execRedDense
  repeat' first
    | with_reducible assumption
    | with_reducible apply State.kick_keeps
    | with_reducible apply State.takePart_keeps
    | with_reducible apply NextP.next

theorem execRedSparse_keeps {a} {x0 x1} (h : Keeps a x1) :
    NextP (Keeps a) (execRedSparse x0 x1) := by
  unfold execRedSparse
  repeat' first
    | with_reducible assumption
    | with_reducible apply State.kick_keeps
    | with_reducible apply State.takePart_keeps
    | with_reducible apply NextP.next

theorem execRedResult_keeps {a} {x0 x1} (h : Keeps a x1) :
    NextP (Keeps a) (execRedResult x0 x1) := by
  unfold execRedResult
  repeat' first
    | with_reducible assumption
    | with_reducible apply State.kick_keeps
    | with_reducible apply State.takePart_keeps
    | with_reducible apply NextP.next

theorem execCollAbort_keeps {a} {x0 x1} (h : Keeps a x1) :
    NextP (Keeps a) (execCollAbort x0 x1) := by
  unfold execCollAbort
  repeat' first
    | with_reducible assumption
    | with_reducible apply State.kick_keeps
    | with_reducible apply State.takeAbort_keeps
    | with_reducible apply NextP.next

theorem execShxCollTimeout_keeps {a} {x0 x1} (h : Keeps a x1) :
    NextP (Keeps a) (execShxCollTimeout x0 x1) := by
  unfold execShxCollTimeout
  repeat' first
    | with_reducible assumption
    | with_reducible apply State.collTimeout_keeps
    | with_reducible apply NextP.next

theorem execCommitToken_keeps {a} {x0 x1} (h : Keeps a x1) :
    NextP (Keeps a) (execCommitToken x0 x1) := by
  unfold execCommitToken
  repeat' first
    | with_reducible intro _
    | with_reducible assumption
    | with_reducible apply State.receiveColl_keeps
    | with_reducible apply State.kick_keeps
    | with_reducible apply State.latchToken_keeps
    | with_reducible apply NextP.next

theorem execMismatchReport_keeps {a} {x0 x1} (h : Keeps a x1) :
    NextP (Keeps a) (execMismatchReport x0 x1) := by
  unfold execMismatchReport
  repeat' first
    | with_reducible intro _
    | with_reducible assumption
    | with_reducible apply State.receiveColl_keeps
    | with_reducible apply State.takeReport_keeps
    | with_reducible apply NextP.next

theorem execVerdict_keeps {a} {x0 x1} (h : Keeps a x1) :
    NextP (Keeps a) (execVerdict x0 x1) := by
  unfold execVerdict
  repeat' first
    | with_reducible intro _
    | with_reducible assumption
    | with_reducible apply State.receiveColl_keeps
    | with_reducible apply State.takeVerdict_keeps
    | with_reducible apply NextP.next

theorem execFenceVoteClose_keeps {a} {x0} (h : Keeps a x0) :
    NextP (Keeps a) (execFenceVoteClose x0) := by
  unfold execFenceVoteClose
  repeat' first
    | with_reducible assumption
    | with_reducible apply State.closeVote_keeps
    | with_reducible apply NextP.next

theorem execVerdictTimeout_keeps {a} {x0 x1} (h : Keeps a x1) :
    NextP (Keeps a) (execVerdictTimeout x0 x1) := by
  unfold execVerdictTimeout
  repeat' first
    | with_reducible assumption
    | with_reducible apply State.verdictLate_keeps
    | with_reducible apply NextP.next

theorem State.fenceControl_keeps {a} {x0 x1} (h : Keeps a x0) :
    Keeps a (State.fenceControl x0 x1).2 := by
  unfold State.fenceControl
  repeat' first
    | with_reducible assumption
    | with_reducible apply State.fenceNow_keeps
    | with_reducible apply State.fenceLeave_keeps
    | (with_reducible apply Keeps.ofSnd; · with_reducible assumption)
    | split

theorem execFence_keeps {a} {x0} (h : Keeps a x0) :
    NextP (Keeps a) (execFence x0) := by
  unfold execFence
  repeat' first
    | with_reducible assumption
    | with_reducible apply settle_keeps
    | with_reducible apply State.fenceControl_keeps
    | with_reducible apply NextP.next

theorem execFenceClear_keeps {a} {x0} (h : Keeps a x0) :
    NextP (Keeps a) (execFenceClear x0) := by
  unfold execFenceClear
  repeat' first
    | with_reducible assumption
    | with_reducible apply settle_keeps
    | with_reducible apply State.fenceControl_keeps
    | with_reducible apply NextP.next

theorem execApplyPrep_keeps {a} {x0 x1} (h : Keeps a x1) :
    NextP (Keeps a) (execApplyPrep x0 x1) := by
  unfold execApplyPrep
  repeat' first
    | with_reducible intro _
    | with_reducible assumption
    | with_reducible apply State.receive_keeps
    | with_reducible apply State.takePrep_keeps
    | with_reducible apply NextP.next

theorem execApplyVote_keeps {a} {x0 x1} (h : Keeps a x1) :
    NextP (Keeps a) (execApplyVote x0 x1) := by
  unfold execApplyVote
  repeat' first
    | with_reducible intro _
    | with_reducible assumption
    | with_reducible apply State.receive_keeps
    | with_reducible apply State.takeVote_keeps
    | with_reducible apply NextP.next

theorem State.takeGo_keeps {a} {x0 x1} (h : Keeps a x0) :
    Keeps a (State.takeGo x0 x1) := by
  unfold State.takeGo
  repeat' first
    | with_reducible intro _
    | with_reducible assumption
    | with_reducible apply State.receive_keeps
    | with_reducible apply State.domCancel_keeps
    | with_reducible apply State.domGo_keeps
    | with_reducible apply Keeps.ite

theorem execApplyGo_keeps {a} {x0 x1} (h : Keeps a x1) :
    NextP (Keeps a) (execApplyGo x0 x1) := by
  unfold execApplyGo
  repeat' first
    | with_reducible assumption
    | with_reducible apply State.takeGo_keeps
    | with_reducible apply NextP.next

theorem execApplyGoCancel_keeps {a} {x0 x1} (h : Keeps a x1) :
    NextP (Keeps a) (execApplyGoCancel x0 x1) := by
  unfold execApplyGoCancel
  repeat' first
    | with_reducible assumption
    | with_reducible apply State.takeGo_keeps
    | with_reducible apply NextP.next

theorem execDomainApply_keeps {a} {x0 x1 x2} (h : Keeps a x2) :
    NextP (Keeps a) (execDomainApply x0 x1 x2) := by
  unfold execDomainApply
  repeat' first
    | with_reducible assumption
    | with_reducible apply settle_keeps
    | with_reducible apply State.domStart_keeps
    | with_reducible apply NextP.next

theorem execApplyVoteDeadline_keeps {a} {x0} (h : Keeps a x0) :
    NextP (Keeps a) (execApplyVoteDeadline x0) := by
  unfold execApplyVoteDeadline
  repeat' first
    | with_reducible assumption
    | with_reducible apply State.voteDeadline_keeps
    | with_reducible apply NextP.next

theorem execDomainApplyInstant_keeps {a} {x0} (h : Keeps a x0) :
    NextP (Keeps a) (execDomainApplyInstant x0) := by
  unfold execDomainApplyInstant
  repeat' first
    | with_reducible assumption
    | with_reducible apply State.domInstant_keeps
    | with_reducible apply NextP.next

theorem execDepotWr_keeps {a} {x0 x1} (h : Keeps a x1) :
    NextP (Keeps a) (execDepotWr x0 x1) := by
  unfold execDepotWr
  repeat' first
    | with_reducible intro _
    | with_reducible assumption
    | with_reducible apply State.receive_keeps
    | with_reducible apply State.takeDepotWrite_keeps
    | with_reducible apply NextP.next

theorem execDepotRd_keeps {a} {x0 x1} (h : Keeps a x1) :
    NextP (Keeps a) (execDepotRd x0 x1) := by
  unfold execDepotRd
  repeat' first
    | with_reducible intro _
    | with_reducible assumption
    | with_reducible apply State.receive_keeps
    | with_reducible apply State.takeDepotRead_keeps
    | with_reducible apply NextP.next

theorem execDepotData_keeps {a} {x0 x1} (h : Keeps a x1) :
    NextP (Keeps a) (execDepotData x0 x1) := by
  unfold execDepotData
  repeat' first
    | with_reducible intro _
    | with_reducible assumption
    | with_reducible apply State.receive_keeps
    | with_reducible apply State.kick_keeps
    | with_reducible apply State.takeDepotData_keeps
    | with_reducible apply NextP.next

theorem execRestoreReq_keeps {a} {x0 x1 x2 x3 x4} (h : Keeps a x4) :
    NextP (Keeps a) (execRestoreReq x0 x1 x2 x3 x4) := by
  unfold execRestoreReq
  repeat' first
    | with_reducible assumption
    | with_reducible apply settle_keeps
    | with_reducible apply State.restoreStart_keeps
    | with_reducible apply NextP.next

theorem execProvReq_keeps {a} {x0 x1} (h : Keeps a x1) :
    NextP (Keeps a) (execProvReq x0 x1) := by
  unfold execProvReq
  repeat' first
    | with_reducible assumption
    | with_reducible apply settle_keeps
    | with_reducible apply State.provStart_keeps
    | with_reducible apply NextP.next

end Sys2Proof.Machine
end

