-- ==== Sys2Proof/Laws/KeepsIgcor.lean ====
section
/-! SUPPORT. The operations of `Machine/Igcor.lean` keep what no command disturbs. -/

namespace Sys2Proof.Machine


theorem State.control_keeps {a} {x0 x1 x2} (h : Keeps a x0) :
    Keeps a (State.control x0 x1 x2).2 := by
  unfold State.control
  repeat' first
    | with_reducible assumption
    | with_reducible apply State.preempt_keeps
    | with_reducible apply State.resume_keeps
    | with_reducible apply State.resetCtx_keeps
    | with_reducible apply State.count_keeps
    | split

theorem entryAction_keeps {a} {x0 x1 x2 x3} (h : Keeps a x3) :
    Keeps a (entryAction x0 x1 x2 x3).2 := by
  unfold entryAction
  repeat' first
    | with_reducible assumption
    | with_reducible apply State.control_keeps
    | with_reducible apply State.faultResume_keeps
    | with_reducible apply State.mmuInvalidate_keeps
    | with_reducible apply State.laneDisable_keeps
    | with_reducible apply State.domStart_keeps
    | with_reducible apply State.fenceControl_keeps
    | with_reducible apply State.restoreStart_keeps
    | with_reducible apply State.provStart_keeps
    | with_reducible apply State.moduleReset_keeps
    | with_reducible apply State.srExport_keeps
    | with_reducible apply State.estopControl_keeps
    | (extract_lets +onlyGivenNames v; clear_value v)
    | split

theorem State.countControl_keeps {a} {x0 x1 x2} (h : Keeps a x0) :
    Keeps a (State.countControl x0 x1 x2) := by
  unfold State.countControl
  repeat' first
    | with_reducible assumption
    | with_reducible apply State.count_keeps
    | with_reducible apply Keeps.ite
    | split

theorem State.opWrite_keeps {a} {x0 x1} (h : Keeps a x0) :
    Keeps a (State.opWrite x0 x1).state := by
  unfold State.opWrite
  repeat' first
    | with_reducible intro _
    | with_reducible assumption
    | with_reducible apply State.writeEntry_keeps
    | with_reducible apply entryAction_keeps

theorem State.opEventRead_keeps {a} {x0 x1 x2} (h : Keeps a x0) :
    Keeps a (State.opEventRead x0 x1 x2).state := by
  unfold State.opEventRead
  repeat' first
    | with_reducible assumption
    | with_reducible apply State.sealEvents_keeps
    | (extract_lets +onlyGivenNames v; refine Keeps.cut (a := a) (x := v) ?_ (fun hv => ?_); subst v; rotate_left; clear_value v; rotate_left)
    | split

theorem State.runOp_keeps {a} {x0 x1 x2 x3 x4 x5} (h : Keeps a x0) :
    Keeps a (State.runOp x0 x1 x2 x3 x4 x5).state := by
  unfold State.runOp
  repeat' first
    | with_reducible assumption
    | with_reducible apply State.opWrite_keeps
    | with_reducible apply State.opCheck_keeps
    | with_reducible apply State.opApply_keeps
    | with_reducible apply State.opDiscard_keeps
    | with_reducible apply State.opEventRead_keeps
    | split

theorem State.runRecord_keeps {a} {x0 x1 x2 x3 x4 x5} (h : Keeps a x0) :
    Keeps a (State.runRecord x0 x1 x2 x3 x4 x5).state := by
  unfold State.runRecord
  repeat' first
    | with_reducible assumption
    | with_reducible apply State.runOp_keeps
    | with_reducible apply State.countControl_keeps
    | with_reducible apply settle_keeps
    | split

theorem State.runRecords_keeps {a} {x0 x1 x2 x3 x4 x5} (h : Keeps a x0) :
    Keeps a (State.runRecords x0 x1 x2 x3 x4 x5).1 := by
  induction x5 generalizing x0 x1 x2 x3 x4 with
  | nil =>
    unfold State.runRecords
    repeat' first
      | with_reducible assumption
  | cons b r ih =>
    unfold State.runRecords
    repeat' first
      | with_reducible assumption
      | with_reducible apply State.runRecord_keeps
      | with_reducible apply ih
      | (extract_lets +onlyGivenNames v; refine Keeps.cut (a := a) (x := v.state) ?_ (fun hv => ?_); subst v; rotate_left; clear_value v; rotate_left)
      | split

theorem State.runFrame_keeps {a} {x0 x1 x2 x3 x4} (h : Keeps a x0) :
    Keeps a (State.runFrame x0 x1 x2 x3 x4).1 := by
  unfold State.runFrame
  repeat' first
    | with_reducible assumption
    | with_reducible apply State.runRecords_keeps
    | with_reducible apply State.bumpGen_keeps
    | with_reducible apply State.count_keeps
    | with_reducible apply Keeps.ite

theorem State.frame_keeps {a} {x0 x1 x2} (h : Keeps a x0) :
    Keeps a (State.frame x0 x1 x2).1 := by
  unfold State.frame
  repeat' first
    | with_reducible assumption
    | with_reducible apply State.tally_keeps
    | with_reducible apply State.runFrame_keeps
    | (extract_lets +onlyGivenNames v; refine Keeps.cut (a := a) (x := v) ?_ (fun hv => ?_); subst v; rotate_left; clear_value v; rotate_left)
    | (extract_lets +onlyGivenNames v; clear_value v)
    | split

theorem State.dropDatagram_keeps {a} {x0} (h : Keeps a x0) :
    Keeps a (State.dropDatagram x0) := by
  unfold State.dropDatagram
  repeat' first
    | with_reducible assumption
    | with_reducible apply State.tally_keeps

theorem State.segmentFrame_keeps {a} {x0 x1 x2 x3} (h : Keeps a x0) :
    Keeps a (State.segmentFrame x0 x1 x2 x3) := by
  unfold State.segmentFrame
  repeat' first
    | with_reducible assumption
    | with_reducible apply State.emit_keeps
    | with_reducible apply State.count_keeps
    | with_reducible apply State.frame_keeps
    | (extract_lets +onlyGivenNames v; clear_value v)
    | with_reducible apply Keeps.ite
    | fail_if_no_progress (with_reducible refine Keeps.upd ?_ rfl rfl rfl rfl rfl)
    | split

theorem State.mailboxAnswer_keeps {a} {x0 x1 x2} (h : Keeps a x0) :
    Keeps a (State.mailboxAnswer x0 x1 x2) := by
  unfold State.mailboxAnswer
  repeat' first
    | with_reducible assumption
    | with_reducible apply State.wrN_keeps
    | with_reducible apply State.wrBytes_keeps
    | with_reducible apply State.interrupt_keeps

theorem State.mailboxFrame_keeps {a} {x0 x1} (h : Keeps a x0) :
    Keeps a (State.mailboxFrame x0 x1) := by
  unfold State.mailboxFrame
  repeat' first
    | with_reducible assumption
    | with_reducible apply State.frame_keeps
    | with_reducible apply State.mailboxAnswer_keeps
    | (extract_lets +onlyGivenNames v; clear_value v)
    | with_reducible apply Keeps.ite

theorem execIgcorFrame_keeps {a} {x0 x1 x2} (h : Keeps a x2) :
    NextP (Keeps a) (execIgcorFrame x0 x1 x2) := by
  unfold execIgcorFrame
  repeat' first
    | with_reducible assumption
    | with_reducible apply State.mailboxFrame_keeps
    | with_reducible apply State.dropDatagram_keeps
    | with_reducible apply State.segmentFrame_keeps
    | with_reducible apply NextP.ite
    | with_reducible apply NextP.next
    | split

theorem State.single_keeps {a} {x0 x1 x2 x3} (h : Keeps a x0) :
    Keeps a (State.single x0 x1 x2 x3) := by
  unfold State.single
  repeat' first
    | with_reducible assumption
    | with_reducible apply State.runFrame_keeps
    | with_reducible apply State.emit_keeps
    | with_reducible apply Keeps.ite
    | (with_reducible refine Keeps.fold (fun _ _ _ => ?_) _ ?_)

theorem execRead_keeps {a} {x0 x1 x2 x3 x4 x5} (h : Keeps a x5) :
    NextP (Keeps a) (execRead x0 x1 x2 x3 x4 x5) := by
  unfold execRead
  repeat' first
    | with_reducible assumption
    | with_reducible apply State.single_keeps
    | with_reducible apply NextP.next

theorem execWrite_keeps {a} {x0 x1 x2 x3 x4 x5} (h : Keeps a x5) :
    NextP (Keeps a) (execWrite x0 x1 x2 x3 x4 x5) := by
  unfold execWrite
  repeat' first
    | with_reducible assumption
    | with_reducible apply State.single_keeps
    | with_reducible apply NextP.next

theorem execReadStaged_keeps {a} {x0 x1 x2 x3 x4 x5} (h : Keeps a x5) :
    NextP (Keeps a) (execReadStaged x0 x1 x2 x3 x4 x5) := by
  unfold execReadStaged
  repeat' first
    | with_reducible assumption
    | with_reducible apply State.single_keeps
    | with_reducible apply NextP.next

theorem execCheck_keeps {a} {x0 x1 x2 x3} (h : Keeps a x3) :
    NextP (Keeps a) (execCheck x0 x1 x2 x3) := by
  unfold execCheck
  repeat' first
    | with_reducible assumption
    | with_reducible apply State.single_keeps
    | with_reducible apply NextP.next

theorem execApply_keeps {a} {x0 x1 x2 x3 x4 x5} (h : Keeps a x5) :
    NextP (Keeps a) (execApply x0 x1 x2 x3 x4 x5) := by
  unfold execApply
  repeat' first
    | with_reducible assumption
    | with_reducible apply State.single_keeps
    | with_reducible apply NextP.next

theorem execDiscard_keeps {a} {x0 x1 x2 x3} (h : Keeps a x3) :
    NextP (Keeps a) (execDiscard x0 x1 x2 x3) := by
  unfold execDiscard
  repeat' first
    | with_reducible assumption
    | with_reducible apply State.single_keeps
    | with_reducible apply NextP.next

theorem execDescribe_keeps {a} {x0 x1 x2 x3} (h : Keeps a x3) :
    NextP (Keeps a) (execDescribe x0 x1 x2 x3) := by
  unfold execDescribe
  repeat' first
    | with_reducible assumption
    | with_reducible apply State.single_keeps
    | with_reducible apply NextP.next

theorem execEventRead_keeps {a} {x0 x1 x2 x3} (h : Keeps a x3) :
    NextP (Keeps a) (execEventRead x0 x1 x2 x3) := by
  unfold execEventRead
  repeat' first
    | with_reducible assumption
    | with_reducible apply State.single_keeps
    | with_reducible apply NextP.next

theorem execArmedApplyInstant_keeps {a} {x0} (h : Keeps a x0) :
    NextP (Keeps a) (execArmedApplyInstant x0) := by
  unfold execArmedApplyInstant
  repeat' first
    | with_reducible assumption
    | with_reducible apply State.fireTime_keeps
    | with_reducible apply NextP.next

theorem execNeighborSolicitation_keeps {a} {x0 x1 x2} (h : Keeps a x2) :
    NextP (Keeps a) (execNeighborSolicitation x0 x1 x2) := by
  unfold execNeighborSolicitation
  repeat' first
    | with_reducible assumption
    | with_reducible apply State.emit_keeps
    | with_reducible apply NextP.ite
    | with_reducible apply NextP.next

theorem execIcmpv6Echo_keeps {a} {x0 x1 x2} (h : Keeps a x2) :
    NextP (Keeps a) (execIcmpv6Echo x0 x1 x2) := by
  unfold execIcmpv6Echo
  repeat' first
    | with_reducible assumption
    | with_reducible apply State.emit_keeps
    | with_reducible apply NextP.ite
    | with_reducible apply NextP.next

end Sys2Proof.Machine
end

