-- ==== Sys2Proof/Laws/KeepsHost.lean ====
section
/-! SUPPORT. The operations of `Machine/Host.lean` keep what no command disturbs. -/

namespace Sys2Proof.Machine

theorem keeps_page {a s : State} {p q m} (h : Keeps a s) :
    Keeps a { s with regs := s.regs.filter p, msiLast := s.msiLast.filter q, msiHeld := m } :=
  h.trans ⟨rfl, List.prefix_rfl, Nat.le_refl _, fun w =>
    { w with regs := Store.wf_filter _ _ _ w.regs, msiLast := Store.wf_filter _ _ _ w.msiLast }⟩

theorem State.noBar_keeps {a} {x0 x1} (h : Keeps a x0) :
    Keeps a (State.noBar x0 x1) := by
  unfold State.noBar
  repeat' first
    | with_reducible assumption
    | with_reducible apply State.emit_keeps
    | with_reducible apply Keeps.ite

theorem State.winErr_keeps {a} {x0 x1} (h : Keeps a x0) :
    Keeps a (State.winErr x0 x1) := by
  unfold State.winErr
  repeat' first
    | with_reducible assumption
    | with_reducible apply State.tally_keeps

theorem State.sendPending_keeps {a} {x0 x1 x2} (h : Keeps a x0) :
    Keeps a (State.sendPending x0 x1 x2) := by
  unfold State.sendPending
  repeat' first
    | with_reducible assumption
    | with_reducible apply State.msixSend_keeps
    | with_reducible apply State.wr_keeps
    | (extract_lets +onlyGivenNames v; clear_value v)
    | with_reducible apply Keeps.ite

theorem execIrqHoldoffExpiry_keeps {a} {x0 x1 x2} (h : Keeps a x2) :
    NextP (Keeps a) (execIrqHoldoffExpiry x0 x1 x2) := by
  unfold execIrqHoldoffExpiry
  repeat' first
    | with_reducible assumption
    | with_reducible apply State.msixSend_keeps
    | (extract_lets +onlyGivenNames v; clear_value v)
    | with_reducible apply NextP.ite
    | with_reducible apply NextP.next
    | fail_if_no_progress (with_reducible refine Keeps.upd ?_ rfl rfl rfl rfl rfl)

theorem State.unmask_keeps {a} {x0 x1 x2} (h : Keeps a x0) :
    Keeps a (State.unmask x0 x1 x2) := by
  unfold State.unmask
  repeat' first
    | with_reducible assumption
    | with_reducible apply State.sendPending_keeps
    | with_reducible apply State.wr_keeps

theorem execMsixUnmask_keeps {a} {x0 x1 x2} (h : Keeps a x2) :
    NextP (Keeps a) (execMsixUnmask x0 x1 x2) := by
  unfold execMsixUnmask
  repeat' first
    | with_reducible assumption
    | with_reducible apply State.winErr_keeps
    | with_reducible apply State.unmask_keeps
    | with_reducible apply NextP.ite
    | with_reducible apply NextP.next

theorem execVfEnable_keeps {a} {x0 x1} (h : Keeps a x1) :
    NextP (Keeps a) (execVfEnable x0 x1) := by
  unfold execVfEnable
  repeat' first
    | with_reducible assumption
    | with_reducible apply State.drainRecs_keeps
    | with_reducible apply State.fetchMore_keeps
    | with_reducible apply State.sendPending_keeps
    | (extract_lets +onlyGivenNames v; refine Keeps.cut (a := a) (x := v) ?_ (fun hv => ?_); subst v; rotate_left; clear_value v; rotate_left)
    | with_reducible apply NextP.ite
    | with_reducible apply NextP.next
    | (with_reducible refine Keeps.fold (fun _ _ _ => ?_) _ ?_)
    | fail_if_no_progress (with_reducible refine Keeps.upd ?_ rfl rfl rfl rfl rfl)

theorem State.mailboxGo_keeps {a} {x0 x1} (h : Keeps a x0) :
    Keeps a (State.mailboxGo x0 x1) := by
  unfold State.mailboxGo
  repeat' first
    | with_reducible assumption
    | with_reducible apply State.doorbellErr_keeps
    | with_reducible apply State.wr_keeps
    | (extract_lets +onlyGivenNames v; refine Keeps.cut (a := a) (x := v) ?_ (fun hv => ?_); subst v; rotate_left; clear_value v; rotate_left)
    | (extract_lets +onlyGivenNames v; clear_value v)
    | with_reducible apply Keeps.ite
    | fail_if_no_progress (with_reducible refine Keeps.upd ?_ rfl rfl rfl rfl rfl)

theorem State.writeMbxCtrl_keeps {a} {x0 x1 x2} (h : Keeps a x0) :
    Keeps a (State.writeMbxCtrl x0 x1 x2) := by
  unfold State.writeMbxCtrl
  repeat' first
    | with_reducible assumption
    | with_reducible apply State.wrN_keeps
    | with_reducible apply State.mailboxGo_keeps
    | (extract_lets +onlyGivenNames v; refine Keeps.cut (a := a) (x := v) ?_ (fun hv => ?_); subst v; rotate_left; clear_value v; rotate_left)
    | (extract_lets +onlyGivenNames v; clear_value v)
    | with_reducible apply Keeps.ite

theorem State.writeBase_keeps {a} {x0 x1 x2 x3 x4} (h : Keeps a x0) :
    Keeps a (State.writeBase x0 x1 x2 x3 x4) := by
  unfold State.writeBase
  repeat' first
    | with_reducible assumption
    | with_reducible apply State.doorbellErr_keeps
    | with_reducible apply State.wrN_keeps
    | with_reducible apply Keeps.ite

theorem State.writePageReg_keeps {a} {x0 x1 x2 x3} (h : Keeps a x0) :
    Keeps a (State.writePageReg x0 x1 x2 x3) := by
  unfold State.writePageReg
  repeat' first
    | with_reducible assumption
    | with_reducible apply State.writeSqTail_keeps
    | with_reducible apply State.writeCqHead_keeps
    | with_reducible apply State.control_keeps
    | with_reducible apply State.writeBase_keeps
    | with_reducible apply State.fetchMore_keeps
    | with_reducible apply State.writeSqCfg_keeps
    | with_reducible apply State.writeCqCfg_keeps
    | with_reducible apply State.wrN_keeps
    | with_reducible apply State.wr_keeps
    | with_reducible apply State.clearFlags_keeps
    | with_reducible apply State.writeMbxCtrl_keeps
    | split

theorem State.writePart_keeps {a} {x0 x1 x2 x3 x4} (h : Keeps a x0) :
    Keeps a (State.writePart x0 x1 x2 x3 x4) := by
  unfold State.writePart
  repeat' first
    | with_reducible assumption
    | with_reducible apply State.writePageReg_keeps
    | with_reducible apply Keeps.ite
    | split

theorem State.writeMsix_keeps {a} {x0 x1 x2 x3 x4} (h : Keeps a x0) :
    Keeps a (State.writeMsix x0 x1 x2 x3 x4) := by
  unfold State.writeMsix
  repeat' first
    | with_reducible assumption
    | with_reducible apply State.sendPending_keeps
    | with_reducible apply State.wrN_keeps
    | (extract_lets +onlyGivenNames v; clear_value v)
    | with_reducible apply Keeps.ite
    | split

theorem State.pageWrite_keeps {a} {x0 x1 x2 x3} (h : Keeps a x0) :
    Keeps a (State.pageWrite x0 x1 x2 x3) := by
  unfold State.pageWrite
  repeat' first
    | with_reducible assumption
    | with_reducible apply State.writePart_keeps
    | with_reducible apply State.wrBytes_keeps
    | with_reducible apply State.writeMsix_keeps
    | (extract_lets +onlyGivenNames v; refine Keeps.cut (a := a) (x := v) ?_ (fun hv => ?_); subst v; rotate_left; clear_value v; rotate_left)
    | with_reducible apply Keeps.ite
    | (with_reducible refine Keeps.fold (fun _ _ _ => ?_) _ ?_)
    | split

theorem State.hostPageWrite_keeps {a} {x0 x1 x2 x3} (h : Keeps a x0) :
    Keeps a (State.hostPageWrite x0 x1 x2 x3) := by
  unfold State.hostPageWrite
  repeat' first
    | with_reducible assumption
    | with_reducible apply State.pageWrite_keeps
    | with_reducible apply State.winErr_keeps
    | with_reducible apply Keeps.ite

theorem State.moduleWrite_keeps {a} {x0 x1 x2} (h : Keeps a x0) :
    Keeps a (State.moduleWrite x0 x1 x2) := by
  unfold State.moduleWrite
  repeat' first
    | with_reducible assumption
    | with_reducible apply State.winErr_keeps
    | with_reducible apply State.clearFlags_keeps
    | with_reducible apply Keeps.ite
    | split

theorem execSqTail_keeps {a} {x0 x1 x2} (h : Keeps a x2) :
    NextP (Keeps a) (execSqTail x0 x1 x2) := by
  unfold execSqTail
  repeat' first
    | with_reducible assumption
    | with_reducible apply State.hostPageWrite_keeps
    | with_reducible apply NextP.next

theorem execCqHead_keeps {a} {x0 x1 x2} (h : Keeps a x2) :
    NextP (Keeps a) (execCqHead x0 x1 x2) := by
  unfold execCqHead
  repeat' first
    | with_reducible assumption
    | with_reducible apply State.hostPageWrite_keeps
    | with_reducible apply NextP.next

theorem execSqCfg_keeps {a} {x0 x1 x2} (h : Keeps a x2) :
    NextP (Keeps a) (execSqCfg x0 x1 x2) := by
  unfold execSqCfg
  repeat' first
    | with_reducible assumption
    | with_reducible apply State.hostPageWrite_keeps
    | with_reducible apply NextP.next

theorem execCqCfg_keeps {a} {x0 x1 x2} (h : Keeps a x2) :
    NextP (Keeps a) (execCqCfg x0 x1 x2) := by
  unfold execCqCfg
  repeat' first
    | with_reducible assumption
    | with_reducible apply State.hostPageWrite_keeps
    | with_reducible apply NextP.next

theorem execSubmissionFetch_keeps {a} {x0 x1 x2} (h : Keeps a x2) :
    NextP (Keeps a) (execSubmissionFetch x0 x1 x2) := by
  unfold execSubmissionFetch
  repeat' first
    | with_reducible assumption
    | with_reducible apply State.kick_keeps
    | with_reducible apply State.fetched_keeps
    | with_reducible apply NextP.next

theorem execMailboxGo_keeps {a} {x0 x1} (h : Keeps a x1) :
    NextP (Keeps a) (execMailboxGo x0 x1) := by
  unfold execMailboxGo
  repeat' first
    | with_reducible assumption
    | with_reducible apply State.winErr_keeps
    | with_reducible apply State.mailboxGo_keeps
    | with_reducible apply NextP.ite
    | with_reducible apply NextP.next

theorem execRegisterWrite_keeps {a} {x0 x1 x2} (h : Keeps a x2) :
    NextP (Keeps a) (execRegisterWrite x0 x1 x2) := by
  unfold execRegisterWrite
  repeat' first
    | with_reducible assumption
    | with_reducible apply State.moduleWrite_keeps
    | with_reducible apply State.hostPageWrite_keeps
    | with_reducible apply State.opWrite_keeps
    | with_reducible apply State.countControl_keeps
    | with_reducible apply settle_keeps
    | with_reducible apply State.bumpGen_keeps
    | (extract_lets +onlyGivenNames v; refine Keeps.cut (a := a) (x := v) ?_ (fun hv => ?_); subst v; rotate_left; clear_value v; rotate_left)
    | (extract_lets +onlyGivenNames v; refine Keeps.cut (a := a) (x := v.state) ?_ (fun hv => ?_); subst v; rotate_left; clear_value v; rotate_left)
    | (extract_lets +onlyGivenNames v; clear_value v)
    | with_reducible apply Keeps.ite
    | with_reducible apply NextP.ite
    | with_reducible apply NextP.next
    | split

theorem execStatusEntryWrite_keeps {a} {x0 x1 x2 x3} (h : Keeps a x3) :
    NextP (Keeps a) (execStatusEntryWrite x0 x1 x2 x3) := by
  unfold execStatusEntryWrite
  repeat' first
    | with_reducible assumption
    | with_reducible apply State.clearFlags_keeps
    | with_reducible apply NextP.ite
    | with_reducible apply NextP.next
    | split

theorem State.readLines64_keeps {a} {x0 x1 x2} (h : Keeps a x0) :
    Keeps a (State.readLines64 x0 x1 x2).2 := by
  induction x2 generalizing x0 x1 with
  | nil =>
    unfold State.readLines64
    repeat' first
      | with_reducible assumption
  | cons b r ih =>
    unfold State.readLines64
    repeat' first
      | with_reducible assumption
      | with_reducible apply State.winErr_keeps
      | with_reducible apply State.foundUe_keeps
      | with_reducible apply State.foundUeIn_keeps
      | with_reducible apply ih
      | split

theorem State.windowRead_keeps {a} {x0 x1 x2 x3} (h : Keeps a x0) :
    Keeps a (State.windowRead x0 x1 x2 x3).2 := by
  unfold State.windowRead
  repeat' first
    | with_reducible assumption
    | with_reducible apply State.readLines64_keeps

theorem State.writeLines64_keeps {a} {x0 x1 x2 x3} (h : Keeps a x0) :
    Keeps a (State.writeLines64 x0 x1 x2 x3) := by
  induction x2 generalizing x0 x1 x3 with
  | nil =>
    unfold State.writeLines64
    repeat' first
      | with_reducible assumption
  | cons b r ih =>
    unfold State.writeLines64
    repeat' first
      | with_reducible assumption
      | with_reducible apply State.vwrite_keeps
      | with_reducible apply State.winErr_keeps
      | with_reducible apply State.foundUe_keeps
      | with_reducible apply State.foundUeIn_keeps
      | with_reducible apply ih
      | (with_reducible apply Keeps.ofOk; · with_reducible assumption)
      | split

theorem State.windowWrite_keeps {a} {x0 x1 x2 x3} (h : Keeps a x0) :
    Keeps a (State.windowWrite x0 x1 x2 x3) := by
  unfold State.windowWrite
  repeat' first
    | with_reducible assumption
    | with_reducible apply State.writeLines64_keeps

theorem execWindowRead_keeps {a} {x0 x1 x2 x3} (h : Keeps a x3) :
    NextP (Keeps a) (execWindowRead x0 x1 x2 x3) := by
  unfold execWindowRead
  repeat' first
    | with_reducible assumption
    | with_reducible apply State.noBar_keeps
    | with_reducible apply State.emit_keeps
    | with_reducible apply State.winErr_keeps
    | with_reducible apply State.windowRead_keeps
    | with_reducible apply NextP.ite
    | with_reducible apply NextP.next

theorem execWindowWrite_keeps {a} {x0 x1 x2 x3} (h : Keeps a x3) :
    NextP (Keeps a) (execWindowWrite x0 x1 x2 x3) := by
  unfold execWindowWrite
  repeat' first
    | with_reducible assumption
    | with_reducible apply State.winErr_keeps
    | with_reducible apply State.windowWrite_keeps
    | with_reducible apply NextP.ite
    | with_reducible apply NextP.next

theorem State.tunnelWrite_keeps {a} {x0 x1 x2 x3 x4 x5} (h : Keeps a x0) :
    Keeps a (State.tunnelWrite x0 x1 x2 x3 x4 x5) := by
  unfold State.tunnelWrite
  repeat' first
    | with_reducible assumption
    | with_reducible apply State.nextOp_keeps
    | with_reducible apply State.send_keeps

theorem State.tunnelRead_keeps {a} {x0 x1 x2 x3 x4 x5} (h : Keeps a x0) :
    Keeps a (State.tunnelRead x0 x1 x2 x3 x4 x5) := by
  unfold State.tunnelRead
  repeat' first
    | with_reducible assumption
    | with_reducible apply State.nextOp_keeps
    | with_reducible apply State.send_keeps
    | (extract_lets +onlyGivenNames v; (have _w : Fabric := v); subst v)
    | fail_if_no_progress (with_reducible refine Keeps.upd ?_ rfl rfl rfl rfl rfl)

theorem State.elsewhere_keeps {a} {x0 x1 x2} (h : Keeps a x0) :
    Keeps a (State.elsewhere x0 x1 x2) := by
  unfold State.elsewhere
  repeat' first
    | with_reducible assumption
    | with_reducible apply State.emit_keeps
    | with_reducible apply State.winErr_keeps
    | split

theorem State.ownAccess_keeps {a} {x0 x1 x2 x3 x4} (h : Keeps a x0) :
    Keeps a (State.ownAccess x0 x1 x2 x3 x4) := by
  unfold State.ownAccess
  repeat' first
    | with_reducible assumption
    | with_reducible apply State.windowRead_keeps
    | with_reducible apply State.emit_keeps
    | with_reducible apply State.windowWrite_keeps
    | with_reducible apply State.pageWrite_keeps
    | with_reducible apply Keeps.ite
    | split

theorem execApertureAccess_keeps {a} {x0 x1 x2 x3} (h : Keeps a x3) :
    NextP (Keeps a) (execApertureAccess x0 x1 x2 x3) := by
  unfold execApertureAccess
  repeat' first
    | with_reducible assumption
    | with_reducible apply State.noBar_keeps
    | with_reducible apply State.elsewhere_keeps
    | with_reducible apply State.ownAccess_keeps
    | with_reducible apply State.tunnelRead_keeps
    | with_reducible apply State.tunnelWrite_keeps
    | (extract_lets +onlyGivenNames v; clear_value v)
    | with_reducible apply NextP.ite
    | with_reducible apply NextP.next
    | split

theorem State.tunnelReject_keeps {a} {x0} (h : Keeps a x0) :
    Keeps a (State.tunnelReject x0) := by
  unfold State.tunnelReject
  repeat' first
    | with_reducible assumption
    | with_reducible apply State.tally_keeps
    | with_reducible apply State.fabricDrop_keeps
    | with_reducible apply Keeps.ite

theorem State.fromPortal_keeps {a} {x0 x1 x2} (h : Keeps a x0) (hf2 : ∀ y0, Keeps a y0 → Keeps a (x2 y0)) :
    Keeps a (State.fromPortal x0 x1 x2) := by
  unfold State.fromPortal
  repeat' first
    | with_reducible intro _
    | with_reducible assumption
    | with_reducible apply State.receive_keeps
    | with_reducible apply State.tunnelReject_keeps
    | with_reducible apply hf2
    | with_reducible apply Keeps.ite

theorem State.fromMember_keeps {a} {x0 x1 x2} (h : Keeps a x0) (hf2 : ∀ y0 y1, Keeps a y0 → Keeps a (x2 y0 y1)) :
    Keeps a (State.fromMember x0 x1 x2) := by
  unfold State.fromMember
  repeat' first
    | with_reducible intro _
    | with_reducible assumption
    | with_reducible apply State.receive_keeps
    | with_reducible apply State.tunnelReject_keeps
    | with_reducible apply hf2
    | split

theorem State.complete_keeps {a} {x0 x1 x2} (h : Keeps a x0) :
    Keeps a (State.complete x0 x1 x2) := by
  unfold State.complete
  repeat' first
    | with_reducible assumption
    | with_reducible apply State.send_keeps

theorem execTunWr_keeps {a} {x0 x1} (h : Keeps a x1) :
    NextP (Keeps a) (execTunWr x0 x1) := by
  unfold execTunWr
  repeat' first
    | with_reducible intro _
    | with_reducible assumption
    | with_reducible apply State.fromPortal_keeps
    | with_reducible apply State.windowWrite_keeps
    | with_reducible apply State.pageWrite_keeps
    | (extract_lets +onlyGivenNames v; clear_value v)
    | with_reducible apply Keeps.ite
    | with_reducible apply NextP.next

theorem execTunRd_keeps {a} {x0 x1} (h : Keeps a x1) :
    NextP (Keeps a) (execTunRd x0 x1) := by
  unfold execTunRd
  repeat' first
    | with_reducible intro _
    | with_reducible assumption
    | with_reducible apply State.fromPortal_keeps
    | with_reducible apply State.windowRead_keeps
    | with_reducible apply State.complete_keeps
    | (extract_lets +onlyGivenNames v; clear_value v)
    | with_reducible apply Keeps.ite
    | with_reducible apply NextP.next

theorem State.endTunnel_keeps {a} {x0 x1 x2} (h : Keeps a x0) :
    Keeps a (State.endTunnel x0 x1 x2) := by
  unfold State.endTunnel
  repeat' first
    | with_reducible assumption
    | with_reducible apply State.emit_keeps
    | with_reducible apply State.kick_keeps
    | with_reducible apply State.fetched_keeps
    | with_reducible apply State.dmaData_keeps
    | (extract_lets +onlyGivenNames v; refine Keeps.cut (a := a) (x := v) ?_ (fun hv => ?_); subst v; rotate_left; clear_value v; rotate_left)
    | (extract_lets +onlyGivenNames v; (have _w : Fabric := v); subst v)
    | with_reducible apply Keeps.ite
    | fail_if_no_progress (with_reducible refine Keeps.upd ?_ rfl rfl rfl rfl rfl)

theorem execTunCpl_keeps {a} {x0 x1} (h : Keeps a x1) :
    NextP (Keeps a) (execTunCpl x0 x1) := by
  unfold execTunCpl
  repeat' first
    | with_reducible intro _
    | with_reducible assumption
    | with_reducible apply State.receive_keeps
    | with_reducible apply State.tunnelReject_keeps
    | with_reducible apply State.endTunnel_keeps
    | with_reducible apply State.hostError_keeps
    | (extract_lets +onlyGivenNames v; clear_value v)
    | with_reducible apply Keeps.ite
    | with_reducible apply NextP.next
    | split

theorem execTunDmaRd_keeps {a} {x0 x1 x2} (h : Keeps a x2) :
    NextP (Keeps a) (execTunDmaRd x0 x1 x2) := by
  unfold execTunDmaRd
  repeat' first
    | with_reducible intro _
    | with_reducible assumption
    | with_reducible apply State.fromMember_keeps
    | with_reducible apply State.complete_keeps
    | with_reducible apply State.postReads_keeps
    | (extract_lets +onlyGivenNames v; refine Keeps.cut (a := a) (x := v) ?_ (fun hv => ?_); subst v; rotate_left; clear_value v; rotate_left)
    | (extract_lets +onlyGivenNames v; clear_value v)
    | with_reducible apply Keeps.ite
    | with_reducible apply NextP.next

theorem execTunDmaWr_keeps {a} {x0 x1} (h : Keeps a x1) :
    NextP (Keeps a) (execTunDmaWr x0 x1) := by
  unfold execTunDmaWr
  repeat' first
    | with_reducible intro _
    | with_reducible assumption
    | with_reducible apply State.fromMember_keeps
    | with_reducible apply State.postWrites_keeps
    | with_reducible apply State.complete_keeps
    | with_reducible apply Keeps.ite
    | with_reducible apply NextP.next

theorem execTunIrq_keeps {a} {x0 x1} (h : Keeps a x1) :
    NextP (Keeps a) (execTunIrq x0 x1) := by
  unfold execTunIrq
  repeat' first
    | with_reducible intro _
    | with_reducible assumption
    | with_reducible apply State.fromMember_keeps
    | with_reducible apply State.vector_keeps
    | with_reducible apply State.complete_keeps
    | with_reducible apply Keeps.ite
    | with_reducible apply NextP.next

theorem execShxTunnelTimeout_keeps {a} {x0 x1} (h : Keeps a x1) :
    NextP (Keeps a) (execShxTunnelTimeout x0 x1) := by
  unfold execShxTunnelTimeout
  repeat' first
    | with_reducible assumption
    | with_reducible apply State.tally_keeps
    | with_reducible apply State.endTunnel_keeps
    | (extract_lets +onlyGivenNames v; refine Keeps.cut (a := a) (x := v) ?_ (fun hv => ?_); subst v; rotate_left; clear_value v; rotate_left)
    | with_reducible apply Keeps.ite
    | with_reducible apply NextP.next
    | split

theorem State.resetPage_keeps {a} {x0 x1} (h : Keeps a x0) :
    Keeps a (State.resetPage x0 x1) := by
  unfold State.resetPage
  repeat' first
    | with_reducible assumption
    | with_reducible apply State.updCtx_keeps
    | with_reducible apply keeps_page

theorem State.tunnelReset_keeps {a} {x0 x1 x2} (h : Keeps a x0) :
    Keeps a (State.tunnelReset x0 x1 x2) := by
  unfold State.tunnelReset
  repeat' first
    | with_reducible assumption
    | with_reducible apply State.tunnelWrite_keeps
    | (extract_lets +onlyGivenNames v; clear_value v)
    | with_reducible apply Keeps.ite

theorem State.flrOne_keeps {a} {x0 x1} (h : Keeps a x0) :
    Keeps a (State.flrOne x0 x1) := by
  unfold State.flrOne
  repeat' first
    | with_reducible assumption
    | with_reducible apply State.resetPage_keeps
    | with_reducible apply State.resetCtx_keeps
    | with_reducible apply State.tunnelReset_keeps
    | (extract_lets +onlyGivenNames v; refine Keeps.cut (a := a) (x := v) ?_ (fun hv => ?_); subst v; rotate_left; clear_value v; rotate_left)
    | with_reducible apply Keeps.ite
    | (with_reducible refine Keeps.fold (fun _ _ _ => ?_) _ ?_)

theorem State.flr_keeps {a} {x0 x1} (h : Keeps a x0) :
    Keeps a (State.flr x0 x1) := by
  unfold State.flr
  repeat' first
    | with_reducible assumption
    | with_reducible apply State.flrOne_keeps
    | (extract_lets +onlyGivenNames v; refine Keeps.cut (a := a) (x := v) ?_ (fun hv => ?_); subst v; rotate_left; clear_value v; rotate_left)
    | with_reducible apply Keeps.ite
    | (with_reducible refine Keeps.fold (fun _ _ _ => ?_) _ ?_)
    | fail_if_no_progress (with_reducible refine Keeps.upd ?_ rfl rfl rfl rfl rfl)

theorem execFlr_keeps {a} {x0 x1} (h : Keeps a x1) :
    NextP (Keeps a) (execFlr x0 x1) := by
  unfold execFlr
  repeat' first
    | with_reducible assumption
    | with_reducible apply State.flr_keeps
    | with_reducible apply NextP.ite
    | with_reducible apply NextP.next

theorem execD3hotToD0_keeps {a} {x0 x1} (h : Keeps a x1) :
    NextP (Keeps a) (execD3hotToD0 x0 x1) := by
  unfold execD3hotToD0
  repeat' first
    | with_reducible assumption
    | with_reducible apply State.flrOne_keeps
    | with_reducible apply NextP.ite
    | with_reducible apply NextP.next

theorem execHotReset_keeps {a} {x0} (h : Keeps a x0) :
    NextP (Keeps a) (execHotReset x0) := by
  unfold execHotReset
  repeat' first
    | with_reducible assumption
    | with_reducible apply State.setFlag_keeps
    | with_reducible apply State.wrN_keeps
    | with_reducible apply State.flr_keeps
    | with_reducible apply NextP.ite
    | with_reducible apply NextP.next

theorem execPcieLinkUp_keeps {a} {x0 x1 x2} (h : Keeps a x2) :
    NextP (Keeps a) (execPcieLinkUp x0 x1 x2) := by
  unfold execPcieLinkUp
  repeat' first
    | with_reducible assumption
    | with_reducible apply State.wrN_keeps
    | with_reducible apply NextP.ite
    | with_reducible apply NextP.next

end Sys2Proof.Machine
end

