-- ==== Sys2Proof/Laws/KeepsIssue.lean ====
section
/-! SUPPORT. The operations of `Machine/Issue.lean` keep what no command disturbs. -/

namespace Sys2Proof.Machine


theorem execNop_keeps {a} {x0 x1} (h : Keeps a x1) :
    NextP (Keeps a) (execNop x0 x1) := by
  unfold execNop
  repeat' first
    | with_reducible intro _
    | with_reducible assumption
    | with_reducible apply State.issue_keeps
    | with_reducible apply checkNop_keeps
    | with_reducible apply startNop_keeps
    | with_reducible apply NextP.next

theorem State.countHolds_keeps {a} {x0 x1 x2 x3} (h : Keeps a x0) :
    Keeps a (State.countHolds x0 x1 x2 x3) := by
  unfold State.countHolds
  repeat' first
    | with_reducible assumption
    | with_reducible apply State.tallyN_keeps
    | (extract_lets +onlyGivenNames v; refine Keeps.cut (a := a) (x := v) ?_ (fun hv => ?_); subst v; rotate_left; clear_value v; rotate_left)
    | with_reducible apply Keeps.ite

theorem execTile_keeps {a} {x0 x1 x2 x3} (h : Keeps a x3) :
    NextP (Keeps a) (execTile x0 x1 x2 x3) := by
  unfold execTile
  repeat' first
    | with_reducible intro _
    | with_reducible assumption
    | with_reducible apply State.issue_keeps
    | with_reducible apply checkTile_keeps
    | with_reducible apply startTile_keeps
    | with_reducible apply State.countHolds_keeps
    | with_reducible apply NextP.next

theorem execVector_keeps {a} {x0 x1} (h : Keeps a x1) :
    NextP (Keeps a) (execVector x0 x1) := by
  unfold execVector
  repeat' first
    | with_reducible intro _
    | with_reducible assumption
    | with_reducible apply State.issue_keeps
    | with_reducible apply checkVector_keeps
    | with_reducible apply workVector_keeps
    | with_reducible apply NextP.next

theorem execStreamArm_keeps {a} {x0 x1} (h : Keeps a x1) :
    NextP (Keeps a) (execStreamArm x0 x1) := by
  unfold execStreamArm
  repeat' first
    | with_reducible intro _
    | with_reducible assumption
    | with_reducible apply State.issue_keeps
    | with_reducible apply checkStream_keeps
    | with_reducible apply State.kick_keeps
    | with_reducible apply startStream_keeps
    | with_reducible apply NextP.next

theorem execBarrier_keeps {a} {x0 x1} (h : Keeps a x1) :
    NextP (Keeps a) (execBarrier x0 x1) := by
  unfold execBarrier
  repeat' first
    | with_reducible intro _
    | with_reducible assumption
    | with_reducible apply State.issue_keeps
    | with_reducible apply checkBarrier_keeps
    | with_reducible apply startBarrier_keeps
    | with_reducible apply NextP.next

theorem execSample_keeps {a} {x0 x1} (h : Keeps a x1) :
    NextP (Keeps a) (execSample x0 x1) := by
  unfold execSample
  repeat' first
    | with_reducible intro _
    | with_reducible assumption
    | with_reducible apply State.issue_keeps
    | with_reducible apply checkSample_keeps
    | with_reducible apply State.kick_keeps
    | with_reducible apply workSample_keeps
    | with_reducible apply NextP.next

theorem execGather_keeps {a} {x0 x1} (h : Keeps a x1) :
    NextP (Keeps a) (execGather x0 x1) := by
  unfold execGather
  repeat' first
    | with_reducible intro _
    | with_reducible assumption
    | with_reducible apply State.issue_keeps
    | with_reducible apply checkGather_keeps
    | with_reducible apply workGather_keeps
    | with_reducible apply NextP.next

theorem execScatter_keeps {a} {x0 x1} (h : Keeps a x1) :
    NextP (Keeps a) (execScatter x0 x1) := by
  unfold execScatter
  repeat' first
    | with_reducible intro _
    | with_reducible assumption
    | with_reducible apply State.issue_keeps
    | with_reducible apply checkGather_keeps
    | with_reducible apply workScatter_keeps
    | with_reducible apply NextP.next

theorem execCoalesce_keeps {a} {x0 x1} (h : Keeps a x1) :
    NextP (Keeps a) (execCoalesce x0 x1) := by
  unfold execCoalesce
  repeat' first
    | with_reducible intro _
    | with_reducible assumption
    | with_reducible apply State.issue_keeps
    | with_reducible apply checkCoalesce_keeps
    | with_reducible apply workCoalesce_keeps
    | with_reducible apply NextP.next

theorem execReduce_keeps {a} {x0 x1} (h : Keeps a x1) :
    NextP (Keeps a) (execReduce x0 x1) := by
  unfold execReduce
  repeat' first
    | with_reducible intro _
    | with_reducible assumption
    | with_reducible apply State.issue_keeps
    | with_reducible apply checkReduce_keeps
    | with_reducible apply workReduce_keeps
    | with_reducible apply NextP.next

theorem execUpdate_keeps {a} {x0 x1} (h : Keeps a x1) :
    NextP (Keeps a) (execUpdate x0 x1) := by
  unfold execUpdate
  repeat' first
    | with_reducible intro _
    | with_reducible assumption
    | with_reducible apply State.issue_keeps
    | with_reducible apply checkUpdate_keeps
    | with_reducible apply startUpdate_keeps
    | with_reducible apply NextP.next

theorem execCommit_keeps {a} {x0 x1} (h : Keeps a x1) :
    NextP (Keeps a) (execCommit x0 x1) := by
  unfold execCommit
  repeat' first
    | with_reducible intro _
    | with_reducible assumption
    | with_reducible apply State.issue_keeps
    | with_reducible apply checkCommit_keeps
    | with_reducible apply startCommit_keeps
    | with_reducible apply NextP.next

theorem execMigrate_keeps {a} {x0 x1} (h : Keeps a x1) :
    NextP (Keeps a) (execMigrate x0 x1) := by
  unfold execMigrate
  repeat' first
    | with_reducible intro _
    | with_reducible assumption
    | with_reducible apply State.issue_keeps
    | with_reducible apply checkMigrate_keeps
    | with_reducible apply workMigrate_keeps
    | with_reducible apply NextP.next

theorem execSnapshot_keeps {a} {x0 x1} (h : Keeps a x1) :
    NextP (Keeps a) (execSnapshot x0 x1) := by
  unfold execSnapshot
  repeat' first
    | with_reducible intro _
    | with_reducible assumption
    | with_reducible apply State.issue_keeps
    | with_reducible apply checkSnapshot_keeps
    | with_reducible apply workSnapshot_keeps
    | with_reducible apply NextP.next

theorem execDma_keeps {a} {x0 x1 x2 x3} (h : Keeps a x3) :
    NextP (Keeps a) (execDma x0 x1 x2 x3) := by
  unfold execDma
  repeat' first
    | with_reducible intro _
    | with_reducible assumption
    | with_reducible apply State.issue_keeps
    | with_reducible apply checkDma_keeps
    | with_reducible apply startDma_keeps
    | with_reducible apply NextP.next

theorem execBadOpcode_keeps {a} {x0 x1} (h : Keeps a x1) :
    NextP (Keeps a) (execBadOpcode x0 x1) := by
  unfold execBadOpcode
  repeat' first
    | with_reducible intro _
    | with_reducible assumption
    | with_reducible apply State.issue_keeps
    | with_reducible apply checkNop_keeps
    | with_reducible apply startNop_keeps
    | with_reducible apply NextP.next

theorem execItemCommit_keeps {a} {x0 x1} (h : Keeps a x1) :
    NextP (Keeps a) (execItemCommit x0 x1) := by
  unfold execItemCommit
  repeat' first
    | with_reducible assumption
    | with_reducible apply State.updCtx_keeps
    | with_reducible apply State.preempt_keeps
    | with_reducible apply State.kick_keeps
    | with_reducible apply State.completeItem_keeps
    | (extract_lets +onlyGivenNames v; refine Keeps.cut (a := a) (x := v) ?_ (fun hv => ?_); subst v; rotate_left; clear_value v; rotate_left)
    | with_reducible apply Keeps.ite
    | with_reducible apply NextP.ite
    | with_reducible apply NextP.next
    | split

end Sys2Proof.Machine
end

