-- ==== Sys2Proof/Laws/KeepsTick.lean ====
section
/-! SUPPORT. The operations of `Machine/Tick.lean` keep what no command disturbs. -/

namespace Sys2Proof.Machine


theorem State.tickTime_keeps {a} {x0} (h : Keeps a x0) :
    Keeps a (State.tickTime x0) := by
  unfold State.tickTime
  repeat' first
    | with_reducible assumption
    | with_reducible apply State.wrN_keeps
    | (extract_lets +onlyGivenNames v; (have _w : Fabric := v); subst v)
    | (extract_lets +onlyGivenNames v; clear_value v)
    | with_reducible apply Keeps.ite
    | fail_if_no_progress (with_reducible refine Keeps.upd ?_ rfl rfl rfl rfl rfl)

theorem State.tickWait_keeps {a} {x0 x1} (h : Keeps a x0) :
    Keeps a (State.tickWait x0 x1) := by
  unfold State.tickWait
  repeat' first
    | with_reducible assumption
    | with_reducible apply State.tally_keeps
    | with_reducible apply Keeps.ite

theorem State.tickCredit_keeps {a} {x0 x1} (h : Keeps a x0) :
    Keeps a (State.tickCredit x0 x1) := by
  unfold State.tickCredit
  repeat' first
    | with_reducible assumption
    | with_reducible apply State.tallyN_keeps
    | with_reducible apply Keeps.ite
    | split

theorem State.tickEmpty_keeps {a} {x0 x1} (h : Keeps a x0) :
    Keeps a (State.tickEmpty x0 x1) := by
  unfold State.tickEmpty
  repeat' first
    | with_reducible assumption
    | with_reducible apply State.tallyN_keeps
    | (extract_lets +onlyGivenNames v; clear_value v)
    | with_reducible apply Keeps.ite

theorem State.tickRead_keeps {a} {x0 x1} (h : Keeps a x0) :
    Keeps a (State.tickRead x0 x1) := by
  unfold State.tickRead
  repeat' first
    | with_reducible assumption
    | with_reducible apply State.tallyN_keeps
    | with_reducible apply Keeps.ite
    | split

theorem State.tick_keeps {a} {x0} (h : Keeps a x0) :
    Keeps a (State.tick x0) := by
  unfold State.tick
  repeat' first
    | with_reducible assumption
    | with_reducible apply State.sealEvents_keeps
    | with_reducible apply State.tickTime_keeps
    | with_reducible apply State.tickWait_keeps
    | with_reducible apply State.tickCredit_keeps
    | with_reducible apply State.tickEmpty_keeps
    | with_reducible apply State.tickRead_keeps
    | with_reducible apply State.retryMcast_keeps
    | with_reducible apply State.widthDue_keeps
    | with_reducible apply State.count_keeps
    | (extract_lets +onlyGivenNames v; refine Keeps.cut (a := a) (x := v) ?_ (fun hv => ?_); subst v; rotate_left; clear_value v; rotate_left)
    | with_reducible apply Keeps.ite
    | (with_reducible refine Keeps.fold (fun _ _ _ => ?_) _ ?_)
    | fail_if_no_progress (with_reducible refine Keeps.upd ?_ rfl rfl rfl rfl rfl)

end Sys2Proof.Machine
end

