-- ==== Sys2Proof/Laws/State.lean ====
section
/-! SUPPORT. What each primitive update of the state leaves in each field, and what each accessor reads after it. -/

namespace Sys2Proof.Machine

variable (s : State)


/-! ## The field `regs` replaced -/

theorem State.regs_pending (r : Store W64) : ({ s with regs := r } : State).pending = s.pending := rfl
theorem State.regs_now (r : Store W64) : ({ s with regs := r } : State).now = s.now := rfl
theorem State.regs_free (r : Store W64) : ({ s with regs := r } : State).free = s.free := rfl
theorem State.regs_staged (r : Store W64) : ({ s with regs := r } : State).staged = s.staged := rfl
theorem State.regs_copyA (r : Store W64) : ({ s with regs := r } : State).copyA = s.copyA := rfl
theorem State.regs_copyB (r : Store W64) : ({ s with regs := r } : State).copyB = s.copyB := rfl
theorem State.regs_storing (r : Store W64) : ({ s with regs := r } : State).storing = s.storing := rfl
theorem State.regs_edge (r : Store W64) : ({ s with regs := r } : State).edge = s.edge := rfl
theorem State.regs_served (r : Store W64) : ({ s with regs := r } : State).served = s.served := rfl
theorem State.regs_fuses (r : Store W64) : ({ s with regs := r } : State).fuses = s.fuses := rfl
theorem State.regs_prior (r : Store W64) : ({ s with regs := r } : State).prior = s.prior := rfl
theorem State.regs_writes (r : Store W64) : ({ s with regs := r } : State).writes = s.writes := rfl
theorem State.regs_purged (r : Store W64) : ({ s with regs := r } : State).purged = s.purged := rfl
theorem State.regs_prefetched (r : Store W64) : ({ s with regs := r } : State).prefetched = s.prefetched := rfl
theorem State.regs_arrays (r : Store W64) : ({ s with regs := r } : State).arrays = s.arrays := rfl
theorem State.regs_mem (r : Store W64) : ({ s with regs := r } : State).mem = s.mem := rfl
theorem State.regs_scratch (r : Store W64) : ({ s with regs := r } : State).scratch = s.scratch := rfl
theorem State.regs_poison (r : Store W64) : ({ s with regs := r } : State).poison = s.poison := rfl
theorem State.regs_out (r : Store W64) : ({ s with regs := r } : State).out = s.out := rfl
theorem State.regs_ctxs (r : Store W64) : ({ s with regs := r } : State).ctxs = s.ctxs := rfl
theorem State.regs_items (r : Store W64) : ({ s with regs := r } : State).items = s.items := rfl
theorem State.regs_trails (r : Store W64) : ({ s with regs := r } : State).trails = s.trails := rfl
theorem State.regs_pend (r : Store W64) : ({ s with regs := r } : State).pend = s.pend := rfl
theorem State.regs_heads (r : Store W64) : ({ s with regs := r } : State).heads = s.heads := rfl
theorem State.regs_bars (r : Store W64) : ({ s with regs := r } : State).bars = s.bars := rfl
theorem State.regs_engines (r : Store W64) : ({ s with regs := r } : State).engines = s.engines := rfl
theorem State.regs_queues (r : Store W64) : ({ s with regs := r } : State).queues = s.queues := rfl
theorem State.regs_acts (r : Store W64) : ({ s with regs := r } : State).acts = s.acts := rfl
theorem State.regs_events (r : Store W64) : ({ s with regs := r } : State).events = s.events := rfl
theorem State.regs_fresh (r : Store W64) : ({ s with regs := r } : State).fresh = s.fresh := rfl
theorem State.regs_msiLast (r : Store W64) : ({ s with regs := r } : State).msiLast = s.msiLast := rfl
theorem State.regs_msiHeld (r : Store W64) : ({ s with regs := r } : State).msiHeld = s.msiHeld := rfl
theorem State.regs_vfs (r : Store W64) : ({ s with regs := r } : State).vfs = s.vfs := rfl
theorem State.regs_pcie (r : Store W64) : ({ s with regs := r } : State).pcie = s.pcie := rfl
theorem State.regs_fabric (r : Store W64) : ({ s with regs := r } : State).fabric = s.fabric := rfl
theorem State.regs_surv (r : Store W64) : ({ s with regs := r } : State).surv = s.surv := rfl
theorem State.regs_power (r : Store W64) : ({ s with regs := r } : State).power = s.power := rfl
theorem State.regs_sync (r : Store W64) : ({ s with regs := r } : State).sync = s.sync := rfl
theorem State.regs_strong (r : Store W64) : ({ s with regs := r } : State).strong = s.strong := rfl
theorem State.regs_mgmt (r : Store W64) : ({ s with regs := r } : State).mgmt = s.mgmt := rfl

/-! ## The field `staged` replaced -/

theorem State.staged_pending (r : Store W64) : ({ s with staged := r } : State).pending = s.pending := rfl
theorem State.staged_now (r : Store W64) : ({ s with staged := r } : State).now = s.now := rfl
theorem State.staged_free (r : Store W64) : ({ s with staged := r } : State).free = s.free := rfl
theorem State.staged_regs (r : Store W64) : ({ s with staged := r } : State).regs = s.regs := rfl
theorem State.staged_copyA (r : Store W64) : ({ s with staged := r } : State).copyA = s.copyA := rfl
theorem State.staged_copyB (r : Store W64) : ({ s with staged := r } : State).copyB = s.copyB := rfl
theorem State.staged_storing (r : Store W64) : ({ s with staged := r } : State).storing = s.storing := rfl
theorem State.staged_edge (r : Store W64) : ({ s with staged := r } : State).edge = s.edge := rfl
theorem State.staged_served (r : Store W64) : ({ s with staged := r } : State).served = s.served := rfl
theorem State.staged_fuses (r : Store W64) : ({ s with staged := r } : State).fuses = s.fuses := rfl
theorem State.staged_prior (r : Store W64) : ({ s with staged := r } : State).prior = s.prior := rfl
theorem State.staged_writes (r : Store W64) : ({ s with staged := r } : State).writes = s.writes := rfl
theorem State.staged_purged (r : Store W64) : ({ s with staged := r } : State).purged = s.purged := rfl
theorem State.staged_prefetched (r : Store W64) : ({ s with staged := r } : State).prefetched = s.prefetched := rfl
theorem State.staged_arrays (r : Store W64) : ({ s with staged := r } : State).arrays = s.arrays := rfl
theorem State.staged_mem (r : Store W64) : ({ s with staged := r } : State).mem = s.mem := rfl
theorem State.staged_scratch (r : Store W64) : ({ s with staged := r } : State).scratch = s.scratch := rfl
theorem State.staged_poison (r : Store W64) : ({ s with staged := r } : State).poison = s.poison := rfl
theorem State.staged_out (r : Store W64) : ({ s with staged := r } : State).out = s.out := rfl
theorem State.staged_ctxs (r : Store W64) : ({ s with staged := r } : State).ctxs = s.ctxs := rfl
theorem State.staged_items (r : Store W64) : ({ s with staged := r } : State).items = s.items := rfl
theorem State.staged_trails (r : Store W64) : ({ s with staged := r } : State).trails = s.trails := rfl
theorem State.staged_pend (r : Store W64) : ({ s with staged := r } : State).pend = s.pend := rfl
theorem State.staged_heads (r : Store W64) : ({ s with staged := r } : State).heads = s.heads := rfl
theorem State.staged_bars (r : Store W64) : ({ s with staged := r } : State).bars = s.bars := rfl
theorem State.staged_engines (r : Store W64) : ({ s with staged := r } : State).engines = s.engines := rfl
theorem State.staged_queues (r : Store W64) : ({ s with staged := r } : State).queues = s.queues := rfl
theorem State.staged_acts (r : Store W64) : ({ s with staged := r } : State).acts = s.acts := rfl
theorem State.staged_events (r : Store W64) : ({ s with staged := r } : State).events = s.events := rfl
theorem State.staged_fresh (r : Store W64) : ({ s with staged := r } : State).fresh = s.fresh := rfl
theorem State.staged_msiLast (r : Store W64) : ({ s with staged := r } : State).msiLast = s.msiLast := rfl
theorem State.staged_msiHeld (r : Store W64) : ({ s with staged := r } : State).msiHeld = s.msiHeld := rfl
theorem State.staged_vfs (r : Store W64) : ({ s with staged := r } : State).vfs = s.vfs := rfl
theorem State.staged_pcie (r : Store W64) : ({ s with staged := r } : State).pcie = s.pcie := rfl
theorem State.staged_fabric (r : Store W64) : ({ s with staged := r } : State).fabric = s.fabric := rfl
theorem State.staged_surv (r : Store W64) : ({ s with staged := r } : State).surv = s.surv := rfl
theorem State.staged_power (r : Store W64) : ({ s with staged := r } : State).power = s.power := rfl
theorem State.staged_sync (r : Store W64) : ({ s with staged := r } : State).sync = s.sync := rfl
theorem State.staged_strong (r : Store W64) : ({ s with staged := r } : State).strong = s.strong := rfl
theorem State.staged_mgmt (r : Store W64) : ({ s with staged := r } : State).mgmt = s.mgmt := rfl

/-! ## `wr` -/

@[simp] theorem State.wr_pending (o : Obj) (n e : Nat) (v : W64) : (s.wr o n e v).pending = s.pending := State.regs_pending s _
@[simp] theorem State.wr_now (o : Obj) (n e : Nat) (v : W64) : (s.wr o n e v).now = s.now := State.regs_now s _
@[simp] theorem State.wr_free (o : Obj) (n e : Nat) (v : W64) : (s.wr o n e v).free = s.free := State.regs_free s _
@[simp] theorem State.wr_staged (o : Obj) (n e : Nat) (v : W64) : (s.wr o n e v).staged = s.staged := State.regs_staged s _
@[simp] theorem State.wr_copyA (o : Obj) (n e : Nat) (v : W64) : (s.wr o n e v).copyA = s.copyA := State.regs_copyA s _
@[simp] theorem State.wr_copyB (o : Obj) (n e : Nat) (v : W64) : (s.wr o n e v).copyB = s.copyB := State.regs_copyB s _
@[simp] theorem State.wr_storing (o : Obj) (n e : Nat) (v : W64) : (s.wr o n e v).storing = s.storing := State.regs_storing s _
@[simp] theorem State.wr_edge (o : Obj) (n e : Nat) (v : W64) : (s.wr o n e v).edge = s.edge := State.regs_edge s _
@[simp] theorem State.wr_served (o : Obj) (n e : Nat) (v : W64) : (s.wr o n e v).served = s.served := State.regs_served s _
@[simp] theorem State.wr_fuses (o : Obj) (n e : Nat) (v : W64) : (s.wr o n e v).fuses = s.fuses := State.regs_fuses s _
@[simp] theorem State.wr_prior (o : Obj) (n e : Nat) (v : W64) : (s.wr o n e v).prior = s.prior := State.regs_prior s _
@[simp] theorem State.wr_writes (o : Obj) (n e : Nat) (v : W64) : (s.wr o n e v).writes = s.writes := State.regs_writes s _
@[simp] theorem State.wr_purged (o : Obj) (n e : Nat) (v : W64) : (s.wr o n e v).purged = s.purged := State.regs_purged s _
@[simp] theorem State.wr_prefetched (o : Obj) (n e : Nat) (v : W64) : (s.wr o n e v).prefetched = s.prefetched := State.regs_prefetched s _
@[simp] theorem State.wr_arrays (o : Obj) (n e : Nat) (v : W64) : (s.wr o n e v).arrays = s.arrays := State.regs_arrays s _
@[simp] theorem State.wr_mem (o : Obj) (n e : Nat) (v : W64) : (s.wr o n e v).mem = s.mem := State.regs_mem s _
@[simp] theorem State.wr_scratch (o : Obj) (n e : Nat) (v : W64) : (s.wr o n e v).scratch = s.scratch := State.regs_scratch s _
@[simp] theorem State.wr_poison (o : Obj) (n e : Nat) (v : W64) : (s.wr o n e v).poison = s.poison := State.regs_poison s _
@[simp] theorem State.wr_out (o : Obj) (n e : Nat) (v : W64) : (s.wr o n e v).out = s.out := State.regs_out s _
@[simp] theorem State.wr_ctxs (o : Obj) (n e : Nat) (v : W64) : (s.wr o n e v).ctxs = s.ctxs := State.regs_ctxs s _
@[simp] theorem State.wr_items (o : Obj) (n e : Nat) (v : W64) : (s.wr o n e v).items = s.items := State.regs_items s _
@[simp] theorem State.wr_trails (o : Obj) (n e : Nat) (v : W64) : (s.wr o n e v).trails = s.trails := State.regs_trails s _
@[simp] theorem State.wr_pend (o : Obj) (n e : Nat) (v : W64) : (s.wr o n e v).pend = s.pend := State.regs_pend s _
@[simp] theorem State.wr_heads (o : Obj) (n e : Nat) (v : W64) : (s.wr o n e v).heads = s.heads := State.regs_heads s _
@[simp] theorem State.wr_bars (o : Obj) (n e : Nat) (v : W64) : (s.wr o n e v).bars = s.bars := State.regs_bars s _
@[simp] theorem State.wr_engines (o : Obj) (n e : Nat) (v : W64) : (s.wr o n e v).engines = s.engines := State.regs_engines s _
@[simp] theorem State.wr_queues (o : Obj) (n e : Nat) (v : W64) : (s.wr o n e v).queues = s.queues := State.regs_queues s _
@[simp] theorem State.wr_acts (o : Obj) (n e : Nat) (v : W64) : (s.wr o n e v).acts = s.acts := State.regs_acts s _
@[simp] theorem State.wr_events (o : Obj) (n e : Nat) (v : W64) : (s.wr o n e v).events = s.events := State.regs_events s _
@[simp] theorem State.wr_fresh (o : Obj) (n e : Nat) (v : W64) : (s.wr o n e v).fresh = s.fresh := State.regs_fresh s _
@[simp] theorem State.wr_msiLast (o : Obj) (n e : Nat) (v : W64) : (s.wr o n e v).msiLast = s.msiLast := State.regs_msiLast s _
@[simp] theorem State.wr_msiHeld (o : Obj) (n e : Nat) (v : W64) : (s.wr o n e v).msiHeld = s.msiHeld := State.regs_msiHeld s _
@[simp] theorem State.wr_vfs (o : Obj) (n e : Nat) (v : W64) : (s.wr o n e v).vfs = s.vfs := State.regs_vfs s _
@[simp] theorem State.wr_pcie (o : Obj) (n e : Nat) (v : W64) : (s.wr o n e v).pcie = s.pcie := State.regs_pcie s _
@[simp] theorem State.wr_fabric (o : Obj) (n e : Nat) (v : W64) : (s.wr o n e v).fabric = s.fabric := State.regs_fabric s _
@[simp] theorem State.wr_surv (o : Obj) (n e : Nat) (v : W64) : (s.wr o n e v).surv = s.surv := State.regs_surv s _
@[simp] theorem State.wr_power (o : Obj) (n e : Nat) (v : W64) : (s.wr o n e v).power = s.power := State.regs_power s _
@[simp] theorem State.wr_sync (o : Obj) (n e : Nat) (v : W64) : (s.wr o n e v).sync = s.sync := State.regs_sync s _
@[simp] theorem State.wr_strong (o : Obj) (n e : Nat) (v : W64) : (s.wr o n e v).strong = s.strong := State.regs_strong s _
@[simp] theorem State.wr_mgmt (o : Obj) (n e : Nat) (v : W64) : (s.wr o n e v).mgmt = s.mgmt := State.regs_mgmt s _
@[simp] theorem State.wr_rdStaged (o : Obj) (n e : Nat) (v : W64) (o' : Obj) (n' e' : Nat) : (s.wr o n e v).rdStaged o' n' e' = s.rdStaged o' n' e' := by
  simp only [State.rdStaged, State.wr_staged]
@[simp] theorem State.wr_ctx (o : Obj) (n e : Nat) (v : W64) (c' : CtxId) : (s.wr o n e v).ctx c' = s.ctx c' := by
  simp only [State.ctx, State.wr_ctxs]
@[simp] theorem State.wr_bar (o : Obj) (n e : Nat) (v : W64) (c' : CtxId) (b' : Nat) : (s.wr o n e v).bar c' b' = s.bar c' b' := by
  simp only [State.bar, State.wr_bars]
@[simp] theorem State.wr_engine (o : Obj) (n e : Nat) (v : W64) (k' : Nat) : (s.wr o n e v).engine k' = s.engine k' := by
  simp only [State.engine, State.wr_engines]
@[simp] theorem State.wr_queue (o : Obj) (n e : Nat) (v : W64) (k' : Nat) : (s.wr o n e v).queue k' = s.queue k' := by
  simp only [State.queue, State.wr_queues]
@[simp] theorem State.wr_port (o : Obj) (n e : Nat) (v : W64) (k' : Nat) : (s.wr o n e v).port k' = s.port k' := by
  simp only [State.port, State.wr_fabric]
@[simp] theorem State.wr_byteAt (o : Obj) (n e : Nat) (v : W64) (pa' : Nat) : (s.wr o n e v).byteAt pa' = s.byteAt pa' := by
  simp only [State.byteAt, State.wr_mem, State.wr_scratch]

/-! ## `wrStaged` -/

@[simp] theorem State.wrStaged_pending (o : Obj) (n e : Nat) (v : W64) : (s.wrStaged o n e v).pending = s.pending := State.staged_pending s _
@[simp] theorem State.wrStaged_now (o : Obj) (n e : Nat) (v : W64) : (s.wrStaged o n e v).now = s.now := State.staged_now s _
@[simp] theorem State.wrStaged_free (o : Obj) (n e : Nat) (v : W64) : (s.wrStaged o n e v).free = s.free := State.staged_free s _
@[simp] theorem State.wrStaged_regs (o : Obj) (n e : Nat) (v : W64) : (s.wrStaged o n e v).regs = s.regs := State.staged_regs s _
@[simp] theorem State.wrStaged_copyA (o : Obj) (n e : Nat) (v : W64) : (s.wrStaged o n e v).copyA = s.copyA := State.staged_copyA s _
@[simp] theorem State.wrStaged_copyB (o : Obj) (n e : Nat) (v : W64) : (s.wrStaged o n e v).copyB = s.copyB := State.staged_copyB s _
@[simp] theorem State.wrStaged_storing (o : Obj) (n e : Nat) (v : W64) : (s.wrStaged o n e v).storing = s.storing := State.staged_storing s _
@[simp] theorem State.wrStaged_edge (o : Obj) (n e : Nat) (v : W64) : (s.wrStaged o n e v).edge = s.edge := State.staged_edge s _
@[simp] theorem State.wrStaged_served (o : Obj) (n e : Nat) (v : W64) : (s.wrStaged o n e v).served = s.served := State.staged_served s _
@[simp] theorem State.wrStaged_fuses (o : Obj) (n e : Nat) (v : W64) : (s.wrStaged o n e v).fuses = s.fuses := State.staged_fuses s _
@[simp] theorem State.wrStaged_prior (o : Obj) (n e : Nat) (v : W64) : (s.wrStaged o n e v).prior = s.prior := State.staged_prior s _
@[simp] theorem State.wrStaged_writes (o : Obj) (n e : Nat) (v : W64) : (s.wrStaged o n e v).writes = s.writes := State.staged_writes s _
@[simp] theorem State.wrStaged_purged (o : Obj) (n e : Nat) (v : W64) : (s.wrStaged o n e v).purged = s.purged := State.staged_purged s _
@[simp] theorem State.wrStaged_prefetched (o : Obj) (n e : Nat) (v : W64) : (s.wrStaged o n e v).prefetched = s.prefetched := State.staged_prefetched s _
@[simp] theorem State.wrStaged_arrays (o : Obj) (n e : Nat) (v : W64) : (s.wrStaged o n e v).arrays = s.arrays := State.staged_arrays s _
@[simp] theorem State.wrStaged_mem (o : Obj) (n e : Nat) (v : W64) : (s.wrStaged o n e v).mem = s.mem := State.staged_mem s _
@[simp] theorem State.wrStaged_scratch (o : Obj) (n e : Nat) (v : W64) : (s.wrStaged o n e v).scratch = s.scratch := State.staged_scratch s _
@[simp] theorem State.wrStaged_poison (o : Obj) (n e : Nat) (v : W64) : (s.wrStaged o n e v).poison = s.poison := State.staged_poison s _
@[simp] theorem State.wrStaged_out (o : Obj) (n e : Nat) (v : W64) : (s.wrStaged o n e v).out = s.out := State.staged_out s _
@[simp] theorem State.wrStaged_ctxs (o : Obj) (n e : Nat) (v : W64) : (s.wrStaged o n e v).ctxs = s.ctxs := State.staged_ctxs s _
@[simp] theorem State.wrStaged_items (o : Obj) (n e : Nat) (v : W64) : (s.wrStaged o n e v).items = s.items := State.staged_items s _
@[simp] theorem State.wrStaged_trails (o : Obj) (n e : Nat) (v : W64) : (s.wrStaged o n e v).trails = s.trails := State.staged_trails s _
@[simp] theorem State.wrStaged_pend (o : Obj) (n e : Nat) (v : W64) : (s.wrStaged o n e v).pend = s.pend := State.staged_pend s _
@[simp] theorem State.wrStaged_heads (o : Obj) (n e : Nat) (v : W64) : (s.wrStaged o n e v).heads = s.heads := State.staged_heads s _
@[simp] theorem State.wrStaged_bars (o : Obj) (n e : Nat) (v : W64) : (s.wrStaged o n e v).bars = s.bars := State.staged_bars s _
@[simp] theorem State.wrStaged_engines (o : Obj) (n e : Nat) (v : W64) : (s.wrStaged o n e v).engines = s.engines := State.staged_engines s _
@[simp] theorem State.wrStaged_queues (o : Obj) (n e : Nat) (v : W64) : (s.wrStaged o n e v).queues = s.queues := State.staged_queues s _
@[simp] theorem State.wrStaged_acts (o : Obj) (n e : Nat) (v : W64) : (s.wrStaged o n e v).acts = s.acts := State.staged_acts s _
@[simp] theorem State.wrStaged_events (o : Obj) (n e : Nat) (v : W64) : (s.wrStaged o n e v).events = s.events := State.staged_events s _
@[simp] theorem State.wrStaged_fresh (o : Obj) (n e : Nat) (v : W64) : (s.wrStaged o n e v).fresh = s.fresh := State.staged_fresh s _
@[simp] theorem State.wrStaged_msiLast (o : Obj) (n e : Nat) (v : W64) : (s.wrStaged o n e v).msiLast = s.msiLast := State.staged_msiLast s _
@[simp] theorem State.wrStaged_msiHeld (o : Obj) (n e : Nat) (v : W64) : (s.wrStaged o n e v).msiHeld = s.msiHeld := State.staged_msiHeld s _
@[simp] theorem State.wrStaged_vfs (o : Obj) (n e : Nat) (v : W64) : (s.wrStaged o n e v).vfs = s.vfs := State.staged_vfs s _
@[simp] theorem State.wrStaged_pcie (o : Obj) (n e : Nat) (v : W64) : (s.wrStaged o n e v).pcie = s.pcie := State.staged_pcie s _
@[simp] theorem State.wrStaged_fabric (o : Obj) (n e : Nat) (v : W64) : (s.wrStaged o n e v).fabric = s.fabric := State.staged_fabric s _
@[simp] theorem State.wrStaged_surv (o : Obj) (n e : Nat) (v : W64) : (s.wrStaged o n e v).surv = s.surv := State.staged_surv s _
@[simp] theorem State.wrStaged_power (o : Obj) (n e : Nat) (v : W64) : (s.wrStaged o n e v).power = s.power := State.staged_power s _
@[simp] theorem State.wrStaged_sync (o : Obj) (n e : Nat) (v : W64) : (s.wrStaged o n e v).sync = s.sync := State.staged_sync s _
@[simp] theorem State.wrStaged_strong (o : Obj) (n e : Nat) (v : W64) : (s.wrStaged o n e v).strong = s.strong := State.staged_strong s _
@[simp] theorem State.wrStaged_mgmt (o : Obj) (n e : Nat) (v : W64) : (s.wrStaged o n e v).mgmt = s.mgmt := State.staged_mgmt s _
@[simp] theorem State.wrStaged_rd (o : Obj) (n e : Nat) (v : W64) (o' : Obj) (n' e' : Nat) : (s.wrStaged o n e v).rd o' n' e' = s.rd o' n' e' := by
  simp only [State.rd, State.wrStaged_regs]
@[simp] theorem State.wrStaged_ctx (o : Obj) (n e : Nat) (v : W64) (c' : CtxId) : (s.wrStaged o n e v).ctx c' = s.ctx c' := by
  simp only [State.ctx, State.wrStaged_ctxs]
@[simp] theorem State.wrStaged_bar (o : Obj) (n e : Nat) (v : W64) (c' : CtxId) (b' : Nat) : (s.wrStaged o n e v).bar c' b' = s.bar c' b' := by
  simp only [State.bar, State.wrStaged_bars]
@[simp] theorem State.wrStaged_engine (o : Obj) (n e : Nat) (v : W64) (k' : Nat) : (s.wrStaged o n e v).engine k' = s.engine k' := by
  simp only [State.engine, State.wrStaged_engines]
@[simp] theorem State.wrStaged_queue (o : Obj) (n e : Nat) (v : W64) (k' : Nat) : (s.wrStaged o n e v).queue k' = s.queue k' := by
  simp only [State.queue, State.wrStaged_queues]
@[simp] theorem State.wrStaged_port (o : Obj) (n e : Nat) (v : W64) (k' : Nat) : (s.wrStaged o n e v).port k' = s.port k' := by
  simp only [State.port, State.wrStaged_fabric]
@[simp] theorem State.wrStaged_byteAt (o : Obj) (n e : Nat) (v : W64) (pa' : Nat) : (s.wrStaged o n e v).byteAt pa' = s.byteAt pa' := by
  simp only [State.byteAt, State.wrStaged_mem, State.wrStaged_scratch]

/-! ## `setCtx` -/

@[simp] theorem State.setCtx_pending (c : CtxId) (x : Ctx) : (s.setCtx c x).pending = s.pending := rfl
@[simp] theorem State.setCtx_now (c : CtxId) (x : Ctx) : (s.setCtx c x).now = s.now := rfl
@[simp] theorem State.setCtx_free (c : CtxId) (x : Ctx) : (s.setCtx c x).free = s.free := rfl
@[simp] theorem State.setCtx_regs (c : CtxId) (x : Ctx) : (s.setCtx c x).regs = s.regs := rfl
@[simp] theorem State.setCtx_staged (c : CtxId) (x : Ctx) : (s.setCtx c x).staged = s.staged := rfl
@[simp] theorem State.setCtx_copyA (c : CtxId) (x : Ctx) : (s.setCtx c x).copyA = s.copyA := rfl
@[simp] theorem State.setCtx_copyB (c : CtxId) (x : Ctx) : (s.setCtx c x).copyB = s.copyB := rfl
@[simp] theorem State.setCtx_storing (c : CtxId) (x : Ctx) : (s.setCtx c x).storing = s.storing := rfl
@[simp] theorem State.setCtx_edge (c : CtxId) (x : Ctx) : (s.setCtx c x).edge = s.edge := rfl
@[simp] theorem State.setCtx_served (c : CtxId) (x : Ctx) : (s.setCtx c x).served = s.served := rfl
@[simp] theorem State.setCtx_fuses (c : CtxId) (x : Ctx) : (s.setCtx c x).fuses = s.fuses := rfl
@[simp] theorem State.setCtx_prior (c : CtxId) (x : Ctx) : (s.setCtx c x).prior = s.prior := rfl
@[simp] theorem State.setCtx_writes (c : CtxId) (x : Ctx) : (s.setCtx c x).writes = s.writes := rfl
@[simp] theorem State.setCtx_purged (c : CtxId) (x : Ctx) : (s.setCtx c x).purged = s.purged := rfl
@[simp] theorem State.setCtx_prefetched (c : CtxId) (x : Ctx) : (s.setCtx c x).prefetched = s.prefetched := rfl
@[simp] theorem State.setCtx_arrays (c : CtxId) (x : Ctx) : (s.setCtx c x).arrays = s.arrays := rfl
@[simp] theorem State.setCtx_mem (c : CtxId) (x : Ctx) : (s.setCtx c x).mem = s.mem := rfl
@[simp] theorem State.setCtx_scratch (c : CtxId) (x : Ctx) : (s.setCtx c x).scratch = s.scratch := rfl
@[simp] theorem State.setCtx_poison (c : CtxId) (x : Ctx) : (s.setCtx c x).poison = s.poison := rfl
@[simp] theorem State.setCtx_out (c : CtxId) (x : Ctx) : (s.setCtx c x).out = s.out := rfl
@[simp] theorem State.setCtx_items (c : CtxId) (x : Ctx) : (s.setCtx c x).items = s.items := rfl
@[simp] theorem State.setCtx_trails (c : CtxId) (x : Ctx) : (s.setCtx c x).trails = s.trails := rfl
@[simp] theorem State.setCtx_pend (c : CtxId) (x : Ctx) : (s.setCtx c x).pend = s.pend := rfl
@[simp] theorem State.setCtx_heads (c : CtxId) (x : Ctx) : (s.setCtx c x).heads = s.heads := rfl
@[simp] theorem State.setCtx_bars (c : CtxId) (x : Ctx) : (s.setCtx c x).bars = s.bars := rfl
@[simp] theorem State.setCtx_engines (c : CtxId) (x : Ctx) : (s.setCtx c x).engines = s.engines := rfl
@[simp] theorem State.setCtx_queues (c : CtxId) (x : Ctx) : (s.setCtx c x).queues = s.queues := rfl
@[simp] theorem State.setCtx_acts (c : CtxId) (x : Ctx) : (s.setCtx c x).acts = s.acts := rfl
@[simp] theorem State.setCtx_events (c : CtxId) (x : Ctx) : (s.setCtx c x).events = s.events := rfl
@[simp] theorem State.setCtx_fresh (c : CtxId) (x : Ctx) : (s.setCtx c x).fresh = s.fresh := rfl
@[simp] theorem State.setCtx_msiLast (c : CtxId) (x : Ctx) : (s.setCtx c x).msiLast = s.msiLast := rfl
@[simp] theorem State.setCtx_msiHeld (c : CtxId) (x : Ctx) : (s.setCtx c x).msiHeld = s.msiHeld := rfl
@[simp] theorem State.setCtx_vfs (c : CtxId) (x : Ctx) : (s.setCtx c x).vfs = s.vfs := rfl
@[simp] theorem State.setCtx_pcie (c : CtxId) (x : Ctx) : (s.setCtx c x).pcie = s.pcie := rfl
@[simp] theorem State.setCtx_fabric (c : CtxId) (x : Ctx) : (s.setCtx c x).fabric = s.fabric := rfl
@[simp] theorem State.setCtx_surv (c : CtxId) (x : Ctx) : (s.setCtx c x).surv = s.surv := rfl
@[simp] theorem State.setCtx_power (c : CtxId) (x : Ctx) : (s.setCtx c x).power = s.power := rfl
@[simp] theorem State.setCtx_sync (c : CtxId) (x : Ctx) : (s.setCtx c x).sync = s.sync := rfl
@[simp] theorem State.setCtx_strong (c : CtxId) (x : Ctx) : (s.setCtx c x).strong = s.strong := rfl
@[simp] theorem State.setCtx_mgmt (c : CtxId) (x : Ctx) : (s.setCtx c x).mgmt = s.mgmt := rfl
@[simp] theorem State.setCtx_rd (c : CtxId) (x : Ctx) (o' : Obj) (n' e' : Nat) : (s.setCtx c x).rd o' n' e' = s.rd o' n' e' := by
  simp only [State.rd, State.setCtx_regs]
@[simp] theorem State.setCtx_rdStaged (c : CtxId) (x : Ctx) (o' : Obj) (n' e' : Nat) : (s.setCtx c x).rdStaged o' n' e' = s.rdStaged o' n' e' := by
  simp only [State.rdStaged, State.setCtx_staged]
@[simp] theorem State.setCtx_bar (c : CtxId) (x : Ctx) (c' : CtxId) (b' : Nat) : (s.setCtx c x).bar c' b' = s.bar c' b' := by
  simp only [State.bar, State.setCtx_bars]
@[simp] theorem State.setCtx_engine (c : CtxId) (x : Ctx) (k' : Nat) : (s.setCtx c x).engine k' = s.engine k' := by
  simp only [State.engine, State.setCtx_engines]
@[simp] theorem State.setCtx_queue (c : CtxId) (x : Ctx) (k' : Nat) : (s.setCtx c x).queue k' = s.queue k' := by
  simp only [State.queue, State.setCtx_queues]
@[simp] theorem State.setCtx_port (c : CtxId) (x : Ctx) (k' : Nat) : (s.setCtx c x).port k' = s.port k' := by
  simp only [State.port, State.setCtx_fabric]
@[simp] theorem State.setCtx_byteAt (c : CtxId) (x : Ctx) (pa' : Nat) : (s.setCtx c x).byteAt pa' = s.byteAt pa' := by
  simp only [State.byteAt, State.setCtx_mem, State.setCtx_scratch]

/-! ## `setItem` -/

@[simp] theorem State.setItem_pending (i : Item) : (s.setItem i).pending = s.pending := rfl
@[simp] theorem State.setItem_now (i : Item) : (s.setItem i).now = s.now := rfl
@[simp] theorem State.setItem_free (i : Item) : (s.setItem i).free = s.free := rfl
@[simp] theorem State.setItem_regs (i : Item) : (s.setItem i).regs = s.regs := rfl
@[simp] theorem State.setItem_staged (i : Item) : (s.setItem i).staged = s.staged := rfl
@[simp] theorem State.setItem_copyA (i : Item) : (s.setItem i).copyA = s.copyA := rfl
@[simp] theorem State.setItem_copyB (i : Item) : (s.setItem i).copyB = s.copyB := rfl
@[simp] theorem State.setItem_storing (i : Item) : (s.setItem i).storing = s.storing := rfl
@[simp] theorem State.setItem_edge (i : Item) : (s.setItem i).edge = s.edge := rfl
@[simp] theorem State.setItem_served (i : Item) : (s.setItem i).served = s.served := rfl
@[simp] theorem State.setItem_fuses (i : Item) : (s.setItem i).fuses = s.fuses := rfl
@[simp] theorem State.setItem_prior (i : Item) : (s.setItem i).prior = s.prior := rfl
@[simp] theorem State.setItem_writes (i : Item) : (s.setItem i).writes = s.writes := rfl
@[simp] theorem State.setItem_purged (i : Item) : (s.setItem i).purged = s.purged := rfl
@[simp] theorem State.setItem_prefetched (i : Item) : (s.setItem i).prefetched = s.prefetched := rfl
@[simp] theorem State.setItem_arrays (i : Item) : (s.setItem i).arrays = s.arrays := rfl
@[simp] theorem State.setItem_mem (i : Item) : (s.setItem i).mem = s.mem := rfl
@[simp] theorem State.setItem_scratch (i : Item) : (s.setItem i).scratch = s.scratch := rfl
@[simp] theorem State.setItem_poison (i : Item) : (s.setItem i).poison = s.poison := rfl
@[simp] theorem State.setItem_out (i : Item) : (s.setItem i).out = s.out := rfl
@[simp] theorem State.setItem_ctxs (i : Item) : (s.setItem i).ctxs = s.ctxs := rfl
@[simp] theorem State.setItem_trails (i : Item) : (s.setItem i).trails = s.trails := rfl
@[simp] theorem State.setItem_pend (i : Item) : (s.setItem i).pend = s.pend := rfl
@[simp] theorem State.setItem_heads (i : Item) : (s.setItem i).heads = s.heads := rfl
@[simp] theorem State.setItem_bars (i : Item) : (s.setItem i).bars = s.bars := rfl
@[simp] theorem State.setItem_engines (i : Item) : (s.setItem i).engines = s.engines := rfl
@[simp] theorem State.setItem_queues (i : Item) : (s.setItem i).queues = s.queues := rfl
@[simp] theorem State.setItem_acts (i : Item) : (s.setItem i).acts = s.acts := rfl
@[simp] theorem State.setItem_events (i : Item) : (s.setItem i).events = s.events := rfl
@[simp] theorem State.setItem_fresh (i : Item) : (s.setItem i).fresh = s.fresh := rfl
@[simp] theorem State.setItem_msiLast (i : Item) : (s.setItem i).msiLast = s.msiLast := rfl
@[simp] theorem State.setItem_msiHeld (i : Item) : (s.setItem i).msiHeld = s.msiHeld := rfl
@[simp] theorem State.setItem_vfs (i : Item) : (s.setItem i).vfs = s.vfs := rfl
@[simp] theorem State.setItem_pcie (i : Item) : (s.setItem i).pcie = s.pcie := rfl
@[simp] theorem State.setItem_fabric (i : Item) : (s.setItem i).fabric = s.fabric := rfl
@[simp] theorem State.setItem_surv (i : Item) : (s.setItem i).surv = s.surv := rfl
@[simp] theorem State.setItem_power (i : Item) : (s.setItem i).power = s.power := rfl
@[simp] theorem State.setItem_sync (i : Item) : (s.setItem i).sync = s.sync := rfl
@[simp] theorem State.setItem_strong (i : Item) : (s.setItem i).strong = s.strong := rfl
@[simp] theorem State.setItem_mgmt (i : Item) : (s.setItem i).mgmt = s.mgmt := rfl
@[simp] theorem State.setItem_rd (i : Item) (o' : Obj) (n' e' : Nat) : (s.setItem i).rd o' n' e' = s.rd o' n' e' := by
  simp only [State.rd, State.setItem_regs]
@[simp] theorem State.setItem_rdStaged (i : Item) (o' : Obj) (n' e' : Nat) : (s.setItem i).rdStaged o' n' e' = s.rdStaged o' n' e' := by
  simp only [State.rdStaged, State.setItem_staged]
@[simp] theorem State.setItem_ctx (i : Item) (c' : CtxId) : (s.setItem i).ctx c' = s.ctx c' := by
  simp only [State.ctx, State.setItem_ctxs]
@[simp] theorem State.setItem_bar (i : Item) (c' : CtxId) (b' : Nat) : (s.setItem i).bar c' b' = s.bar c' b' := by
  simp only [State.bar, State.setItem_bars]
@[simp] theorem State.setItem_engine (i : Item) (k' : Nat) : (s.setItem i).engine k' = s.engine k' := by
  simp only [State.engine, State.setItem_engines]
@[simp] theorem State.setItem_queue (i : Item) (k' : Nat) : (s.setItem i).queue k' = s.queue k' := by
  simp only [State.queue, State.setItem_queues]
@[simp] theorem State.setItem_port (i : Item) (k' : Nat) : (s.setItem i).port k' = s.port k' := by
  simp only [State.port, State.setItem_fabric]
@[simp] theorem State.setItem_byteAt (i : Item) (pa' : Nat) : (s.setItem i).byteAt pa' = s.byteAt pa' := by
  simp only [State.byteAt, State.setItem_mem, State.setItem_scratch]

/-! ## `dropItem` -/

@[simp] theorem State.dropItem_pending (i : Item) : (s.dropItem i).pending = s.pending := rfl
@[simp] theorem State.dropItem_now (i : Item) : (s.dropItem i).now = s.now := rfl
@[simp] theorem State.dropItem_free (i : Item) : (s.dropItem i).free = s.free := rfl
@[simp] theorem State.dropItem_regs (i : Item) : (s.dropItem i).regs = s.regs := rfl
@[simp] theorem State.dropItem_staged (i : Item) : (s.dropItem i).staged = s.staged := rfl
@[simp] theorem State.dropItem_copyA (i : Item) : (s.dropItem i).copyA = s.copyA := rfl
@[simp] theorem State.dropItem_copyB (i : Item) : (s.dropItem i).copyB = s.copyB := rfl
@[simp] theorem State.dropItem_storing (i : Item) : (s.dropItem i).storing = s.storing := rfl
@[simp] theorem State.dropItem_edge (i : Item) : (s.dropItem i).edge = s.edge := rfl
@[simp] theorem State.dropItem_served (i : Item) : (s.dropItem i).served = s.served := rfl
@[simp] theorem State.dropItem_fuses (i : Item) : (s.dropItem i).fuses = s.fuses := rfl
@[simp] theorem State.dropItem_prior (i : Item) : (s.dropItem i).prior = s.prior := rfl
@[simp] theorem State.dropItem_writes (i : Item) : (s.dropItem i).writes = s.writes := rfl
@[simp] theorem State.dropItem_purged (i : Item) : (s.dropItem i).purged = s.purged := rfl
@[simp] theorem State.dropItem_prefetched (i : Item) : (s.dropItem i).prefetched = s.prefetched := rfl
@[simp] theorem State.dropItem_arrays (i : Item) : (s.dropItem i).arrays = s.arrays := rfl
@[simp] theorem State.dropItem_mem (i : Item) : (s.dropItem i).mem = s.mem := rfl
@[simp] theorem State.dropItem_scratch (i : Item) : (s.dropItem i).scratch = s.scratch := rfl
@[simp] theorem State.dropItem_poison (i : Item) : (s.dropItem i).poison = s.poison := rfl
@[simp] theorem State.dropItem_out (i : Item) : (s.dropItem i).out = s.out := rfl
@[simp] theorem State.dropItem_ctxs (i : Item) : (s.dropItem i).ctxs = s.ctxs := rfl
@[simp] theorem State.dropItem_trails (i : Item) : (s.dropItem i).trails = s.trails := rfl
@[simp] theorem State.dropItem_pend (i : Item) : (s.dropItem i).pend = s.pend := rfl
@[simp] theorem State.dropItem_heads (i : Item) : (s.dropItem i).heads = s.heads := rfl
@[simp] theorem State.dropItem_bars (i : Item) : (s.dropItem i).bars = s.bars := rfl
@[simp] theorem State.dropItem_engines (i : Item) : (s.dropItem i).engines = s.engines := rfl
@[simp] theorem State.dropItem_queues (i : Item) : (s.dropItem i).queues = s.queues := rfl
@[simp] theorem State.dropItem_acts (i : Item) : (s.dropItem i).acts = s.acts := rfl
@[simp] theorem State.dropItem_events (i : Item) : (s.dropItem i).events = s.events := rfl
@[simp] theorem State.dropItem_fresh (i : Item) : (s.dropItem i).fresh = s.fresh := rfl
@[simp] theorem State.dropItem_msiLast (i : Item) : (s.dropItem i).msiLast = s.msiLast := rfl
@[simp] theorem State.dropItem_msiHeld (i : Item) : (s.dropItem i).msiHeld = s.msiHeld := rfl
@[simp] theorem State.dropItem_vfs (i : Item) : (s.dropItem i).vfs = s.vfs := rfl
@[simp] theorem State.dropItem_pcie (i : Item) : (s.dropItem i).pcie = s.pcie := rfl
@[simp] theorem State.dropItem_fabric (i : Item) : (s.dropItem i).fabric = s.fabric := rfl
@[simp] theorem State.dropItem_surv (i : Item) : (s.dropItem i).surv = s.surv := rfl
@[simp] theorem State.dropItem_power (i : Item) : (s.dropItem i).power = s.power := rfl
@[simp] theorem State.dropItem_sync (i : Item) : (s.dropItem i).sync = s.sync := rfl
@[simp] theorem State.dropItem_strong (i : Item) : (s.dropItem i).strong = s.strong := rfl
@[simp] theorem State.dropItem_mgmt (i : Item) : (s.dropItem i).mgmt = s.mgmt := rfl
@[simp] theorem State.dropItem_rd (i : Item) (o' : Obj) (n' e' : Nat) : (s.dropItem i).rd o' n' e' = s.rd o' n' e' := by
  simp only [State.rd, State.dropItem_regs]
@[simp] theorem State.dropItem_rdStaged (i : Item) (o' : Obj) (n' e' : Nat) : (s.dropItem i).rdStaged o' n' e' = s.rdStaged o' n' e' := by
  simp only [State.rdStaged, State.dropItem_staged]
@[simp] theorem State.dropItem_ctx (i : Item) (c' : CtxId) : (s.dropItem i).ctx c' = s.ctx c' := by
  simp only [State.ctx, State.dropItem_ctxs]
@[simp] theorem State.dropItem_bar (i : Item) (c' : CtxId) (b' : Nat) : (s.dropItem i).bar c' b' = s.bar c' b' := by
  simp only [State.bar, State.dropItem_bars]
@[simp] theorem State.dropItem_engine (i : Item) (k' : Nat) : (s.dropItem i).engine k' = s.engine k' := by
  simp only [State.engine, State.dropItem_engines]
@[simp] theorem State.dropItem_queue (i : Item) (k' : Nat) : (s.dropItem i).queue k' = s.queue k' := by
  simp only [State.queue, State.dropItem_queues]
@[simp] theorem State.dropItem_port (i : Item) (k' : Nat) : (s.dropItem i).port k' = s.port k' := by
  simp only [State.port, State.dropItem_fabric]
@[simp] theorem State.dropItem_byteAt (i : Item) (pa' : Nat) : (s.dropItem i).byteAt pa' = s.byteAt pa' := by
  simp only [State.byteAt, State.dropItem_mem, State.dropItem_scratch]

/-! ## `setBar` -/

@[simp] theorem State.setBar_pending (c : CtxId) (b : Nat) (x : Barrier) : (s.setBar c b x).pending = s.pending := rfl
@[simp] theorem State.setBar_now (c : CtxId) (b : Nat) (x : Barrier) : (s.setBar c b x).now = s.now := rfl
@[simp] theorem State.setBar_free (c : CtxId) (b : Nat) (x : Barrier) : (s.setBar c b x).free = s.free := rfl
@[simp] theorem State.setBar_regs (c : CtxId) (b : Nat) (x : Barrier) : (s.setBar c b x).regs = s.regs := rfl
@[simp] theorem State.setBar_staged (c : CtxId) (b : Nat) (x : Barrier) : (s.setBar c b x).staged = s.staged := rfl
@[simp] theorem State.setBar_copyA (c : CtxId) (b : Nat) (x : Barrier) : (s.setBar c b x).copyA = s.copyA := rfl
@[simp] theorem State.setBar_copyB (c : CtxId) (b : Nat) (x : Barrier) : (s.setBar c b x).copyB = s.copyB := rfl
@[simp] theorem State.setBar_storing (c : CtxId) (b : Nat) (x : Barrier) : (s.setBar c b x).storing = s.storing := rfl
@[simp] theorem State.setBar_edge (c : CtxId) (b : Nat) (x : Barrier) : (s.setBar c b x).edge = s.edge := rfl
@[simp] theorem State.setBar_served (c : CtxId) (b : Nat) (x : Barrier) : (s.setBar c b x).served = s.served := rfl
@[simp] theorem State.setBar_fuses (c : CtxId) (b : Nat) (x : Barrier) : (s.setBar c b x).fuses = s.fuses := rfl
@[simp] theorem State.setBar_prior (c : CtxId) (b : Nat) (x : Barrier) : (s.setBar c b x).prior = s.prior := rfl
@[simp] theorem State.setBar_writes (c : CtxId) (b : Nat) (x : Barrier) : (s.setBar c b x).writes = s.writes := rfl
@[simp] theorem State.setBar_purged (c : CtxId) (b : Nat) (x : Barrier) : (s.setBar c b x).purged = s.purged := rfl
@[simp] theorem State.setBar_prefetched (c : CtxId) (b : Nat) (x : Barrier) : (s.setBar c b x).prefetched = s.prefetched := rfl
@[simp] theorem State.setBar_arrays (c : CtxId) (b : Nat) (x : Barrier) : (s.setBar c b x).arrays = s.arrays := rfl
@[simp] theorem State.setBar_mem (c : CtxId) (b : Nat) (x : Barrier) : (s.setBar c b x).mem = s.mem := rfl
@[simp] theorem State.setBar_scratch (c : CtxId) (b : Nat) (x : Barrier) : (s.setBar c b x).scratch = s.scratch := rfl
@[simp] theorem State.setBar_poison (c : CtxId) (b : Nat) (x : Barrier) : (s.setBar c b x).poison = s.poison := rfl
@[simp] theorem State.setBar_out (c : CtxId) (b : Nat) (x : Barrier) : (s.setBar c b x).out = s.out := rfl
@[simp] theorem State.setBar_ctxs (c : CtxId) (b : Nat) (x : Barrier) : (s.setBar c b x).ctxs = s.ctxs := rfl
@[simp] theorem State.setBar_items (c : CtxId) (b : Nat) (x : Barrier) : (s.setBar c b x).items = s.items := rfl
@[simp] theorem State.setBar_trails (c : CtxId) (b : Nat) (x : Barrier) : (s.setBar c b x).trails = s.trails := rfl
@[simp] theorem State.setBar_pend (c : CtxId) (b : Nat) (x : Barrier) : (s.setBar c b x).pend = s.pend := rfl
@[simp] theorem State.setBar_heads (c : CtxId) (b : Nat) (x : Barrier) : (s.setBar c b x).heads = s.heads := rfl
@[simp] theorem State.setBar_engines (c : CtxId) (b : Nat) (x : Barrier) : (s.setBar c b x).engines = s.engines := rfl
@[simp] theorem State.setBar_queues (c : CtxId) (b : Nat) (x : Barrier) : (s.setBar c b x).queues = s.queues := rfl
@[simp] theorem State.setBar_acts (c : CtxId) (b : Nat) (x : Barrier) : (s.setBar c b x).acts = s.acts := rfl
@[simp] theorem State.setBar_events (c : CtxId) (b : Nat) (x : Barrier) : (s.setBar c b x).events = s.events := rfl
@[simp] theorem State.setBar_fresh (c : CtxId) (b : Nat) (x : Barrier) : (s.setBar c b x).fresh = s.fresh := rfl
@[simp] theorem State.setBar_msiLast (c : CtxId) (b : Nat) (x : Barrier) : (s.setBar c b x).msiLast = s.msiLast := rfl
@[simp] theorem State.setBar_msiHeld (c : CtxId) (b : Nat) (x : Barrier) : (s.setBar c b x).msiHeld = s.msiHeld := rfl
@[simp] theorem State.setBar_vfs (c : CtxId) (b : Nat) (x : Barrier) : (s.setBar c b x).vfs = s.vfs := rfl
@[simp] theorem State.setBar_pcie (c : CtxId) (b : Nat) (x : Barrier) : (s.setBar c b x).pcie = s.pcie := rfl
@[simp] theorem State.setBar_fabric (c : CtxId) (b : Nat) (x : Barrier) : (s.setBar c b x).fabric = s.fabric := rfl
@[simp] theorem State.setBar_surv (c : CtxId) (b : Nat) (x : Barrier) : (s.setBar c b x).surv = s.surv := rfl
@[simp] theorem State.setBar_power (c : CtxId) (b : Nat) (x : Barrier) : (s.setBar c b x).power = s.power := rfl
@[simp] theorem State.setBar_sync (c : CtxId) (b : Nat) (x : Barrier) : (s.setBar c b x).sync = s.sync := rfl
@[simp] theorem State.setBar_strong (c : CtxId) (b : Nat) (x : Barrier) : (s.setBar c b x).strong = s.strong := rfl
@[simp] theorem State.setBar_mgmt (c : CtxId) (b : Nat) (x : Barrier) : (s.setBar c b x).mgmt = s.mgmt := rfl
@[simp] theorem State.setBar_rd (c : CtxId) (b : Nat) (x : Barrier) (o' : Obj) (n' e' : Nat) : (s.setBar c b x).rd o' n' e' = s.rd o' n' e' := by
  simp only [State.rd, State.setBar_regs]
@[simp] theorem State.setBar_rdStaged (c : CtxId) (b : Nat) (x : Barrier) (o' : Obj) (n' e' : Nat) : (s.setBar c b x).rdStaged o' n' e' = s.rdStaged o' n' e' := by
  simp only [State.rdStaged, State.setBar_staged]
@[simp] theorem State.setBar_ctx (c : CtxId) (b : Nat) (x : Barrier) (c' : CtxId) : (s.setBar c b x).ctx c' = s.ctx c' := by
  simp only [State.ctx, State.setBar_ctxs]
@[simp] theorem State.setBar_engine (c : CtxId) (b : Nat) (x : Barrier) (k' : Nat) : (s.setBar c b x).engine k' = s.engine k' := by
  simp only [State.engine, State.setBar_engines]
@[simp] theorem State.setBar_queue (c : CtxId) (b : Nat) (x : Barrier) (k' : Nat) : (s.setBar c b x).queue k' = s.queue k' := by
  simp only [State.queue, State.setBar_queues]
@[simp] theorem State.setBar_port (c : CtxId) (b : Nat) (x : Barrier) (k' : Nat) : (s.setBar c b x).port k' = s.port k' := by
  simp only [State.port, State.setBar_fabric]
@[simp] theorem State.setBar_byteAt (c : CtxId) (b : Nat) (x : Barrier) (pa' : Nat) : (s.setBar c b x).byteAt pa' = s.byteAt pa' := by
  simp only [State.byteAt, State.setBar_mem, State.setBar_scratch]

/-! ## `setEngine` -/

@[simp] theorem State.setEngine_pending (k : Nat) (x : Engine) : (s.setEngine k x).pending = s.pending := rfl
@[simp] theorem State.setEngine_now (k : Nat) (x : Engine) : (s.setEngine k x).now = s.now := rfl
@[simp] theorem State.setEngine_free (k : Nat) (x : Engine) : (s.setEngine k x).free = s.free := rfl
@[simp] theorem State.setEngine_regs (k : Nat) (x : Engine) : (s.setEngine k x).regs = s.regs := rfl
@[simp] theorem State.setEngine_staged (k : Nat) (x : Engine) : (s.setEngine k x).staged = s.staged := rfl
@[simp] theorem State.setEngine_copyA (k : Nat) (x : Engine) : (s.setEngine k x).copyA = s.copyA := rfl
@[simp] theorem State.setEngine_copyB (k : Nat) (x : Engine) : (s.setEngine k x).copyB = s.copyB := rfl
@[simp] theorem State.setEngine_storing (k : Nat) (x : Engine) : (s.setEngine k x).storing = s.storing := rfl
@[simp] theorem State.setEngine_edge (k : Nat) (x : Engine) : (s.setEngine k x).edge = s.edge := rfl
@[simp] theorem State.setEngine_served (k : Nat) (x : Engine) : (s.setEngine k x).served = s.served := rfl
@[simp] theorem State.setEngine_fuses (k : Nat) (x : Engine) : (s.setEngine k x).fuses = s.fuses := rfl
@[simp] theorem State.setEngine_prior (k : Nat) (x : Engine) : (s.setEngine k x).prior = s.prior := rfl
@[simp] theorem State.setEngine_writes (k : Nat) (x : Engine) : (s.setEngine k x).writes = s.writes := rfl
@[simp] theorem State.setEngine_purged (k : Nat) (x : Engine) : (s.setEngine k x).purged = s.purged := rfl
@[simp] theorem State.setEngine_prefetched (k : Nat) (x : Engine) : (s.setEngine k x).prefetched = s.prefetched := rfl
@[simp] theorem State.setEngine_arrays (k : Nat) (x : Engine) : (s.setEngine k x).arrays = s.arrays := rfl
@[simp] theorem State.setEngine_mem (k : Nat) (x : Engine) : (s.setEngine k x).mem = s.mem := rfl
@[simp] theorem State.setEngine_scratch (k : Nat) (x : Engine) : (s.setEngine k x).scratch = s.scratch := rfl
@[simp] theorem State.setEngine_poison (k : Nat) (x : Engine) : (s.setEngine k x).poison = s.poison := rfl
@[simp] theorem State.setEngine_out (k : Nat) (x : Engine) : (s.setEngine k x).out = s.out := rfl
@[simp] theorem State.setEngine_ctxs (k : Nat) (x : Engine) : (s.setEngine k x).ctxs = s.ctxs := rfl
@[simp] theorem State.setEngine_items (k : Nat) (x : Engine) : (s.setEngine k x).items = s.items := rfl
@[simp] theorem State.setEngine_trails (k : Nat) (x : Engine) : (s.setEngine k x).trails = s.trails := rfl
@[simp] theorem State.setEngine_pend (k : Nat) (x : Engine) : (s.setEngine k x).pend = s.pend := rfl
@[simp] theorem State.setEngine_heads (k : Nat) (x : Engine) : (s.setEngine k x).heads = s.heads := rfl
@[simp] theorem State.setEngine_bars (k : Nat) (x : Engine) : (s.setEngine k x).bars = s.bars := rfl
@[simp] theorem State.setEngine_queues (k : Nat) (x : Engine) : (s.setEngine k x).queues = s.queues := rfl
@[simp] theorem State.setEngine_acts (k : Nat) (x : Engine) : (s.setEngine k x).acts = s.acts := rfl
@[simp] theorem State.setEngine_events (k : Nat) (x : Engine) : (s.setEngine k x).events = s.events := rfl
@[simp] theorem State.setEngine_fresh (k : Nat) (x : Engine) : (s.setEngine k x).fresh = s.fresh := rfl
@[simp] theorem State.setEngine_msiLast (k : Nat) (x : Engine) : (s.setEngine k x).msiLast = s.msiLast := rfl
@[simp] theorem State.setEngine_msiHeld (k : Nat) (x : Engine) : (s.setEngine k x).msiHeld = s.msiHeld := rfl
@[simp] theorem State.setEngine_vfs (k : Nat) (x : Engine) : (s.setEngine k x).vfs = s.vfs := rfl
@[simp] theorem State.setEngine_pcie (k : Nat) (x : Engine) : (s.setEngine k x).pcie = s.pcie := rfl
@[simp] theorem State.setEngine_fabric (k : Nat) (x : Engine) : (s.setEngine k x).fabric = s.fabric := rfl
@[simp] theorem State.setEngine_surv (k : Nat) (x : Engine) : (s.setEngine k x).surv = s.surv := rfl
@[simp] theorem State.setEngine_power (k : Nat) (x : Engine) : (s.setEngine k x).power = s.power := rfl
@[simp] theorem State.setEngine_sync (k : Nat) (x : Engine) : (s.setEngine k x).sync = s.sync := rfl
@[simp] theorem State.setEngine_strong (k : Nat) (x : Engine) : (s.setEngine k x).strong = s.strong := rfl
@[simp] theorem State.setEngine_mgmt (k : Nat) (x : Engine) : (s.setEngine k x).mgmt = s.mgmt := rfl
@[simp] theorem State.setEngine_rd (k : Nat) (x : Engine) (o' : Obj) (n' e' : Nat) : (s.setEngine k x).rd o' n' e' = s.rd o' n' e' := by
  simp only [State.rd, State.setEngine_regs]
@[simp] theorem State.setEngine_rdStaged (k : Nat) (x : Engine) (o' : Obj) (n' e' : Nat) : (s.setEngine k x).rdStaged o' n' e' = s.rdStaged o' n' e' := by
  simp only [State.rdStaged, State.setEngine_staged]
@[simp] theorem State.setEngine_ctx (k : Nat) (x : Engine) (c' : CtxId) : (s.setEngine k x).ctx c' = s.ctx c' := by
  simp only [State.ctx, State.setEngine_ctxs]
@[simp] theorem State.setEngine_bar (k : Nat) (x : Engine) (c' : CtxId) (b' : Nat) : (s.setEngine k x).bar c' b' = s.bar c' b' := by
  simp only [State.bar, State.setEngine_bars]
@[simp] theorem State.setEngine_queue (k : Nat) (x : Engine) (k' : Nat) : (s.setEngine k x).queue k' = s.queue k' := by
  simp only [State.queue, State.setEngine_queues]
@[simp] theorem State.setEngine_port (k : Nat) (x : Engine) (k' : Nat) : (s.setEngine k x).port k' = s.port k' := by
  simp only [State.port, State.setEngine_fabric]
@[simp] theorem State.setEngine_byteAt (k : Nat) (x : Engine) (pa' : Nat) : (s.setEngine k x).byteAt pa' = s.byteAt pa' := by
  simp only [State.byteAt, State.setEngine_mem, State.setEngine_scratch]

/-! ## `setQueue` -/

@[simp] theorem State.setQueue_pending (k : Nat) (x : Queue) : (s.setQueue k x).pending = s.pending := rfl
@[simp] theorem State.setQueue_now (k : Nat) (x : Queue) : (s.setQueue k x).now = s.now := rfl
@[simp] theorem State.setQueue_free (k : Nat) (x : Queue) : (s.setQueue k x).free = s.free := rfl
@[simp] theorem State.setQueue_regs (k : Nat) (x : Queue) : (s.setQueue k x).regs = s.regs := rfl
@[simp] theorem State.setQueue_staged (k : Nat) (x : Queue) : (s.setQueue k x).staged = s.staged := rfl
@[simp] theorem State.setQueue_copyA (k : Nat) (x : Queue) : (s.setQueue k x).copyA = s.copyA := rfl
@[simp] theorem State.setQueue_copyB (k : Nat) (x : Queue) : (s.setQueue k x).copyB = s.copyB := rfl
@[simp] theorem State.setQueue_storing (k : Nat) (x : Queue) : (s.setQueue k x).storing = s.storing := rfl
@[simp] theorem State.setQueue_edge (k : Nat) (x : Queue) : (s.setQueue k x).edge = s.edge := rfl
@[simp] theorem State.setQueue_served (k : Nat) (x : Queue) : (s.setQueue k x).served = s.served := rfl
@[simp] theorem State.setQueue_fuses (k : Nat) (x : Queue) : (s.setQueue k x).fuses = s.fuses := rfl
@[simp] theorem State.setQueue_prior (k : Nat) (x : Queue) : (s.setQueue k x).prior = s.prior := rfl
@[simp] theorem State.setQueue_writes (k : Nat) (x : Queue) : (s.setQueue k x).writes = s.writes := rfl
@[simp] theorem State.setQueue_purged (k : Nat) (x : Queue) : (s.setQueue k x).purged = s.purged := rfl
@[simp] theorem State.setQueue_prefetched (k : Nat) (x : Queue) : (s.setQueue k x).prefetched = s.prefetched := rfl
@[simp] theorem State.setQueue_arrays (k : Nat) (x : Queue) : (s.setQueue k x).arrays = s.arrays := rfl
@[simp] theorem State.setQueue_mem (k : Nat) (x : Queue) : (s.setQueue k x).mem = s.mem := rfl
@[simp] theorem State.setQueue_scratch (k : Nat) (x : Queue) : (s.setQueue k x).scratch = s.scratch := rfl
@[simp] theorem State.setQueue_poison (k : Nat) (x : Queue) : (s.setQueue k x).poison = s.poison := rfl
@[simp] theorem State.setQueue_out (k : Nat) (x : Queue) : (s.setQueue k x).out = s.out := rfl
@[simp] theorem State.setQueue_ctxs (k : Nat) (x : Queue) : (s.setQueue k x).ctxs = s.ctxs := rfl
@[simp] theorem State.setQueue_items (k : Nat) (x : Queue) : (s.setQueue k x).items = s.items := rfl
@[simp] theorem State.setQueue_trails (k : Nat) (x : Queue) : (s.setQueue k x).trails = s.trails := rfl
@[simp] theorem State.setQueue_pend (k : Nat) (x : Queue) : (s.setQueue k x).pend = s.pend := rfl
@[simp] theorem State.setQueue_heads (k : Nat) (x : Queue) : (s.setQueue k x).heads = s.heads := rfl
@[simp] theorem State.setQueue_bars (k : Nat) (x : Queue) : (s.setQueue k x).bars = s.bars := rfl
@[simp] theorem State.setQueue_engines (k : Nat) (x : Queue) : (s.setQueue k x).engines = s.engines := rfl
@[simp] theorem State.setQueue_acts (k : Nat) (x : Queue) : (s.setQueue k x).acts = s.acts := rfl
@[simp] theorem State.setQueue_events (k : Nat) (x : Queue) : (s.setQueue k x).events = s.events := rfl
@[simp] theorem State.setQueue_fresh (k : Nat) (x : Queue) : (s.setQueue k x).fresh = s.fresh := rfl
@[simp] theorem State.setQueue_msiLast (k : Nat) (x : Queue) : (s.setQueue k x).msiLast = s.msiLast := rfl
@[simp] theorem State.setQueue_msiHeld (k : Nat) (x : Queue) : (s.setQueue k x).msiHeld = s.msiHeld := rfl
@[simp] theorem State.setQueue_vfs (k : Nat) (x : Queue) : (s.setQueue k x).vfs = s.vfs := rfl
@[simp] theorem State.setQueue_pcie (k : Nat) (x : Queue) : (s.setQueue k x).pcie = s.pcie := rfl
@[simp] theorem State.setQueue_fabric (k : Nat) (x : Queue) : (s.setQueue k x).fabric = s.fabric := rfl
@[simp] theorem State.setQueue_surv (k : Nat) (x : Queue) : (s.setQueue k x).surv = s.surv := rfl
@[simp] theorem State.setQueue_power (k : Nat) (x : Queue) : (s.setQueue k x).power = s.power := rfl
@[simp] theorem State.setQueue_sync (k : Nat) (x : Queue) : (s.setQueue k x).sync = s.sync := rfl
@[simp] theorem State.setQueue_strong (k : Nat) (x : Queue) : (s.setQueue k x).strong = s.strong := rfl
@[simp] theorem State.setQueue_mgmt (k : Nat) (x : Queue) : (s.setQueue k x).mgmt = s.mgmt := rfl
@[simp] theorem State.setQueue_rd (k : Nat) (x : Queue) (o' : Obj) (n' e' : Nat) : (s.setQueue k x).rd o' n' e' = s.rd o' n' e' := by
  simp only [State.rd, State.setQueue_regs]
@[simp] theorem State.setQueue_rdStaged (k : Nat) (x : Queue) (o' : Obj) (n' e' : Nat) : (s.setQueue k x).rdStaged o' n' e' = s.rdStaged o' n' e' := by
  simp only [State.rdStaged, State.setQueue_staged]
@[simp] theorem State.setQueue_ctx (k : Nat) (x : Queue) (c' : CtxId) : (s.setQueue k x).ctx c' = s.ctx c' := by
  simp only [State.ctx, State.setQueue_ctxs]
@[simp] theorem State.setQueue_bar (k : Nat) (x : Queue) (c' : CtxId) (b' : Nat) : (s.setQueue k x).bar c' b' = s.bar c' b' := by
  simp only [State.bar, State.setQueue_bars]
@[simp] theorem State.setQueue_engine (k : Nat) (x : Queue) (k' : Nat) : (s.setQueue k x).engine k' = s.engine k' := by
  simp only [State.engine, State.setQueue_engines]
@[simp] theorem State.setQueue_port (k : Nat) (x : Queue) (k' : Nat) : (s.setQueue k x).port k' = s.port k' := by
  simp only [State.port, State.setQueue_fabric]
@[simp] theorem State.setQueue_byteAt (k : Nat) (x : Queue) (pa' : Nat) : (s.setQueue k x).byteAt pa' = s.byteAt pa' := by
  simp only [State.byteAt, State.setQueue_mem, State.setQueue_scratch]

/-! ## `setPort` -/

@[simp] theorem State.setPort_pending (k : Nat) (x : Port) : (s.setPort k x).pending = s.pending := rfl
@[simp] theorem State.setPort_now (k : Nat) (x : Port) : (s.setPort k x).now = s.now := rfl
@[simp] theorem State.setPort_free (k : Nat) (x : Port) : (s.setPort k x).free = s.free := rfl
@[simp] theorem State.setPort_regs (k : Nat) (x : Port) : (s.setPort k x).regs = s.regs := rfl
@[simp] theorem State.setPort_staged (k : Nat) (x : Port) : (s.setPort k x).staged = s.staged := rfl
@[simp] theorem State.setPort_copyA (k : Nat) (x : Port) : (s.setPort k x).copyA = s.copyA := rfl
@[simp] theorem State.setPort_copyB (k : Nat) (x : Port) : (s.setPort k x).copyB = s.copyB := rfl
@[simp] theorem State.setPort_storing (k : Nat) (x : Port) : (s.setPort k x).storing = s.storing := rfl
@[simp] theorem State.setPort_edge (k : Nat) (x : Port) : (s.setPort k x).edge = s.edge := rfl
@[simp] theorem State.setPort_served (k : Nat) (x : Port) : (s.setPort k x).served = s.served := rfl
@[simp] theorem State.setPort_fuses (k : Nat) (x : Port) : (s.setPort k x).fuses = s.fuses := rfl
@[simp] theorem State.setPort_prior (k : Nat) (x : Port) : (s.setPort k x).prior = s.prior := rfl
@[simp] theorem State.setPort_writes (k : Nat) (x : Port) : (s.setPort k x).writes = s.writes := rfl
@[simp] theorem State.setPort_purged (k : Nat) (x : Port) : (s.setPort k x).purged = s.purged := rfl
@[simp] theorem State.setPort_prefetched (k : Nat) (x : Port) : (s.setPort k x).prefetched = s.prefetched := rfl
@[simp] theorem State.setPort_arrays (k : Nat) (x : Port) : (s.setPort k x).arrays = s.arrays := rfl
@[simp] theorem State.setPort_mem (k : Nat) (x : Port) : (s.setPort k x).mem = s.mem := rfl
@[simp] theorem State.setPort_scratch (k : Nat) (x : Port) : (s.setPort k x).scratch = s.scratch := rfl
@[simp] theorem State.setPort_poison (k : Nat) (x : Port) : (s.setPort k x).poison = s.poison := rfl
@[simp] theorem State.setPort_out (k : Nat) (x : Port) : (s.setPort k x).out = s.out := rfl
@[simp] theorem State.setPort_ctxs (k : Nat) (x : Port) : (s.setPort k x).ctxs = s.ctxs := rfl
@[simp] theorem State.setPort_items (k : Nat) (x : Port) : (s.setPort k x).items = s.items := rfl
@[simp] theorem State.setPort_trails (k : Nat) (x : Port) : (s.setPort k x).trails = s.trails := rfl
@[simp] theorem State.setPort_pend (k : Nat) (x : Port) : (s.setPort k x).pend = s.pend := rfl
@[simp] theorem State.setPort_heads (k : Nat) (x : Port) : (s.setPort k x).heads = s.heads := rfl
@[simp] theorem State.setPort_bars (k : Nat) (x : Port) : (s.setPort k x).bars = s.bars := rfl
@[simp] theorem State.setPort_engines (k : Nat) (x : Port) : (s.setPort k x).engines = s.engines := rfl
@[simp] theorem State.setPort_queues (k : Nat) (x : Port) : (s.setPort k x).queues = s.queues := rfl
@[simp] theorem State.setPort_acts (k : Nat) (x : Port) : (s.setPort k x).acts = s.acts := rfl
@[simp] theorem State.setPort_events (k : Nat) (x : Port) : (s.setPort k x).events = s.events := rfl
@[simp] theorem State.setPort_fresh (k : Nat) (x : Port) : (s.setPort k x).fresh = s.fresh := rfl
@[simp] theorem State.setPort_msiLast (k : Nat) (x : Port) : (s.setPort k x).msiLast = s.msiLast := rfl
@[simp] theorem State.setPort_msiHeld (k : Nat) (x : Port) : (s.setPort k x).msiHeld = s.msiHeld := rfl
@[simp] theorem State.setPort_vfs (k : Nat) (x : Port) : (s.setPort k x).vfs = s.vfs := rfl
@[simp] theorem State.setPort_pcie (k : Nat) (x : Port) : (s.setPort k x).pcie = s.pcie := rfl
@[simp] theorem State.setPort_surv (k : Nat) (x : Port) : (s.setPort k x).surv = s.surv := rfl
@[simp] theorem State.setPort_power (k : Nat) (x : Port) : (s.setPort k x).power = s.power := rfl
@[simp] theorem State.setPort_sync (k : Nat) (x : Port) : (s.setPort k x).sync = s.sync := rfl
@[simp] theorem State.setPort_strong (k : Nat) (x : Port) : (s.setPort k x).strong = s.strong := rfl
@[simp] theorem State.setPort_mgmt (k : Nat) (x : Port) : (s.setPort k x).mgmt = s.mgmt := rfl
@[simp] theorem State.setPort_rd (k : Nat) (x : Port) (o' : Obj) (n' e' : Nat) : (s.setPort k x).rd o' n' e' = s.rd o' n' e' := by
  simp only [State.rd, State.setPort_regs]
@[simp] theorem State.setPort_rdStaged (k : Nat) (x : Port) (o' : Obj) (n' e' : Nat) : (s.setPort k x).rdStaged o' n' e' = s.rdStaged o' n' e' := by
  simp only [State.rdStaged, State.setPort_staged]
@[simp] theorem State.setPort_ctx (k : Nat) (x : Port) (c' : CtxId) : (s.setPort k x).ctx c' = s.ctx c' := by
  simp only [State.ctx, State.setPort_ctxs]
@[simp] theorem State.setPort_bar (k : Nat) (x : Port) (c' : CtxId) (b' : Nat) : (s.setPort k x).bar c' b' = s.bar c' b' := by
  simp only [State.bar, State.setPort_bars]
@[simp] theorem State.setPort_engine (k : Nat) (x : Port) (k' : Nat) : (s.setPort k x).engine k' = s.engine k' := by
  simp only [State.engine, State.setPort_engines]
@[simp] theorem State.setPort_queue (k : Nat) (x : Port) (k' : Nat) : (s.setPort k x).queue k' = s.queue k' := by
  simp only [State.queue, State.setPort_queues]
@[simp] theorem State.setPort_byteAt (k : Nat) (x : Port) (pa' : Nat) : (s.setPort k x).byteAt pa' = s.byteAt pa' := by
  simp only [State.byteAt, State.setPort_mem, State.setPort_scratch]

/-! ## `setPower` -/

@[simp] theorem State.setPower_pending (x : Power) : (s.setPower x).pending = s.pending := rfl
@[simp] theorem State.setPower_now (x : Power) : (s.setPower x).now = s.now := rfl
@[simp] theorem State.setPower_free (x : Power) : (s.setPower x).free = s.free := rfl
@[simp] theorem State.setPower_regs (x : Power) : (s.setPower x).regs = s.regs := rfl
@[simp] theorem State.setPower_staged (x : Power) : (s.setPower x).staged = s.staged := rfl
@[simp] theorem State.setPower_copyA (x : Power) : (s.setPower x).copyA = s.copyA := rfl
@[simp] theorem State.setPower_copyB (x : Power) : (s.setPower x).copyB = s.copyB := rfl
@[simp] theorem State.setPower_storing (x : Power) : (s.setPower x).storing = s.storing := rfl
@[simp] theorem State.setPower_edge (x : Power) : (s.setPower x).edge = s.edge := rfl
@[simp] theorem State.setPower_served (x : Power) : (s.setPower x).served = s.served := rfl
@[simp] theorem State.setPower_fuses (x : Power) : (s.setPower x).fuses = s.fuses := rfl
@[simp] theorem State.setPower_prior (x : Power) : (s.setPower x).prior = s.prior := rfl
@[simp] theorem State.setPower_writes (x : Power) : (s.setPower x).writes = s.writes := rfl
@[simp] theorem State.setPower_purged (x : Power) : (s.setPower x).purged = s.purged := rfl
@[simp] theorem State.setPower_prefetched (x : Power) : (s.setPower x).prefetched = s.prefetched := rfl
@[simp] theorem State.setPower_arrays (x : Power) : (s.setPower x).arrays = s.arrays := rfl
@[simp] theorem State.setPower_mem (x : Power) : (s.setPower x).mem = s.mem := rfl
@[simp] theorem State.setPower_scratch (x : Power) : (s.setPower x).scratch = s.scratch := rfl
@[simp] theorem State.setPower_poison (x : Power) : (s.setPower x).poison = s.poison := rfl
@[simp] theorem State.setPower_out (x : Power) : (s.setPower x).out = s.out := rfl
@[simp] theorem State.setPower_ctxs (x : Power) : (s.setPower x).ctxs = s.ctxs := rfl
@[simp] theorem State.setPower_items (x : Power) : (s.setPower x).items = s.items := rfl
@[simp] theorem State.setPower_trails (x : Power) : (s.setPower x).trails = s.trails := rfl
@[simp] theorem State.setPower_pend (x : Power) : (s.setPower x).pend = s.pend := rfl
@[simp] theorem State.setPower_heads (x : Power) : (s.setPower x).heads = s.heads := rfl
@[simp] theorem State.setPower_bars (x : Power) : (s.setPower x).bars = s.bars := rfl
@[simp] theorem State.setPower_engines (x : Power) : (s.setPower x).engines = s.engines := rfl
@[simp] theorem State.setPower_queues (x : Power) : (s.setPower x).queues = s.queues := rfl
@[simp] theorem State.setPower_acts (x : Power) : (s.setPower x).acts = s.acts := rfl
@[simp] theorem State.setPower_events (x : Power) : (s.setPower x).events = s.events := rfl
@[simp] theorem State.setPower_fresh (x : Power) : (s.setPower x).fresh = s.fresh := rfl
@[simp] theorem State.setPower_msiLast (x : Power) : (s.setPower x).msiLast = s.msiLast := rfl
@[simp] theorem State.setPower_msiHeld (x : Power) : (s.setPower x).msiHeld = s.msiHeld := rfl
@[simp] theorem State.setPower_vfs (x : Power) : (s.setPower x).vfs = s.vfs := rfl
@[simp] theorem State.setPower_pcie (x : Power) : (s.setPower x).pcie = s.pcie := rfl
@[simp] theorem State.setPower_fabric (x : Power) : (s.setPower x).fabric = s.fabric := rfl
@[simp] theorem State.setPower_surv (x : Power) : (s.setPower x).surv = s.surv := rfl
@[simp] theorem State.setPower_sync (x : Power) : (s.setPower x).sync = s.sync := rfl
@[simp] theorem State.setPower_strong (x : Power) : (s.setPower x).strong = s.strong := rfl
@[simp] theorem State.setPower_mgmt (x : Power) : (s.setPower x).mgmt = s.mgmt := rfl
@[simp] theorem State.setPower_rd (x : Power) (o' : Obj) (n' e' : Nat) : (s.setPower x).rd o' n' e' = s.rd o' n' e' := by
  simp only [State.rd, State.setPower_regs]
@[simp] theorem State.setPower_rdStaged (x : Power) (o' : Obj) (n' e' : Nat) : (s.setPower x).rdStaged o' n' e' = s.rdStaged o' n' e' := by
  simp only [State.rdStaged, State.setPower_staged]
@[simp] theorem State.setPower_ctx (x : Power) (c' : CtxId) : (s.setPower x).ctx c' = s.ctx c' := by
  simp only [State.ctx, State.setPower_ctxs]
@[simp] theorem State.setPower_bar (x : Power) (c' : CtxId) (b' : Nat) : (s.setPower x).bar c' b' = s.bar c' b' := by
  simp only [State.bar, State.setPower_bars]
@[simp] theorem State.setPower_engine (x : Power) (k' : Nat) : (s.setPower x).engine k' = s.engine k' := by
  simp only [State.engine, State.setPower_engines]
@[simp] theorem State.setPower_queue (x : Power) (k' : Nat) : (s.setPower x).queue k' = s.queue k' := by
  simp only [State.queue, State.setPower_queues]
@[simp] theorem State.setPower_port (x : Power) (k' : Nat) : (s.setPower x).port k' = s.port k' := by
  simp only [State.port, State.setPower_fabric]
@[simp] theorem State.setPower_byteAt (x : Power) (pa' : Nat) : (s.setPower x).byteAt pa' = s.byteAt pa' := by
  simp only [State.byteAt, State.setPower_mem, State.setPower_scratch]

/-! ## `emit` -/

@[simp] theorem State.emit_pending (o : Output) : (s.emit o).pending = s.pending := rfl
@[simp] theorem State.emit_now (o : Output) : (s.emit o).now = s.now := rfl
@[simp] theorem State.emit_free (o : Output) : (s.emit o).free = s.free := rfl
@[simp] theorem State.emit_regs (o : Output) : (s.emit o).regs = s.regs := rfl
@[simp] theorem State.emit_staged (o : Output) : (s.emit o).staged = s.staged := rfl
@[simp] theorem State.emit_copyA (o : Output) : (s.emit o).copyA = s.copyA := rfl
@[simp] theorem State.emit_copyB (o : Output) : (s.emit o).copyB = s.copyB := rfl
@[simp] theorem State.emit_storing (o : Output) : (s.emit o).storing = s.storing := rfl
@[simp] theorem State.emit_edge (o : Output) : (s.emit o).edge = s.edge := rfl
@[simp] theorem State.emit_served (o : Output) : (s.emit o).served = s.served := rfl
@[simp] theorem State.emit_fuses (o : Output) : (s.emit o).fuses = s.fuses := rfl
@[simp] theorem State.emit_prior (o : Output) : (s.emit o).prior = s.prior := rfl
@[simp] theorem State.emit_writes (o : Output) : (s.emit o).writes = s.writes := rfl
@[simp] theorem State.emit_purged (o : Output) : (s.emit o).purged = s.purged := rfl
@[simp] theorem State.emit_prefetched (o : Output) : (s.emit o).prefetched = s.prefetched := rfl
@[simp] theorem State.emit_arrays (o : Output) : (s.emit o).arrays = s.arrays := rfl
@[simp] theorem State.emit_mem (o : Output) : (s.emit o).mem = s.mem := rfl
@[simp] theorem State.emit_scratch (o : Output) : (s.emit o).scratch = s.scratch := rfl
@[simp] theorem State.emit_poison (o : Output) : (s.emit o).poison = s.poison := rfl
@[simp] theorem State.emit_ctxs (o : Output) : (s.emit o).ctxs = s.ctxs := rfl
@[simp] theorem State.emit_items (o : Output) : (s.emit o).items = s.items := rfl
@[simp] theorem State.emit_trails (o : Output) : (s.emit o).trails = s.trails := rfl
@[simp] theorem State.emit_pend (o : Output) : (s.emit o).pend = s.pend := rfl
@[simp] theorem State.emit_heads (o : Output) : (s.emit o).heads = s.heads := rfl
@[simp] theorem State.emit_bars (o : Output) : (s.emit o).bars = s.bars := rfl
@[simp] theorem State.emit_engines (o : Output) : (s.emit o).engines = s.engines := rfl
@[simp] theorem State.emit_queues (o : Output) : (s.emit o).queues = s.queues := rfl
@[simp] theorem State.emit_acts (o : Output) : (s.emit o).acts = s.acts := rfl
@[simp] theorem State.emit_events (o : Output) : (s.emit o).events = s.events := rfl
@[simp] theorem State.emit_fresh (o : Output) : (s.emit o).fresh = s.fresh := rfl
@[simp] theorem State.emit_msiLast (o : Output) : (s.emit o).msiLast = s.msiLast := rfl
@[simp] theorem State.emit_msiHeld (o : Output) : (s.emit o).msiHeld = s.msiHeld := rfl
@[simp] theorem State.emit_vfs (o : Output) : (s.emit o).vfs = s.vfs := rfl
@[simp] theorem State.emit_pcie (o : Output) : (s.emit o).pcie = s.pcie := rfl
@[simp] theorem State.emit_fabric (o : Output) : (s.emit o).fabric = s.fabric := rfl
@[simp] theorem State.emit_surv (o : Output) : (s.emit o).surv = s.surv := rfl
@[simp] theorem State.emit_power (o : Output) : (s.emit o).power = s.power := rfl
@[simp] theorem State.emit_sync (o : Output) : (s.emit o).sync = s.sync := rfl
@[simp] theorem State.emit_strong (o : Output) : (s.emit o).strong = s.strong := rfl
@[simp] theorem State.emit_mgmt (o : Output) : (s.emit o).mgmt = s.mgmt := rfl
@[simp] theorem State.emit_rd (o : Output) (o' : Obj) (n' e' : Nat) : (s.emit o).rd o' n' e' = s.rd o' n' e' := by
  simp only [State.rd, State.emit_regs]
@[simp] theorem State.emit_rdStaged (o : Output) (o' : Obj) (n' e' : Nat) : (s.emit o).rdStaged o' n' e' = s.rdStaged o' n' e' := by
  simp only [State.rdStaged, State.emit_staged]
@[simp] theorem State.emit_ctx (o : Output) (c' : CtxId) : (s.emit o).ctx c' = s.ctx c' := by
  simp only [State.ctx, State.emit_ctxs]
@[simp] theorem State.emit_bar (o : Output) (c' : CtxId) (b' : Nat) : (s.emit o).bar c' b' = s.bar c' b' := by
  simp only [State.bar, State.emit_bars]
@[simp] theorem State.emit_engine (o : Output) (k' : Nat) : (s.emit o).engine k' = s.engine k' := by
  simp only [State.engine, State.emit_engines]
@[simp] theorem State.emit_queue (o : Output) (k' : Nat) : (s.emit o).queue k' = s.queue k' := by
  simp only [State.queue, State.emit_queues]
@[simp] theorem State.emit_port (o : Output) (k' : Nat) : (s.emit o).port k' = s.port k' := by
  simp only [State.port, State.emit_fabric]
@[simp] theorem State.emit_byteAt (o : Output) (pa' : Nat) : (s.emit o).byteAt pa' = s.byteAt pa' := by
  simp only [State.byteAt, State.emit_mem, State.emit_scratch]

/-! ## `put` -/

@[simp] theorem State.put_pending (pa : Nat) (bs : List Byte) : (s.put pa bs).pending = s.pending := rfl
@[simp] theorem State.put_now (pa : Nat) (bs : List Byte) : (s.put pa bs).now = s.now := rfl
@[simp] theorem State.put_free (pa : Nat) (bs : List Byte) : (s.put pa bs).free = s.free := rfl
@[simp] theorem State.put_regs (pa : Nat) (bs : List Byte) : (s.put pa bs).regs = s.regs := rfl
@[simp] theorem State.put_staged (pa : Nat) (bs : List Byte) : (s.put pa bs).staged = s.staged := rfl
@[simp] theorem State.put_copyA (pa : Nat) (bs : List Byte) : (s.put pa bs).copyA = s.copyA := rfl
@[simp] theorem State.put_copyB (pa : Nat) (bs : List Byte) : (s.put pa bs).copyB = s.copyB := rfl
@[simp] theorem State.put_storing (pa : Nat) (bs : List Byte) : (s.put pa bs).storing = s.storing := rfl
@[simp] theorem State.put_edge (pa : Nat) (bs : List Byte) : (s.put pa bs).edge = s.edge := rfl
@[simp] theorem State.put_served (pa : Nat) (bs : List Byte) : (s.put pa bs).served = s.served := rfl
@[simp] theorem State.put_fuses (pa : Nat) (bs : List Byte) : (s.put pa bs).fuses = s.fuses := rfl
@[simp] theorem State.put_purged (pa : Nat) (bs : List Byte) : (s.put pa bs).purged = s.purged := rfl
@[simp] theorem State.put_prefetched (pa : Nat) (bs : List Byte) : (s.put pa bs).prefetched = s.prefetched := rfl
@[simp] theorem State.put_arrays (pa : Nat) (bs : List Byte) : (s.put pa bs).arrays = s.arrays := rfl
@[simp] theorem State.put_scratch (pa : Nat) (bs : List Byte) : (s.put pa bs).scratch = s.scratch := rfl
@[simp] theorem State.put_out (pa : Nat) (bs : List Byte) : (s.put pa bs).out = s.out := rfl
@[simp] theorem State.put_ctxs (pa : Nat) (bs : List Byte) : (s.put pa bs).ctxs = s.ctxs := rfl
@[simp] theorem State.put_items (pa : Nat) (bs : List Byte) : (s.put pa bs).items = s.items := rfl
@[simp] theorem State.put_trails (pa : Nat) (bs : List Byte) : (s.put pa bs).trails = s.trails := rfl
@[simp] theorem State.put_pend (pa : Nat) (bs : List Byte) : (s.put pa bs).pend = s.pend := rfl
@[simp] theorem State.put_heads (pa : Nat) (bs : List Byte) : (s.put pa bs).heads = s.heads := rfl
@[simp] theorem State.put_bars (pa : Nat) (bs : List Byte) : (s.put pa bs).bars = s.bars := rfl
@[simp] theorem State.put_engines (pa : Nat) (bs : List Byte) : (s.put pa bs).engines = s.engines := rfl
@[simp] theorem State.put_queues (pa : Nat) (bs : List Byte) : (s.put pa bs).queues = s.queues := rfl
@[simp] theorem State.put_acts (pa : Nat) (bs : List Byte) : (s.put pa bs).acts = s.acts := rfl
@[simp] theorem State.put_events (pa : Nat) (bs : List Byte) : (s.put pa bs).events = s.events := rfl
@[simp] theorem State.put_fresh (pa : Nat) (bs : List Byte) : (s.put pa bs).fresh = s.fresh := rfl
@[simp] theorem State.put_msiLast (pa : Nat) (bs : List Byte) : (s.put pa bs).msiLast = s.msiLast := rfl
@[simp] theorem State.put_msiHeld (pa : Nat) (bs : List Byte) : (s.put pa bs).msiHeld = s.msiHeld := rfl
@[simp] theorem State.put_vfs (pa : Nat) (bs : List Byte) : (s.put pa bs).vfs = s.vfs := rfl
@[simp] theorem State.put_pcie (pa : Nat) (bs : List Byte) : (s.put pa bs).pcie = s.pcie := rfl
@[simp] theorem State.put_fabric (pa : Nat) (bs : List Byte) : (s.put pa bs).fabric = s.fabric := rfl
@[simp] theorem State.put_surv (pa : Nat) (bs : List Byte) : (s.put pa bs).surv = s.surv := rfl
@[simp] theorem State.put_power (pa : Nat) (bs : List Byte) : (s.put pa bs).power = s.power := rfl
@[simp] theorem State.put_sync (pa : Nat) (bs : List Byte) : (s.put pa bs).sync = s.sync := rfl
@[simp] theorem State.put_strong (pa : Nat) (bs : List Byte) : (s.put pa bs).strong = s.strong := rfl
@[simp] theorem State.put_mgmt (pa : Nat) (bs : List Byte) : (s.put pa bs).mgmt = s.mgmt := rfl
@[simp] theorem State.put_rd (pa : Nat) (bs : List Byte) (o' : Obj) (n' e' : Nat) : (s.put pa bs).rd o' n' e' = s.rd o' n' e' := by
  simp only [State.rd, State.put_regs]
@[simp] theorem State.put_rdStaged (pa : Nat) (bs : List Byte) (o' : Obj) (n' e' : Nat) : (s.put pa bs).rdStaged o' n' e' = s.rdStaged o' n' e' := by
  simp only [State.rdStaged, State.put_staged]
@[simp] theorem State.put_ctx (pa : Nat) (bs : List Byte) (c' : CtxId) : (s.put pa bs).ctx c' = s.ctx c' := by
  simp only [State.ctx, State.put_ctxs]
@[simp] theorem State.put_bar (pa : Nat) (bs : List Byte) (c' : CtxId) (b' : Nat) : (s.put pa bs).bar c' b' = s.bar c' b' := by
  simp only [State.bar, State.put_bars]
@[simp] theorem State.put_engine (pa : Nat) (bs : List Byte) (k' : Nat) : (s.put pa bs).engine k' = s.engine k' := by
  simp only [State.engine, State.put_engines]
@[simp] theorem State.put_queue (pa : Nat) (bs : List Byte) (k' : Nat) : (s.put pa bs).queue k' = s.queue k' := by
  simp only [State.queue, State.put_queues]
@[simp] theorem State.put_port (pa : Nat) (bs : List Byte) (k' : Nat) : (s.put pa bs).port k' = s.port k' := by
  simp only [State.port, State.put_fabric]

/-! ## `freeW` -/

@[simp] theorem State.freeW_snd_pending : (s.freeW.2).pending = s.pending := rfl
@[simp] theorem State.freeW_snd_now : (s.freeW.2).now = s.now := rfl
@[simp] theorem State.freeW_snd_regs : (s.freeW.2).regs = s.regs := rfl
@[simp] theorem State.freeW_snd_staged : (s.freeW.2).staged = s.staged := rfl
@[simp] theorem State.freeW_snd_copyA : (s.freeW.2).copyA = s.copyA := rfl
@[simp] theorem State.freeW_snd_copyB : (s.freeW.2).copyB = s.copyB := rfl
@[simp] theorem State.freeW_snd_storing : (s.freeW.2).storing = s.storing := rfl
@[simp] theorem State.freeW_snd_edge : (s.freeW.2).edge = s.edge := rfl
@[simp] theorem State.freeW_snd_served : (s.freeW.2).served = s.served := rfl
@[simp] theorem State.freeW_snd_fuses : (s.freeW.2).fuses = s.fuses := rfl
@[simp] theorem State.freeW_snd_prior : (s.freeW.2).prior = s.prior := rfl
@[simp] theorem State.freeW_snd_writes : (s.freeW.2).writes = s.writes := rfl
@[simp] theorem State.freeW_snd_purged : (s.freeW.2).purged = s.purged := rfl
@[simp] theorem State.freeW_snd_prefetched : (s.freeW.2).prefetched = s.prefetched := rfl
@[simp] theorem State.freeW_snd_arrays : (s.freeW.2).arrays = s.arrays := rfl
@[simp] theorem State.freeW_snd_mem : (s.freeW.2).mem = s.mem := rfl
@[simp] theorem State.freeW_snd_scratch : (s.freeW.2).scratch = s.scratch := rfl
@[simp] theorem State.freeW_snd_poison : (s.freeW.2).poison = s.poison := rfl
@[simp] theorem State.freeW_snd_out : (s.freeW.2).out = s.out := rfl
@[simp] theorem State.freeW_snd_ctxs : (s.freeW.2).ctxs = s.ctxs := rfl
@[simp] theorem State.freeW_snd_items : (s.freeW.2).items = s.items := rfl
@[simp] theorem State.freeW_snd_trails : (s.freeW.2).trails = s.trails := rfl
@[simp] theorem State.freeW_snd_pend : (s.freeW.2).pend = s.pend := rfl
@[simp] theorem State.freeW_snd_heads : (s.freeW.2).heads = s.heads := rfl
@[simp] theorem State.freeW_snd_bars : (s.freeW.2).bars = s.bars := rfl
@[simp] theorem State.freeW_snd_engines : (s.freeW.2).engines = s.engines := rfl
@[simp] theorem State.freeW_snd_queues : (s.freeW.2).queues = s.queues := rfl
@[simp] theorem State.freeW_snd_acts : (s.freeW.2).acts = s.acts := rfl
@[simp] theorem State.freeW_snd_events : (s.freeW.2).events = s.events := rfl
@[simp] theorem State.freeW_snd_fresh : (s.freeW.2).fresh = s.fresh := rfl
@[simp] theorem State.freeW_snd_msiLast : (s.freeW.2).msiLast = s.msiLast := rfl
@[simp] theorem State.freeW_snd_msiHeld : (s.freeW.2).msiHeld = s.msiHeld := rfl
@[simp] theorem State.freeW_snd_vfs : (s.freeW.2).vfs = s.vfs := rfl
@[simp] theorem State.freeW_snd_pcie : (s.freeW.2).pcie = s.pcie := rfl
@[simp] theorem State.freeW_snd_fabric : (s.freeW.2).fabric = s.fabric := rfl
@[simp] theorem State.freeW_snd_surv : (s.freeW.2).surv = s.surv := rfl
@[simp] theorem State.freeW_snd_power : (s.freeW.2).power = s.power := rfl
@[simp] theorem State.freeW_snd_sync : (s.freeW.2).sync = s.sync := rfl
@[simp] theorem State.freeW_snd_strong : (s.freeW.2).strong = s.strong := rfl
@[simp] theorem State.freeW_snd_mgmt : (s.freeW.2).mgmt = s.mgmt := rfl
@[simp] theorem State.freeW_snd_rd  (o' : Obj) (n' e' : Nat) : (s.freeW.2).rd o' n' e' = s.rd o' n' e' := by
  simp only [State.rd, State.freeW_snd_regs]
@[simp] theorem State.freeW_snd_rdStaged  (o' : Obj) (n' e' : Nat) : (s.freeW.2).rdStaged o' n' e' = s.rdStaged o' n' e' := by
  simp only [State.rdStaged, State.freeW_snd_staged]
@[simp] theorem State.freeW_snd_ctx  (c' : CtxId) : (s.freeW.2).ctx c' = s.ctx c' := by
  simp only [State.ctx, State.freeW_snd_ctxs]
@[simp] theorem State.freeW_snd_bar  (c' : CtxId) (b' : Nat) : (s.freeW.2).bar c' b' = s.bar c' b' := by
  simp only [State.bar, State.freeW_snd_bars]
@[simp] theorem State.freeW_snd_engine  (k' : Nat) : (s.freeW.2).engine k' = s.engine k' := by
  simp only [State.engine, State.freeW_snd_engines]
@[simp] theorem State.freeW_snd_queue  (k' : Nat) : (s.freeW.2).queue k' = s.queue k' := by
  simp only [State.queue, State.freeW_snd_queues]
@[simp] theorem State.freeW_snd_port  (k' : Nat) : (s.freeW.2).port k' = s.port k' := by
  simp only [State.port, State.freeW_snd_fabric]
@[simp] theorem State.freeW_snd_byteAt  (pa' : Nat) : (s.freeW.2).byteAt pa' = s.byteAt pa' := by
  simp only [State.byteAt, State.freeW_snd_mem, State.freeW_snd_scratch]

/-! ## Reads after writes of the same kind -/

@[simp] theorem State.emit_out (o : Output) : (s.emit o).out = s.out ++ [o] := rfl
@[simp] theorem State.setPower_power (x : Power) : (s.setPower x).power = x := rfl
@[simp] theorem State.freeW_fst : s.freeW.1 = Config.freeWord s.free := rfl
@[simp] theorem State.freeW_snd_free : s.freeW.2.free = s.free + 1 := rfl

theorem State.rd_wr (o o' : Obj) (n e n' e' : Nat) (v : W64) :
    (s.wr o n e v).rd o' n' e' = if regCode o' n' e' = regCode o n e then v else s.rd o' n' e' :=
  Store.get_set _ _ _ _ _

@[simp] theorem State.rd_wr_self (o : Obj) (n e : Nat) (v : W64) : (s.wr o n e v).rd o n e = v := by
  simp [State.rd_wr]

/-- Entries with one number are one entry. -/
theorem Obj.ctorIdx_inj {a b : Obj} (h : a.ctorIdx = b.ctorIdx) : a = b := by
  rw [← Obj.ofNat_ctorIdx a, h, Obj.ofNat_ctorIdx]

/-- Another entry is another number. -/
theorem regCode_ne {o o' : Obj} (h : o'.ctorIdx ≠ o.ctorIdx) (n e n' e' : Nat) : regCode o' n' e' ≠ regCode o n e := by
  unfold regCode
  omega

/-- A write leaves every other entry alone. -/
theorem State.rd_wr_other {o o' : Obj} (h : o'.ctorIdx ≠ o.ctorIdx) (n e n' e' : Nat) (v : W64) :
    (s.wr o n e v).rd o' n' e' = s.rd o' n' e' := by
  rw [State.rd_wr, if_neg (regCode_ne h n e n' e')]

/-- A write leaves every other copy of its entry alone. -/
theorem State.rd_wr_copy {o : Obj} {n n' : Nat} (h : n' % 16 ≠ n % 16) (e e' : Nat) (v : W64) :
    (s.wr o n e v).rd o n' e' = s.rd o n' e' := by
  rw [State.rd_wr, if_neg]
  unfold regCode
  omega

/-- A write leaves every other element of its entry alone. -/
theorem State.rd_wr_elem {o : Obj} {e e' : Nat} (h : e' % 131072 ≠ e % 131072) (n n' : Nat) (v : W64) :
    (s.wr o n e v).rd o n' e' = s.rd o n' e' := by
  rw [State.rd_wr, if_neg]
  unfold regCode
  omega

theorem State.rdStaged_wrStaged (o o' : Obj) (n e n' e' : Nat) (v : W64) :
    (s.wrStaged o n e v).rdStaged o' n' e' = if regCode o' n' e' = regCode o n e then v else s.rdStaged o' n' e' :=
  Store.get_set _ _ _ _ _

theorem State.ctx_setCtx (c c' : CtxId) (x : Ctx) : (s.setCtx c x).ctx c' = if c' = c then x else s.ctx c' := by
  simp only [State.ctx, State.setCtx, Store.get_set, Fin.ext_iff]

@[simp] theorem State.ctx_setCtx_self (c : CtxId) (x : Ctx) : (s.setCtx c x).ctx c = x := by
  simp [State.ctx_setCtx]

theorem State.ctx_updCtx (c c' : CtxId) (f : Ctx → Ctx) :
    (s.updCtx c f).ctx c' = if c' = c then f (s.ctx c) else s.ctx c' := State.ctx_setCtx s c c' _

theorem State.bar_setBar (c c' : CtxId) (b b' : Nat) (x : Barrier) :
    (s.setBar c b x).bar c' b' = if 256 * c'.val + b' = 256 * c.val + b then x else s.bar c' b' :=
  Store.get_set _ _ _ _ _

@[simp] theorem State.bar_setBar_self (c : CtxId) (b : Nat) (x : Barrier) : (s.setBar c b x).bar c b = x := by
  simp [State.bar_setBar]

theorem State.engine_setEngine (k k' : Nat) (x : Engine) :
    (s.setEngine k x).engine k' = if k' = k then x else s.engine k' := Store.get_set _ _ _ _ _

theorem State.queue_setQueue (k k' : Nat) (x : Queue) :
    (s.setQueue k x).queue k' = if k' = k then x else s.queue k' := Store.get_set _ _ _ _ _

theorem State.port_setPort (k k' : Nat) (x : Port) :
    (s.setPort k x).port k' = if k' = k then x else s.port k' := Store.get_set _ _ _ _ _

/-- Memory after a write: the bytes written in their range, every other byte as before. -/
theorem State.byteAt_put (pa : Nat) (bs : List Byte) (x : Nat) :
    (s.put pa bs).byteAt x = if pa ≤ x ∧ x < pa + bs.length then bs.getD (x - pa) 0 else s.byteAt x :=
  get_memWrite _ _ _ _ _

/-! ## What the operations over these leave -/

theorem State.wrN_rd (o : Obj) (n e v : Nat) (o' : Obj) (n' e' : Nat) :
    (s.wrN o n e v).rd o' n' e' =
      if regCode o' n' e' = regCode o n e then BitVec.ofNat 64 (v % 256 ^ o.info.size) else s.rd o' n' e' :=
  State.rd_wr s o o' n e n' e' _

/-- A status that is OK changes nothing more; every other one is a refusal, counted once with its flag (R436). -/
theorem settle_ok (t : State) : settle (.ok, t) = t := rfl

end Sys2Proof.Machine
end

