-- ==== Sys2Proof/Laws/Packets.lean ====
section
/-! SUPPORT. What the receipt of a packet can do, once for all packets: it is refused, it goes on, it is dropped, or the module acts. -/

open Sys2Proof Sys2Proof.Machine

variable {s : State} {k : Packet}

/-- A packet that repeats another, or is of a reserved type, is refused. -/
theorem Sys2Proof.Machine.State.receive_refused (act : State → State) (h : s.again k = true ∨ knownType k.type = false) :
    s.receive k act = s.refusePacket k := by
  have : (s.again k || !knownType k.type) = true := by rcases h with h | h <;> simp [h]
  simp only [State.receive, this, if_true]

/-- A packet that the fabric takes and that is for others alone only goes on. -/
theorem Sys2Proof.Machine.State.receive_transit (act : State → State) (h : s.again k = false) (t : knownType k.type = true)
    (e : (s.allowIn k).isHere k = false) : s.receive k act = s.allowIn k := by
  simp only [State.receive, h, t, e, Bool.not_true, Bool.not_false, Bool.or_self, Bool.false_eq_true, if_true, if_false]

/-- One that is for the module and whole is acted on. -/
theorem Sys2Proof.Machine.State.receive_heard (act : State → State) (h : s.again k = false) (t : knownType k.type = true)
    (e : (s.allowIn k).isHere k = true) (g : k.good = true) : s.receive k act = act (s.allowIn k) := by
  simp only [State.receive, h, t, e, g, Bool.not_true, Bool.or_self, Bool.false_eq_true, if_true, if_false]

/-- One that is for the module and damaged is dropped and counted. -/
theorem Sys2Proof.Machine.State.receive_damaged (act : State → State) (h : s.again k = false) (t : knownType k.type = true)
    (e : (s.allowIn k).isHere k = true) (g : k.good = false) : s.receive k act = (s.allowIn k).fabricDrop := by
  simp only [State.receive, h, t, e, g, Bool.not_true, Bool.or_self, Bool.false_eq_true, if_false]

/-- A collective packet that is whole and for the module is acted on when it is of the epoch and from a member. -/
theorem Sys2Proof.Machine.State.receiveColl_heard (act : State → State) (h : s.again k = false) (t : knownType k.type = true)
    (e : (s.allowIn k).isHere k = true) (g : k.good = true) (m : (s.allowIn k).current? k = true) :
    s.receiveColl k act = act (s.allowIn k) := by
  simp only [State.receiveColl, State.receive_heard _ h t e g, m, if_true]

/-- One from another epoch or from no member, or a damaged one, is dropped and counted. -/
theorem Sys2Proof.Machine.State.receiveColl_dropped (act : State → State) (h : s.again k = false) (t : knownType k.type = true)
    (e : (s.allowIn k).isHere k = true) (m : k.good = false ∨ (s.allowIn k).current? k = false) :
    s.receiveColl k act = (s.allowIn k).fabricDrop := by
  unfold State.receiveColl
  rcases hg : k.good with _ | _
  · exact State.receive_damaged _ h t e hg
  · have m := m.resolve_left (by simp [hg])
    rw [State.receive_heard _ h t e hg, if_neg (by simp [m])]

/-- A packet whose port of arrival is not given is no repetition. -/
theorem Sys2Proof.Machine.State.again_none (h : k.via = none) : s.again k = false := by
  simp only [State.again, h]

/-- A packet that is for the module alone, and whose port is not given, changes nothing as it comes. -/
theorem Sys2Proof.Machine.State.allowIn_here (h : k.via = none) (b : k.dstRank ≠ 0xFFFF) (e : k.dst = s.rdN .shxCoord) :
    s.allowIn k = s := by
  have t : s.inTransit k = false := by simp [State.inTransit, e]
  have v : { k with via := none } = k := by rw [← h]
  simp only [State.allowIn, State.landed, State.giveBack, State.passOn, h, v, t, if_neg b, e, Bool.false_eq_true, if_false, ne_eq,
    not_true_eq_false]
end

