-- ==== Sys2Proof/Laws/Signal.lean ====
section
/-! SUPPORT. What signalling can change: the entries it names, the outputs, the events, the interrupts that wait and the way of
packets through the ports; everything else stays. -/

namespace Sys2Proof.Machine

/-- The state without what signalling can change: entries, the flags of the present edge, outputs, events, messages held back, ports
and the source's operation sequence, and what is reported to AER; and the prefetched rows, which a write to memory removes (R274). -/
def State.still (s : State) : State :=
  { s with
    edge := [], prefetched := [], regs := [], out := [], events := [], fresh := 0, msiLast := [], msiHeld := []
    pcie := { s.pcie with aer := 0 }
    fabric := { s.fabric with ports := [], opSeq := 0 } }

/-- The entries that an interrupt, an event or a packet that is not sent can write, whatever is signalled. -/
def signalObjs : List Obj := [.msixPba, .fabricDropCnt, .shxStatus, .eventNextSeq]

/-- From one state to another only signals went out: of the entries, those named and those of `signalObjs` alone can differ, and
every port is in the state that it was in and holds the lines that it held. -/
structure Signals (os : List Obj) (a s : State) : Prop where
  still : s.still = a.still
  rd    : ∀ o n e, o.ctorIdx ∉ (os ++ signalObjs).map Obj.ctorIdx → s.rd o n e = a.rd o n e
  links : ∀ p, ((s.port p).st, (s.port p).mcast) = ((a.port p).st, (a.port p).mcast)

variable {os : List Obj} {a s t : State}

theorem Signals.refl (os : List Obj) (s : State) : Signals os s s := ⟨rfl, fun _ _ _ _ => rfl, fun _ => rfl⟩
theorem Signals.trans (h : Signals os a s) (k : Signals os s t) : Signals os a t :=
  ⟨k.still.trans h.still, fun o n e w => (k.rd o n e w).trans (h.rd o n e w), fun p => (k.links p).trans (h.links p)⟩

/-! ## What stays -/

theorem Signals.pending (h : Signals os a s) : s.pending = a.pending := (congrArg State.pending h.still :)
theorem Signals.now (h : Signals os a s) : s.now = a.now := (congrArg State.now h.still :)
theorem Signals.free (h : Signals os a s) : s.free = a.free := (congrArg State.free h.still :)
theorem Signals.staged (h : Signals os a s) : s.staged = a.staged := (congrArg State.staged h.still :)
theorem Signals.copyA (h : Signals os a s) : s.copyA = a.copyA := (congrArg State.copyA h.still :)
theorem Signals.copyB (h : Signals os a s) : s.copyB = a.copyB := (congrArg State.copyB h.still :)
theorem Signals.writes (h : Signals os a s) : s.writes = a.writes := (congrArg State.writes h.still :)
theorem Signals.purged (h : Signals os a s) : s.purged = a.purged := (congrArg State.purged h.still :)
theorem Signals.acts (h : Signals os a s) : s.acts = a.acts := (congrArg State.acts h.still :)
theorem Signals.storing (h : Signals os a s) : s.storing = a.storing := (congrArg State.storing h.still :)
theorem Signals.mem (h : Signals os a s) : s.mem = a.mem := (congrArg State.mem h.still :)
theorem Signals.scratch (h : Signals os a s) : s.scratch = a.scratch := (congrArg State.scratch h.still :)
theorem Signals.served (h : Signals os a s) : s.served = a.served := (congrArg State.served h.still :)
theorem Signals.fuses (h : Signals os a s) : s.fuses = a.fuses := (congrArg State.fuses h.still :)
theorem Signals.prior (h : Signals os a s) : s.prior = a.prior := (congrArg State.prior h.still :)
theorem Signals.arrays (h : Signals os a s) : s.arrays = a.arrays := (congrArg State.arrays h.still :)
theorem Signals.poison (h : Signals os a s) : s.poison = a.poison := (congrArg State.poison h.still :)
theorem Signals.ctxs (h : Signals os a s) : s.ctxs = a.ctxs := (congrArg State.ctxs h.still :)
theorem Signals.items (h : Signals os a s) : s.items = a.items := (congrArg State.items h.still :)
theorem Signals.trails (h : Signals os a s) : s.trails = a.trails := (congrArg State.trails h.still :)
theorem Signals.pend (h : Signals os a s) : s.pend = a.pend := (congrArg State.pend h.still :)
theorem Signals.heads (h : Signals os a s) : s.heads = a.heads := (congrArg State.heads h.still :)
theorem Signals.bars (h : Signals os a s) : s.bars = a.bars := (congrArg State.bars h.still :)
theorem Signals.engines (h : Signals os a s) : s.engines = a.engines := (congrArg State.engines h.still :)
theorem Signals.queues (h : Signals os a s) : s.queues = a.queues := (congrArg State.queues h.still :)
theorem Signals.vfs (h : Signals os a s) : s.vfs = a.vfs := (congrArg State.vfs h.still :)
theorem Signals.surv (h : Signals os a s) : s.surv = a.surv := (congrArg State.surv h.still :)
theorem Signals.power (h : Signals os a s) : s.power = a.power := (congrArg State.power h.still :)
theorem Signals.sync (h : Signals os a s) : s.sync = a.sync := (congrArg State.sync h.still :)
theorem Signals.strong (h : Signals os a s) : s.strong = a.strong := (congrArg State.strong h.still :)
theorem Signals.mgmt (h : Signals os a s) : s.mgmt = a.mgmt := (congrArg State.mgmt h.still :)
theorem Signals.ctx (h : Signals os a s) (c : CtxId) : s.ctx c = a.ctx c := by simp [State.ctx, h.ctxs]
theorem Signals.bar (h : Signals os a s) (c : CtxId) (b : Nat) : s.bar c b = a.bar c b := by simp [State.bar, h.bars]
theorem Signals.engine (h : Signals os a s) (e : Nat) : s.engine e = a.engine e := by simp [State.engine, h.engines]
theorem Signals.queue (h : Signals os a s) (q : Nat) : s.queue q = a.queue q := by simp [State.queue, h.queues]
theorem Signals.byteAt (h : Signals os a s) (x : Nat) : s.byteAt x = a.byteAt x := by simp [State.byteAt, h.mem, h.scratch]
theorem Signals.rdN (h : Signals os a s) {o : Obj} (n e : Nat) (w : o.ctorIdx ∉ (os ++ signalObjs).map Obj.ctorIdx) :
    s.rdN o n e = a.rdN o n e := by simp [State.rdN, h.rd o n e w]

/-! ## The operations -/

/-- What stays does not see the entries. -/
theorem State.still_regs (s : State) (r : Store W64) : ({ s with regs := r } : State).still = s.still := rfl
theorem State.wr_still (s : State) (o : Obj) (n e : Nat) (v : W64) : (s.wr o n e v).still = s.still := s.still_regs _

theorem Signals.wr (h : Signals os a s) {o : Obj} (m : o ∈ os ++ signalObjs) (n e : Nat) (v : W64) :
    Signals os a (s.wr o n e v) := by
  refine ⟨(s.wr_still o n e v).trans h.still, fun o' n' e' w => ?_, fun p => by rw [State.wr_port]; exact h.links p⟩
  rw [State.rd_wr_other, h.rd o' n' e' w]
  intro e; rw [e] at w; exact w (List.mem_map_of_mem m)

theorem Signals.wrN (h : Signals os a s) {o : Obj} (m : o ∈ os ++ signalObjs) (n e v : Nat) : Signals os a (s.wrN o n e v) :=
  h.wr m n e _
theorem Signals.count (h : Signals os a s) {o : Obj} (m : o ∈ os ++ signalObjs) (n e k : Nat) :
    Signals os a (s.count o n e k) := h.wrN m n e _
theorem Signals.setBit (h : Signals os a s) {o : Obj} (m : o ∈ os ++ signalObjs) (n b : Nat) :
    Signals os a (s.setBit o n b) := h.wr m n 0 _
theorem Signals.markFlag (h : Signals os a s) {o : Obj} (m : o ∈ os ++ signalObjs) (n b : Nat) :
    Signals os a (s.markFlag o n b) := by
  have k := h.setBit m n b
  unfold State.markFlag
  generalize s.setBit o n b = t at k
  exact ⟨k.still, k.rd, k.links⟩
theorem Signals.clearBit (h : Signals os a s) {o : Obj} (m : o ∈ os ++ signalObjs) (n b : Nat) :
    Signals os a (s.clearBit o n b) := h.wr m n 0 _
theorem Signals.wrBytes (h : Signals os a s) {o : Obj} (m : o ∈ os ++ signalObjs) (n off : Nat) (bs : List Byte) :
    Signals os a (s.wrBytes o n off bs) := by
  induction bs generalizing s off with
  | nil => exact h
  | cons b r ih => exact ih (h.wr m n off _) (off + 1)

theorem Signals.emit (h : Signals os a s) (o : Output) : Signals os a (s.emit o) := ⟨h.still, h.rd, h.links⟩
theorem Signals.setPort (h : Signals os a s) (p : Nat) {x : Port} (e : (x.st, x.mcast) = ((s.port p).st, (s.port p).mcast)) :
    Signals os a (s.setPort p x) := by
  refine ⟨h.still, h.rd, fun q => ?_⟩
  rw [State.port_setPort]
  split
  · subst q; exact e.trans (h.links p)
  · exact h.links q
theorem Signals.nextOp (h : Signals os a s) : Signals os a s.nextOp.2 := ⟨h.still, h.rd, h.links⟩
theorem Signals.ite {c : Prop} [Decidable c] (h : Signals os a s) (k : Signals os a t) :
    Signals os a (if c then s else t) := by split <;> assumption

theorem Signals.msixSend (h : Signals os a s) (f : CtxId) (v : Nat) : Signals os a (s.msixSend f v) := by
  unfold State.msixSend
  split
  · exact h.wr (by simp [signalObjs]) _ _ _
  · exact ⟨h.still, h.rd, h.links⟩

theorem Signals.vector (h : Signals os a s) (f : CtxId) (v : Nat) : Signals os a (s.vector f v) := by
  unfold State.vector
  dsimp only
  split
  · split
    · exact h
    · exact ⟨h.still, h.rd, h.links⟩
  · exact h.msixSend f v

theorem Signals.sendWords (h : Signals os a s) (p : Nat) (ks : List Packet) (n : Nat) : Signals os a (s.sendWords p ks n) := by
  induction n generalizing s with
  | zero => exact h
  | succ n ih => exact ih ((h.setPort p (by rfl)).emit _)

theorem Signals.wire (h : Signals os a s) (p : Nat) (k : Packet) : Signals os a (s.wire p k) := by
  unfold State.wire
  dsimp only
  exact ((Signals.ite (h.setPort _ (by rfl)) (h.sendWords _ _ _)).setPort _ (by rfl)).emit _

theorem Signals.linkLocal (h : Signals os a s) (p : PortId) (type : Nat) (arg : W64) (d : List Byte) :
    Signals os a (s.linkLocal p type arg d) := h.wire _ _

theorem Signals.giveBack (h : Signals os a s) (k : Packet) : Signals os a (s.giveBack k) := by
  unfold State.giveBack
  split
  · exact h
  · exact h.linkLocal _ _ _ _

theorem Signals.sendNow (h : Signals os a s) (p : Nat) (k : Packet) : Signals os a (s.sendNow p k) :=
  ((h.setPort _ (by rfl)).wire _ _).giveBack _

theorem Signals.portSend (h : Signals os a s) (p : Nat) (k : Packet) : Signals os a (s.portSend p k) := by
  unfold State.portSend
  exact Signals.ite (h.sendNow _ _) (h.setPort _ (by rfl))

theorem Signals.choosePort (h : Signals os a s) (k : Packet) (d : Nat) (m : Bool) : Signals os a (s.choosePort k d m).2 := by
  unfold State.choosePort
  exact Signals.ite h (h.setPort _ (by rfl))

theorem Signals.forwardOn (h : Signals os a s) (k : Packet) (d : Nat) (m f : Bool) : Signals os a (s.forwardOn k d m f) := by
  unfold State.forwardOn
  exact (h.choosePort _ _ _).portSend _ _

theorem Signals.sendTo (h : Signals os a s) (r : Nat) (k : Packet) : ∀ t, s.sendTo r k = some t → Signals os a t := by
  unfold State.sendTo
  intro t e
  split at e
  · cases e
  · dsimp only at e
    split at e
    · cases e; exact h.portSend _ _
    · split at e
      · cases e
      · split at e
        · cases e; exact h.emit _
        · cases e; exact h.forwardOn _ _ _ _

theorem Signals.sendOr (h : Signals os a s) (r : Nat) (k : Packet) (k' : Signals os a t) :
    Signals os a ((s.sendTo r k).getD t) := by
  cases e : s.sendTo r k with
  | none => exact k'
  | some u => exact h.sendTo r k u e

theorem Signals.interrupt (h : Signals os a s) (f : CtxId) (v : Nat) : Signals os a (s.interrupt f v) := by
  unfold State.interrupt
  split
  · exact h.nextOp.sendOr _ _ ((h.nextOp.count (by simp [signalObjs]) _ _ _).markFlag (by simp [signalObjs]) _ _)
  · exact h.vector f v

theorem Signals.setFlag (h : Signals os a s) {o : Obj} (m : o ∈ os ++ signalObjs) (n b : Nat) :
    Signals os a (s.setFlag o n b) := by
  unfold State.setFlag
  split
  · exact h.markFlag m _ _
  · exact Signals.ite ((h.markFlag m _ _).interrupt _ _) (h.markFlag m _ _)

theorem Signals.tally (h : Signals os a s) {c o : Obj} (mc : c ∈ os ++ signalObjs) (mo : o ∈ os ++ signalObjs) (n m b : Nat) :
    Signals os a (s.tally c n o m b) := (h.count mc _ _ _).setFlag mo _ _

theorem Signals.tallyN (h : Signals os a s) {c o : Obj} (mc : c ∈ os ++ signalObjs) (mo : o ∈ os ++ signalObjs)
    (n m b k : Nat) : Signals os a (s.tallyN c n o m b k) :=
  Signals.ite h ((h.count mc _ _ _).setFlag mo _ _)

theorem Signals.fabricDrop (h : Signals os a s) : Signals os a s.fabricDrop :=
  h.tally (by simp [signalObjs]) (by simp [signalObjs]) _ _ _

theorem Signals.send (h : Signals os a s) (r : Nat) (k : Packet) : Signals os a (s.send r k) := h.sendOr r k h.fabricDrop

theorem Signals.fold {β : Type} {g : State → β → State} (hg : ∀ b x, Signals os a b → Signals os a (g b x)) (l : List β)
    (h : Signals os a s) : Signals os a (l.foldl g s) := by
  induction l generalizing s with
  | nil => exact h
  | cons x r ih => exact ih (hg _ _ h)

theorem Signals.notify (h : Signals os a s) (e : EventRec) (i : Nat) : Signals os a (s.notify e i) :=
  Signals.ite (h.emit _) h

theorem Signals.raise (h : Signals os a s) (code : Nat) (c : Option CtxId) (arg : Nat) : Signals os a (s.raise code c arg) := by
  unfold State.raise
  dsimp only
  generalize (List.drop _ _ : List EventRec) = evs
  generalize min 1024 (s.fresh + 1) = n
  have k : Signals os a ({ s with events := evs, fresh := n } : State) := ⟨h.still, h.rd, h.links⟩
  exact k.count (by simp [signalObjs]) _ _ _

theorem Signals.sealEvents (h : Signals os a s) : Signals os a s.sealEvents := by
  unfold State.sealEvents
  have k : Signals os a ({ s with fresh := 0 } : State) := ⟨h.still, h.rd, h.links⟩
  exact Signals.fold (fun b x k => Signals.fold (fun b i k => k.notify _ _) _ k) _ k

theorem Signals.hostError (h : Signals os a s) (m1 : Obj.hostDmaErrCnt ∈ os ++ signalObjs)
    (m2 : Obj.hostCtxStatus ∈ os ++ signalObjs) (c : CtxId) : Signals os a (s.hostError c) := by
  unfold State.hostError
  split
  · exact h.tally m1 m2 _ _ _
  · generalize s.pcie.aer ||| _ = w
    have k : Signals os a ({ s with pcie := { s.pcie with aer := w } } : State) := ⟨h.still, h.rd, h.links⟩
    exact k.tally m1 m2 _ _ _

theorem Signals.postWrites (h : Signals os a s) (f : CtxId) (addr : Nat) (d : List Byte) : Signals os a (s.postWrites f addr d) :=
  Signals.fold (fun _ _ k => k.emit _) _ h

theorem Signals.postReads (h : Signals os a s) (f : CtxId) (addr len : Nat) : Signals os a (s.postReads f addr len) :=
  Signals.fold (fun _ _ k => k.emit _) _ h

theorem Signals.hostWriteTo (h : Signals os a s) (f : CtxId) (addr : Nat) (d : List Byte) :
    ∀ t, s.hostWriteTo f addr d = some t → Signals os a t := by
  unfold State.hostWriteTo
  intro t e
  split at e
  · exact h.nextOp.sendTo _ _ t e
  · cases e; exact h.postWrites _ _ _

theorem Signals.hostWrite (h : Signals os a s) (m1 : Obj.hostDmaErrCnt ∈ os ++ signalObjs)
    (m2 : Obj.hostCtxStatus ∈ os ++ signalObjs) (f : CtxId) (addr : Nat) (d : List Byte) : Signals os a (s.hostWrite f addr d) := by
  unfold State.hostWrite
  cases e : s.hostWriteTo f addr d with
  | none => exact h.fabricDrop.hostError m1 m2 f
  | some t => exact h.hostWriteTo f addr d t e

theorem Signals.treeSend (h : Signals os a s) (k : Packet) : Signals os a (s.treeSend k) :=
  Signals.fold (fun _ _ k => k.forwardOn _ _ _ _) _ h

/-- Rows are removed from the prefetch area with nothing but their counts and flags. -/
theorem Signals.unfetch (h : Signals os a s) (m1 : Obj.prefetchDiscardCnt ∈ os ++ signalObjs) (m2 : Obj.gatherStatus ∈ os ++ signalObjs)
    (f : FetchedRow → Bool) : Signals os a (s.unfetch f) :=
  Signals.fold (fun _ _ k => k.tally m1 m2 _ _ _) _ ⟨h.still, h.rd, h.links⟩

/-- A write to memory is nothing but signals, then its bytes. -/
theorem State.poke_eq (s : State) (pa : Nat) (bs : List Byte) :
    ∃ u, Signals [.prefetchDiscardCnt, .gatherStatus] s u ∧ s.poke pa bs = u.put pa bs :=
  ⟨_, (Signals.refl _ s).unfetch (by simp) (by simp) _, rfl⟩

theorem Signals.broadcast (h : Signals os a s) (k : Packet) : Signals os a (s.broadcast k) := by
  unfold State.broadcast
  exact Signals.fold (fun _ _ k => k.send _ _) _ (h.treeSend _)

/-! ## What a write to memory leaves -/

variable (s : State) (pa : Nat) (bs : List Byte)

@[simp] theorem State.poke_ctxs : (s.poke pa bs).ctxs = s.ctxs := by
  obtain ⟨u, h, e⟩ := s.poke_eq pa bs; simp [e, h.ctxs]
@[simp] theorem State.poke_ctx (c : CtxId) : (s.poke pa bs).ctx c = s.ctx c := by
  obtain ⟨u, h, e⟩ := s.poke_eq pa bs; simp [e, h.ctx]
@[simp] theorem State.poke_items : (s.poke pa bs).items = s.items := by
  obtain ⟨u, h, e⟩ := s.poke_eq pa bs; simp [e, h.items]
@[simp] theorem State.poke_now : (s.poke pa bs).now = s.now := by
  obtain ⟨u, h, e⟩ := s.poke_eq pa bs; simp [e, h.now]
@[simp] theorem State.poke_scratch : (s.poke pa bs).scratch = s.scratch := by
  obtain ⟨u, h, e⟩ := s.poke_eq pa bs; simp [e, h.scratch]
@[simp] theorem State.poke_mem : (s.poke pa bs).mem = memWrite s.scratch s.mem pa bs := by
  obtain ⟨u, h, e⟩ := s.poke_eq pa bs; simp [e, State.put, h.mem, h.scratch]
@[simp] theorem State.poke_poison :
    (s.poke pa bs).poison = s.poison.filter fun w => !(decide (pa ≤ w * 4) && decide (w * 4 + 4 ≤ pa + bs.length)) := by
  obtain ⟨u, h, e⟩ := s.poke_eq pa bs; simp [e, State.put, h.poison]
@[simp] theorem State.poke_engines : (s.poke pa bs).engines = s.engines := by
  obtain ⟨u, h, e⟩ := s.poke_eq pa bs; simp [e, h.engines]
@[simp] theorem State.poke_queues : (s.poke pa bs).queues = s.queues := by
  obtain ⟨u, h, e⟩ := s.poke_eq pa bs; simp [e, h.queues]
@[simp] theorem State.poke_trails : (s.poke pa bs).trails = s.trails := by
  obtain ⟨u, h, e⟩ := s.poke_eq pa bs; simp [e, h.trails]
@[simp] theorem State.poke_bars : (s.poke pa bs).bars = s.bars := by
  obtain ⟨u, h, e⟩ := s.poke_eq pa bs; simp [e, h.bars]
@[simp] theorem State.poke_heads : (s.poke pa bs).heads = s.heads := by
  obtain ⟨u, h, e⟩ := s.poke_eq pa bs; simp [e, h.heads]

/-- A byte after a write: the one written inside the range, the old one outside it. -/
@[simp] theorem State.byteAt_poke (x : Nat) :
    (s.poke pa bs).byteAt x = if pa ≤ x ∧ x < pa + bs.length then bs.getD (x - pa) 0 else s.byteAt x := by
  obtain ⟨u, h, e⟩ := s.poke_eq pa bs; simp [e, State.byteAt_put, h.byteAt]

/-- Every entry but the counts and flags of the prefetch area, and what an interrupt can move, is as it was. -/
theorem State.poke_rd {o : Obj} (n e : Nat)
    (w : o ∉ [Obj.prefetchDiscardCnt, .gatherStatus, .msixPba, .fabricDropCnt, .shxStatus, .eventNextSeq]) :
    (s.poke pa bs).rd o n e = s.rd o n e := by
  obtain ⟨u, h, k⟩ := s.poke_eq pa bs
  rw [k, State.put_rd, h.rd]
  intro m
  obtain ⟨x, hx, hi⟩ := List.mem_map.mp m
  exact w (Obj.ctorIdx_inj hi ▸ hx)

end Sys2Proof.Machine
end

