-- ==== Sys2Proof/Tests/Slice0.lean ====
section
/-! SUPPORT. Tests on small values, their expected results taken from the manual's rules and examples, and for each statement
with hypotheses a state and operands that meet them together. -/

open Sys2Proof Sys2Proof.Machine

/-! The tests are elaborated one after another: each evaluates a state, and many at once need too much memory. -/

section
set_option Elab.async false

/-! ## Ill-formed commands -/

/-- A packet of a type and `LEN` with an argument and data. -/
def Sys2Proof.Tests.pkt (type len arg : Nat) (data : List Byte) : Packet :=
  { w0 := BitVec.ofNat 64 (type * 2 ^ 56 + len * 2 ^ 48), w1 := 0, w2 := BitVec.ofNat 64 arg, w3 := 0, data := data }

open Sys2Proof.Tests

theorem test_wf_page_write_past_the_page : (Instr.registerWrite (.page 0 0xFFFD 4) 0).wf = false := by decide
theorem test_wf_page_write_too_wide : (Instr.registerWrite (.page 0 0 9) 0).wf = false := by decide
theorem test_wf_page_write_empty : (Instr.registerWrite (.page 0 0 0) 0).wf = false := by decide
theorem test_wf_packet_type : (Instr.redHdr (pkt 0x11 0 0 [])).wf = false := by decide
theorem test_wf_packet_length : (Instr.redDense (pkt 0x11 1 0 [])).wf = false := by decide
theorem test_wf_packet_too_long : (Instr.redSparse (pkt 0x12 129 0 (List.replicate 4128 0))).wf = false := by decide +kernel
theorem test_wf_packet_reserved : (Instr.redResult ⟨0x1300000100000000, 0, 0, 0, [], none, none⟩).wf = false := by decide
theorem test_wf_packet_reserved_high : (Instr.collAbort ⟨0x1400010000000000, 0, 0, 0, [], none, none⟩).wf = false := by decide
theorem test_wf_token_kind : (Instr.commitToken (pkt 0x20 0 1 [])).wf = false := by decide
theorem test_wf_report_kind : (Instr.mismatchReport (pkt 0x20 0 2 [])).wf = false := by decide
theorem test_wf_verdict_kind : (Instr.verdict (pkt 0x20 0 0 [])).wf = false := by decide
theorem test_wf_go_with_cancel : (Instr.applyGo (pkt 0x23 0 (2 ^ 63) [])).wf = false := by decide
theorem test_wf_cancel_without_bit : (Instr.applyGoCancel (pkt 0x23 0 1 [])).wf = false := by decide
theorem test_wf_other_packet_types :
    ([.applyPrep (pkt 0x22 0 0 []), .applyVote (pkt 0x21 0 0 []), .mcast 0 (pkt 0x31 0 0 []), .prune (pkt 0x30 0 0 []),
      .depotWr (pkt 0x41 0 0 []), .depotRd (pkt 0x40 0 0 []), .depotData (pkt 0x41 0 0 []), .tunWr (pkt 0x51 0 0 []),
      .tunRd (pkt 0x50 0 0 []), .tunCpl (pkt 0x51 0 0 []), .tunDmaRd (pkt 0x54 0 0 []) none, .tunDmaWr (pkt 0x53 0 0 []),
      .tunIrq (pkt 0x54 0 0 [])] : List Instr).all (fun i => !i.wf) = true := by decide
theorem test_wf_window_read_past_the_end : (Instr.windowRead 0 0x3FFFFFFFF 2).wf = false := by decide
theorem test_wf_window_write_empty : (Instr.windowWrite 0 0 []).wf = false := by decide
theorem test_wf_aperture_past_the_end : (Instr.apertureAccess 0 0x7FFFFFFFF (.read 2)).wf = false := by decide
theorem test_wf_write_too_long : (Instr.write (.mailbox 0) 0 0 0 (List.replicate 65536 0)).wf = false := by decide +kernel
theorem test_wf_rail_group_zero : (Instr.railGroupRegulated 0).wf = false ∧ (Instr.pwrFault 0).wf = false := by decide
theorem test_wf_link_width : (Instr.pcieLinkUp 3 6).wf = false := by decide
theorem test_wf_link_rate : (Instr.pcieLinkUp 16 7).wf = false ∧ (Instr.pcieLinkUp 16 0).wf = false := by decide
theorem test_wf_physical_function : (Instr.vfEnable 0).wf = false := by decide
theorem test_wf_good_packet : (Instr.redDense (pkt 0x11 1 0 (List.replicate 32 0))).wf = true := by decide
theorem test_decode_no_bits : decodeTableWord 0 0 = none ∧ decodeTableWord 64 0x123456789 = none := by decide

/-! ## Number formats (R97, R98, R108) -/

theorem test_scale_example :
    chooseScale 0 false ([0x41200000, 0xC0466666, 0, 0x3F333333, 0xC1100000, 0x40000000, 0x40B00000, 0xBE4CCCCD].map f32) =
      (0x80, false) := by decide +kernel
theorem test_tie_crilet4 :
    ((convert (f32 0x40A00000) 0 0 0).code, (convert (f32 0x40200000) 0 0 0).code, (convert (f32 0x3FE00000) 0 0 0).code,
      (convert (f32 0x3E800000) 0 0 0).code) = (6, 4, 4, 0) := by decide +kernel
theorem test_saturation_crilet4 :
    ((convert (f32 0x40D00000) 0 0 0).code, (convert (f32 0x40D00000) 0 0 0).sat, (convert (f32 0x40C00000) 0 0 0).sat) =
      (7, true, false) := by decide +kernel
theorem test_no_negative_zero : (convert (f32 0xBE4CCCCD) 0 0 0).code = 0 := by decide +kernel
theorem test_crilet4i : ((convert (f32 0x40F00000) 1 0 0).code, (convert (f32 0xC0F00000) 1 0 0).code) = (7, 8) := by
  decide +kernel
theorem test_crilet3_tie : (convert (f32 0x40400000) 2 0 0).code = 2 := by decide +kernel
theorem test_e4m3_saturates : (convert (f32 0x43FA0000) 4 0 0).code = 0x7E := by decide +kernel
theorem test_e5m2_saturates : (convert (f32 0x476A6000) 5 0 0).code = 0x7B ∧ (convert (.inf false) 5 0 0).code = 0x7B := by
  decide +kernel
theorem test_bf16_ties : (convert (f32 0x3F808000) 6 0 0).code = 0x3F80 ∧ (convert (f32 0x3F818000) 6 0 0).code = 0x3F82 := by
  decide +kernel
theorem test_stochastic :
    ((convert (f32 0x40300000) 0 2 0x1F00).code, (convert (f32 0x40300000) 0 2 0x4000).code) = (4, 5) := by decide +kernel
theorem test_subnormal_flushed : (convert (.fin false 1 (2 ^ 130)) 7 0 0).code = 0 := by decide +kernel
theorem test_subnormal_strict : (strictRound false false (.fin false 1 (2 ^ 130))).bits = 0x80000 := by decide +kernel
theorem test_tree_sum : reduceBy add32 1 [0x4B800000, 0x3F800000, 0x3F800000, 0xCB800000, 0x3F800000] = some 0x40000000 := by
  decide +kernel
theorem test_window_truncates :
    windowSum 40 [.fin false (2 ^ 40) 1, .fin false 3 4, .fin true (2 ^ 40) 1] = 1 := by decide +kernel

/-! ## A small machine -/

/-- Words at an address. -/
abbrev Sys2Proof.Tests.Words := Nat × List Nat

/-- The machine after reset with context 0 mapped: virtual addresses 0 to 2 MiB lie at 2 MiB in HBM, through tables at
0x10000, 0x11000 and 0x12000, all that was cached is invalidated, and polder 1 grants the first 16 MiB everything. -/
def Sys2Proof.Tests.mapped (ws : List Words) : State :=
  let s := State.reset.wr .ptRoot 0 0 0x10000
  let s := s.wr .polderTable 0 4 0x8000000000000000
  let s := s.wr .polderTable 0 5 0x1000000
  let s := s.wr .polderTable 0 6 0x00010000FFFFFFFF
  let s := s.wr .polderTable 0 7 0x3FF
  let s := s.poke 0x10000 (leBytes 8 0x11001)
  let s := s.poke 0x11000 (leBytes 8 0x12001)
  let s := s.poke 0x12000 (leBytes 8 (2 ^ 56 + 0x200007))
  let s := ws.foldl (fun s w => s.poke (0x200000 + w.1) (w.2.flatMap (leBytes 8))) s
  { s with purged := [(0, 0, 2 ^ 48, s.writes)] }

/-- A program with one descriptor at address 0 in its lead list and in the list of cluster 0. -/
def Sys2Proof.Tests.prog : Program where
  tag := 0
  hdr := List.replicate 32 0
  p0 := 0
  p1 := 1
  p2 := 0
  p3 := 1
  clist := (0, 1) :: List.replicate 31 (0, 0)

/-- The small machine with context 0 RUNNING that program, its descriptor and other words in memory. -/
def Sys2Proof.Tests.rig (d : List Nat) (ws : List Words) : State :=
  ((mapped ((0, d) :: ws)).wr .embRegistry 0 0 0x1000).setCtx 0 { Ctx.init with st := .running, prog := some prog }

/-- The place of the lead list's first command, and of cluster 0's. -/
def Sys2Proof.Tests.lead : IssueAt := ⟨0, .lead, 0, false, []⟩
def Sys2Proof.Tests.clus : IssueAt := ⟨0, .cluster 0, 0, false, []⟩

/-- Word 0 of a descriptor of an opcode, in stage 1. -/
def Sys2Proof.Tests.head (op : Nat) : Nat := op * 2 ^ 56 + 2 ^ 44

/-- The command in a place passes its checks. -/
def Sys2Proof.Tests.passes (s : State) (q : IssueAt) (op : Nat) (check : State → Job → Except Stop BodyCheck) : Bool :=
  match s.job q, s.planFor q with
  | some j, .ok plan =>
    match check s j with
    | .ok body => !s.seqParked q && decide (j.d.opcode = op) && s.canIssue q j && (s.firstBad q j body (plan = some none)).isNone
    | .error _ => false
  | _, _ => false

theorem Sys2Proof.Tests.of_passes {s : State} {q : IssueAt} {op : Nat} {check : State → Job → Except Stop BodyCheck}
    (h : passes s q op check = true) : ∃ j plan, s.Passes q j op plan check := by
  unfold passes at h
  split at h
  · rename_i j plan hj hp
    split at h
    · rename_i body hb
      simp only [Bool.and_eq_true, Bool.not_eq_true', decide_eq_true_eq, Option.isNone_iff_eq_none] at h
      exact ⟨j, plan, h.1.1.1, hj, h.1.1.2, h.1.2, hp, body, hb, h.2⟩
    · simp at h
  · simp at h

/-! ## Commands that pass their checks (`…CommandsLaunch`, `BadOpcodeRejected`) -/

theorem witness_nop_passes : ∃ j plan, (rig [head 0] []).Passes lead j 0x00 plan (checkNop lead) :=
  of_passes (by decide +kernel)
theorem witness_barrier_passes : ∃ j plan, (rig [head 4, 0, 0x10001] []).Passes lead j 0x04 plan (checkBarrier lead) :=
  of_passes (by decide +kernel)
theorem witness_commit_passes : ∃ j plan, (rig [head 11] []).Passes lead j 0x0B plan (checkCommit lead) :=
  of_passes (by decide +kernel)
theorem witness_dma_passes : ∃ j plan, (rig [head 14, 0, 0x4000, 0x1000, 0x1000] []).Passes lead j 0x0E plan (checkDma lead) :=
  of_passes (by decide +kernel)
theorem witness_tile_passes : ∃ j plan,
    (rig [head 1, 0, 0x0606000000001000, 0x2000, 0x0007000000003000] []).Passes lead j 0x01 plan (checkTile lead) :=
  of_passes (by decide +kernel)
theorem witness_vector_passes : ∃ j plan,
    (rig [head 2, 0, 0x1000, 0x2000, 0x3000, 0x0000110000000000, 0x10000] []).Passes lead j 0x02 plan (checkVector lead) :=
  of_passes (by decide +kernel)
theorem witness_stream_arm_passes : ∃ j plan,
    (rig [head 3, 0, 0x0001000000001000, 0xFFFF, 0] [(0x1000, [0x0400000000000000, 0x6400000000000000])]).Passes clus j 0x03 plan
      (checkStream clus) := of_passes (by decide +kernel)
theorem witness_sample_passes : ∃ j plan,
    (rig [head 5, 0, 0x1000, 0x2000, 0x3000, 0, 2049 * 2 ^ 40, 2049 * 2 ^ 24]
      [(0x1000, [1, 0, 0x1400, 0x1800, 0, 0, 0, 0, 0, 0, 0, 0, 0, 0, 0, 0])]).Passes clus j 0x05 plan (checkSample clus) :=
  of_passes (by decide +kernel)
theorem witness_gather_passes : ∃ j plan,
    (rig [head 6, 0, 0x1000, 0x2000, 0x3000] [(0x1000, [0, 0x800000000])]).Passes clus j 0x06 plan (checkGather clus) :=
  of_passes (by decide +kernel)
theorem witness_scatter_passes : ∃ j plan,
    (rig [head 7, 0, 0x1000, 0x2000, 0x3000] [(0x1000, [0, 0x800000000]), (0x3000, [0x4000, 0x5000, 64])]).Passes clus j 0x07 plan
      (checkGather clus) := of_passes (by decide +kernel)
theorem witness_coalesce_passes : ∃ j plan,
    (rig [head 8, 0, 0x2000, 0x3000] [(0x2000, [0x4000, 0x5000, 64]), (0x3000, [0x6000, 0x8000, 0xA000, 0x1000000010])]).Passes
      clus j 0x08 plan (checkCoalesce clus) := of_passes (by decide +kernel)
theorem witness_reduce_passes : ∃ j plan,
    (rig [9 * 2 ^ 56 + 8 * 2 ^ 44, 0, 0x1000, 0x2000, 0, 64, 7] []).Passes lead j 0x09 plan (checkReduce lead) := of_passes (by decide +kernel)
theorem witness_update_passes : ∃ j plan,
    (rig [head 10, 0, 0x1000, 0x2000, 0x3000]
      [(0x1000, [0, 0, 0, 0x3F800000]), (0x2000, [0x0707000000004000, 0, 0, 0, 0, 0, 1])]).Passes clus j 0x0A plan
      (checkUpdate clus) := of_passes (by decide +kernel)
theorem witness_migrate_passes : ∃ j plan,
    (rig [head 12, 0, 0x1000, 0x2000, 1] [(0x1000, [0x0006000000000000, 1, 0, 0x4000, 0x5000, 0x6000, 1])]).Passes clus j 0x0C plan
      (checkMigrate clus) := of_passes (by decide +kernel)
theorem witness_snapshot_passes : ∃ j plan,
    (rig [head 13, 0, 0x1000, 0, 0, 65536] []).Passes lead j 0x0D plan (checkSnapshot lead) := of_passes (by decide +kernel)
theorem witness_bad_opcode : ∃ j plan, (rig [head 0x0F] []).job lead = some j ∧ 0x0E < j.d.opcode ∧
    (rig [head 0x0F] []).canIssue lead j = true ∧ (rig [head 0x0F] []).planFor lead = .ok plan :=
  ⟨((rig [head 0x0F] []).job lead).get (by decide +kernel), none, by simp, by decide +kernel, by decide +kernel, by rfl⟩
theorem witness_not_running : Instr.nop lead ∈ issueOf lead 0 0 [] none ∧ (State.reset.ctx 0).st ≠ .running ∧
    (State.reset.ctx 0).st ≠ .parked := ⟨by simp [issueOf], by decide, by decide⟩

/-! ## Contexts, items and barriers -/

theorem Sys2Proof.Tests.ok_of {ε α : Type} {x : Except ε α} (h : x.toBool = true) : ∃ a, x = .ok a := by
  cases x <;> simp_all [Except.toBool]

theorem Sys2Proof.Tests.error_of {ε α : Type} {x : Except ε α} (h : x.toBool = false) : ∃ e, x = .error e := by
  cases x <;> simp_all [Except.toBool]

theorem Sys2Proof.Tests.some_of {α : Type} {x : Option α} (h : x.isSome = true) : ∃ a, x = some a :=
  Option.isSome_iff_exists.mp h

/-- Context 0 in a state, in the mapped machine. -/
def Sys2Proof.Tests.ctxIn (st : CtxState) : State := (mapped []).setCtx 0 { Ctx.init with st := st }

/-- An item of context 0 with an opcode. -/
def Sys2Proof.Tests.item (op : Nat) (phase : ItemPhase) (pos : List Nat) : Item where
  ctx := 0
  list := .lead
  seq := 0
  ahead := false
  desc := ⟨BitVec.ofNat 64 (head op), 0, 0, 0, 0, 0, 0, 0⟩
  step := 0
  unit := 0
  part := 0
  cluster := some 0
  service := false
  progress := 0
  started := true
  segs := 1
  phase := phase
  pos := pos
  data := []
  tile := TileWork.init
  sample := SampleWork.init
  groups := []
  lastLog := 0
  errs := []

/-- A state with these items and no others. -/
def Sys2Proof.Tests.withItems (s : State) (is : List Item) : State := { s with items := is }

theorem witness_idle_step : State.reset.pending = [] ∧ State.reset.fresh = 0 ∧ (∀ c : CtxId, (State.reset.ctx c).waiting = []) ∧
    (∀ e ∈ State.reset.queues, e.2.waits = false) ∧ (∀ p : Nat, (State.reset.port p).mcast = [] ∧ (State.reset.port p).change = none) ∧
    State.reset.power.h = 0 ∧ State.reset.fabric.slew = 0 ∧ State.reset.engines = [] ∧ State.reset.items = [] :=
  ⟨rfl, rfl, by decide, by decide, fun _ => ⟨rfl, rfl⟩, rfl, rfl, rfl, rfl⟩
theorem witness_event :
    let s := State.reset.raise 0x44 none 0
    s.fresh = 1 ∧ s.fresh < 1024 ∧ s.fresh ≤ s.events.length ∧ s.events.length ≤ 1024 ∧
      (s.events.drop (s.events.length - s.fresh)).Pairwise (fun a b => a.rank ≤ b.rank) ∧ State.reset.fresh = 0 := by decide +kernel
theorem witness_counter : (Obj.info .cmdRejectCnt).size ≤ 8 := by decide
theorem witness_status_entry :
    State.reset.mgmtUp = true ∧ findEntry 0xB400 5 = .ok (.igcorStatus, 0) ∧ ∃ m, w1cMask .igcorStatus = some m :=
  ⟨by decide +kernel, by decide +kernel, some_of (by decide +kernel)⟩
theorem witness_preempt : ∃ pages,
    ((((ctxIn .running).wr .saveVa 0 0 0x10000)).ctx 0).st = .running ∧ ((ctxIn .running).wr .saveVa 0 0 0x10000).rdN .saveVa 0 ≠ 0 ∧
    ((ctxIn .running).wr .saveVa 0 0 0x10000).reachAll (.log 0) 0x10000 0x40000 true = .ok pages := by
  obtain ⟨pages, h⟩ := ok_of (x := ((ctxIn .running).wr .saveVa 0 0 0x10000).reachAll (.log 0) 0x10000 0x40000 true)
    (by decide +kernel)
  exact ⟨pages, by decide +kernel, by decide +kernel, h⟩

/-- A PREEMPTED context with an empty save area at 2 MiB. -/
def Sys2Proof.Tests.saved : State :=
  let s := (mapped []).setCtx 0 { Ctx.init with st := .preempted, savePa := [0x200000, 0x210000, 0x220000, 0x230000] }
  s.poke 0x200000 (s.saveHeader 0 0)

theorem witness_resume : (saved.ctx 0).st = .preempted ∧ saved.saveGood 0 = true ∧
    ((ctxIn .preempted).ctx 0).st = .preempted ∧ (ctxIn .preempted).saveGood 0 = false := by decide +kernel
theorem witness_resume_poisoned : (({ saved with poison := [0x80000] } : State).ctx 0).st = .preempted ∧
    ({ saved with poison := [0x80000] } : State).saveGood 0 = false ∧
    ({ saved with poison := [0x80000] } : State).savePoison 0 = some 0x80000 ∧ (ctxIn .preempted).savePoison 0 = none := by decide +kernel
theorem witness_edge_free : State.reset.resetSoon 0 = false ∧ State.reset.stoppedSoon 0 = false ∧
    ({ State.reset with pending := [.reset 0] } : State).resetSoon 0 = true ∧
    ({ State.reset with pending := [.estopRaise] } : State).stoppedSoon 0 = true := by decide +kernel
theorem witness_preempt_acted :
    let s := (ctxIn .running).updCtx 0 fun x => { x with preAt := some 0 }
    (s.ctx 0).preAt = some s.now := by decide +kernel
theorem witness_control_untranslated :
    let s := (State.reset.wr .saveVa 0 0 0x10000).setCtx 0 { Ctx.init with st := .running }
    (s.ctx 0).preAt ≠ some s.now ∧ (s.ctx 0).st = .running ∧ s.rdN .saveVa 0 ≠ 0 ∧
      ∃ why, s.reachAll (.log 0) (s.rdN .saveVa 0) 0x40000 true = .error why :=
  ⟨by decide +kernel, by decide +kernel, by decide +kernel, error_of (by decide +kernel)⟩
theorem witness_control_refused : (State.reset.ctx 0).st ≠ .running ∧ (State.reset.ctx 0).st ≠ .parked ∧
    (State.reset.ctx 0).st ≠ .preempted ∧ (ctxIn .running).rdN .saveVa 0 = 0 := by decide +kernel

/-- A PREEMPTING context whose units have all stopped. -/
def Sys2Proof.Tests.stopping : State :=
  (mapped []).setCtx 0 { Ctx.init with st := .preempting, savePa := [0x200000, 0x210000, 0x220000, 0x230000] }

theorem witness_save_area : (stopping.ctx 0).st = .preempting ∧ stopping.allStopped 0 = true ∧
    ((stopping.ctx 0).savePa.all fun pa => stopping.logOk 0 pa 65536) = true ∧ (stopping.ctx 0).savePa.length = 4 ∧
    (stopping.ctx 0).savePa.Nodup ∧ (∀ pa ∈ (stopping.ctx 0).savePa, pa % 65536 = 0) ∧
    (∀ pa ∈ (stopping.ctx 0).savePa, 0x1FFFFF < pa ∨ pa + 65536 ≤ 0x1FFFFF) := by decide +kernel
theorem witness_save_area_waits : (withItems stopping [item 5 .working []]).allStopped 0 = false ∧ (State.reset.ctx 0).st ≠ .preempting := by
  decide +kernel
theorem witness_save_area_denied :
    let s := State.reset.setCtx 0 { Ctx.init with st := .preempting, savePa := [0x200000, 0x210000, 0x220000, 0x230000] }
    (s.ctx 0).st = .preempting ∧ s.allStopped 0 = true ∧ ((s.ctx 0).savePa.all fun pa => s.logOk 0 pa 65536) = false := by decide +kernel

theorem witness_fault_resume :
    let s := withItems (ctxIn .parked) [item 6 (.parked 7) []]
    (s.ctx 0).st ≠ .preempted ∧ s.items.filter (s.mayResume 0 7) ≠ [] ∧ s.items.filter (s.mayResume 0 8) = [] := by
  decide +kernel
theorem witness_sequencer_resume :
    let s := (ctxIn .parked).updCtx 0 fun x => { x with seqStops := [⟨.lead, 0, false, 7⟩] }
    (s.ctx 0).st ≠ .preempted ∧ (∃ k ∈ (s.ctx 0).seqStops, ((decide ((s.ctx 0).st ≠ .preempting) &&
      (decide (k.id = 7) || decide ((7 : W32) = 0xFFFFFFFF)))) = true) ∧ s.items.filter (s.mayResume 0 7) = [] := by decide +kernel
theorem witness_current :
    (withItems State.reset [item 4 .working []]).current (item 4 .working []) = some (item 4 .working []) := by decide +kernel

/-- Barrier 1 of context 0 in a state. -/
def Sys2Proof.Tests.bar (b : Barrier) : State := State.reset.setBar 0 1 b

theorem witness_arrival : (State.reset.bar 0 1).st ≠ .closed ∧
    ((bar ⟨.closed, 2, 0⟩).bar 0 1).st = .closed ∧
    ((bar ⟨.closed, 2, 0⟩).bar 0 1).arrived + 1 < ((bar ⟨.closed, 2, 0⟩).bar 0 1).count ∧
    ((bar ⟨.closed, 2, 1⟩).bar 0 1).st = .closed ∧
    ((bar ⟨.closed, 2, 1⟩).bar 0 1).count ≤ ((bar ⟨.closed, 2, 1⟩).bar 0 1).arrived + 1 := by decide +kernel
theorem witness_arrival_outstanding : (1 : Byte) ∈ ((State.reset.setCtx 0 { Ctx.init with arrivals := [1] }).ctx 0).arrivals := by
  decide +kernel

theorem witness_item_commit :
    let s := withItems State.reset [item 0 (.finished 0) []]
    let t := withItems State.reset [item 11 (.finished 0) []]
    s.item ⟨0, .lead, 0, false⟩ = some (item 0 (.finished 0) []) ∧ (item 0 (.finished 0) []).desc.opcode ≠ 0x0B ∧
      s.sealItem (item 0 (.finished 0) []) = .ok s ∧
      t.item ⟨0, .lead, 0, false⟩ = some (item 11 (.finished 0) []) ∧ (item 11 (.finished 0) []).desc.opcode = 0x0B :=
  ⟨by decide +kernel, by decide +kernel, rfl, by decide +kernel, by decide +kernel⟩
theorem witness_sample_commit :
    let i := item 5 (.finished 0) []
    let s := { mapped [] with items := [i], purged := [(0, 0, 2 ^ 48, 1000)] }
    s.item ⟨0, .lead, 0, false⟩ = some i ∧ s.resetSoon 0 = false ∧ s.stoppedSoon 0 = false ∧ s.preemptSoon 0 = false ∧
      ∃ t, s.sealItem i = .ok t :=
  ⟨by decide +kernel, by decide +kernel, by decide +kernel, by decide +kernel, ok_of (by decide +kernel)⟩
theorem witness_seal_stopped :
    ∃ why, (withItems State.reset [item 8 (.finished 0) []]).sealItem (item 8 (.finished 0) []) = .error why :=
  error_of (by decide +kernel)
theorem witness_preempt_soon : ({ State.reset with pending := [.preempt 0] } : State).preemptSoon 0 = true := by decide +kernel
theorem Sys2Proof.Tests.snd_of {α : Type} {x : α × Bool} {b : Bool} (h : x.2 = b) : ∃ t, x = (t, b) := ⟨x.1, by rw [← h]⟩

theorem witness_log_refused : ∃ t,
    (State.reset.wr .logPa 0 0 0x1000).log (item 0 (.finished 0) []) .committed 0 0 = (t, false) := snd_of (by decide +kernel)
theorem witness_log_written : ∃ t, State.reset.log (item 0 (.finished 0) []) .committed 0 0 = (t, true) :=
  ⟨(State.reset.log (item 0 (.finished 0) []) .committed 0 0).1, Prod.ext rfl (by decide +kernel)⟩

/-- A plan of one slot with `RELEASE_BAR` 1. -/
def Sys2Proof.Tests.plan : Plan := ⟨[⟨100, 10, 0, 0, 1, 2, false, none⟩], 0, false⟩

theorem witness_pace :
    let s := (State.reset.wr .paceWindow 0 0 2).setCtx 0 { Ctx.init with st := .running, plan := some plan }
    (s.ctx 0).plan = some plan ∧ nextRelease plan.slots plan.released = some 0 ∧
      plan.slots[0]? = some ⟨100, 10, 0, 0, 1, 2, false, none⟩ ∧ (s.ctx 0).st ≠ .preempted ∧
      0 ≤ plan.current + s.rdN .paceWindow 0 ∧ releaseAt (s.ctx 0).t0 (s.ctx 0).lag plan.slots 0 ≤ (s.now : Int) := by
  decide +kernel
theorem witness_commit_timeout :
    let s := withItems (ctxIn .running) [item 11 .working [1]]
    let t := withItems (ctxIn .preempted) [item 11 .working [1]]
    (s.items.find? fun i => i.ctx == 0 && i.desc.opcode = 11 && i.phase = .working && i.pos = [1]) = some (item 11 .working [1]) ∧
      (s.ctx 0).st ≠ .preempted ∧
      (t.items.find? fun i => i.ctx == 0 && i.desc.opcode = 11 && i.phase = .working && i.pos = [1]) =
        some (item 11 .working [1]) ∧ (t.ctx 0).st = .preempted := by decide +kernel

/-! ## Verification, comparison, engines and queues -/

/-- A run of core 0 whose second pass is in doubt; it holds the translation of its first page. -/
def Sys2Proof.Tests.inDoubt : TileRun := ⟨0, 0, [(0, 0x200000)], ⟨[], []⟩, 1, [], some [], true, true, false⟩

/-- A `TILE` item with a pass of core 0 in doubt and a tile that is not compared; its activity table names barrier 1. -/
def Sys2Proof.Tests.tileItem : Item :=
  { item 1 .working [] with
    desc := ⟨BitVec.ofNat 64 (head 1), 0, 0x0606000000001000, 0x2000, 0x0007000000003000, 0, 0x4000, 0⟩
    tile := { TileWork.init with
      tabs := ⟨[], [], [0, 0, 0x5000], [0x6000, 0x7000, 1]⟩, runs := [inDoubt], checks := [inDoubt] } }

/-- The machine with that item and barrier 1 in a state. -/
def Sys2Proof.Tests.tiles (st : BarState) : State := withItems ((mapped []).setBar 0 1 ⟨st, 1, 1⟩) [tileItem]

theorem witness_pass_in_doubt (st : BarState) : (tiles st).item ⟨0, .lead, 0, false⟩ = some tileItem ∧ tileItem.phase = .working ∧
    (tileItem.tile.runs.find? fun x => x.core = 0 && x.spec) = some inDoubt := by
  cases st <;> decide +kernel
theorem witness_pass_verified :
    let t := tileItem.tile.tabs.cfg tileItem.desc
    (tiles .opened).final tileItem t = true ∧
    (∃ u, (tiles .opened).verifyRun tileItem t inDoubt 0 = .ok u) ∧
    (tiles .closed).final tileItem t = false :=
  ⟨by decide +kernel, ok_of (by decide +kernel), by decide +kernel⟩
/-- That machine with the first word of the item's bits poisoned. -/
def Sys2Proof.Tests.poisonedTiles : State := { tiles .opened with poison := [0x81800] }

theorem witness_pass_stopped :
    let t := tileItem.tile.tabs.cfg tileItem.desc
    poisonedTiles.item ⟨0, .lead, 0, false⟩ = some tileItem ∧ poisonedTiles.final tileItem t = true ∧
    ∃ why, poisonedTiles.verifyRun tileItem t inDoubt 0 = .error why :=
  ⟨by decide +kernel, by decide +kernel, error_of (by decide +kernel)⟩
theorem witness_tile_compared :
    (withItems State.reset [tileItem]).item ⟨0, .lead, 0, false⟩ = some tileItem ∧ (∃ run ∈ tileItem.tile.checks, run.tile = 0) ∧
      (∀ run ∈ tileItem.tile.checks, run.tile ≠ 1) := by decide +kernel

/-- A stream program of engine 0 with nothing left to make. -/
def Sys2Proof.Tests.program : StreamProg where
  ctx := 0
  seq := 0
  list := .lead
  ahead := false
  step := 0
  seed := 0
  cluster := 0
  instrs := []
  sluice := 0xFFFF
  rate := 1
  regular := true
  queues := []
  number := 0
  iter := 0
  body := 0
  skip := 0
  transfer := 0
  drop := 0
  buf := []
  start := ⟨0, 0, 0, 0⟩
  bitmap := false
  closed := []
  sent := []
  made := true
  ended := true
  pages := []
  counts := []
  counted := 0
  demand := []

/-- Engine 0 in a state with that program. -/
def Sys2Proof.Tests.engineIn (st : EngState) : State :=
  withItems ((mapped []).setEngine 0 ⟨st, some program, none⟩) [item 3 .working []]

theorem witness_translated : ((engineIn .starting).engine 0).st = .starting ∧ (engineIn .starting).atWork program = true ∧ ((engineIn .starting).engine 0).active = some program ∧
    (engineIn .starting).translateAll program = .ok [] := ⟨by decide +kernel, by decide +kernel, by decide +kernel, by rfl⟩
theorem witness_program_end : ((engineIn .running).engine 0).st = .running ∧ ((engineIn .running).engine 0).active = some program ∧
    program.through = true ∧ (engineIn .running).atWork program = true ∧
    (engineIn .running).streamItem program = some (item 3 .working []) ∧ ((engineIn .running).engine 0).shadow = none := by
  decide +kernel

theorem witness_shadow_activates :
    let q := { program with seq := 1 }
    let k := { item 3 .working [] with seq := 1 }
    let s := withItems ((mapped []).setEngine 0 ⟨.running, some program, some q⟩) [item 3 .working [], k]
    let t := ((s.setEngine 0 { s.engine 0 with st := .idle, active := none }).releaseDemand program.demand).commitItem
      (item 3 .working []) 0 program.transfer
    (s.engine 0).st = .running ∧ (s.engine 0).active = some program ∧ program.through = true ∧ s.atWork program = true ∧
      s.streamItem program = some (item 3 .working []) ∧ (s.engine 0).shadow = some q ∧ (t.engine 0).st = .idle ∧
      t.streamItem q = some k ∧ k.phase = .working := by decide +kernel

/-- The sluice of core 0, type 0, in a state. -/
def Sys2Proof.Tests.sluice (x : Queue) : State := State.reset.setQueue 0 x

theorem witness_alone : State.reset.joined (.sluice 0 0) = false ∧ (∀ e ∈ State.reset.acts, e.1 ≠ .sluice 0 0) := by decide +kernel
theorem witness_rewind :
    (sluice (Queue.init 0)).queueCtx (.sluice 0 0) = some 0 ∧ ((sluice (Queue.init 0)).queue (queueIx (.sluice 0 0))).mark = none ∧
    ((sluice { Queue.init 0 with mark := some 5 }).queue (queueIx (.sluice 0 0))).mark = some 5 ∧
    ((sluice { Queue.init 0 with mark := some 5 }).setQueue (queueIx (.sluice 0 0))
      { (sluice { Queue.init 0 with mark := some 5 }).queue (queueIx (.sluice 0 0)) with rd := 5 }).queueCtx (.sluice 0 0) = some 0 := by
  decide +kernel
theorem witness_release :
    let s := sluice { Queue.init 0 with p := 2, rd := 2, lines := [⟨[], 0, none⟩, ⟨[], 0, none⟩] }
    (2 : W32).toNat ≤ (s.queue (queueIx (.sluice 0 0))).releasable ∧ (s.queue (queueIx (.sluice 0 0))).releasable < (3 : W32).toNat := by
  decide +kernel
theorem witness_queue_read :
    let s := sluice { Queue.init 0 with p := 1, lines := [⟨[], 0, none⟩] }
    let t := sluice { Queue.init 0 with prime := some 1 }
    let u := (engineIn .running).setEngine 0 ⟨.running, some { program with sluice := 0, queues := [0] }, none⟩
    (s.queue 0).prime = none ∧ (s.queue 0).unread ≠ 0 ∧ (State.reset.queue 0).prime = none ∧ (State.reset.queue 0).unread = 0 ∧
      ((State.reset.producer 0).any fun e => e.2.regular) = false ∧ (t.queue (queueIx (.sluice 0 0))).prime ≠ none ∧
      (u.queue 0).prime = none ∧ (u.queue 0).unread = 0 ∧ ((u.producer 0).any fun e => e.2.regular) = true := by decide +kernel
theorem witness_edge_order :
    let s := { State.reset with acts := [(.sluice 0 0, .unmark)] }
    ({ State.reset with pending := [.mark ⟨.sluice 0 0, true⟩] } : State).joined (.sluice 0 0) = true ∧
      s.joined (.sluice 0 0) = false ∧ s.acts = [(.sluice 0 0, QueueAct.unmark)] ∧ QueueAct.unmark.rank ≠ 0 := by decide +kernel

/-! ## Memory -/

/-- A collection at 0x1000 with one row at 0x4000, its residency word at 0x5000 and one vitrine slot. -/
def Sys2Proof.Tests.coll : List Nat := [0x0006000000000000, 1, 0, 0x4000, 0x5000, 0x6000, 1, 0]

/-- The pending copy of its row 0. -/
def Sys2Proof.Tests.pending : Pend := ⟨0, 0x1000, coll.map (BitVec.ofNat 64), 0, 0, 0, some 0⟩

theorem witness_vitrine :
    let s := { mapped [(0x1000, coll), (0x5000, [0x40000000])] with pend := [pending], purged := [(0, 0, 2 ^ 48, 1000)] }
    ∃ t u v, (s.pend.find? fun p => p.isOf 0 0x1000 0) = some pending ∧
      s.resid (.unit 0 (some 0)) pending.coln 0 = .ok v ∧ v.state = 1 ∧ v.done = false ∧ s.copyRow pending = .ok t ∧
      t.setResid (.unit 0 (some 0)) pending.coln 0 { v with done := true } = .ok u := by
  intro s
  have hv : s.resid (.unit 0 (some 0)) pending.coln 0 = .ok ⟨1, false, false, 0⟩ := by
    have h : ((s.resid (.unit 0 (some 0)) pending.coln 0).map fun v => decide (v = ⟨1, false, false, 0⟩)).toOption = some true := by
      decide +kernel
    obtain ⟨v, hv⟩ := ok_of (x := s.resid (.unit 0 (some 0)) pending.coln 0) (by decide +kernel)
    rw [hv] at h ⊢
    simp [Except.map, Except.toOption] at h
    rw [h]
  obtain ⟨t, ht⟩ := ok_of (x := s.copyRow pending) (by decide +kernel)
  have hu : ((s.copyRow pending).bind fun t => t.setResid (.unit 0 (some 0)) pending.coln 0 ⟨1, true, false, 0⟩).toBool = true := by
    decide +kernel
  rw [ht] at hu
  obtain ⟨u, hu⟩ := ok_of (x := t.setResid (.unit 0 (some 0)) pending.coln 0 ⟨1, true, false, 0⟩) hu
  exact ⟨t, u, _, by decide +kernel, hv, rfl, rfl, ht, hu⟩

/-- Context 0 with an invalidation of its first 64 KiB. -/
def Sys2Proof.Tests.invalidating : State := State.reset.setCtx 0 { Ctx.init with inval := some (0, 1) }

theorem witness_invalidation : (State.reset.ctx 0).inval = none ∧ (0x10000 : W64).toNat % 65536 = 0 ∧
    (invalidating.ctx 0).inval ≠ none ∧ (0xFFFF : W64).toNat % 65536 ≠ 0 := by decide +kernel
theorem witness_invalidation_ends :
    let held := invalidating.setEngine 0 ⟨.running, some { program with pages := [(0, 0x200000)] }, none⟩
    (invalidating.ctx 0).inval = some (0, 1) ∧ invalidating.holdsPages 0 0 1 = false ∧ (held.ctx 0).inval = some (0, 1) ∧
      held.holdsPages 0 0 1 = true := by decide +kernel
theorem witness_scrub : (0x23FFFFFFFFF : BitVec 42).toNat < 0x24000000000 ∧
    1 ≤ (State.reset.scrubbed (.corrected 0x23FFFFFFFFF)).rdN .pcDegradeThresh := by decide +kernel
theorem witness_retirement : (State.reset.wr .retireState 0 3 1).rdN .retireState 0 3 = 1 := by decide +kernel

/-! ## Ports -/

/-- Port 0 of a ring of two in X, in a state with a mask of lanes. -/
def Sys2Proof.Tests.port (st : Nat) (signal lost : BitVec 4) : State :=
  (State.reset.wr .torusDims 0 0 0x0400).setPort 0 { Port.init with st := st, signal := signal, lost := lost }

theorem witness_signal : ((port 1 0 0).port 0).st = 1 ∧ (port 1 0 0).portEnabled 0 = true ∧
    ((0xF : BitVec 4) ||| ((port 1 0 0).rd .laneDisable 0).truncate 4) = 0xF ∧
    ((0x7 : BitVec 4) ||| ((port 1 0 0).rd .laneDisable 0).truncate 4) ≠ 0xF ∧ State.reset.portEnabled 0 = false := by decide +kernel
theorem witness_retry : ((port 1 0xF 0).port 0).st = 1 ∧ (port 1 0xF 0).portEnabled 0 = true ∧
    (((port 1 0xF 0).port 0).signal ||| ((port 1 0xF 0).rd .laneDisable 0).truncate 4) = 0xF := by decide +kernel
theorem witness_training : ((port 2 0xF 0).port 0).st = 2 ∧ ((port 3 0xF 0).port 0).st = 3 ∧ ((port 3 0xF 0).port 0).st ≠ 2 ∧
    ((port 2 0xF 0).port 0).st ≠ 3 := by decide +kernel
theorem witness_ident :
    let s := port 4 0xF 0
    let t := s.wrN .portPeer 0 0 (2 ^ 31 + 3 * 2 ^ 16 + 0x400)
    let s' := port 4 0xF 1
    let t' := s'.wrN .portPeer 0 0 (2 ^ 31 + 3 * 2 ^ 16 + 0x400)
    (s.port 0).st = 4 ∧ s.identOk 0 0 0x400 0x400 3 = true ∧ t.lanesOff 0 = 0 ∧ s'.identOk 0 0 0x400 0x400 3 = true ∧
      t'.lanesOff 0 ≠ 0 ∧ s.identOk 0 0 0x400 0x400 4 = false := by decide +kernel
theorem witness_lane_loss :
    let lose (s : State) (l : BitVec 4) : State := s.setPort 0 { s.port 0 with lost := (s.port 0).lost ||| l }
    let off (s : State) : BitVec 4 := s.lanesOff 0 &&& (s.port 0).lanes
    let asking := (port 5 0xF 0).setPort 0 { (port 5 0xF 0).port 0 with lanes := 0xF, asked := some (8, 0xE) }
    let up := (port 5 0xF 0).setPort 0 { (port 5 0xF 0).port 0 with lanes := 0xF }
    let up3 := (port 6 0xF 2).setPort 0 { (port 6 0xF 2).port 0 with lanes := 0xD }
    (up.port 0).st = 5 ∧ laneCount (off (lose up 1)) = 1 ∧ (up.port 0).asked = none ∧ (up.port 0).change = none ∧
      laneCount (off (lose asking 1)) = 1 ∧ (asking.port 0).asked ≠ none ∧ 2 ≤ laneCount (off (lose (lose up 1) 2)) ∧
      (up3.port 0).st = 6 ∧ off (lose up3 1) ≠ 0 ∧ off (lose up3 2) = 0 ∧ ((port 4 0xF 0).port 0).st ≠ 5 := by decide +kernel
theorem witness_lane_restored :
    let t := (port 6 0xF 1).setPort 0 { (port 6 0xF 1).port 0 with lost := ((port 6 0xF 1).port 0).lost &&& ~~~ 1 }
    ((port 6 0xF 1).port 0).st = 6 ∧ t.lanesOff 0 = 0 ∧ ((port 5 0xF 1).port 0).st ≠ 6 := by decide +kernel
theorem witness_lane_disable : (3 : Byte) ∉ ([0, 1, 2, 4, 8] : List Byte) ∧ (8 : Byte) ∈ ([0, 1, 2, 4, 8] : List Byte) ∧
    ((port 7 0xF 0).port 0).st = 7 ∧ ((port 4 0xF 0).port 0).st < 5 := by decide +kernel
theorem witness_lane_change :
    let asking := (port 5 0xF 0).setPort 0 { (port 5 0xF 0).port 0 with asked := some (8, 0xE) }
    (asking.port 0).asked = some (8, 0xE) ∧ ((port 5 0xF 0).port 0).asked ≠ some (8, 0xE) ∧ ((port 5 0xF 0).port 0).st = 5 ∧
      laneCount 0xE = 3 ∧ ((port 6 0xF 0).port 0).st = 6 ∧ (port 6 0xF 0).lanesOff 0 = 0 ∧ laneCount 0xF ≠ 3 := by decide +kernel
theorem witness_width_change : 512 ≤ (((port 5 0xF 0).port 0).txNext - (8 : BitVec 10)).toNat ∧
    (((port 5 0xF 0).port 0).rxNext - (0 : BitVec 10)).toNat < 512 ∧ laneCount 0xE = 3 ∧ laneCount 0xF ≠ 3 := by decide +kernel
theorem witness_quiet_codeword : ((port 3 0xF 0).port 0).change = none := by decide +kernel
theorem witness_lane_rate :
    (∀ r ∈ ([1000000, 0, 0, 0] : List W32), r.toNat ≤ State.reset.rdN .laneDegradeThresh) ∧
    State.reset.rdN .laneDegradeThresh < (([0, 0, 0, 1000001] : List W32).getD (3 : Fin 4).val 0).toNat ∧
    ∀ j : Fin 4, j ≠ 3 → (([0, 0, 0, 1000001] : List W32).getD j.val 0).toNat ≤ State.reset.rdN .laneDegradeThresh := by
  have h : ([1000000, 0, 0, 0] : List W32).all (fun r => decide (r.toNat ≤ State.reset.rdN .laneDegradeThresh)) = true := by
    decide +kernel
  exact ⟨fun r hr => by simpa using List.all_eq_true.mp h r hr, by decide +kernel, by decide +kernel⟩
theorem witness_codeword : 3 ≤ ((port 3 0xF 0).port 0).st ∧ ((port 6 0xF 0).port 0).st < 7 ∧
    (1 : BitVec 10) ≠ ((port 3 0xF 0).port 0).rxNext ∧ (0 : BitVec 10) = ((port 3 0xF 0).port 0).rxNext := by decide +kernel

/-! ## Packets and the domain -/

/-- A domain of two: this module is rank 0 at coordinate 0, rank 1 is its X neighbour. -/
def Sys2Proof.Tests.dom : State :=
  (((State.reset.wr .members 0 0 3).wr .rankMap 0 0 0x80000000).wr .rankMap 0 1 0x80000400).wr .torusDims 0 0 0x0400

/-- A whole packet of rank 1 to this module, of a type with an argument and words of data. -/
def Sys2Proof.Tests.heard (type arg : Nat) (ws : List Nat) : Packet :=
  let data := padGranules (ws.flatMap (leBytes 8))
  Packet.sealed { w0 := BitVec.ofNat 64 (type * 2 ^ 56 + data.length / 32 * 2 ^ 48 + 0x400), w1 := 0x0001000000000000
                  w2 := BitVec.ofNat 64 arg, w3 := 0, data := data }

/-- The same as the module finds it with a bad CRC. -/
def Sys2Proof.Tests.spoilt (type : Nat) : Packet := { heard type 0 [] with w3 := (heard type 0 []).w3 ^^^ 0x100000000 }

theorem witness_hop_timeout :
    let s := (port 1 0 0).setPort 0 { Port.init with held := [heard 0x40 0 []] }
    (s.port 0).held = [heard 0x40 0 []] ∧ s.portUp 0 = false ∧ (∀ q, siblingOf 0 = some q → s.portUp q = false) ∧
      ((port 5 0xF 0).port 0).held = [] ∧ (port 5 0xF 0).portUp 0 = true :=
  ⟨by decide +kernel, by decide +kernel, by intro q h; cases h; decide +kernel, by decide +kernel, by decide +kernel⟩
theorem Sys2Proof.Tests.admits {s : State} {k : Packet} (h : (!s.again k && knownType k.type) = true) : s.Admits k := by
  simpa [State.Admits] using h

theorem witness_foreign : dom.Admits (spoilt 0x10) ∧ (dom.allowIn (spoilt 0x10)).isHere (spoilt 0x10) = true ∧ (spoilt 0x10).good = false ∧
    State.reset.Admits (heard 0x10 0 []) ∧ (State.reset.allowIn (heard 0x10 0 [])).isHere (heard 0x10 0 []) = true ∧
    (State.reset.allowIn (heard 0x10 0 [])).current? (heard 0x10 0 []) = false :=
  ⟨admits (by decide +kernel), by decide +kernel, by decide +kernel, admits (by decide +kernel), by decide +kernel, by decide +kernel⟩
theorem witness_repetition :
    let s := dom.setPort (pairedPort 0) { Port.init with got := 2 }
    let k : Packet := { heard 0x40 0 [] with via := some (0, 0), mark := some (0, 1) }
    s.again k = true ∧ s.again (heard 0x7F 0 []) = false ∧ knownType (heard 0x7F 0 []).type = false := by decide +kernel
theorem witness_transit :
    let k : Packet := ⟨0x4000000004000000, 0, 0, 0, [], none, none⟩
    let k' : Packet := { k with via := some (0, 0) }
    k.dstRank ≠ 0xFFFF ∧ k.dst ≠ dom.rdN .shxCoord ∧ dom.Admits k ∧ k.dst ≠ (dom.allowIn k).rdN .shxCoord ∧ dom.Admits k' ∧
      k.dst ≠ (dom.allowIn k').rdN .shxCoord ∧ k.via = none :=
  ⟨by decide +kernel, by decide +kernel, admits (by decide +kernel), by decide +kernel, admits (by decide +kernel), by decide +kernel, rfl⟩

theorem Sys2Proof.Tests.hears {s : State} {k : Packet}
    (h : (!s.again k && knownType k.type && (s.allowIn k).isHere k && k.good) = true) : s.Hears k := by
  simpa [State.Hears, State.Admits, and_assoc] using h

theorem Sys2Proof.Tests.hears_member {s : State} {k : Packet}
    (h : (!s.again k && knownType k.type && (s.allowIn k).isHere k && k.good && (s.allowIn k).current? k) = true) :
    s.HearsMember k := by
  simpa [State.HearsMember, State.Hears, State.Admits, and_assoc] using h

/-- The domain's module fenced. -/
def Sys2Proof.Tests.fencedDom : State := dom.wr .fenceState 0 0 1

theorem witness_header : dom.HearsMember (heard 0x10 0 [1, 0]) ∧ (dom.allowIn (heard 0x10 0 [1, 0])).rdN .fenceState = 0 ∧
    fencedDom.HearsMember (heard 0x10 0 [1, 0]) ∧ (fencedDom.allowIn (heard 0x10 0 [1, 0])).rdN .fenceState ≠ 0 :=
  ⟨hears_member (by decide +kernel), by decide +kernel, hears_member (by decide +kernel), by decide +kernel⟩
theorem witness_partials : dom.HearsMember (heard 0x11 0 [0]) ∧ dom.HearsMember (heard 0x12 0 [0]) ∧
    dom.HearsMember (heard 0x13 0 [0]) :=
  ⟨hears_member (by decide +kernel), hears_member (by decide +kernel), hears_member (by decide +kernel)⟩
/-- The domain's module in step 65,536 of context 0, with a `REDUCE` at work. -/
def Sys2Proof.Tests.reducing : State :=
  withItems (dom.setCtx 0 { Ctx.init with st := .running, prog := some { prog with hdr := 65536 :: prog.hdr.drop 1 } })
    [{ item 9 .working [1, 0] with step := 65536 }]

theorem witness_abort :
    let k := heard 0x14 65536 [1]
    let old := heard 0x14 0 [1]
    let later := heard 0x14 65537 [2]
    let named (s : State) (k : Packet) : Option Item :=
      let v := (s.allowIn k).setColl { (s.allowIn k).coll k.ctx k.opSeq with aborted := true, mismatch := decide (wordAt k.data 0 = 2) }
      v.items.find? fun i => i.ctx == k.ctx && i.desc.opcode = 9 && i.step = k.w2 && v.redOrder i = k.opSeq && i.phase ≠ .committed
    reducing.HearsMember old ∧ (reducing.allowIn old).redOver old.ctx old.w2 old.opSeq = true ∧
    reducing.HearsMember later ∧ (reducing.allowIn later).redOver later.ctx later.w2 later.opSeq = false ∧ named reducing later = none ∧
    reducing.HearsMember k ∧ (reducing.allowIn k).redOver k.ctx k.w2 k.opSeq = false ∧
      named reducing k = some { item 9 .working [1, 0] with step := 65536 } :=
  ⟨hears_member (by decide +kernel), by decide +kernel, hears_member (by decide +kernel), by decide +kernel, by decide +kernel,
    hears_member (by decide +kernel), by decide +kernel, by decide +kernel⟩
theorem witness_collective_timeout :
    (reducing.items.find? fun i => i.ctx == 0 && i.desc.opcode = 9 && (i.phase = .working || i.isParked)) =
      some { item 9 .working [1, 0] with step := 65536 } ∧
    (dom.items.find? fun i => i.ctx == 0 && i.desc.opcode = 9 && (i.phase = .working || i.isParked)) = none := by decide +kernel
theorem witness_from_member : dom.ComesFromMember (heard 0x10 0 [1, 0]) ∧ dom.rdN .fenceState = 0 ∧
    fencedDom.ComesFromMember (heard 0x11 0 [0]) ∧ fencedDom.rdN .fenceState ≠ 0 ∧ reducing.ComesFromMember (heard 0x14 65536 [1]) := by
  refine ⟨⟨rfl, ?_⟩, by decide +kernel, ⟨rfl, ?_⟩, by decide +kernel, ⟨rfl, ?_⟩⟩ <;> decide +kernel
theorem witness_token : dom.HearsMember (heard 0x20 0 [5, 0, 0, 0]) := hears_member (by decide +kernel)

/-- The holder that sent the token of step 5 of context 0, with votes. -/
def Sys2Proof.Tests.holder (vs : List Vote) : State :=
  { dom with surv := { dom.surv with sent := [(0, [5, 0, 0, 0, 0, 0, 0, 0])], votes := vs } }

theorem witness_report :
    let k := heard 0x20 1 [5, 7]
    let t := wordsOf 8 k.data
    let sent (u : State) : Bool := u.surv.sent.any fun e => e.1 = k.ctx && e.2.getD 0 0 = t.getD 0 0
    let vote (u : State) : Option Vote := u.surv.votes.find? fun v => v.ctx == k.ctx && v.step == t.getD 0 0
    dom.HearsMember k ∧ sent (dom.allowIn k) = false ∧
    (holder []).HearsMember k ∧ sent ((holder []).allowIn k) = true ∧ vote ((holder []).allowIn k) = none ∧
    (holder [⟨0, 5, [], false⟩]).HearsMember k ∧ sent ((holder [⟨0, 5, [], false⟩]).allowIn k) = true ∧
      vote ((holder [⟨0, 5, [], false⟩]).allowIn k) = some ⟨0, 5, [], false⟩ ∧
    (holder [⟨0, 5, [], true⟩]).HearsMember k ∧ sent ((holder [⟨0, 5, [], true⟩]).allowIn k) = true ∧
      vote ((holder [⟨0, 5, [], true⟩]).allowIn k) = some ⟨0, 5, [], true⟩ :=
  ⟨hears_member (by decide +kernel), by decide +kernel, hears_member (by decide +kernel), by decide +kernel, by decide +kernel,
    hears_member (by decide +kernel), by decide +kernel, by decide +kernel, hears_member (by decide +kernel), by decide +kernel,
    by decide +kernel⟩

/-- A member that has compared step 5. -/
def Sys2Proof.Tests.comparer (failed : Bool) (vals : List W64) : State :=
  { dom with surv := { dom.surv with compared := [⟨0, 5, vals, failed⟩] } }

theorem witness_verdict :
    let k := heard 0x20 2 [5, 7, 0, 0]
    let z := heard 0x20 2 [0, 0, 0, 0]
    let v := wordsOf 8 k.data
    dom.HearsMember k ∧ dom.HearsMember z ∧ noWinner v = false ∧ noWinner (wordsOf 8 z.data) = true ∧
    (dom.allowIn k).comparedFor k.ctx (v.getD 0 0) = none ∧
    ((comparer false [5, 8, 0, 0]).allowIn k).comparedFor k.ctx (v.getD 0 0) = some ⟨0, 5, [5, 8, 0, 0], false⟩ ∧
      tokenVals v ≠ [5, 8, 0, 0] ∧
    ((comparer true [5, 7, 0, 0]).allowIn k).comparedFor k.ctx (v.getD 0 0) = some ⟨0, 5, [5, 7, 0, 0], true⟩ ∧
    ((comparer false [5, 7, 0, 0]).allowIn k).comparedFor k.ctx (v.getD 0 0) = some ⟨0, 5, [5, 7, 0, 0], false⟩ ∧
      tokenVals v = [5, 7, 0, 0] ∧
    (((comparer false [5, 7, 0, 0]).allowIn z).surv.compared.find? fun x => x.ctx == z.ctx) = some ⟨0, 5, [5, 7, 0, 0], false⟩ :=
  ⟨hears_member (by decide +kernel), hears_member (by decide +kernel), by decide +kernel, by decide +kernel, by decide +kernel,
    by decide +kernel, by decide +kernel, by decide +kernel, by decide +kernel, by decide +kernel, by decide +kernel⟩
theorem witness_zero_verdict :
    let z := heard 0x20 2 [0, 0, 0, 0]
    let open_ : State := dom.setCtx 0 { Ctx.init with st := .running, prog := some prog }
    let reported : State := { open_ with surv := { open_.surv with reported := [0], compared := [⟨0, 5, [5, 7, 0, 0], false⟩] } }
    open_.HearsMember z ∧ noWinner (wordsOf 8 z.data) = true ∧ ((open_.allowIn z).uncompared 0 = true ∧ 0 ∉ (open_.allowIn z).surv.reported) ∧
    dom.HearsMember z ∧ (dom.allowIn z).uncompared 0 = false ∧ ((dom.allowIn z).surv.compared.find? fun x => x.ctx == z.ctx) = none ∧
    reported.HearsMember z ∧ 0 ∈ (reported.allowIn z).surv.reported ∧
      ((reported.allowIn z).surv.compared.find? fun x => x.ctx == z.ctx) = some ⟨0, 5, [5, 7, 0, 0], false⟩ :=
  ⟨hears_member (by decide +kernel), by decide +kernel, by decide +kernel, hears_member (by decide +kernel), by decide +kernel,
    by decide +kernel, hears_member (by decide +kernel), by decide +kernel, by decide +kernel⟩
theorem witness_vote_closes : (holder [⟨0, 5, [], true⟩]).surv.votes.find? Vote.isOpen = some ⟨0, 5, [], true⟩ := by decide +kernel
theorem witness_majority : ((holder []).voteGroups ⟨0, 5, [], true⟩).find? (fun g => (holder []).memberList.length < 2 * g.2) =
    some ([5, 0, 0, 0], 2) := by decide +kernel
theorem witness_no_majority : ∀ g n, (g, n) ∈ (holder []).voteGroups ⟨0, 5, [(1, [9, 9, 9, 9])], true⟩ → 2 * n ≤ (holder []).memberList.length := by
  have h : ((holder []).voteGroups ⟨0, 5, [(1, [9, 9, 9, 9])], true⟩).all (fun g => decide (2 * g.2 ≤ (holder []).memberList.length)) = true := by
    decide +kernel
  exact fun g n hg => by simpa using List.all_eq_true.mp h (g, n) hg
theorem witness_late_verdict :
    (0 : CtxId) ∈ ({ dom with surv := { dom.surv with reported := [0] } } : State).surv.reported ∧ (0 : CtxId) ∉ dom.surv.reported := by
  decide +kernel
theorem witness_fence : dom.rdN .fenceState = 0 ∧ fencedDom.rdN .fenceState ≠ 0 ∧ (∀ c : CtxId, (dom.ctx c).st = .idle) ∧
    ((ctxIn .running).ctx 0).st ≠ .idle := by decide +kernel

/-- A change under way. -/
def Sys2Proof.Tests.change (form : Byte) (prepared : Bool) (holder : Bool) (votes : List (Nat × W32)) (decided : Option Bool) :
    DomApply := ⟨7, form, 0, holder, votes, prepared, decided⟩

theorem witness_domain_apply :
    let s := dom.wr .shxRank 0 0 1
    dom.isHolder = true ∧ ((0x000000007 : W64) >>> 32).truncate 8 = (0 : Byte) ∧ dom.fabric.apply = none ∧ dom.mgmt.armed = none ∧
      ((0x100000007 : W64) >>> 32).truncate 8 = (1 : Byte) ∧
      dom.rdN .globalTime + dom.rdN .shxApplyGuard ≤ (1000000 : W64).toNat ∧
      ({ dom with staged := dom.regs } : State).changesMembers = false ∧ s.isHolder = false ∧
      1 < (((0x200000007 : W64) >>> 32).truncate 8 : Byte).toNat ∧ (dom.setDom (some (change 1 true true [] none))).fabric.apply ≠ none ∧
      ({ dom with mgmt := { dom.mgmt with armed := some ⟨0x10, 2, 0⟩ } } : State).mgmt.armed ≠ none ∧
      (0 : W64).toNat < dom.rdN .globalTime + dom.rdN .shxApplyGuard ∧
      ({ dom with staged := State.reset.regs } : State).changesMembers = true := by decide +kernel
theorem witness_prepare : dom.Hears (heard 0x21 0 [7, 5]) ∧ (dom.allowIn (heard 0x21 0 [7, 5])).rdN .fenceState = 0 ∧
    (dom.allowIn (heard 0x21 0 [7, 5])).fabric.apply = none ∧ fencedDom.Hears (heard 0x21 0 [7, 5]) ∧
    (fencedDom.allowIn (heard 0x21 0 [7, 5])).rdN .fenceState ≠ 0 ∧
    (dom.setDom (some (change 1 true false [] none))).Hears (heard 0x21 0 [7, 5]) ∧
    ((dom.setDom (some (change 1 true false [] none))).allowIn (heard 0x21 0 [7, 5])).fabric.apply ≠ none :=
  ⟨hears (by decide +kernel), by decide +kernel, by decide +kernel, hears (by decide +kernel), by decide +kernel,
    hears (by decide +kernel), by decide +kernel⟩
theorem witness_vote :
    let d := change 1 true true [] none
    let s := dom.setDom (some d)
    s.Hears (heard 0x22 7 []) ∧ (s.allowIn (heard 0x22 7 [])).fabric.apply = some d ∧ d.holder = true ∧
      d.id = (heard 0x22 7 []).w2.truncate 32 ∧ d.decided = none ∧ dom.Hears (heard 0x22 7 []) ∧
      (dom.allowIn (heard 0x22 7 [])).fabric.apply = none :=
  ⟨hears (by decide +kernel), by decide +kernel, by decide +kernel, by decide +kernel, by decide +kernel, hears (by decide +kernel),
    by decide +kernel⟩
theorem witness_other_vote :
    let k := heard 0x22 7 []
    let held (d : DomApply) : State := dom.setDom (some d)
    (held (change 1 true false [] none)).Hears k ∧ (change 1 true false [] none).holder = false ∧
    ((held (change 1 true true [] none)).allowIn (heard 0x22 8 [])).fabric.apply = some (change 1 true true [] none) ∧
      (change 1 true true [] none).id ≠ (heard 0x22 8 []).w2.truncate 32 ∧
    ((held (change 1 true true [] (some true))).allowIn k).fabric.apply = some (change 1 true true [] (some true)) ∧
      (change 1 true true [] (some true)).decided ≠ none :=
  ⟨hears (by decide +kernel), by decide +kernel, by decide +kernel, by decide +kernel, by decide +kernel, by decide +kernel⟩
theorem witness_refused_at_deadline :
    let d := change 1 true true [(0, 0), (1, 0x101)] none
    (dom.setDom (some d)).fabric.apply = some d ∧ d.holder = true ∧ d.decided = none ∧ (1, (0x101 : W32)) ∈ d.votes ∧
      (0x101 : W32) ≠ 0 ∧ ∀ w ∈ d.votes, w.2 ≠ 0 → w = (1, 0x101) ∨ 1 < w.1 := by decide +kernel
theorem witness_deadline :
    let d := change 1 true true [(0, 0), (1, 0)] none
    let e := change 1 true true [(0, 0)] none
    (dom.setDom (some d)).fabric.apply = some d ∧ d.holder = true ∧ d.decided = none ∧
      (∀ r ∈ (dom.setDom (some d)).memberList, ∃ v ∈ d.votes, v.1 = r) ∧ (∀ v ∈ d.votes, v.2 = 0) ∧
      (∃ r ∈ (dom.setDom (some e)).memberList, ∀ v ∈ e.votes, v.1 ≠ r) ∧ (∀ v ∈ e.votes, v.2 = 0) := by decide +kernel
theorem witness_go :
    let k := heard 0x23 7 []
    let d := change 0 true false [] none
    let s := dom.setDom (some d)
    let t := (withItems (dom.setCtx 0 { Ctx.init with st := .running }) []).setDom (some d)
    s.Hears k ∧ bit 63 k.w2 = false ∧ (s.allowIn k).fabric.apply = some d ∧ d.id = k.w2.truncate 32 ∧ d.prepared = true ∧
      d.form = 0 ∧ (s.allowIn k).quiet d.arg = true ∧ t.Hears k ∧ (t.allowIn k).fabric.apply = some d ∧
      (t.allowIn k).quiet d.arg = false ∧ d.id ≠ (heard 0x23 8 []).w2.truncate 32 :=
  ⟨hears (by decide +kernel), by decide +kernel, by decide +kernel, by decide +kernel, by decide +kernel, by decide +kernel,
    by decide +kernel, hears (by decide +kernel), by decide +kernel, by decide +kernel, by decide +kernel⟩
theorem witness_other_go :
    let k := heard 0x23 7 []
    let d := change 0 false false [] none
    (dom.setDom (some d)).Hears k ∧ ((dom.setDom (some d)).allowIn k).fabric.apply = some d ∧ d.prepared = false ∧ dom.Hears k ∧
      (dom.allowIn k).fabric.apply = none :=
  ⟨hears (by decide +kernel), by decide +kernel, by decide +kernel, hears (by decide +kernel), by decide +kernel⟩
theorem witness_other_cancel :
    let k := heard 0x23 (2 ^ 63 + 7) []
    let e := change 1 false false [] none
    let s := ({ dom with mgmt := { dom.mgmt with armed := some ⟨0x10, 2, 0⟩ } } : State).setDom (some e)
    s.Hears k ∧ (s.allowIn k).fabric.apply = some e ∧ e.id = k.w2.truncate 32 ∧ e.prepared = false ∧
      ((s.allowIn k).setDom none).mgmt.armed ≠ none ∧ e.id ≠ (heard 0x23 (2 ^ 63 + 8) []).w2.truncate 32 :=
  ⟨hears (by decide +kernel), by decide +kernel, by decide +kernel, by decide +kernel, by decide +kernel, by decide +kernel⟩
theorem witness_cancel :
    let k := heard 0x23 (2 ^ 63 + 7) []
    let d := change 1 true false [] none
    let e := change 1 false false [] none
    (dom.setDom (some d)).Hears k ∧ bit 63 k.w2 = true ∧ ((dom.setDom (some d)).allowIn k).fabric.apply = some d ∧
      d.id = k.w2.truncate 32 ∧ d.prepared = true ∧ ((dom.setDom (some e)).allowIn k).fabric.apply = some e ∧ e.prepared = false ∧
      (((dom.setDom (some e)).allowIn k).setDom none).mgmt.armed = none ∧ (dom.allowIn k).fabric.apply = none :=
  ⟨hears (by decide +kernel), by decide +kernel, by decide +kernel, by decide +kernel, by decide +kernel, by decide +kernel,
    by decide +kernel, by decide +kernel, by decide +kernel⟩
theorem witness_instant :
    let d := change 1 true false [] (some true)
    let e := change 1 true false [] none
    let late := (dom.setDom (some d)).wr .globalTime 0 0 1
    (dom.setDom (some d)).fabric.apply = some d ∧ d.form = 1 ∧ d.prepared = true ∧
      (dom.setDom (some d)).rd .globalTime = d.arg ∧ d.decided = some true ∧ (dom.setDom (some e)).fabric.apply = some e ∧
      e.decided = none ∧ late.rd .globalTime ≠ d.arg := by decide +kernel

/-! ## Time and multicast -/

theorem witness_time_offset :
    let o (t2 : W64) : Int := ((t2 - 0).toInt - ((0 : W64) - 0).toInt).fdiv 2
    let s := State.reset.wr .timeSource 0 0 1
    State.reset.rdN .timeSource ≠ 1 ∧ s.rdN .timeSource = 1 ∧ (o 8704).natAbs ≤ 64 * 68 ∧ 64 * 68 < (o 8706).natAbs := by
  decide +kernel
theorem witness_time_exchange :
    let s := (dom.wr .shxRank 0 0 1).wr .shxCoord 0 0 0x400
    State.reset.coordOf State.reset.holderRank = none ∧ (∃ root, dom.coordOf dom.holderRank = some root ∧ dom.treeParent root = none) ∧
      ∃ root d minus, s.coordOf s.holderRank = some root ∧ s.treeParent root = some (d, minus) := by
  intro s
  refine ⟨by decide +kernel, ?_, ?_⟩
  · obtain ⟨x, h⟩ := some_of (x := dom.coordOf dom.holderRank) (by decide +kernel)
    refine ⟨x, h, ?_⟩
    have hn : (dom.coordOf dom.holderRank).bind dom.treeParent = none := by decide +kernel
    simpa [h] using hn
  · obtain ⟨x, h⟩ := some_of (x := s.coordOf s.holderRank) (by decide +kernel)
    obtain ⟨y, h'⟩ := some_of (x := (s.coordOf s.holderRank).bind s.treeParent) (by decide +kernel)
    exact ⟨x, y.1, y.2, h, by simpa [h] using h'⟩

/-- The domain over the mapped machine, with the fabric multicast table at 0x1000: group 1 leads from rank 1 to every rank, its
receive ring of a number of lines at 0x300000. -/
def Sys2Proof.Tests.mcastDom (cap : Nat) : State :=
  let s := mapped [(0x1020, [0x300000, 0x0001000000010000, 1])]
  let s := ((s.wr .members 0 0 3).wr .rankMap 0 0 0x80000000).wr .rankMap 0 1 0x80000400
  let s := ((s.wr .torusDims 0 0 0x0400).wr .shxMcastVa 0 0 0x1000).poke 0x300000 (leBytes 8 cap)
  { s with purged := [(0, 0, 2 ^ 48, s.writes)] }

/-- A line of program 2 for group 1. -/
def Sys2Proof.Tests.line : Packet := heard 0x30 0x20001 [0, 0, 0, 0, 0, 0, 0, 0, 64]

/-- The same line as it comes in at port 0. -/
def Sys2Proof.Tests.lineIn : Packet := { line with via := some (0, 0) }

theorem witness_line :
    let s := mcastDom 4
    let full := mcastDom 0
    let gone := { s with fabric := { s.fabric with pruned := [(1, 1, 2)] } }
    s.Hears lineIn ∧ ((s.allowIn lineIn).port 0).mcast = [] ∧ (s.allowIn lineIn).mcastRing line = some 0x300000 ∧
      (s.allowIn lineIn).isPruned line = false ∧
      (∃ t, ((s.allowIn lineIn).unprune line 0x300000).mcastWrite 0x300000 line = some t) ∧
    full.Hears lineIn ∧ ((full.allowIn lineIn).port 0).mcast = [] ∧ (full.allowIn lineIn).mcastRing line = some 0x300000 ∧
      (full.allowIn lineIn).isPruned line = false ∧ ((full.allowIn lineIn).unprune line 0x300000).mcastWrite 0x300000 line = none ∧
    gone.Hears lineIn ∧ ((gone.allowIn lineIn).port 0).mcast = [] ∧ (gone.allowIn lineIn).mcastRing line = some 0x300000 ∧
      (gone.allowIn lineIn).isPruned line = true ∧
    dom.Hears lineIn ∧ ((dom.allowIn lineIn).port 0).mcast = [] ∧ (dom.allowIn lineIn).mcastRing line = none :=
  ⟨hears (by decide +kernel), by decide +kernel, by decide +kernel, by decide +kernel, some_of (by decide +kernel),
    hears (by decide +kernel), by decide +kernel, by decide +kernel, by decide +kernel, by decide +kernel, hears (by decide +kernel),
    by decide +kernel, by decide +kernel, by decide +kernel, hears (by decide +kernel), by decide +kernel, by decide +kernel⟩
theorem witness_old_line :
    let s := (mcastDom 0).setPort 0 { Port.init with mcast := [line] }
    let t := (mcastDom 4).setPort 0 { Port.init with mcast := [line] }
    (s.port 0).mcast.head? = some line ∧ ((s.retryMcast 0).port 0).mcast = [line] ∧ ((t.retryMcast 0).port 0).mcast = [] := by
  decide +kernel
theorem witness_prune : dom.Hears (heard 0x31 0 []) := hears (by decide +kernel)

/-! ## Depots, restores and provenance -/

/-- The domain over the mapped machine, keeping rank 1's depot at 0x800000 in slots of 128 KiB. -/
def Sys2Proof.Tests.depotDom : State :=
  let s := ((mapped []).wr .members 0 0 3).wr .torusDims 0 0 0x0400
  (((s.wr .partnerMap 0 1 0).wr .partnerMap 0 0 1).wr .depotPa 0 0 0x800000).wr .depotSlotBytes 0 0 0x20000

theorem witness_depot_write :
    let k := heard 0x40 0x10020 [1, 2, 3, 4]
    let u := depotDom.allowIn k
    let was := ((u.surv.depot.find? fun e => e.slot = 0 && e.chunk = 0x10020 / 65536 && e.op = k.opSeq).map DepotPart.mask).getD 0
    depotDom.Hears k ∧ bits 63 48 k.w2 = 0 ∧ u.partnerOf k.srcRank = u.rdN .shxRank ∧ k.epoch = u.rdN .epoch ∧
      u.fabricOk true (u.rdN .depotPa + bits 47 0 k.w2) k.data.length = true ∧
      u.slotAt k.srcRank (bits 47 0 k.w2) k.data.length = some (0, 0x10020) ∧
      Nat.lor was ((2 ^ (k.data.length / 32) - 1) * 2 ^ (0x10020 % 65536 / 32)) ≠ 2 ^ 2048 - 1 :=
  ⟨hears (by decide +kernel), by decide +kernel, by decide +kernel, by decide +kernel, by decide +kernel, by decide +kernel,
    by decide +kernel⟩
/-- The same with all of a chunk of slot 0 but its first granules received. -/
def Sys2Proof.Tests.depotFilled (chunk granules : Nat) : State :=
  { depotDom with surv := { depotDom.surv with depot := [⟨0, chunk, 0, 2 ^ 2048 - 2 ^ granules⟩] } }

theorem witness_depot_chunk_whole :
    let k := heard 0x40 0x10000 [1, 2, 3, 4]
    let s := depotFilled 1 1
    let u := s.allowIn k
    let was := ((u.surv.depot.find? fun e => e.slot = 0 && e.chunk = 0x10000 / 65536 && e.op = k.opSeq).map DepotPart.mask).getD 0
    s.Hears k ∧ bits 63 48 k.w2 = 0 ∧ u.partnerOf k.srcRank = u.rdN .shxRank ∧ k.epoch = u.rdN .epoch ∧
      u.fabricOk true (u.rdN .depotPa + bits 47 0 k.w2) k.data.length = true ∧
      u.slotAt k.srcRank (bits 47 0 k.w2) k.data.length = some (0, 0x10000) ∧
      Nat.lor was ((2 ^ (k.data.length / 32) - 1) * 2 ^ (0x10000 % 65536 / 32)) = 2 ^ 2048 - 1 ∧
      (u.depotPut k 0 0x10000).fabricOk true ((u.depotPut k 0 0x10000).hashPa 0 1) 8 = true ∧ 0x10000 / 65536 ≠ 0 :=
  ⟨hears (by decide +kernel), by decide +kernel, by decide +kernel, by decide +kernel, by decide +kernel, by decide +kernel,
    by decide +kernel, by decide +kernel, by decide⟩
theorem witness_depot_seal :
    let k := heard 0x40 0 [0, 0, 0, 0, 0, 0, 2, 0]
    let s := depotFilled 0 2
    let v := (s.allowIn k).depotPut k 0 0
    s.Hears k ∧ (s.allowIn k).slotAt k.srcRank (bits 47 0 k.w2) k.data.length = some (0, 0) ∧ 0 / 65536 = 0 ∧
      v.fabricOk true (v.hashPa 0 0) 8 = true ∧ bit 1 (wordAt (v.bytesAt (v.depotSlot 0) 64) 6) = true :=
  ⟨hears (by decide +kernel), by decide +kernel, by decide, by decide +kernel, by decide +kernel⟩
theorem witness_depot_refused :
    dom.Hears (heard 0x40 0 []) ∧ (dom.allowIn (heard 0x40 0 [])).partnerOf 1 ≠ (dom.allowIn (heard 0x40 0 [])).rdN .shxRank :=
  ⟨hears (by decide +kernel), by decide +kernel⟩
theorem witness_depot_read :
    let k := heard 0x41 0x1F000 []
    let u := depotDom.allowIn k
    let off := bits 47 0 k.w2
    let i := 2 * u.sourceIndex k.srcRank + bits 48 48 k.w2
    depotDom.Hears k ∧ bit 63 k.w2 = false ∧ u.partnerOf k.srcRank = u.rdN .shxRank ∧ i < 8 ∧ off + 4096 ≤ u.rdN .depotSlotBytes ∧
      u.fabricOk false (u.depotSlot i + off) 4096 = true ∧ u.fabricOk false (u.hashPa i (off / 65536)) 8 = true ∧
      (∃ bs, u.readPa (u.depotSlot i + off) 4096 = .ok bs) ∧ off % 65536 ≠ 0 :=
  ⟨hears (by decide +kernel), by decide +kernel, by decide +kernel, by decide +kernel, by decide +kernel, by decide +kernel,
    by decide +kernel, ok_of (by decide +kernel), by decide +kernel⟩
theorem witness_depot_chunk :
    let k := heard 0x41 0x10000 []
    let u := depotDom.allowIn k
    let off := bits 47 0 k.w2
    let i := 2 * u.sourceIndex k.srcRank + bits 48 48 k.w2
    depotDom.Hears k ∧ bit 63 k.w2 = false ∧ u.partnerOf k.srcRank = u.rdN .shxRank ∧ i < 8 ∧ off + 4096 ≤ u.rdN .depotSlotBytes ∧
      u.fabricOk false (u.depotSlot i + off) 4096 = true ∧ u.fabricOk false (u.hashPa i (off / 65536)) 8 = true ∧
      (∃ bs, u.readPa (u.depotSlot i + off) 4096 = .ok bs) ∧ off % 65536 = 0 ∧ u.poisonIn (u.hashPa i (off / 65536)) 8 = none :=
  ⟨hears (by decide +kernel), by decide +kernel, by decide +kernel, by decide +kernel, by decide +kernel, by decide +kernel,
    by decide +kernel, ok_of (by decide +kernel), by decide +kernel, by decide +kernel⟩
theorem witness_shared_block :
    let k := heard 0x41 (2 ^ 63) []
    let s := ((mapped [(0x1000, [1, 0, 0, 0, 0, 0, 0, 0, 0x10000, 0x10000])]).wr .sharedManifestVa 0 0 0x1000).wr .members 0 0 3
    let u := s.allowIn k
    s.Hears k ∧ bit 63 k.w2 = true ∧ bit 62 k.w2 = false ∧ (u.ctx k.ctx).st = .idle ∧ u.rdN .fenceState = 0 ∧
      ∃ pa bs, u.sharedPa k.ctx (bits 47 0 k.w2) false = .ok pa ∧ u.readPa pa 4096 = .ok bs := by
  intro k s u
  refine ⟨hears (by decide +kernel), by decide +kernel, by decide +kernel, by decide +kernel, by decide +kernel, ?_⟩
  obtain ⟨pa, h⟩ := ok_of (x := u.sharedPa k.ctx (bits 47 0 k.w2) false) (by decide +kernel)
  have h' : ((u.sharedPa k.ctx (bits 47 0 k.w2) false).bind fun pa => u.readPa pa 4096).toBool = true := by decide +kernel
  rw [h] at h'
  obtain ⟨bs, h'⟩ := ok_of (x := u.readPa pa 4096) h'
  exact ⟨pa, bs, h, h'⟩
theorem witness_shared_read :
    let k := heard 0x41 (2 ^ 63) []
    let s := dom.setCtx 0 { Ctx.init with st := .running }
    s.Hears k ∧ bit 63 k.w2 = true ∧ ((s.allowIn k).ctx k.ctx).st ≠ .idle ∧ fencedDom.Hears k ∧
      (fencedDom.allowIn k).rdN .fenceState ≠ 0 :=
  ⟨hears (by decide +kernel), by decide +kernel, by decide +kernel, hears (by decide +kernel), by decide +kernel⟩

/-- A `SNAPSHOT` that waits for rank 1's answer to its operation 0. -/
def Sys2Proof.Tests.snapItem : Item :=
  { item 13 .working [0] with desc := ⟨BitVec.ofNat 64 (head 13), 0, 0, 1, 0, 0, 0, 0⟩ }

theorem witness_depot_data :
    let k := heard 0x42 0 []
    let s := withItems dom [snapItem]
    let x : Restore := ⟨0, 1, 1, 0, 0, 0, 0, 65536, 0, 0, none⟩
    let t := { dom with surv := { dom.surv with restores := [x] } }
    let v : Prov := ⟨1, 0, false, 0, 0, 0, none⟩
    let w := { dom with surv := { dom.surv with prov := some v } }
    let snap (u : State) : Option Item := u.items.find? fun i =>
      i.desc.opcode = 13 && i.phase = .working && i.pos = [k.opSeq] && i.desc.nPartner = k.srcRank
    let copy (u : State) : Option Restore := u.surv.restores.find? fun x => x.op = k.opSeq && x.peer = k.srcRank
    s.Hears k ∧ snap (s.allowIn k) = some snapItem ∧ t.Hears k ∧ snap (t.allowIn k) = none ∧ copy (t.allowIn k) = some x ∧
      w.Hears k ∧ snap (w.allowIn k) = none ∧ copy (w.allowIn k) = none ∧ (w.allowIn k).surv.prov = some v ∧ v.op = k.opSeq ∧
      v.peer = k.srcRank ∧ dom.Hears k ∧ (dom.allowIn k).surv.prov = none :=
  ⟨hears (by decide +kernel), by decide +kernel, hears (by decide +kernel), by decide +kernel, by decide +kernel,
    hears (by decide +kernel), by decide +kernel, by decide +kernel, by decide +kernel, by decide +kernel, by decide +kernel,
    hears (by decide +kernel), by decide +kernel⟩
theorem witness_restore :
    let bs := bytesOf [0x0000000000010001, 0, 0x800000, 0x10000]
    let bad := bytesOf [0x0000000000020001, 0, 0x800000, 0x10000]
    let busy := { depotDom with surv := { depotDom.surv with restores := [⟨0, 1, 1, 0, 0, 0, 0, 65536, 0, 0, none⟩] } }
    depotDom.restoreBad bs = false ∧ (depotDom.surv.restores.any fun y => y.slot = (restoreOf bs).slot) = false ∧
      depotDom.restoreBad bad = true ∧ (busy.surv.restores.any fun y => y.slot = (restoreOf bs).slot) = true := by decide +kernel
theorem witness_provenance : (0x000F0001 : W32).toNat / 65536 % 256 < 16 ∧ State.reset.surv.prov = none ∧
    15 < (0x00100001 : W32).toNat / 65536 % 256 := by decide +kernel

/-! ## Rings and the context page -/

theorem Sys2Proof.Tests.page_open {s : State} {f : CtxId} (h : (s.endpoint f && !s.isMemberMode) = true) : s.PageOpen f := by
  simpa [State.PageOpen] using h

/-- Context 0 with a submission ring of 2 entries and a completion ring of 16, two records written. -/
def Sys2Proof.Tests.rings : State :=
  ((State.reset.wr .sqCfg 0 0 0x80000001).wr .cqCfg 0 0 0x80000004).wr .cqTail 0 0 2

theorem witness_page_open : rings.PageOpen 0 ∧ State.reset.endpoint 1 = false :=
  ⟨page_open (by decide +kernel), by decide +kernel⟩
theorem witness_standby_page :
    let s := State.reset.wr .pwrState 0 0 1
    s.configOnly 0 = true ∧ s.isMemberMode = false ∧ s.endpoint 0 = false ∧ isMailbox 0x128 = false := by decide +kernel
theorem witness_tail :
    let cfg := rings.rd .sqCfg 0
    let head : W32 := (rings.rd .sqHead 0).truncate 32
    (bit 31 cfg = true ∧ ((2 : W32) - head).toNat ≤ 2 ^ bits 3 0 cfg ∧ ((rings.ctx 0).sqTail - head).toNat ≤ ((2 : W32) - head).toNat) ∧
      ¬ (((3 : W32) - head).toNat ≤ 2 ^ bits 3 0 cfg) ∧ bit 31 (State.reset.rd .sqCfg 0) = false := by decide +kernel
theorem witness_head :
    let cfg := rings.rd .cqCfg 0
    let tail : W32 := (rings.rd .cqTail 0).truncate 32
    (bit 31 cfg = true ∧ (tail - 2).toNat ≤ 2 ^ bits 4 0 cfg ∧ (tail - 2).toNat ≤ (tail - (rings.ctx 0).cqHead).toNat) ∧
      ¬ ((tail - 3).toNat ≤ 2 ^ bits 4 0 cfg) := by decide +kernel
theorem witness_ring_configured :
    let s := (State.reset.wr .sqCfg 0 0 12).wr .cqCfg 0 0 16
    s.PageOpen 0 ∧ bit 31 ((0x8000000C : W32).zeroExtend 64) = true ∧ bit 31 (s.rd .sqCfg 0) = false ∧
      ringWriteOk ((s.ctx 0).st = .idle) (s.rd .sqCfg 0) ((0x8000000C : W32).zeroExtend 64) 4 1 12 = true ∧
      ringWriteOk ((s.ctx 0).st = .idle) (s.rd .sqCfg 0) ((0x8000000D : W32).zeroExtend 64) 4 1 12 = false ∧
      bit 31 (s.rd .cqCfg 0) = false ∧
      ringWriteOk ((s.ctx 0).st = .idle) (s.rd .cqCfg 0) ((0x80000010 : W32).zeroExtend 64) 5 4 16 = true ∧
      ringWriteOk ((s.ctx 0).st = .idle) (s.rd .cqCfg 0) ((0x80000003 : W32).zeroExtend 64) 5 4 16 = false :=
  ⟨page_open (by decide +kernel), by decide +kernel, by decide +kernel, by decide +kernel, by decide +kernel, by decide +kernel,
    by decide +kernel, by decide +kernel⟩
theorem witness_entry_fetched :
    ((State.reset.setCtx 0 { Ctx.init with fetching := true }).ctx 0).fetching = true ∧
    ((State.reset.setCtx 0 { Ctx.init with fetching := true }).ctx 0).st = .idle ∧
    ((State.reset.setCtx 0 { Ctx.init with fetching := true, st := .running }).ctx 0).fetching = true ∧
    ((State.reset.setCtx 0 { Ctx.init with fetching := true, st := .running }).ctx 0).st ≠ .idle := by decide +kernel
theorem witness_mailbox :
    let s := State.reset.wr .mbxCtrl 0 0 16
    let t := State.reset.wr .mbxCtrl 0 0 (2 ^ 30 + 16)
    s.PageOpen 0 ∧ bit 30 (s.rd .mbxCtrl 0) = false ∧ bits 11 0 (s.rd .mbxCtrl 0) ≠ 0 ∧ t.PageOpen 0 ∧
      bit 30 (t.rd .mbxCtrl 0) = true ∧ State.reset.PageOpen 0 ∧ bits 11 0 (State.reset.rd .mbxCtrl 0) = 0 :=
  ⟨page_open (by decide +kernel), by decide +kernel, by decide +kernel, page_open (by decide +kernel), by decide +kernel,
    page_open (by decide +kernel), by decide +kernel⟩

/-! ## Interrupts, resets, the window and the aperture -/

theorem witness_message :
    let s := State.reset.wr .msixTable 0 (4 * 255 + 3) 0
    bit 0 (s.rd .msixTable 0 (4 * 255 + 3)) = false ∧ s.fnOn 0 = true ∧ bit 0 (State.reset.rd .msixTable 0 (4 * 255 + 3)) = true ∧
      State.reset.fnOn 1 = false := by decide +kernel
theorem witness_function_reset :
    let s := { State.reset with vfs := 0x8000 }
    s.endpoint 15 = true ∧ (15 : CtxId).val ≠ 0 ∧ s.endpoint 0 = true := by decide +kernel
theorem witness_link_up : State.reset.linkPowered = true ∧ (State.reset.wr .pwrState 0 0 1).linkPowered = true := by decide +kernel

/-- The mapped machine whose physical function may reach it. -/
theorem witness_window_write :
    (mapped []).PageOpen 0 ∧ (List.replicate 64 (7 : Byte)) ≠ [] ∧
      ((mapped []).rdN .winBase 0 + (0x40 : BitVec 34).toNat) % 64 + (List.replicate 64 (7 : Byte)).length ≤ 64 ∧
      ∃ pa, (mapped []).reach (.host 0) ((mapped []).rdN .winBase 0 + (0x40 : BitVec 34).toNat) 64 true = .ok pa ∧
        (mapped []).poisonPart pa 64 = none := by
  refine ⟨page_open (by decide +kernel), by decide, by decide +kernel, ?_⟩
  obtain ⟨pa, h⟩ := ok_of (x := (mapped []).reach (.host 0) ((mapped []).rdN .winBase 0 + (0x40 : BitVec 34).toNat) 64 true)
    (by decide +kernel)
  exact ⟨pa, h, by rfl⟩
theorem witness_window_read :
    let denied := (mapped []).wr .polderTable 0 7 0x200
    0 < 64 ∧ (∃ pa, (mapped []).reach (.host 0) ((mapped []).rdN .winBase 0 + 0) 64 false = .ok pa ∧
        (mapped []).poisonIn pa 64 = none) ∧
      State.reset.PageOpen 0 ∧ (∃ a r l w, State.reset.reach (.host 0) (State.reset.rdN .winBase 0 + 0) 64 false =
        .error (.fault a r l w)) ∧ denied.PageOpen 0 ∧ denied.reach (.host 0) (denied.rdN .winBase 0 + 0) 64 false = .error .denied := by
  intro denied
  refine ⟨by decide, ?_, page_open (by decide +kernel), ⟨_, _, _, _, rfl⟩, page_open (by decide +kernel), ?_⟩
  · obtain ⟨pa, h⟩ := ok_of (x := (mapped []).reach (.host 0) ((mapped []).rdN .winBase 0 + 0) 64 false) (by decide +kernel)
    exact ⟨pa, h, by rfl⟩
  · have hb : (match denied.reach (.host 0) (denied.rdN .winBase 0 + 0) 64 false with
      | .error .denied => true
      | _ => false) = true := by decide +kernel
    split at hb <;> simp_all

/-- A portal with members 0 and 1. -/
def Sys2Proof.Tests.portal : State :=
  ((dom.wr .portalMode 0 0 1).wr .portalGroup 0 0 0x80000000).wr .portalGroup 0 1 0x80000001

theorem witness_aperture : portal.endpoint 0 = true ∧ portal.rdN .portalMode = 1 ∧
    apertureAt (0x0FFFFFFF : BitVec 35).toNat = some (0, 2, 0x0FFFFFFF) ∧ bit 31 (portal.rd .portalGroup 0 0) = true ∧
    apertureAt (0x400010000 : BitVec 35).toNat = some (1, 0, 0) ∧ bit 31 (portal.rd .portalGroup 0 1) = true ∧
    apertureAt (0x400400000 : BitVec 35).toNat = none ∧ bit 31 ((portal.wr .portalGroup 0 1 1).rd .portalGroup 0 1) = false ∧ State.reset.rdN .portalMode ≠ 1 := by decide +kernel

/-! ## The tunnel -/

/-- A member of a group whose portal is rank 1. -/
def Sys2Proof.Tests.member : State := (dom.wr .portalMode 0 0 2).wr .portalSelf 0 0 1

theorem witness_unmask :
    let s := State.reset.wr .msixPba 0 3 (2 ^ 63)
    s.PageOpen 0 ∧ bit ((255 : Byte).toNat % 64) (s.rd .msixPba 0 ((255 : Byte).toNat / 64)) = true ∧
      State.reset.PageOpen 0 ∧ bit ((255 : Byte).toNat % 64) (State.reset.rd .msixPba 0 ((255 : Byte).toNat / 64)) = false ∧
      member.endpoint 0 = true ∧ member.isMemberMode = true :=
  ⟨page_open (by decide +kernel), by decide +kernel, page_open (by decide +kernel), by decide +kernel, by decide +kernel,
    by decide +kernel⟩
theorem witness_member_serves :
    let k := heard 0x50 (2 * 2 ^ 48) [8, 1]
    let q := heard 0x50 0 [8, 1]
    member.Hears k ∧ (member.allowIn k).isMemberMode = true ∧ k.srcRank = (member.allowIn k).portalRank ∧ bits 51 48 k.w2 = 2 ∧
      member.Hears q ∧ q.srcRank = (member.allowIn q).portalRank ∧ bits 51 48 q.w2 ≠ 2 :=
  ⟨hears (by decide +kernel), by decide +kernel, by decide +kernel, by decide +kernel, hears (by decide +kernel), by decide +kernel,
    by decide +kernel⟩
theorem witness_strange_tunnel :
    let s := member.wr .portalSelf 0 0 0
    s.Hears (heard 0x50 0 []) ∧ (s.allowIn (heard 0x50 0 [])).isMemberMode = true ∧
      (heard 0x50 0 []).srcRank ≠ (s.allowIn (heard 0x50 0 [])).portalRank :=
  ⟨hears (by decide +kernel), by decide +kernel, by decide +kernel⟩
theorem witness_completion :
    let k := heard 0x52 0 []
    let x : TunRead := ⟨0, 0, 8, 0⟩
    let s := { member with fabric := { member.fabric with tunnels := [x] } }
    let t := { portal with fabric := { portal.fabric with tunnels := [x] } }
    s.Hears k ∧ (s.allowIn k).isMemberMode = true ∧ k.srcRank = (s.allowIn k).portalRank ∧ (s.allowIn k).tunnelOf k.opSeq = some x ∧
      t.Hears k ∧ (t.allowIn k).isMemberMode = false ∧ ((t.allowIn k).groupIndex k.srcRank).isSome = true ∧
      (t.allowIn k).rdN .portalMode = 1 ∧ (t.allowIn k).tunnelOf k.opSeq = some x :=
  ⟨hears (by decide +kernel), by decide +kernel, by decide +kernel, by decide +kernel, hears (by decide +kernel), by decide +kernel,
    by decide +kernel, by decide +kernel, by decide +kernel⟩
theorem witness_portal_serves :
    let k := heard 0x53 0x1000 [8]
    let q : Packet := Packet.sealed { k with w0 := k.w0 ||| 0x1000000000 }
    portal.Hears k ∧ (portal.allowIn k).rdN .portalMode = 1 ∧ (portal.allowIn k).groupIndex k.srcRank = some 1 ∧
      (portal.allowIn k).fnOn k.ctx = true ∧ (portal.allowIn k).pcie.busOff.getLsbD k.ctx.val = false ∧ (wordAt k.data 0).toNat ≤ (List.replicate 8 (0 : Byte)).length ∧
      portal.Hears q ∧ (portal.allowIn q).groupIndex q.srcRank = some 1 ∧ (portal.allowIn q).fnOn q.ctx = false :=
  ⟨hears (by decide +kernel), by decide +kernel, by decide +kernel, by decide +kernel, by decide +kernel, by decide +kernel,
    hears (by decide +kernel), by decide +kernel, by decide +kernel⟩
theorem witness_requests_cut : 0 < State.reset.pcie.mps ∧ State.reset.pcie.mps = 128 ∧ 0 < State.reset.pcie.mrrs ∧
    (List.replicate 64 (7 : Byte)).length ≤ State.reset.pcie.mps ∧ 64 ≤ State.reset.pcie.mrrs := by decide +kernel
theorem test_write_is_cut : ((State.reset.postWrites 0 0x1000 (List.replicate 200 7)).out.map fun
    | .hostWrite _ a d => (a, d.length)
    | _ => (0, 0)) = [(0x1000, 128), (0x1080, 72)] := by decide +kernel
theorem witness_tunnel_timeout :
    let s := { portal with fabric := { portal.fabric with tunnels := [⟨3, 0, 8, 0⟩, ⟨4, 0, 32, 1⟩] } }
    s.tunnelOf (3 : W32).toNat = some ⟨3, 0, 8, 0⟩ ∧ s.tunnelOf (4 : W32).toNat = some ⟨4, 0, 32, 1⟩ := by decide +kernel

/-! ## Dictionary operations -/

/-- The management controller asked by function 0's mailbox, and a staging image with a split of 3. -/
def Sys2Proof.Tests.badStaged : State := State.reset.wrStaged .dikeSplit 0 0 3

/-- A change armed for instant 5,000. -/
def Sys2Proof.Tests.armedAt (t : W64) : State :=
  { State.reset.wr .globalTime 0 0 t with mgmt := ⟨some ⟨0x10, 2, 5000⟩, [], []⟩ }

theorem witness_read :
    State.reset.Serves (.mailbox 0) ⟨1, (0x2000 : BitVec 16).toNat, (8 : Byte).toNat, 0, (0 : W32).toNat, (2 : BitVec 16).toNat, []⟩ ∧
    State.reset.readEntry false (0x2000 : BitVec 16).toNat (8 : Byte).toNat (0 : W32).toNat (2 : BitVec 16).toNat = .ok [0x10, 0x0E] ∧
    State.reset.readEntry false (0xF000 : BitVec 16).toNat (8 : Byte).toNat (0 : W32).toNat (2 : BitVec 16).toNat = .error .locked ∧
    State.reset.Serves (.mailbox 0) ⟨3, (0x2000 : BitVec 16).toNat, (13 : Byte).toNat, 0, (0 : W32).toNat, (1 : BitVec 16).toNat, []⟩ ∧
    State.reset.readEntry true (0x2000 : BitVec 16).toNat (13 : Byte).toNat (0 : W32).toNat (1 : BitVec 16).toNat = .ok [0] := by
  unfold State.Serves
  decide +kernel
theorem witness_describe :
    State.reset.Serves (.mailbox 0) ⟨7, (0x2000 : BitVec 16).toNat, (13 : Byte).toNat, 0, 0, 0, []⟩ ∧
    findEntry (0x2000 : BitVec 16).toNat (13 : Byte).toNat = .ok (.refSelect, 0) ∧
    State.reset.Serves (.mailbox 0) ⟨8, 0, 0, (64 : W32).toNat, 0, 8, leBytes 8 (0 : W64).toNat⟩ := by
  unfold State.Serves
  decide +kernel
theorem witness_write :
    let a := armedAt 0
    State.reset.Serves (.mailbox 0) ⟨2, (0x2000 : BitVec 16).toNat, (13 : Byte).toNat, 0, (0 : W32).toNat, [(1 : Byte)].length, [1]⟩ ∧
    a.Serves (.mailbox 0) ⟨2, (0x2000 : BitVec 16).toNat, (13 : Byte).toNat, 0, (0 : W32).toNat, [(1 : Byte)].length, [1]⟩ ∧
    findEntry (0x2000 : BitVec 16).toNat (13 : Byte).toNat = .ok (.refSelect, 0) ∧ (Obj.info .refSelect).acc = .rws ∧
    (Obj.info .refSelect).writeElems (0 : W32).toNat [1] = some [(0, 1)] ∧
    ([(0, 1)].any fun e : Nat × Nat => (Obj.info .refSelect).badValue e.2) = false ∧
    State.reset.mgmt.armed = none ∧ a.mgmt.armed ≠ none ∧
    (State.reset.stageElems .refSelect 0 [(0, 1)]).staged ≠ State.reset.staged ∧
    (State.reset.stageElems .refSelect 0 [(0, 0)]).staged = State.reset.staged := by
  unfold State.Serves
  decide +kernel
theorem witness_write_at_once :
    State.reset.Serves (.mailbox 0) ⟨2, (0x8000 : BitVec 16).toNat, (13 : Byte).toNat, 0, (0 : W32).toNat, [(1 : Byte)].length, [1]⟩ ∧
    findEntry (0x8000 : BitVec 16).toNat (13 : Byte).toNat = .ok (.timeSource, 0) ∧ (Obj.info .timeSource).acc = .rw ∧
    (Obj.info .timeSource).writeElems (0 : W32).toNat [1] = some [(0, 1)] ∧
    ([(0, 1)].any fun e : Nat × Nat => (Obj.info .timeSource).badValue e.2) = false ∧ hasAction .timeSource = false ∧
    (State.reset.writeRw .timeSource 0 [(0, 1)]).toBool = true := by
  unfold State.Serves
  decide +kernel
theorem witness_register_write :
    State.reset.mgmtUp = true ∧ findEntry (0x2000 : BitVec 16).toNat (13 : Byte).toNat = .ok (.refSelect, 0) ∧
    (Obj.info .refSelect).writeElems ((Obj.info .refSelect).size * 0) (leBytes (Obj.info .refSelect).size (1 : W64).toNat) =
      some [(0, 1)] ∧
    ([(0, 1)].any fun e : Nat × Nat => (Obj.info .refSelect).badValue e.2) = false ∧ (Obj.info .refSelect).acc = .rws ∧
    State.reset.mgmt.armed = none := by decide +kernel
theorem witness_check :
    State.reset.Serves (.mailbox 0) ⟨4, 0, 0, 0, 0, 8, (0x10 : Byte) :: zeros 7⟩ ∧
    badStaged.Serves (.mailbox 0) ⟨4, 0, 0, 0, 0, 8, (0x10 : Byte) :: zeros 7⟩ ∧ (0 : W32).toNat = 0 ∧
    (1 : W32).toNat = State.reset.rdN .stageGen ∧ State.reset.mgmt.armed = none ∧ badStaged.mgmt.armed = none ∧
    (0x10 : Byte).toNat ≤ 0x10 ∧ (State.reset.runCheck (State.reset.rdN .stageGen) (0x10 : Byte).toNat false).1 = none ∧
    (badStaged.runCheck (badStaged.rdN .stageGen) (0x10 : Byte).toNat false).1 ≠ none := by
  unfold State.Serves
  decide +kernel
theorem witness_apply_now :
    State.reset.Serves (.mailbox 0) ⟨5, 0, 0, 0, 0, 16, (0x10 : Byte) :: (0 : Byte) :: zeros 6 ++ leBytes 8 (0 : W64).toNat⟩ ∧
    State.reset.mgmt.armed = none ∧ (State.reset.runCheck (State.reset.rdN .stageGen) (0x10 : Byte).toNat true).1 = none := by
  unfold State.Serves
  decide +kernel
theorem witness_apply_armed :
    State.reset.Serves (.mailbox 0) ⟨5, 0, 0, 0, 0, 16, (0x10 : Byte) :: (2 : Byte) :: zeros 6 ++ leBytes 8 (1000 : W64).toNat⟩ ∧
    State.reset.mgmt.armed = none ∧ (State.reset.runCheck (State.reset.rdN .stageGen) (0x10 : Byte).toNat true).1 = none ∧
    (State.reset.runCheck (State.reset.rdN .stageGen) (0x10 : Byte).toNat true).2.rdN .globalTime + 1000 ≤ (1000 : W64).toNat ∧
    (7 : W32).toNat ≠ 0 ∧ (7 : W32).toNat ≠ State.reset.rdN .stageGen := by
  unfold State.Serves
  decide +kernel
theorem witness_discard :
    State.reset.Serves (.mailbox 0) ⟨6, 0, 0, 0, 0, 8, (0x10 : Byte) :: zeros 7⟩ ∧
    (armedAt 0).Serves (.mailbox 0) ⟨6, 0, 0, 0, 0, 8, (0x10 : Byte) :: zeros 7⟩ ∧ State.reset.mgmt.armed = none ∧
    (armedAt 0).mgmt.armed ≠ none ∧ (badStaged.discardScope 0x10).staged ≠ badStaged.staged ∧
    (State.reset.discardScope 0x10).staged = State.reset.staged := by
  unfold State.Serves
  decide +kernel
theorem witness_armed_change :
    (armedAt 5000).mgmt.armed = some ⟨0x10, 2, 5000⟩ ∧ (armedAt 5000).rd .globalTime = 5000 ∧
    (armedAt 4999).mgmt.armed = some ⟨0x10, 2, 5000⟩ ∧ (armedAt 4999).rd .globalTime ≠ 5000 := by decide +kernel
theorem witness_persistent : ({ State.reset with storing := true } : State).storing = true := rfl

/-- A segment frame of one `READ` of `POWER_CAP`, and one of one `WRITE` of nothing. -/
def Sys2Proof.Tests.readFrame : List Byte :=
  (leBytes 8 (32 * 2 ^ 48 + 2 ^ 32 + 7 * 2 ^ 16 + 1)) ++ zeros 8 ++ zeros 16
def Sys2Proof.Tests.writeFrame : List Byte :=
  (leBytes 8 (32 * 2 ^ 48 + 2 ^ 32 + 7 * 2 ^ 16 + 1)) ++ zeros 8 ++ (2 :: zeros 15)

/-- The management controller with a response kept for request 7 of identifier 9. -/
def Sys2Proof.Tests.kept : State := { State.reset with mgmt := ⟨none, [⟨9, 7, [1]⟩], []⟩ }

theorem witness_frame :
    let src : FrameFrom := ⟨.segment 9, 5000, false, true⟩
    let find (s : State) := s.mgmt.kept.find? fun k => k.iid = 9 && k.reqId = BitVec.ofNat 16 (bits 31 16 (wordAt readFrame 0))
    src.who = .segment 9 ∧ State.reset.mgmtUp = true ∧ kept.mgmtUp = true ∧ src.transportOk = true ∧ src.multicast = false ∧
      find State.reset = none ∧ hasWrite readFrame = false ∧ hasWrite writeFrame = true ∧ find kept = some ⟨9, 7, [1]⟩ ∧
      readsOnly writeFrame = false ∧ ({ src with transportOk := false } : FrameFrom).transportOk = false := by decide +kernel
theorem witness_mailbox_request :
    let s := { State.reset.wr .mbxCtrl 0 0 (2 ^ 30 + 16) with mgmt := ⟨none, [], [(0, 16)]⟩ }
    State.reset.mgmtUp = true ∧ State.reset.asks (.mailbox 0) = true ∧ bit 30 (s.rd .mbxCtrl 0) = true ∧ s.mgmtUp = true ∧
    s.asks (.mailbox 0) = true ∧ (s.mgmt.asked.find? fun e => e.1 = (0 : CtxId)) = some (0, 16) ∧
    bit 30 (State.reset.rd .mbxCtrl 0) = false := by decide +kernel
theorem witness_neighbour : State.reset.rdN .pwrState ≠ 0 ∧ State.reset.ownIid = State.reset.ownIid ∧
    ∃ x : W64, x ≠ State.reset.ownIid := ⟨by decide +kernel, rfl, State.reset.ownIid + 1, by simp⟩

/-! ## Power states -/

/-- The machine after reset in a power state. -/
def Sys2Proof.Tests.inPower (p : W64) : State := State.reset.wr .pwrState 0 0 p

/-- A sample with this temperature at die 0 and 25 °C elsewhere, and this input power. -/
def Sys2Proof.Tests.sampleOf (tj : BitVec 16) (mw : W32) : ThermalData := ⟨tj, 250, 250, 250, 250, 48000, mw, 12000, 40000⟩

theorem witness_standby : (inPower 0).rdN .pwrState = 0 ∧ (inPower 1).rdN .pwrState ≠ 0 ∧ (inPower 0).rdN .pwrState ≤ 1 ∧
    (inPower 1).rdN .pwrState ≤ 1 ∧ 1 < (inPower 2).rdN .pwrState := by decide +kernel
theorem witness_qualified : (inPower 1).rdN .pwrState = 1 ∧ (inPower 1).power.tripLatch = false ∧
    (inPower 1).power.overLatch = false ∧ (inPower 1).power.retryWait = false ∧ (inPower 1).power.exhausted = false ∧
    State.reset.rdN .pwrState ≠ 1 := by decide +kernel
theorem witness_power_up :
    let s1 := (inPower 2).setPower { State.reset.power with group := 1 }
    let s4 := (inPower 2).setPower { State.reset.power with group := 4 }
    (inPower 2).rdN .pwrState = 2 ∧ (inPower 2).power.group = 0 ∧ 1350 ≤ (27000 : W32).toNat / 20 ∧
      (27000 : W32).toNat / 20 < 2 ^ 16 ∧ (26999 : W32).toNat / 20 < 1350 ∧ s1.rdN .pwrState = 2 ∧ (1 : Fin 5).val = s1.power.group ∧ (1 : Fin 5).val < 4 ∧
      s4.rdN .pwrState = 2 ∧ (4 : Fin 5).val = s4.power.group := by decide +kernel
theorem witness_power_retry :
    let s1 := (inPower 2).setPower { State.reset.power with group := 1 }
    s1.rdN .pwrState = 2 ∧ (1 : Fin 5).val ≠ 0 ∧ (1 : Fin 5).val = s1.power.group ∧
      (State.reset.setPower { State.reset.power with retryWait := true }).power.retryWait = true := by decide +kernel
theorem witness_save : State.reset.rdN .pwrState = 3 ∧ (inPower 2).rdN .pwrState = 2 ∧ (inPower 4).rdN .pwrState = 4 := by
  decide +kernel
theorem witness_sample : State.reset.rdN .pwrState ≠ 0 ∧
    ((State.reset.takeReadings (sampleOf 250 0)).coolant (sampleOf 250 0)).running = true ∧ (inPower 1).rdN .pwrState ≠ 0 ∧
    (((inPower 1).takeReadings (sampleOf 250 0)).coolant (sampleOf 250 0)).running = false := by decide +kernel
theorem witness_trip :
    let s := State.reset.setPower { State.reset.power with tripRun := [0, 0, 1, 0] }
    s.rdN .pwrState = 3 ∧ s.power.tripLatch = false ∧ 1 ≤ s.power.tripRun.getD (2 : Fin 4).val 0 ∧
      1050 ≤ ((tjList ⟨250, 250, 1050, 250, 250, 48000, 0, 12000, 40000⟩).getD (2 : Fin 4).val 0).toInt := by decide +kernel
theorem witness_hot : ∃ x ∈ tjList (sampleOf 950 0), (10 * State.reset.rdN .tjThrottleC : Int) ≤ x.toInt :=
  ⟨950, by decide, by decide +kernel⟩
theorem witness_heavy : 1000 * State.reset.rdN .powerCap < (sampleOf 250 3600001).inMw.toNat := by decide +kernel
theorem witness_cool :
    (¬ ∃ x ∈ tjList (sampleOf 920 0), (10 * State.reset.rdN .tjThrottleC : Int) ≤ x.toInt) ∧
    (∀ x ∈ tjList (sampleOf 920 0), x.toInt + 30 ≤ 10 * State.reset.rdN .tjThrottleC) ∧
    ¬ 1000 * State.reset.rdN .powerCap < (sampleOf 920 3528000).inMw.toNat ∧
    100 * (sampleOf 920 3528000).inMw.toNat ≤ 98 * (1000 * State.reset.rdN .powerCap) := by
  have h : ((tjList (sampleOf 920 0)).all fun x => decide (x.toInt + 30 ≤ 10 * State.reset.rdN .tjThrottleC)) = true := by
    decide +kernel
  rw [List.all_eq_true] at h
  simp only [decide_eq_true_eq] at h
  exact ⟨fun ⟨x, hx, h'⟩ => by have := h x hx; omega, h, by decide +kernel, by decide +kernel⟩
theorem witness_between :
    (¬ ∃ x ∈ tjList (sampleOf 921 0), (10 * State.reset.rdN .tjThrottleC : Int) ≤ x.toInt) ∧
    ¬ (∀ x ∈ tjList (sampleOf 921 0), x.toInt + 30 ≤ 10 * State.reset.rdN .tjThrottleC) ∧
    ¬ 1000 * State.reset.rdN .powerCap < (sampleOf 921 0).inMw.toNat := by
  have h : ((tjList (sampleOf 921 0)).all fun x => decide (x.toInt < 10 * State.reset.rdN .tjThrottleC)) = true := by
    decide +kernel
  rw [List.all_eq_true] at h
  simp only [decide_eq_true_eq] at h
  refine ⟨fun ⟨x, hx, h'⟩ => by have := h x hx; omega, fun h' => ?_, by decide +kernel⟩
  exact absurd (h' 921 (by decide)) (by decide +kernel)

/-! ## Module reset and the reference clock -/

theorem witness_module_reset :
    let asked := State.reset.setPower { State.reset.power with asked := [(8, false)] }
    State.reset.power.tripLatch = false ∧ State.reset.power.overLatch = false ∧ asked.power.asked = (8, false) :: [] ∧
      State.reset.power.asked = [] ∧ State.reset.running = true ∧ (State.reset.wr .pwrState 0 0 4).rdN .pwrState = 4 := by decide +kernel
theorem witness_latches :
    let s := State.reset.setPower { State.reset.power with overLatch := true }
    let hot := (State.reset.wr .tjMaxC 0 3 851).setPower { State.reset.power with tripLatch := true }
    s.power.overLatch = true ∧ s.latchClearable = true ∧ s.rdN .pwrState ≠ 4 ∧ (s.wr .pwrState 0 0 4).latchClearable = true ∧ hot.power.tripLatch = true ∧ hot.latchClearable = false := by
  decide +kernel
theorem witness_reset_completes :
    let waits (s : State) := (s.rdN .refSelect = 2 ∧ s.power.refclk = false) ∨ (s.power.perstHold = true ∧ s.power.perst = true)
    let warm := State.reset.setPower { State.reset.power with resetting := true, cause := 8, cold := false }
    let cold := State.reset.setPower { State.reset.power with resetting := true, cause := 1, cold := true }
    let held := State.reset.setPower { State.reset.power with resetting := true, cause := 7, perst := true, perstHold := true }
    warm.power.resetting = true ∧ warm.power.cause < 256 ∧ ¬ waits warm ∧ warm.power.cold = false ∧
      cold.power.resetting = true ∧ cold.power.cause < 256 ∧ ¬ waits cold ∧ cold.power.cold = true ∧ waits held ∧
      State.reset.power.resetting = false := by decide +kernel
theorem witness_reference : (State.reset.wr .refState 0 0 6).rdN .refState % 4 = 2 ∧
    (State.reset.wr .refState 0 0 6).power.holdover = false ∧ (State.reset.wr .refState 0 0 6).rdN .pwrState ≠ 0 ∧
    State.reset.rdN .refState % 4 ≠ 2 := by decide +kernel

/-- A record of 64 bytes of zeros and its CRC. -/
def Sys2Proof.Tests.aRecord : List Byte := patch (zeros 64) 60 (leBytes 4 (recordCrc (zeros 64)))

/-- Polder 1, from 64 KiB to 1 MiB, of kind 3 and granting everything. -/
def Sys2Proof.Tests.exporting : State :=
  (((State.reset.wr .polderTable 0 4 0x8000000000010000).wr .polderTable 0 5 0x100000).wr .polderTable 0 6 0).wr .polderTable 0 7 0x33FF

theorem witness_export :
    let s : State := { exporting with strong := { exporting.strong with records := [[], aRecord] } }
    let p : Polder := ⟨true, 0x10000, 0x100000, 0, 0, 3, 0x3FF⟩
    (((List.range 256).map s.polder).find? fun p => p.enable && p.kind = 3) = some p ∧ s.lastRecord = some aRecord ∧
      p.base + aRecord.length ≤ p.limit ∧ s.mgmtOk true p.base aRecord.length = true ∧
      (((List.range 256).map exporting.polder).find? fun p => p.enable && p.kind = 3) = some p ∧ exporting.lastRecord = none := by
  decide +kernel

/-! ## The sync chain -/

/-- A good frame of a type from the module at position 2. -/
def Sys2Proof.Tests.frameOf (type : Nat) (body : W64) : SyncFrame := ⟨syncBytes type 2 body, false⟩

/-- The head of a chain, and a member that has the chain's time. -/
def Sys2Proof.Tests.chainHead : State := State.reset.wr .syncHead 0 0 1
def Sys2Proof.Tests.chainMember : State := { State.reset with sync := { State.reset.sync with acquired := true } }

/-- A member that has latched a stop as its origin, one within 10,000 cycles of a stop's frame, and one with the bypass closed. -/
def Sys2Proof.Tests.stopped : State := { State.reset with sync := { State.reset.sync with latched := true, origin := true } }
def Sys2Proof.Tests.recent : State := { State.reset with sync := { State.reset.sync with latched := true, estopAt := some 0 } }
def Sys2Proof.Tests.bypassed : State := State.reset.setPower { State.reset.power with bypass := true }

/-- A frame whose first byte is damaged. -/
def Sys2Proof.Tests.damaged : SyncFrame := ⟨7 :: (syncBytes 1 2 0).drop 1, false⟩

theorem witness_bad_frames : State.reset.power.bypass = false ∧ frameGood damaged = false ∧ frameGood (frameOf 1 0) = true ∧
    frameType (frameOf 1 0) ≠ 2 ∧ frameType (frameOf 2 0) ≠ 1 ∧ bypassed.power.bypass = true := by decide +kernel
theorem witness_chain_time :
    State.reset.TakesFrame (frameOf 1 100) 1 ∧ State.reset.isHead = false ∧ State.reset.rdN .timeSource = 0 ∧
    State.reset.sync.acquired = false ∧ chainMember.TakesFrame (frameOf 1 100) 1 ∧ chainMember.isHead = false ∧
    chainMember.sync.acquired = true ∧ chainHead.TakesFrame (frameOf 1 100) 1 ∧ chainHead.isHead = true := by
  unfold State.TakesFrame
  decide +kernel
theorem witness_step_mark :
    let t (b : W64) := ((State.reset.afterDn (frameOf 2 b)).wr .syncStep 0 0 b).syncSend 2 true b
    State.reset.TakesFrame (frameOf 2 2) 2 ∧ State.reset.isHead = false ∧
      (2 : W64).toNat ≤ (t 2).rdN .ctxStep + (t 2).rdN .syncStepLag ∧
      (t 3).rdN .ctxStep + (t 3).rdN .syncStepLag < (frameBody (frameOf 2 3)).toNat ∧ (t 3).sync.lagStep ≠ some 3 := by
  unfold State.TakesFrame
  decide +kernel
theorem witness_chain_timers : chainHead.power.bypass = false ∧ chainHead.isHead = true ∧ chainMember.sync.acquired = true ∧
    chainMember.rdN .timeSource = 0 ∧ chainMember.isHead = false := by decide +kernel
theorem witness_echo : State.reset.TakesFrame (frameOf 4 7) 4 ∧
    State.reset.TakesFrame (frameOf 5 0) 5 ∧ (frameBody (frameOf 5 0)).toNat % 256 = State.reset.sync.echoSeq.toNat ∧
    State.reset.TakesFrame (frameOf 5 255) 5 ∧ (frameBody (frameOf 5 255)).toNat % 256 ≠ State.reset.sync.echoSeq.toNat := by
  unfold State.TakesFrame
  decide +kernel
theorem witness_sync_loss :
    let lost : State := { State.reset with sync := { State.reset.sync with lostUp := true } }
    State.reset.power.bypass = false ∧ (if true then State.reset.sync.lostUp else State.reset.sync.lostDn) = false ∧
      (if false then State.reset.sync.lostUp else State.reset.sync.lostDn) = false ∧ lost.power.bypass = false ∧
      (if true then lost.sync.lostUp else lost.sync.lostDn) = true := by decide +kernel
theorem witness_stop : State.reset.TakesFrame (frameOf 3 4) 3 ∧ State.reset.sync.latched = false ∧ stopped.TakesFrame (frameOf 3 4) 3 ∧
    stopped.sync.latched = true := by
  unfold State.TakesFrame
  decide +kernel
theorem witness_stop_repeat : stopped.sync.latched = true ∧ stopped.sync.origin = true ∧ State.reset.sync.latched = false ∧
    recent.stopRecent = true ∧ State.reset.stopRecent = false := by decide +kernel

/-! ## The general statements -/

/-- The segment's writers: identifier 9 alone. -/
def Sys2Proof.Tests.writers : State := State.reset.wr .mgmtWriters 0 0 9

theorem witness_front : ({ State.reset with pending := [.supplyWarn 0, .refLost] } : State).pending = .supplyWarn 0 :: [.refLost] := rfl
theorem witness_context_control : ∃ n, findEntry 0xB100 2 = .ok (.ctxControl, n) := ⟨0, by decide +kernel⟩
theorem witness_scaled : (⟨4, true, 0, true, 0, 0⟩ : Operand).on = true := rfl
theorem witness_neighbours :
    (6 : Nat) ≤ 7 ∧ 0 < 3 ∧ 3 ≤ 4 * 2 ^ 126 ∧ (magBelow 6 4 3).1 + 1 ≤ 0x7F7F := by decide +kernel
theorem witness_form : ({ exporting with pending := [.refclkPresent] } : State).Wf ∧
    ∃ t, step { exporting with pending := [.refclkPresent] } = .next t :=
  ⟨by constructor <;> decide +kernel, _, rfl⟩
theorem witness_formats : (0 : Nat) < 1 ∧ (0, 0x8) ∈ [(0, 0x8), (2, 0x4), (4, 0x80), (5, 0x80), (6, 0x8000), (7, 0x80000000)] := by
  decide
theorem witness_fold : (⟨0, [2 ^ 56]⟩ : Coln).kind = 1 := by decide +kernel
theorem witness_sampling : ∀ j : Nat, (fun _ : Nat => 0) j < 2 ^ 64 := fun _ => Nat.two_pow_pos 64
theorem witness_merge : ([(1, 1, [])] : List Merged).length + ([(2, 1, [])] : List Merged).length ≤ 2 ∧
    (([(1, 1, [])] : List Merged).map (·.1)).Pairwise (· < ·) ∧ (([(2, 1, [])] : List Merged).map (·.1)).Pairwise (· < ·) := by
  decide
theorem witness_memory : Memory.wf State.reset.scratch State.reset.mem = true := by decide +kernel
theorem witness_segment : writers.mayRun (.segment 9) ⟨2, 0, 0, 0, 0, 0, []⟩ = true ∧
    writers.mayRun (.segment 8) ⟨2, 0, 0, 0, 0, 0, []⟩ = false ∧ writers.mayRun (.segment 8) ⟨1, 0, 0, 0, 0, 0, []⟩ = true ∧
    writers.mayRun (.segment 0) ⟨2, 0, 0, 0, 0, 0, []⟩ = false ∧ State.reset.mayRun (.segment 8) ⟨2, 0, 0, 0, 0, 0, []⟩ = true := by
  decide +kernel
theorem witness_holdoff :
    let key := 256 * (0 : CtxId).val + (3 : Byte).toNat
    let s : State := { (State.reset.wr .irqHoldoff 0 0 100).wr .msixTable 0 15 0 with msiLast := [(key, 1)] }
    let held : State := { s with msiHeld := [key], now := 100 }
    Store.get (fun _ => 0) State.reset.msiLast key = 0 ∧ Store.get (fun _ => 0) s.msiLast key ≠ 0 ∧
      s.rdN .irqHoldoff (0 : CtxId).val % 65536 ≠ 0 ∧
      s.now < Store.get (fun _ => 0) s.msiLast key - 1 + s.rdN .irqHoldoff (0 : CtxId).val % 65536 ∧
      Store.get (fun _ => 0) held.msiLast key - 1 + held.rdN .irqHoldoff (0 : CtxId).val % 65536 ≤ held.now ∧
      key ∈ held.msiHeld ∧ key ∉ s.msiHeld ∧ bit 0 (s.rd .msixTable (0 : CtxId).val (4 * (3 : Byte).toNat + 3)) = false ∧
      s.fnOn 0 = true := by decide +kernel
theorem witness_reports : State.reset.count .supplyWarnCnt ∈ [State.reset.count .supplyWarnCnt] ∧
    Obj.torusDims ∉ [Obj.supplyWarnCnt, .pwrStatus, .msixPba, .fabricDropCnt, .shxStatus, .eventNextSeq] := by decide +kernel
theorem witness_quiet : (Instr.refclkPresent).isQuiet = true ∧ (∃ t, exec .refclkPresent State.reset = .next t) ∧
    (State.reset.port 0).change = none ∧ ∃ t, exec (.codeword 0 0 0 true 0) State.reset = .next t :=
  ⟨rfl, ⟨_, rfl⟩, by decide +kernel, ⟨_, rfl⟩⟩

end
end

section
/-! PROOFS. The scope of the model: every command answers, and what counting, clearing and reporting change (O3, O7, O8, O10). -/

namespace Sys2Proof.Machine

/-! ## Every command answers (O3) -/

/-- Each command answers a next state and disturbs nothing of what `Keeps` names (R14, R33, R39). -/
theorem exec_keeps : ∀ (i : Instr) (s : State), NextP (Keeps s) (exec i s)
  | .preempt .., s => execPreempt_keeps (Keeps.refl s)
  | .resume .., s => execResume_keeps (Keeps.refl s)
  | .reset .., s => execReset_keeps (Keeps.refl s)
  | .registerWrite .., s => execRegisterWrite_keeps (Keeps.refl s)
  | .statusEntryWrite .., s => execStatusEntryWrite_keeps (Keeps.refl s)
  | .sqTail .., s => execSqTail_keeps (Keeps.refl s)
  | .cqHead .., s => execCqHead_keeps (Keeps.refl s)
  | .sqCfg .., s => execSqCfg_keeps (Keeps.refl s)
  | .cqCfg .., s => execCqCfg_keeps (Keeps.refl s)
  | .submissionFetch .., s => execSubmissionFetch_keeps (Keeps.refl s)
  | .nop .., s => execNop_keeps (Keeps.refl s)
  | .tile .., s => execTile_keeps (Keeps.refl s)
  | .vector .., s => execVector_keeps (Keeps.refl s)
  | .streamArm .., s => execStreamArm_keeps (Keeps.refl s)
  | .barrier .., s => execBarrier_keeps (Keeps.refl s)
  | .sample .., s => execSample_keeps (Keeps.refl s)
  | .gather .., s => execGather_keeps (Keeps.refl s)
  | .scatter .., s => execScatter_keeps (Keeps.refl s)
  | .coalesce .., s => execCoalesce_keeps (Keeps.refl s)
  | .reduce .., s => execReduce_keeps (Keeps.refl s)
  | .update .., s => execUpdate_keeps (Keeps.refl s)
  | .commit .., s => execCommit_keeps (Keeps.refl s)
  | .migrate .., s => execMigrate_keeps (Keeps.refl s)
  | .snapshot .., s => execSnapshot_keeps (Keeps.refl s)
  | .dma .., s => execDma_keeps (Keeps.refl s)
  | .itemCommit .., s => execItemCommit_keeps (Keeps.refl s)
  | .faultResume .., s => execFaultResume_keeps (Keeps.refl s)
  | .barrierArrival .., s => execBarrierArrival_keeps (Keeps.refl s)
  | .paceRelease .., s => execPaceRelease_keeps (Keeps.refl s)
  | .commitTimeout .., s => execCommitTimeout_keeps (Keeps.refl s)
  | .specVerify .., s => execSpecVerify_keeps (Keeps.refl s)
  | .conservatorCompare .., s => execConservatorCompare_keeps (Keeps.refl s)
  | .streamTranslated .., s => execStreamTranslated_keeps (Keeps.refl s)
  | .streamProgramEnd .., s => execStreamProgramEnd_keeps (Keeps.refl s)
  | .arbitrationWindow, s => execArbitrationWindow_keeps (Keeps.refl s)
  | .mark .., s => execMark_keeps (Keeps.refl s)
  | .unmark .., s => execUnmark_keeps (Keeps.refl s)
  | .rewind .., s => execRewind_keeps (Keeps.refl s)
  | .release .., s => execRelease_keeps (Keeps.refl s)
  | .queueRead .., s => execQueueRead_keeps (Keeps.refl s)
  | .vitrineCopyDone .., s => execVitrineCopyDone_keeps (Keeps.refl s)
  | .saveAreaWritten .., s => execSaveAreaWritten_keeps (Keeps.refl s)
  | .mmuInval .., s => execMmuInval_keeps (Keeps.refl s)
  | .invalDone .., s => execInvalDone_keeps (Keeps.refl s)
  | .hbmScrubPass .., s => execHbmScrubPass_keeps (Keeps.refl s)
  | .retireCopyDone .., s => execRetireCopyDone_keeps (Keeps.refl s)
  | .codeword .., s => execCodeword_keeps (Keeps.refl s)
  | .signalDetect .., s => execSignalDetect_keeps (Keeps.refl s)
  | .trainConverged .., s => execTrainConverged_keeps (Keeps.refl s)
  | .trainTimeout .., s => execTrainTimeout_keeps (Keeps.refl s)
  | .alignDone .., s => execAlignDone_keeps (Keeps.refl s)
  | .alignTimeout .., s => execAlignTimeout_keeps (Keeps.refl s)
  | .verifyTimeout .., s => execVerifyTimeout_keeps (Keeps.refl s)
  | .linkRetryTimer .., s => execLinkRetryTimer_keeps (Keeps.refl s)
  | .laneLockLoss .., s => execLaneLockLoss_keeps (Keeps.refl s)
  | .laneRestored .., s => execLaneRestored_keeps (Keeps.refl s)
  | .laneDisable .., s => execLaneDisable_keeps (Keeps.refl s)
  | .credit .., s => execCredit_keeps (Keeps.refl s)
  | .laneChange .., s => execLaneChange_keeps (Keeps.refl s)
  | .ident .., s => execIdent_keeps (Keeps.refl s)
  | .redHdr .., s => execRedHdr_keeps (Keeps.refl s)
  | .redDense .., s => execRedDense_keeps (Keeps.refl s)
  | .redSparse .., s => execRedSparse_keeps (Keeps.refl s)
  | .redResult .., s => execRedResult_keeps (Keeps.refl s)
  | .collAbort .., s => execCollAbort_keeps (Keeps.refl s)
  | .commitToken .., s => execCommitToken_keeps (Keeps.refl s)
  | .mismatchReport .., s => execMismatchReport_keeps (Keeps.refl s)
  | .verdict .., s => execVerdict_keeps (Keeps.refl s)
  | .fenceVoteClose, s => execFenceVoteClose_keeps (Keeps.refl s)
  | .verdictTimeout .., s => execVerdictTimeout_keeps (Keeps.refl s)
  | .applyPrep .., s => execApplyPrep_keeps (Keeps.refl s)
  | .applyVote .., s => execApplyVote_keeps (Keeps.refl s)
  | .applyGo .., s => execApplyGo_keeps (Keeps.refl s)
  | .applyGoCancel .., s => execApplyGoCancel_keeps (Keeps.refl s)
  | .domainApply .., s => execDomainApply_keeps (Keeps.refl s)
  | .applyVoteDeadline, s => execApplyVoteDeadline_keeps (Keeps.refl s)
  | .domainApplyInstant, s => execDomainApplyInstant_keeps (Keeps.refl s)
  | .shxTimePacket .., s => execShxTimePacket_keeps (Keeps.refl s)
  | .shxTimeExchange, s => execShxTimeExchange_keeps (Keeps.refl s)
  | .mcast .., s => execMcast_keeps (Keeps.refl s)
  | .mcastPruneTimeout .., s => execMcastPruneTimeout_keeps (Keeps.refl s)
  | .prune .., s => execPrune_keeps (Keeps.refl s)
  | .shxHopTimeout .., s => execShxHopTimeout_keeps (Keeps.refl s)
  | .shxCollTimeout .., s => execShxCollTimeout_keeps (Keeps.refl s)
  | .depotWr .., s => execDepotWr_keeps (Keeps.refl s)
  | .depotRd .., s => execDepotRd_keeps (Keeps.refl s)
  | .depotData .., s => execDepotData_keeps (Keeps.refl s)
  | .tunWr .., s => execTunWr_keeps (Keeps.refl s)
  | .tunRd .., s => execTunRd_keeps (Keeps.refl s)
  | .tunCpl .., s => execTunCpl_keeps (Keeps.refl s)
  | .tunDmaRd .., s => execTunDmaRd_keeps (Keeps.refl s)
  | .tunDmaWr .., s => execTunDmaWr_keeps (Keeps.refl s)
  | .tunIrq .., s => execTunIrq_keeps (Keeps.refl s)
  | .shxTunnelTimeout .., s => execShxTunnelTimeout_keeps (Keeps.refl s)
  | .fence, s => execFence_keeps (Keeps.refl s)
  | .fenceClear, s => execFenceClear_keeps (Keeps.refl s)
  | .restoreReq .., s => execRestoreReq_keeps (Keeps.refl s)
  | .provReq .., s => execProvReq_keeps (Keeps.refl s)
  | .flr .., s => execFlr_keeps (Keeps.refl s)
  | .d3hotToD0 .., s => execD3hotToD0_keeps (Keeps.refl s)
  | .hotReset, s => execHotReset_keeps (Keeps.refl s)
  | .perstAssert, s => execPerstAssert_keeps (Keeps.refl s)
  | .windowRead .., s => execWindowRead_keeps (Keeps.refl s)
  | .windowWrite .., s => execWindowWrite_keeps (Keeps.refl s)
  | .apertureAccess .., s => execApertureAccess_keeps (Keeps.refl s)
  | .mailboxGo .., s => execMailboxGo_keeps (Keeps.refl s)
  | .irqHoldoffExpiry .., s => execIrqHoldoffExpiry_keeps (Keeps.refl s)
  | .igcorFrame .., s => execIgcorFrame_keeps (Keeps.refl s)
  | .neighborSolicitation .., s => execNeighborSolicitation_keeps (Keeps.refl s)
  | .icmpv6Echo .., s => execIcmpv6Echo_keeps (Keeps.refl s)
  | .read .., s => execRead_keeps (Keeps.refl s)
  | .write .., s => execWrite_keeps (Keeps.refl s)
  | .readStaged .., s => execReadStaged_keeps (Keeps.refl s)
  | .check .., s => execCheck_keeps (Keeps.refl s)
  | .apply .., s => execApply_keeps (Keeps.refl s)
  | .discard .., s => execDiscard_keeps (Keeps.refl s)
  | .describe .., s => execDescribe_keeps (Keeps.refl s)
  | .eventRead .., s => execEventRead_keeps (Keeps.refl s)
  | .armedApplyInstant, s => execArmedApplyInstant_keeps (Keeps.refl s)
  | .persistWrite .., s => execPersistWrite_keeps (Keeps.refl s)
  | .standbyPower .., s => execStandbyPower_keeps (Keeps.refl s)
  | .standbyLost, s => execStandbyLost_keeps (Keeps.refl s)
  | .mainInputQualified, s => execMainInputQualified_keeps (Keeps.refl s)
  | .railGroupRegulated .., s => execRailGroupRegulated_keeps (Keeps.refl s)
  | .pwrFault .., s => execPwrFault_keeps (Keeps.refl s)
  | .pwrRetryTimer, s => execPwrRetryTimer_keeps (Keeps.refl s)
  | .supplyWarn .., s => execSupplyWarn_keeps (Keeps.refl s)
  | .sag, s => execSag_keeps (Keeps.refl s)
  | .sagGlitch, s => execSagGlitch_keeps (Keeps.refl s)
  | .overvoltage .., s => execOvervoltage_keeps (Keeps.refl s)
  | .saveDone .., s => execSaveDone_keeps (Keeps.refl s)
  | .saveTimeout, s => execSaveTimeout_keeps (Keeps.refl s)
  | .thermalSample .., s => execThermalSample_keeps (Keeps.refl s)
  | .moduleResetWarm, s => execModuleResetWarm_keeps (Keeps.refl s)
  | .moduleResetCold, s => execModuleResetCold_keeps (Keeps.refl s)
  | .moduleResetDelay, s => execModuleResetDelay_keeps (Keeps.refl s)
  | .watchdogExpiry, s => execWatchdogExpiry_keeps (Keeps.refl s)
  | .pllUnlock, s => execPllUnlock_keeps (Keeps.refl s)
  | .refLost, s => execRefLost_keeps (Keeps.refl s)
  | .moduleResetDone, s => execModuleResetDone_keeps (Keeps.refl s)
  | .srExport, s => execSrExport_keeps (Keeps.refl s)
  | .syncTimeFrame .., s => execSyncTimeFrame_keeps (Keeps.refl s)
  | .syncStepFrame .., s => execSyncStepFrame_keeps (Keeps.refl s)
  | .estop .., s => execEstop_keeps (Keeps.refl s)
  | .echoReq .., s => execEchoReq_keeps (Keeps.refl s)
  | .echoRsp .., s => execEchoRsp_keeps (Keeps.refl s)
  | .syncEchoTimer, s => execSyncEchoTimer_keeps (Keeps.refl s)
  | .syncTimeTimer, s => execSyncTimeTimer_keeps (Keeps.refl s)
  | .syncLoss .., s => execSyncLoss_keeps (Keeps.refl s)
  | .estopRaise, s => execEstopRaise_keeps (Keeps.refl s)
  | .estopRepeat, s => execEstopRepeat_keeps (Keeps.refl s)
  | .estopClear, s => execEstopClear_keeps (Keeps.refl s)
  | .badOpcode .., s => execBadOpcode_keeps (Keeps.refl s)
  | .holdupCharged .., s => execHoldupCharged_keeps (Keeps.refl s)
  | .perstDeassert, s => execPerstDeassert_keeps (Keeps.refl s)
  | .pcieLinkUp .., s => execPcieLinkUp_keeps (Keeps.refl s)
  | .vfEnable .., s => execVfEnable_keeps (Keeps.refl s)
  | .msixUnmask .., s => execMsixUnmask_keeps (Keeps.refl s)
  | .laneSymbolRateWindow .., s => execLaneSymbolRateWindow_keeps (Keeps.refl s)
  | .refclkPresent, s => execRefclkPresent_keeps (Keeps.refl s)
  | .syncFrameDiscard .., s => execSyncFrameDiscard_keeps (Keeps.refl s)

/-! ## A counter raised (O7) -/

/-- The element of an entry of at most eight bytes fits a word, so that cutting it to its width loses nothing. -/
theorem toNat_cut_of_size_le {size : Nat} (h : size ≤ 8) (v : Nat) :
    (BitVec.ofNat 64 (v % 256 ^ size)).toNat = v % 256 ^ size := by
  have fits : 256 ^ size ≤ 2 ^ 64 := Nat.pow_le_pow_right (n := 256) (by decide) h
  have below : v % 256 ^ size < 256 ^ size := Nat.mod_lt _ (by positivity)
  rw [BitVec.toNat_ofNat, Nat.mod_eq_of_lt (below.trans_le fits)]

/-- A number written is read back at the width of its entry. -/
theorem State.rdN_wrN_self (s : State) {o : Obj} (h : o.info.size ≤ 8) (n e v : Nat) :
    (s.wrN o n e v).rdN o n e = v % 256 ^ o.info.size := by
  unfold State.rdN
  rw [State.wrN_rd, if_pos rfl, toNat_cut_of_size_le h]

/-- A counter raised leaves every other element alone. -/
theorem State.count_rd_ne (s : State) {o o' : Obj} {n e n' e' : Nat} (h : regCode o' n' e' ≠ regCode o n e) (k : Nat) :
    (s.count o n e k).rd o' n' e' = s.rd o' n' e' := by
  unfold State.count
  rw [State.wrN_rd, if_neg h]

/-! ## Flags cleared (O8) -/

/-- Clearing flags of a status entry is one write to it (R13, R234, R235). -/
theorem State.clearFlags_eq_wr (s : State) {o : Obj} {m : Nat} (h : w1cMask o = some m) (n : Nat) (v : W64) :
    s.clearFlags o n v = s.wr o n 0 (s.rd o n &&& ~~~ (v &&& BitVec.ofNat 64 m &&& ~~~ s.freshFlags o n)) := by
  simp only [State.clearFlags, h]

/-- `STATUS_ENTRY_WRITE` to an entry that is found, while the management answers, clears flags of that entry. -/
theorem execStatusEntryWrite_found {index : BitVec 16} {sub : Byte} {s : State} {o : Obj} {n : Nat} (up : s.mgmtUp = true)
    (found : findEntry index.toNat sub.toNat = .ok (o, n)) (v : W32) :
    execStatusEntryWrite index sub v s = .next (s.clearFlags o n (v.zeroExtend 64)) := by
  simp only [execStatusEntryWrite, found, up, if_true]

/-! ## Reports (O10) -/

section
variable {os : List Obj} {a s : State}

/-- Signals leave every entry that is neither named nor one of `signalObjs`. -/
theorem Signals.rd_of_not_mem (h : Signals os a s) {o : Obj} (w : o ∉ os ++ signalObjs) (n e : Nat) : s.rd o n e = a.rd o n e := by
  refine h.rd o n e fun m => ?_
  obtain ⟨x, hx, same⟩ := List.mem_map.mp m
  exact w (Obj.ctorIdx_inj same ▸ hx)

/-- Signals leave memory and the work of the contexts. -/
theorem Signals.sameWork (h : Signals os a s) : a.SameWork s :=
  ⟨h.byteAt, h.poison, h.ctxs, h.items, h.trails, h.pend, h.heads, h.bars, h.arrays, h.engines, h.queues⟩

end

/-- Each operation by which a command reports is nothing but signals, of its counter and its status entry. -/
theorem State.reports_signals {c o : Obj} {n m b code arg rank cause : Nat} {who : Option CtxId} {k : Packet} {f : CtxId}
    {s t : State} (h : t ∈ [s.count c n, s.tally c n o m b, s.setFlag o m b, s.raise code who arg, s.send rank k, s.broadcast k,
      s.interrupt f cause, s.fabricDrop]) : Signals [c, o] s t := by
  have start : Signals [c, o] s s := Signals.refl _ s
  have counter : c ∈ [c, o] ++ signalObjs := by simp
  have status : o ∈ [c, o] ++ signalObjs := by simp
  simp only [List.mem_cons, List.not_mem_nil, or_false] at h
  rcases h with rfl | rfl | rfl | rfl | rfl | rfl | rfl | rfl
  · exact start.count counter _ _ _
  · exact start.tally counter status _ _ _
  · exact start.setFlag status _ _
  · exact start.raise _ _ _
  · exact start.send _ _
  · exact start.broadcast _
  · exact start.interrupt _ _
  · exact start.fabricDrop

/-! ## The statements -/

/-- Settles O3: the parts of `Keeps`, which every command meets. -/
theorem everyCommandAnswers : Obligations.EveryCommandAnswers := by
  intro i s
  obtain ⟨t, answers, keeps⟩ := exec_keeps i s
  exact ⟨t, answers, keeps.pending, keeps.out, keeps.free, keeps.wf⟩

/-- Settles O7: the count is one write of its element, cut to the element's width. -/
theorem counterWraps : Obligations.CounterWraps := by
  intro o n e k s size
  exact ⟨s.rdN_wrN_self size n e _, fun _ _ _ other => s.count_rd_ne other k, rfl⟩

/-- Settles O8: the write is one write of the status entry, whose flags set on the edge are left. -/
theorem statusWriteClears : Obligations.StatusWriteClears := by
  intro index sub v s o n m up found flags
  refine ⟨_, execStatusEntryWrite_found up found v, ?_⟩
  rw [s.clearFlags_eq_wr flags]
  exact ⟨s.rd_wr_self .., fun _ _ _ other => by rw [State.rd_wr, if_neg other], rfl⟩

/-- Settles O10: reports are signals, and signals reach neither memory nor work nor any entry that they do not name. -/
theorem reportsChangeNothingElse : Obligations.ReportsChangeNothingElse := by
  intro c o n m b code arg rank cause who k f s t h
  have signals : Signals [c, o] s t := State.reports_signals h
  exact ⟨signals.sameWork, signals.staged, signals.power, signals.sync, signals.strong, signals.mgmt, signals.surv, signals.pending,
    fun _ n' e' other => signals.rd_of_not_mem other n' e'⟩

end Sys2Proof.Machine
end

section
/-! PROOFS. What a step does: it takes the commands in order, and one SCLK cycle passes where none waits; the ends of the engines' work,
and the commands that start none (O1, O2, O4, O11, O19). -/

namespace Sys2Proof.Machine

/-! ## The queue (O1, O4) -/

/-- Settles O1: it is the second branch of the step. -/
theorem stepRunsFront : Obligations.StepRunsFront := by
  intro c rest s waits
  simp only [step, waits]

/-- The form of the state does not see the queue. -/
theorem State.Wf.withPending {s : State} (h : s.Wf) (q : List Instr) : ({ s with pending := q } : State).Wf :=
  { h with }

/-- What a command keeps it keeps whatever waits. -/
theorem Keeps.withPending {s t : State} (h : Keeps s t) (q : List Instr) :
    Keeps { s with pending := q } { t with pending := q } where
  pending := rfl
  out := h.out
  free := h.free
  wf w := (h.wf (w.withPending s.pending)).withPending q

/-- A step with commands waiting answers, and disturbs nothing but the command that it took. -/
theorem step_front_keeps {c : Instr} {rest : List Instr} {s : State} (h : s.pending = c :: rest) :
    NextP (Keeps { s with pending := rest }) (step s) := by
  rw [stepRunsFront c rest s h]
  exact exec_keeps c _

/-- A run goes on from the state that its first step answers. -/
theorem core_run_succ {s t : State} (h : step s = .next t) (k : Nat) :
    Sys2Proof.core.run (k + 1) s = Sys2Proof.core.run k t := by
  have first : Sys2Proof.core.step s = .next t := h
  simp only [Host.Core.run, first]

/-- As many steps as commands wait take them all, and keep what each of them keeps. -/
theorem run_pending_keeps (q : List Instr) :
    ∀ s : State, s.pending = q → NextP (Keeps { s with pending := [] }) (Sys2Proof.core.run q.length s) := by
  induction q with
  | nil =>
    intro s empty
    refine NextP.next (P := Keeps { s with pending := [] }) ?_
    rw [← empty]
    exact Keeps.refl s
  | cons c rest ih =>
    intro s waits
    obtain ⟨u, answers, first⟩ := step_front_keeps waits
    obtain ⟨t, runs, others⟩ := ih u first.pending
    exact ⟨t, (core_run_succ answers _).trans runs, (first.withPending []).trans others⟩

/-- Settles O4, by induction on the commands that wait. -/
theorem queueDrains : Obligations.QueueDrains := by
  intro s
  obtain ⟨t, runs, keeps⟩ := run_pending_keeps s.pending s rfl
  exact ⟨t, runs, keeps.pending, keeps.out, keeps.free, fun w => keeps.wf (w.withPending [])⟩

/-! ## An idle cycle (O2) -/

/-- Operations that each leave a state leave it together. -/
theorem foldl_eq_of_fixed {α : Type} {f : State → α → State} {s : State} {l : List α} (h : ∀ x ∈ l, f s x = s) : l.foldl f s = s :=
  l.foldlRecOn (motive := (· = s)) f rfl fun _ same x hx => same ▸ h x hx

/-- With no event of the present edge none is numbered. -/
theorem State.sealEvents_of_fresh_eq_zero {s : State} (h : s.fresh = 0) : s.sealEvents = s := by
  have none_fresh : s.events.drop (s.events.length - s.fresh) = [] := by simp [h]
  simp only [State.sealEvents, none_fresh, List.foldl_nil]
  rw [← h]

/-- With no record that waits no cycle of waiting is counted. -/
theorem State.tickWait_of_waiting_eq_nil {s : State} {c : CtxId} (h : (s.ctx c).waiting = []) : s.tickWait c = s := by
  simp only [State.tickWait, h, List.isEmpty_nil, if_true]

/-- An engine that does not run counts no wait for credit. -/
theorem State.tickCredit_of_not_running {e : Nat × Engine} (s : State) (h : e.2.st ≠ .running) : s.tickCredit e = s := by
  unfold State.tickCredit
  split
  · next running _ => exact absurd running h
  · rfl

/-- An item that is no `TILE` at work counts no wait on a sluice. -/
theorem State.tickEmpty_of_no_tile {i : Item} (s : State) (h : i.phase = .working → i.desc.opcode ≠ 1) : s.tickEmpty i = s := by
  unfold State.tickEmpty
  refine if_neg fun tile => ?_
  simp only [Bool.and_eq_true, decide_eq_true_eq] at tile
  exact h tile.1.1 tile.1.2

/-- A queue on which nothing waits counts no wait. -/
theorem State.tickRead_of_not_waits {e : Nat × Queue} (s : State) (h : e.2.waits = false) : s.tickRead e = s := by
  simp [State.tickRead, h]

/-- A port that holds no multicast line tries none again. -/
theorem State.retryMcast_of_mcast_eq_nil {s : State} {p : Nat} (h : (s.port p).mcast = []) : s.retryMcast p = s := by
  simp only [State.retryMcast, h, List.isEmpty_nil, if_true]

/-- A port with no change of width agreed makes none. -/
theorem State.widthDue_of_change_eq_none {s : State} {p : PortId} (h : (s.port p.val).change = none) : s.widthDue p = s := by
  simp only [State.widthDue, h]

/-- A value of 64 bits written one higher is its successor. -/
theorem State.wrN_succ (s t : State) {o : Obj} (h : o.info.size = 8) (n e : Nat) :
    t.wrN o n e (s.rdN o n e + 1) = t.wr o n e (s.rd o n e + 1) := by
  have word : BitVec.ofNat 64 ((s.rdN o n e + 1) % 256 ^ 8) = s.rd o n e + 1 := by
    unfold State.rdN
    bv_omega
  simp only [State.wrN, h, word]

/-- The state of the present cycle's phase of the slewing (R377). -/
def State.phased (s : State) : State := { s with fabric := { s.fabric with phase := (s.fabric.phase + 1) % 1024 } }

/-- With no offset left the time goes on by one cycle, where it runs. -/
theorem State.tickTime_of_slew_eq_zero {s : State} (h : s.fabric.slew = 0) :
    s.tickTime = if s.timeRuns then s.phased.wr .globalTime 0 0 (s.rd .globalTime + 1) else s.phased := by
  have phased : ({ s with fabric := { s.fabric with phase := (s.fabric.phase + 1) % 1024, slew := 0 } } : State) = s.phased := by
    rw [← h]; rfl
  have runs : s.phased.timeRuns = s.timeRuns := rfl
  simp only [State.tickTime, h, lt_irrefl, decide_false, Bool.and_false, if_false, Bool.false_eq_true, phased, runs]
  exact if_congr Iff.rfl (State.wrN_succ s.phased s.phased (o := .globalTime) (by rfl) 0 0) rfl

/-- With no offset left the time and the phase of the slewing are all that a cycle's time moves. -/
theorem State.tickTime_still {s : State} (h : s.fabric.slew = 0) : s.tickTime = { s.phased with regs := s.tickTime.regs } := by
  rw [State.tickTime_of_slew_eq_zero h]
  split <;> rfl

/-- Where no event, record, queue, multicast line, change of width, engine, `TILE` or throttling has anything for a cycle, a cycle moves the
time alone. -/
theorem State.tick_of_idle {s : State} (fresh : s.fresh = 0) (records : ∀ c : CtxId, (s.ctx c).waiting = [])
    (reads : ∀ e ∈ s.queues, e.2.waits = false) (ports : ∀ p : Nat, (s.port p).mcast = [] ∧ (s.port p).change = none)
    (cool : s.power.h = 0) (slew : s.fabric.slew = 0) (engines : ∀ e ∈ s.engines, e.2.st ≠ .running)
    (tiles : ∀ i ∈ s.items, i.phase = .working → i.desc.opcode ≠ 1) :
    s.tick = ({ s with now := s.now + 1, edge := [] } : State).tickTime := by
  have still := State.tickTime_still (s := { s with now := s.now + 1, edge := [] }) slew
  unfold State.tick
  rw [State.sealEvents_of_fresh_eq_zero fresh]
  dsimp only
  generalize ({ s with now := s.now + 1, edge := [] } : State).tickTime = t at still ⊢
  have sameCtx (c : CtxId) : t.ctx c = s.ctx c := by rw [still]; rfl
  have sameEngines : t.engines = s.engines := by rw [still]; rfl
  have sameItems : t.items = s.items := by rw [still]; rfl
  have sameQueues : t.queues = s.queues := by rw [still]; rfl
  have samePort (p : Nat) : t.port p = s.port p := by rw [still]; rfl
  have samePower : t.power = s.power := by rw [still]; rfl
  rw [foldl_eq_of_fixed fun c _ => State.tickWait_of_waiting_eq_nil ((sameCtx c).symm ▸ records c),
    foldl_eq_of_fixed fun e he => t.tickCredit_of_not_running (engines e (sameEngines ▸ he)),
    foldl_eq_of_fixed fun i hi => t.tickEmpty_of_no_tile (tiles i (sameItems ▸ hi)),
    foldl_eq_of_fixed fun e he => t.tickRead_of_not_waits (reads e (sameQueues ▸ he)),
    foldl_eq_of_fixed fun p _ => State.retryMcast_of_mcast_eq_nil ((samePort p).symm ▸ (ports p).1),
    foldl_eq_of_fixed fun p _ => State.widthDue_of_change_eq_none ((samePort p).symm ▸ (ports p).2),
    samePower, cool, if_neg (lt_irrefl 0)]

/-- Settles O2: the cycle is the time's alone, and that is one write of `GLOBAL_TIME`, or none. -/
theorem idleStepIsOneCycle : Obligations.IdleStepIsOneCycle := by
  intro s empty fresh records reads ports cool slew engines tiles
  let u : State := { s with now := s.now + 1, edge := [] }
  have time : s.tick = if s.timeRuns then u.phased.wr .globalTime 0 0 (s.rd .globalTime + 1) else u.phased :=
    (State.tick_of_idle fresh records reads ports cool slew engines tiles).trans (State.tickTime_of_slew_eq_zero (s := u) slew)
  have answers : step s = .next s.tick := by simp only [step, empty]
  refine ⟨s.tick, answers, ?_⟩
  rw [time]
  split
  · refine ⟨rfl, rfl, State.rd_wr_self .., fun o n e other => ?_, rfl, rfl⟩
    rw [State.rd_wr, if_neg other]
    rfl
  · exact ⟨rfl, rfl, rfl, fun _ _ _ _ => rfl, rfl, rfl⟩

/-! ## Engines (O19) -/

/-- `SPEC_VERIFY` of an item at work verifies its pass, and the item goes on (R153). -/
theorem execSpecVerify_working {r : ItemRef} {s : State} {i : Item} (found : s.item r = some i) (working : i.phase = .working)
    (core : CoreId) (waited : Nat) :
    execSpecVerify r core waited s = .next ((s.verifyPass i core.val waited).kickItem i) := by
  simp only [execSpecVerify, found, working, ne_eq, not_true_eq_false, if_false]

/-- A pass in doubt stays in doubt while `FINAL_BAR` is closed (R153). -/
theorem State.verifyPass_closed {s : State} {i : Item} {core : Nat} {run : TileRun}
    (doubt : (i.tile.runs.find? fun x => x.core = core && x.spec) = some run)
    (closed : s.final i (i.tile.tabs.cfg i.desc) = false) (waited : Nat) : s.verifyPass i core waited = s := by
  simp only [State.verifyPass, doubt, closed, Bool.not_false, if_true]

/-- With it open the pass is compared (R153). -/
theorem State.verifyPass_compared {s u : State} {i : Item} {core waited : Nat} {run : TileRun}
    (doubt : (i.tile.runs.find? fun x => x.core = core && x.spec) = some run)
    (opened : s.final i (i.tile.tabs.cfg i.desc) = true)
    (compared : s.verifyRun i (i.tile.tabs.cfg i.desc) run waited = .ok u) : s.verifyPass i core waited = u := by
  simp only [State.verifyPass, doubt, opened, compared, Bool.not_true, Bool.false_eq_true, if_false]

/-- What stops the comparison stops the item. -/
theorem State.verifyPass_stopped {s : State} {i : Item} {core waited : Nat} {run : TileRun} {why : Stop}
    (doubt : (i.tile.runs.find? fun x => x.core = core && x.spec) = some run)
    (opened : s.final i (i.tile.tabs.cfg i.desc) = true)
    (stopped : s.verifyRun i (i.tile.tabs.cfg i.desc) run waited = .error why) :
    s.verifyPass i core waited = s.stopItem i why := by
  simp only [State.verifyPass, doubt, opened, stopped, Bool.not_true, Bool.false_eq_true, if_false]

/-- A pass in doubt is settled where `FINAL_BAR` is open, and else stays in doubt (R153). -/
theorem passVerified : Sys2Proof.Claim.PassVerified := by
  intro r core waited s i run found working doubt
  rw [exec_specVerify, execSpecVerify_working found working]
  refine ⟨fun u opened compared => ?_, fun why opened stopped => ?_, fun closed => ?_⟩
  · rw [State.verifyPass_compared doubt opened compared]
  · rw [State.verifyPass_stopped doubt opened stopped]
  · rw [State.verifyPass_closed doubt closed]

/-- The tiles to compare are those of the item's checks (R172). -/
theorem tileCompared : Sys2Proof.Claim.TileCompared := by
  intro r tile s i found
  rw [exec_conservatorCompare]
  simp only [execConservatorCompare, found]
  refine ⟨fun ⟨run, sampled, same⟩ => if_pos ?_, fun others => if_neg ?_⟩
  · exact List.any_eq_true.mpr ⟨run, sampled, decide_eq_true same⟩
  · intro sampled
    obtain ⟨run, member, same⟩ := List.any_eq_true.mp sampled
    exact others run member (of_decide_eq_true same)

/-- A translated program's engine leaves STARTING (R208). -/
theorem translatedEngineRuns : Sys2Proof.Claim.TranslatedEngineRuns := by
  intro e s p pages starting active working translated
  simp only [exec_streamTranslated, execStreamTranslated, State.translated, starting, active, working, translated, Bool.not_true,
    Bool.false_eq_true, if_false]

/-- The state in which an engine's program has ended: its item has committed, and its demand is released (R202, R206). -/
def State.programEnded (s : State) (e : Nat) (p : StreamProg) (i : Item) : State :=
  ((s.setEngine e { s.engine e with st := .idle, active := none }).releaseDemand p.demand).commitItem i 0 p.transfer

/-- A shadow takes over on an engine that is IDLE, while the shadow's item is at work (R185, R206). -/
def State.takeShadow (s : State) (e : Nat) (shadow : Option StreamProg) : State :=
  match (s.engine e).st, shadow with
  | .idle, some q => if (s.streamItem q).any fun i => i.phase = .working then s.activate e q else s
  | _, _ => s

theorem State.takeShadow_none (s : State) (e : Nat) : s.takeShadow e none = s := by
  unfold State.takeShadow
  split
  · next none_is_some => cases none_is_some
  · rfl

theorem State.takeShadow_some {s : State} {e : Nat} {q : StreamProg} {k : Item} (idle : (s.engine e).st = .idle)
    (item : s.streamItem q = some k) (atWork : k.phase = .working) : s.takeShadow e (some q) = s.activate e q := by
  simp only [State.takeShadow, idle, item, atWork, Option.any_some, decide_true, if_true]

/-- The end of a running engine's program: it has ended, and the shadow takes over where it can. -/
theorem State.endProgram_through {s : State} {e : Nat} {p : StreamProg} {i : Item} (running : (s.engine e).st = .running)
    (active : (s.engine e).active = some p) (through : p.through = true) (working : s.atWork p = true)
    (found : s.streamItem p = some i) : s.endProgram e = (s.programEnded e p i).takeShadow e (s.engine e).shadow := by
  simp only [State.endProgram, active, running, through, working, found, ne_eq, not_true_eq_false, decide_false, Bool.not_true,
    Bool.or_self, Bool.false_eq_true, if_false]
  rfl

/-- The end of a program, without and with a shadow (R206). -/
theorem programEndCommits : Sys2Proof.Claim.ProgramEndCommits := by
  intro e s p i running active through working found
  rw [exec_streamProgramEnd, execStreamProgramEnd, State.endProgram_through running active through working found]
  refine ⟨fun alone => ?_, fun q k shadow idle item atWork => ?_⟩
  · rw [alone, State.takeShadow_none]
    rfl
  · rw [shadow, State.takeShadow_some (s := s.programEnded e.val p i) idle item atWork]
    rfl

/-- Arbitration is timing alone (R204). -/
theorem arbitrationChangesNothing : Sys2Proof.Claim.ArbitrationChangesNothing := fun _ => rfl

/-- Settles O19: the five claims. -/
theorem enginesGoOn : Obligations.EnginesGoOn :=
  ⟨passVerified, tileCompared, translatedEngineRuns, programEndCommits, arbitrationChangesNothing⟩

/-! ## Packets on their way and links that go down are signals (R356, R359–R366) -/

section
variable {os : List Obj} {a s t : State} (h : Signals os a s)
include h

theorem Signals.portSendAll (p : Nat) (ks : List Packet) : Signals os a (s.portSendAll p ks) :=
  Signals.fold (fun _ k h => h.portSend p k) ks h

theorem Signals.setHeld (p : Nat) (ks : List Packet) : Signals os a (s.setPort p { s.port p with held := ks }) := h.setPort p rfl

/-- A packet sent by the torus, or what happens where it has no route there. -/
theorem Signals.onTorusOr (k : Packet) (other : Signals os a t) : Signals os a ((s.onTorus k).getD t) := by
  unfold State.onTorus
  dsimp only
  split
  · exact h.forwardOn ..
  · exact other

theorem Signals.leaveAux (ks : List Packet) : Signals os a (s.leaveAux ks) :=
  Signals.fold (fun _ k h => h.onTorusOr k (h.giveBack k).fabricDrop) ks h

theorem Signals.landed (k : Packet) : Signals os a (s.landed k).1 := by
  unfold State.landed
  split
  · exact h
  · exact h.setPort _ rfl

theorem Signals.forward (k : Packet) : Signals os a (s.forward k) := by
  unfold State.forward
  dsimp only
  split
  · split
    · exact h.portSend ..
    · exact h.onTorusOr k (((h.giveBack k).count (by simp [signalObjs]) ..).markFlag (by simp [signalObjs]) ..)
  · split
    · exact h
    · exact h.forwardOn ..

theorem Signals.passOn (k : Packet) : Signals os a (s.passOn k) := Signals.ite (h.treeSend k) (Signals.ite (h.forward k) h)

theorem Signals.allowIn (k : Packet) : Signals os a (s.allowIn k) :=
  Signals.ite ((h.landed k).passOn _) (((h.landed k).passOn _).giveBack _)

theorem Signals.refusePacket (k : Packet) : Signals os a (s.refusePacket k) :=
  Signals.ite ((h.landed k).giveBack _) ((h.landed k).giveBack _).fabricDrop

end

/-- A port whose link has gone down: DOWN, with the lines that it has received and its signal. -/
def Port.fallen (x : Port) : Port :=
  { Port.init with mcast := x.mcast, signal := x.signal, got := x.got, gone := some x.got }

/-- A link that goes down leaves its port DOWN; for the rest it is the event, and packets that leave by other ports (R356, R359). -/
theorem State.linkDown_signals (s : State) (p : Nat) :
    Signals [.portBudget, .linkDownCnt] (s.setPort p (s.port p).fallen) (s.linkDown p) := by
  have down (x : Port) : Signals [.portBudget, .linkDownCnt] (s.setPort p x)
      ((((s.setPort p x).setBudget p 75294).tally .linkDownCnt p .shxStatus 0 0).raise 0x20 none p) :=
    (((Signals.refl _ _).wrN (by simp) ..).tally (by simp) (by simp [signalObjs]) ..).raise ..
  unfold State.linkDown Port.fallen
  dsimp only
  split
  · exact Signals.ite ((down _).portSendAll ..) ((down _).setHeld ..)
  · exact (down _).leaveAux _

/-- After that the port is DOWN. -/
theorem State.linkDown_st (s : State) (p : Nat) : ((s.linkDown p).port p).st = 1 := by
  have links := (s.linkDown_signals p).links p
  rw [State.port_setPort, if_pos rfl] at links
  exact congrArg Prod.fst links

/-! ## Operations that leave memory and work alone (O11)

Each rule takes `a.SameWork s`, that no memory and no work has changed from a state to the present one, past one more operation. -/

namespace State.SameWork

theorem refl (s : State) : s.SameWork s := ⟨fun _ => rfl, rfl, rfl, rfl, rfl, rfl, rfl, rfl, rfl, rfl, rfl⟩

theorem trans {a s t : State} (h : a.SameWork s) (k : s.SameWork t) : a.SameWork t := by
  obtain ⟨mem, poison, ctxs, items, trails, pend, heads, bars, arrays, engines, queues⟩ := h
  obtain ⟨mem', poison', ctxs', items', trails', pend', heads', bars', arrays', engines', queues'⟩ := k
  exact ⟨fun pa => (mem' pa).trans (mem pa), poison'.trans poison, ctxs'.trans ctxs, items'.trans items, trails'.trans trails,
    pend'.trans pend, heads'.trans heads, bars'.trans bars, arrays'.trans arrays, engines'.trans engines, queues'.trans queues⟩

variable {a s t : State}

theorem ite {c : Prop} [Decidable c] (h : a.SameWork s) (k : a.SameWork t) : a.SameWork (if c then s else t) := by
  split <;> assumption

theorem fold {β : Type} {g : State → β → State} (keeps : ∀ b x, a.SameWork b → a.SameWork (g b x)) (l : List β)
    (h : a.SameWork s) : a.SameWork (l.foldl g s) :=
  l.foldlRecOn g h fun b hb x _ => keeps b x hb

/-- The other fields of the record, replaced. -/
theorem upd {pending now edge served fuses free regs staged copyA copyB storing prior writes purged prefetched out acts events fresh
    msiLast msiHeld vfs pcie fabric surv power sync strong mgmt} (h : a.SameWork s) :
    a.SameWork (State.mk pending now edge served fuses free regs staged copyA copyB storing s.mem s.scratch prior writes purged
      prefetched s.poison out s.ctxs s.items s.trails s.pend s.heads s.bars s.arrays s.engines s.queues acts events fresh msiLast
      msiHeld vfs pcie fabric surv power sync strong mgmt) := h

/-- The status of an operation can only be counted (R436). -/
theorem settle {r : Status × State} (h : a.SameWork r.2) : a.SameWork (Machine.settle r) := by
  unfold Machine.settle
  split
  · exact h
  · exact h
  · next t => exact h.trans ((Signals.refl _ _).tally (os := [.igcorRefuseCnt, .igcorStatus]) (by simp) (by simp) _ _ _).sameWork

variable (h : a.SameWork s)
include h

/-! ### Entries, outputs and ports -/

theorem wr (o : Obj) (n e : Nat) (v : W64) : a.SameWork (s.wr o n e v) := h.upd
theorem wrN (o : Obj) (n e v : Nat) : a.SameWork (s.wrN o n e v) := h.wr ..
theorem count (o : Obj) (n e k : Nat) : a.SameWork (s.count o n e k) := h.wrN ..
theorem markFlag (o : Obj) (n b : Nat) : a.SameWork (s.markFlag o n b) := (h.wr ..).upd
theorem emit (o : Output) : a.SameWork (s.emit o) := h.upd
theorem setPort (p : Nat) (x : Port) : a.SameWork (s.setPort p x) := h.upd
theorem setPower (x : Power) : a.SameWork (s.setPower x) := h.upd
theorem nextOp : a.SameWork s.nextOp.2 := h.upd
theorem freeW : a.SameWork s.freeW.2 := h.upd
theorem bumpGen : a.SameWork s.bumpGen := h.wrN ..

/-! ### Signals -/

theorem signals {os : List Obj} (k : Signals os s t) : a.SameWork t := h.trans k.sameWork

theorem setFlag (o : Obj) (n b : Nat) : a.SameWork (s.setFlag o n b) :=
  h.signals ((Signals.refl [o] s).setFlag (by simp) n b)
theorem tally (c : Obj) (n : Nat) (o : Obj) (m b : Nat) : a.SameWork (s.tally c n o m b) :=
  h.signals ((Signals.refl [c, o] s).tally (by simp) (by simp) n m b)
theorem raise (code : Nat) (c : Option CtxId) (arg : Nat) : a.SameWork (s.raise code c arg) :=
  h.signals ((Signals.refl [] s).raise code c arg)
theorem sealEvents : a.SameWork s.sealEvents := h.signals (Signals.refl [] s).sealEvents
theorem msixSend (f : CtxId) (v : Nat) : a.SameWork (s.msixSend f v) := h.signals ((Signals.refl [] s).msixSend f v)
theorem fabricDrop : a.SameWork s.fabricDrop := h.signals (Signals.refl [] s).fabricDrop
theorem sendWords (p : Nat) (ks : List Packet) (n : Nat) : a.SameWork (s.sendWords p ks n) :=
  h.signals ((Signals.refl [] s).sendWords p ks n)
theorem linkLocal (p : PortId) (type : Nat) (arg : W64) (d : List Byte) : a.SameWork (s.linkLocal p type arg d) :=
  h.signals ((Signals.refl [] s).linkLocal p type arg d)
theorem giveBack (k : Packet) : a.SameWork (s.giveBack k) := h.signals ((Signals.refl [] s).giveBack k)
theorem portSend (p : Nat) (k : Packet) : a.SameWork (s.portSend p k) := h.signals ((Signals.refl [] s).portSend p k)
theorem forwardOn (k : Packet) (d : Nat) (m f : Bool) : a.SameWork (s.forwardOn k d m f) :=
  h.signals ((Signals.refl [] s).forwardOn k d m f)
theorem treeSend (k : Packet) : a.SameWork (s.treeSend k) := h.signals ((Signals.refl [] s).treeSend k)

/-! ### Links (R355–R359) -/

theorem tryTrain (p : Nat) : a.SameWork (s.tryTrain p) := ite (h.setPort _ _) h
theorem portMove (p from_ to_ : Nat) : a.SameWork (s.portMove p from_ to_) := ite (h.setPort _ _) h
theorem sendIdent (p : PortId) : a.SameWork (s.sendIdent p) := h.linkLocal ..
theorem sendLaneChange (p : PortId) (lanes : BitVec 4) : a.SameWork (s.sendLaneChange p lanes) := (h.linkLocal ..).setPort ..
theorem miswired (p : Nat) : a.SameWork (s.miswired p) := ((h.setPort _ _).tally ..).raise ..
theorem laneDegraded (p lane : Nat) : a.SameWork (s.laneDegraded p lane) := (h.setFlag ..).raise ..

theorem linkDown (p : Nat) : a.SameWork (s.linkDown p) := (h.setPort ..).signals (s.linkDown_signals p)

theorem loseLanes (p : PortId) : a.SameWork (s.loseLanes p) :=
  ite h (ite (h.linkDown _) (ite h (h.sendLaneChange ..)))

theorem laneDisable (p : PortId) (v : Byte) : a.SameWork (s.laneDisable p v).2 := by
  unfold State.laneDisable
  dsimp only
  split
  · exact h
  · split
    · exact (h.wrN ..).setPort ..
    · exact (ite ((h.wrN ..).setPort ..) (h.wrN ..)).loseLanes p

/-! ### Packets (R359–R362, R364, R366) -/

theorem allowIn (k : Packet) : a.SameWork (s.allowIn k) := h.signals ((Signals.refl [] s).allowIn k)
theorem refusePacket (k : Packet) : a.SameWork (s.refusePacket k) := h.signals ((Signals.refl [] s).refusePacket k)

theorem receive (k : Packet) {act : State → State} (keeps : ∀ t, a.SameWork t → a.SameWork (act t)) :
    a.SameWork (s.receive k act) :=
  ite (h.refusePacket k) (ite (h.allowIn k) (ite (keeps _ (h.allowIn k)) (h.allowIn k).fabricDrop))

theorem receiveColl (k : Packet) {act : State → State} (keeps : ∀ t, a.SameWork t → a.SameWork (act t)) :
    a.SameWork (s.receiveColl k act) :=
  h.receive k fun t h => ite (keeps t h) h.fabricDrop

/-- A report only joins a vote, or is counted as late (R386). -/
theorem takeReport (c : CtxId) (rank : Nat) (words : List W64) : a.SameWork (s.takeReport c rank words) := by
  unfold State.takeReport
  dsimp only
  split
  · exact h.tally ..
  · split
    · exact h
    · exact ite h (h.tally ..)

/-! ### Time (R377, R479) -/

theorem sendTime (d : Nat) (minus : Bool) (stamps : List W64) : a.SameWork (s.sendTime d minus stamps) := h.nextOp.forwardOn ..

theorem answerTime (e : Nat × Bool) : a.SameWork (s.answerTime e) := h.freeW.freeW.freeW.sendTime ..

theorem discipline (lag sign : Int) : a.SameWork (s.discipline lag sign) :=
  ite h.upd (((h.wr ..).upd.tally ..).raise ..)

/-! ### Power and the sync chain (R461, R476–R483) -/

theorem pwrEvent (code arg b : Nat) : a.SameWork (s.pwrEvent code arg b) := (h.setFlag ..).raise ..
theorem holdupLow : a.SameWork s.holdupLow := (h.pwrEvent ..).upd
theorem setOldCopy (f : StoreCopy → StoreCopy) : a.SameWork (s.setOldCopy f) := ite h.upd h.upd
theorem syncSend (type : Nat) (down : Bool) (body : W64) : a.SameWork (s.syncSend type down body) := ite h (h.emit _)
theorem badFrame : a.SameWork s.badFrame := h.tally ..
theorem sendStop : a.SameWork s.sendStop := (h.syncSend ..).syncSend ..

/-- The stop cleared, where it may be (R483). -/
theorem clearStop : a.SameWork (s.estopControl 2).2 := by
  unfold State.estopControl
  rw [if_neg (by decide), if_pos rfl]
  split
  · exact h
  · exact h.upd

theorem takeFrame (type : Nat) (f : SyncFrame) (onDn : Bool) {act : State → State}
    (keeps : ∀ t, a.SameWork t → a.SameWork (act t)) : a.SameWork (s.takeFrame type f onDn act) := by
  unfold State.takeFrame
  exact ite (h.emit _) (ite h.badFrame (ite h (ite (keeps _ (ite h.upd (h.upd.wrN ..))) (keeps _ h.upd))))

theorem takeTime (body : W64) : a.SameWork (s.takeTime body) := ite h (ite h (h.discipline ..))

theorem takeStepMark (step : W64) : a.SameWork (s.takeStepMark step) := by
  have sent := (h.wr .syncStep 0 0 step).syncSend 2 true step
  exact ite h (ite ((sent.upd.count ..).pwrEvent ..) sent)

/-! ### The management controller and the host's side (R422, R428, R441–R445) -/

/-- An operation that only reads answers, and numbers the events that it reads (R441, R456). -/
theorem runOp {x : IgOp} (reads : isReadOp x.op = true) (at_ : State) (who : Requester) (want gen : Nat) :
    a.SameWork (s.runOp at_ who want gen x).state := by
  unfold State.runOp
  split
  · exact h
  · split
    · split <;> exact h
    · next write => simp [isReadOp, write] at reads
    · split <;> exact h
    · next check => simp [isReadOp, check] at reads
    · next apply_ => simp [isReadOp, apply_] at reads
    · next discard => simp [isReadOp, discard] at reads
    · split <;> exact h
    · unfold State.opEventRead
      split
      · exact h.sealEvents
      · exact h

theorem countControl (x : IgOp) (st : Status) : a.SameWork (s.countControl x st) := by
  unfold State.countControl
  split
  · split
    · exact h.count ..
    · exact h
  · exact h

theorem runRecord {x : IgOp} (reads : isReadOp x.op = true) (at_ : State) (who : Requester) (want gen : Nat) :
    a.SameWork (s.runRecord at_ who want gen x).state := by
  unfold State.runRecord
  refine (settle ?_).countControl x _
  dsimp only
  split
  · exact h.runOp reads at_ who want gen
  · exact h

/-- A single operation is a frame of one record: its state is the record's, but for what counts the frame. -/
theorem single {x : IgOp} (reads : isReadOp x.op = true) (who : Requester) (want : Nat) : a.SameWork (s.single who want x) := by
  have record := h.runRecord reads s who want (s.rdN .stageGen)
  have records : a.SameWork (s.runRecords none who want (s.rdN .stageGen) [x]).1 := by
    simp only [State.runRecords, Option.getD_none]
    split <;> exact record
  unfold State.single
  refine ite h (fold (fun _ _ h => h.emit _) _ ?_)
  exact (ite records.bumpGen records).count ..

theorem sendPending (f : CtxId) (vec : Nat) : a.SameWork (s.sendPending f vec) := ite ((h.wr ..).msixSend ..) h

theorem mailboxGo (f : CtxId) : a.SameWork (s.mailboxGo f) := ite (h.tally ..) (h.upd.wr ..)

end State.SameWork

/-! ### Codewords (R354, R355, R358) -/

/-- No change of width can take effect on a port: it is not trained, or none is agreed. -/
def State.WidthStays (s : State) (p : PortId) : Prop := (s.port p.val).st < 3 ∨ (s.port p.val).change = none

section
variable {s t : State} {p : PortId}

theorem State.WidthStays.ite {c : Prop} [Decidable c] (h : s.WidthStays p) (k : t.WidthStays p) :
    (if c then s else t).WidthStays p := by
  split <;> assumption

theorem State.WidthStays.fold {β : Type} {g : State → β → State} (keeps : ∀ b x, b.WidthStays p → (g b x).WidthStays p) (l : List β)
    (h : s.WidthStays p) : (l.foldl g s).WidthStays p :=
  l.foldlRecOn g h fun b hb x _ => keeps b x hb

theorem State.WidthStays.of_port (h : s.WidthStays p) (same : t.port p.val = s.port p.val) : t.WidthStays p := by
  unfold State.WidthStays
  rw [same]
  exact h

theorem State.WidthStays.count (h : s.WidthStays p) (o : Obj) (n e k : Nat) : (s.count o n e k).WidthStays p :=
  h.of_port (s.wr_port ..)

/-- A port replaced by one in the same state with the same change of width. -/
theorem State.WidthStays.setPort (h : s.WidthStays p) {x : Port} (same : (x.st, x.change) = ((s.port p.val).st, (s.port p.val).change)) :
    (t.setPort p.val x).WidthStays p := by
  obtain ⟨st, change⟩ := Prod.mk.inj same
  unfold State.WidthStays
  rw [State.port_setPort, if_pos rfl, st, change]
  exact h

theorem State.WidthStays.emit (h : s.WidthStays p) (o : Output) : (s.emit o).WidthStays p := h.of_port (s.emit_port ..)

theorem State.WidthStays.sendAgain (h : s.WidthStays p) (q : PortId) (w : SentWord) : (s.sendAgain q w).WidthStays p :=
  .fold (fun _ _ h => h.emit _) _ (h.emit _)

/-- A resend changes no width: the link goes down, or its codewords go out again (R355). -/
theorem State.WidthStays.resend (h : s.WidthStays p) : (s.resend p).WidthStays p := by
  unfold State.resend
  refine .ite (.inl ?_) (.fold (fun _ w h => h.sendAgain p w) _ (.count (h.setPort (by rfl)) ..))
  rw [State.linkDown_st]
  decide

theorem State.WidthStays.acknowledge (h : s.WidthStays p) (ack : BitVec 10) : (s.acknowledge p ack).WidthStays p := by
  unfold State.acknowledge
  exact .ite (h.setPort (by rfl)).resend (h.setPort (by rfl))

end

namespace State.SameWork
variable {a s : State} (h : a.SameWork s)
include h

theorem sendAgain (p : PortId) (w : SentWord) : a.SameWork (s.sendAgain p w) := fold (fun _ _ h => h.emit _) _ (h.emit _)

theorem resend (p : PortId) : a.SameWork (s.resend p) := by
  have counted (x : Port) : a.SameWork ((s.setPort p.val x).count .replayCnt p.val) := (h.setPort ..).count ..
  exact ite ((counted _).linkDown _) (fold (fun _ w h => h.sendAgain p w) _ (counted _))

theorem acknowledge (p : PortId) (ack : BitVec 10) : a.SameWork (s.acknowledge p ack) := ite ((h.setPort ..).resend p) (h.setPort ..)

/-- Answering a codeword where no width changes only sends one. -/
theorem answerWord {p : PortId} (stays : s.WidthStays p) : a.SameWork (s.answerWord p) := by
  unfold State.answerWord
  dsimp only
  split
  · exact h
  · next trained =>
    have change : (s.port p.val).change = none := stays.resolve_left fun low => trained (by simp [low])
    have sent : ((s.sendWords p.val [] 1).port p.val).change = none := by simpa [State.sendWords, State.port_setPort] using change
    rw [State.widthDue_of_change_eq_none sent]
    exact h.sendWords ..

end State.SameWork

/-- A codeword at a port with no change of width agreed moves only that port, its counters and what is sent (R354, R355). -/
theorem execCodeword_sameWork {p : PortId} {s : State} (none_agreed : (s.port p.val).change = none) (seq ack : BitVec 10)
    (decoded : Bool) (corrected : BitVec 4) : NextP s.SameWork (execCodeword p seq ack decoded corrected s) := by
  have h := State.SameWork.refl s
  have stays : s.WidthStays p := .inr none_agreed
  unfold execCodeword
  refine .ite (.next h) (.ite (.next ?_) (.ite (.next ?_) (.next ?_)))
  · exact ((h.setPort ..).count ..).answerWord ((stays.setPort (by rfl)).count ..)
  · exact ((h.count ..).setPort ..).answerWord (stays.setPort (by rfl))
  · exact (((h.count ..).setPort ..).acknowledge p ack).answerWord ((stays.setPort (by rfl)).acknowledge ack)

/-! ### Commands that start no work -/

theorem State.SameWork.clearFlags {a s : State} (h : a.SameWork s) (o : Obj) (n : Nat) (v : W64) : a.SameWork (s.clearFlags o n v) := by
  unfold State.clearFlags
  split
  · exact h
  · exact h.wr ..

theorem execShxTimeExchange_sameWork (s : State) : NextP s.SameWork (execShxTimeExchange s) := by
  have h := State.SameWork.refl s
  unfold execShxTimeExchange
  split
  · exact .next h
  · refine .next (.fold (fun _ e h => h.answerTime e) _ ?_)
    split
    · exact h
    · exact h.freeW.sendTime ..

theorem execStatusEntryWrite_sameWork (index : BitVec 16) (sub : Byte) (v : W32) (s : State) :
    NextP s.SameWork (execStatusEntryWrite index sub v s) := by
  have h := State.SameWork.refl s
  unfold execStatusEntryWrite
  split
  · exact .next h
  · exact .ite (.next (h.clearFlags ..)) (.next h)

theorem execHoldupCharged_sameWork (micros : W32) (reached : Bool) (s : State) :
    NextP s.SameWork (execHoldupCharged micros reached s) := by
  have h := State.SameWork.refl s
  have measured : s.SameWork (if reached then s.wrN .holdupUf 0 0 (micros.toNat / 20) else s) := .ite (h.wrN ..) h
  unfold execHoldupCharged
  exact .ite (.next h) (.ite (.next (.upd (.ite measured.holdupLow measured))) (.next (.ite measured.holdupLow measured)))

theorem execSyncLoss_sameWork (up : Bool) (s : State) : NextP s.SameWork (execSyncLoss up s) := by
  have h := State.SameWork.refl s
  exact .ite (.next h) (.next ((h.upd.count ..).pwrEvent ..))

theorem execRefLost_sameWork (s : State) : NextP s.SameWork (execRefLost s) := by
  have lost := (State.SameWork.refl s).setPower { s.power with refclk := false }
  exact .ite (.next (((lost.setPower _).wrN ..).pwrEvent ..)) (.next (lost.wrN ..))

/-- Each quiet command leaves memory and the work of the contexts as they were. -/
theorem exec_quiet_sameWork {i : Instr} (quiet : i.isQuiet = true) (s : State) : NextP s.SameWork (exec i s) := by
  have h := State.SameWork.refl s
  cases i with
  | signalDetect p lanes => exact .next ((h.setPort ..).tryTrain _)
  | linkRetryTimer p => exact .next (h.tryTrain _)
  | trainConverged p => exact .next (h.portMove ..)
  | trainTimeout p => exact .next (h.portMove ..)
  | alignDone p => exact .ite (.next ((h.portMove ..).sendIdent p)) (.next h)
  | alignTimeout p => exact .next (h.portMove ..)
  | verifyTimeout p => exact .ite (.next (h.miswired _)) (.next h)
  | laneLockLoss p lane => exact .next ((h.setPort ..).loseLanes p)
  | laneRestored p lane => exact .ite (.next ((h.setPort ..).sendLaneChange ..)) (.next (h.setPort ..))
  | laneDisable p v => exact .next (.settle (h.laneDisable p v))
  | laneSymbolRateWindow p l0 l1 l2 l3 => exact .next (.fold (fun _ _ h => .ite (h.laneDegraded ..) h) _ h)
  | mismatchReport k => exact .next (h.receiveColl k fun _ h => h.takeReport ..)
  | prune k => exact .next (h.receive k fun _ h => h.tally ..)
  | shxTimeExchange => exact execShxTimeExchange_sameWork s
  | statusEntryWrite index sub v => exact execStatusEntryWrite_sameWork index sub v s
  | arbitrationWindow => exact .next h
  | retireCopyDone d => exact .ite (.next ((h.count ..).wrN ..)) (.next h)
  | holdupCharged micros reached => exact execHoldupCharged_sameWork micros reached s
  | supplyWarn mv => exact .ite (.next h) (.next (((h.wrN ..).count ..).pwrEvent ..))
  | sagGlitch => exact .ite (.next h) (.next (h.tally ..))
  | refLost => exact execRefLost_sameWork s
  | refclkPresent => exact .next (h.upd.wrN ..)
  | perstDeassert => exact .next h.upd
  | pcieLinkUp width rate => exact .ite (.next (h.wrN ..)) (.next h)
  | msixUnmask f vec => exact .ite (.next h) (.ite (.next (h.tally ..)) (.next ((h.wr ..).sendPending ..)))
  | irqHoldoffExpiry f vec => exact .ite (.next (h.upd.msixSend ..)) (.next h)
  | mailboxGo f => exact .ite (.next h) (.ite (.next (h.tally ..)) (.next (h.mailboxGo f)))
  | neighborSolicitation src target => exact .ite (.next (h.emit _)) (.next h)
  | icmpv6Echo src data => exact .ite (.next (h.emit _)) (.next h)
  | persistWrite readBack retry =>
    exact .ite (.next h) (.ite (.next (h.upd.setOldCopy _)) (.next ((h.upd.setOldCopy _).tally ..)))
  | read who index sub off len => exact .next (h.single rfl ..)
  | readStaged who index sub off len => exact .next (h.single rfl ..)
  | describe who index sub => exact .next (h.single rfl ..)
  | eventRead who first most => exact .next (h.single rfl ..)
  | syncFrameDiscard crcBad => exact .ite (.next h.badFrame) (.next h)
  | syncTimeFrame f => exact .next (h.takeFrame 1 f true fun _ h => h.takeTime _)
  | syncStepFrame f => exact .next (h.takeFrame 2 f true fun _ h => h.takeStepMark _)
  | syncTimeTimer => exact .ite (.next (h.syncSend ..)) (.next h)
  | syncEchoTimer => exact .ite (.next h) (.next (h.upd.syncSend ..))
  | echoReq f turnaround => exact .next (h.takeFrame 4 f false fun _ h => h.syncSend ..)
  | echoRsp f t1 t4 => exact .next (h.takeFrame 5 f true fun _ h => .ite h (h.wrN ..))
  | syncLoss up => exact execSyncLoss_sameWork up s
  | estopClear => exact .next (.settle (h.clearStop))
  | estopRepeat => exact .ite (.next h.sendStop) (.next h)
  | _ => exact absurd quiet Bool.false_ne_true

/-- What an outcome's next state has, the state that it is has. -/
theorem NextP.of_eq {P : State → Prop} {o : Host.Outcome State Fault Refusal} {t : State} (h : NextP P o) (e : o = .next t) : P t := by
  obtain ⟨u, answers, has⟩ := h
  cases answers.symm.trans e
  exact has

/-- Settles O11, command by command; a codeword's answer is the one place where a width could change. -/
theorem quietCommandsKeepWork : Obligations.QuietCommandsKeepWork :=
  ⟨fun _ s _ quiet => (exec_quiet_sameWork quiet s).of_eq,
    fun _ seq ack decoded corrected _ _ none_agreed => (execCodeword_sameWork none_agreed seq ack decoded corrected).of_eq⟩

end Sys2Proof.Machine
end

section
/-! PROOFS. The time stays: the operations of a preemption, of an item's stop and of a context's faults leave the cycle count (R24,
R75). -/

namespace Sys2Proof.Machine

/-! ## Combinators -/

/-- What every step of a fold leaves, the fold leaves. -/
theorem foldl_keeps {α β : Type} (f : State → α) {g : State → β → State} (keeps : ∀ t x, f (g t x) = f t) (l : List β) (s : State) :
    f (l.foldl g s) = f s := by
  induction l generalizing s with
  | nil => rfl
  | cons x l ih => exact (ih _).trans (keeps s x)

theorem foldl_now {β : Type} {g : State → β → State} (keeps : ∀ t x, (g t x).now = t.now) (l : List β) (s : State) :
    (l.foldl g s).now = s.now := foldl_keeps State.now keeps l s

theorem ite_now {p : Prop} [Decidable p] {s t u : State} (h : t.now = s.now) (k : u.now = s.now) :
    (if p then t else u).now = s.now := by split <;> assumption

namespace State

variable (s : State)

/-! ## Signals and memory -/

@[simp] theorem updCtx_now (c : CtxId) (f : Ctx → Ctx) : (s.updCtx c f).now = s.now := s.setCtx_now ..
@[simp] theorem wrN_now (o : Obj) (n e v : Nat) : (s.wrN o n e v).now = s.now := s.wr_now ..
@[simp] theorem count_now (o : Obj) (n e k : Nat) : (s.count o n e k).now = s.now := s.wrN_now ..

@[simp] theorem setFlag_now (o : Obj) (n b : Nat) : (s.setFlag o n b).now = s.now :=
  ((Signals.refl [o] s).setFlag (by simp) n b).now

@[simp] theorem tally_now (cnt : Obj) (n : Nat) (o : Obj) (m b : Nat) : (s.tally cnt n o m b).now = s.now :=
  ((Signals.refl [cnt, o] s).tally (by simp) (by simp) n m b).now

@[simp] theorem tallyN_now (cnt : Obj) (n : Nat) (o : Obj) (m b k : Nat) : (s.tallyN cnt n o m b k).now = s.now :=
  ((Signals.refl [cnt, o] s).tallyN (by simp) (by simp) n m b k).now

@[simp] theorem interrupt_now (f : CtxId) (v : Nat) : (s.interrupt f v).now = s.now := ((Signals.refl [] s).interrupt f v).now

@[simp] theorem raise_now (code : Nat) (c : Option CtxId) (arg : Nat) : (s.raise code c arg).now = s.now :=
  ((Signals.refl [] s).raise code c arg).now

@[simp] theorem hostWrite_now (f : CtxId) (addr : Nat) (d : List Byte) : (s.hostWrite f addr d).now = s.now :=
  ((Signals.refl [.hostDmaErrCnt, .hostCtxStatus] s).hostWrite (by simp) (by simp) f addr d).now

@[simp] theorem unfetch_now (f : FetchedRow → Bool) : (s.unfetch f).now = s.now :=
  ((Signals.refl [.prefetchDiscardCnt, .gatherStatus] s).unfetch (by simp) (by simp) f).now

@[simp] theorem foundUeIn_now (cls pa : Nat) : (s.foundUeIn cls pa).now = s.now :=
  ((((Signals.refl [.eccUeCnt, .eccLastUe, .memStatus] s).count (by simp) 0 cls 1).wrBytes (by simp) 0 0 _).setFlag (by simp) 0 1).now

@[simp] theorem noteUe_now (why : Stop) : (s.noteUe why).now = s.now := by
  unfold noteUe
  split
  · exact s.foundUeIn_now ..
  · exact s.foundUeIn_now ..
  · rfl

@[simp] theorem countDenied_now (c : CtxId) : (s.countDenied c).now = s.now := s.tally_now ..

@[simp] theorem store_now (ps : List (Nat × Nat)) (bs : List Byte) : (s.store ps bs).now = s.now := by
  induction ps generalizing s bs with
  | nil => rfl
  | cons p ps ih => exact (ih ..).trans (s.poke_now ..)

theorem vwrite_now (r : Req) (va : Nat) (bs : List Byte) : OkP (fun t => t.now = s.now) (s.vwrite r va bs) := by
  refine OkP.bind fun ps _ => ?_
  unfold storeAll
  split
  · exact OkP.error
  · exact OkP.ok (s.store_now ..)

/-! ## The accession log and the records -/

@[simp] theorem log_now (i : Item) (st : LogState) (status progress : Nat) : (s.log i st status progress).1.now = s.now := by
  unfold log logAppend
  dsimp only
  split_ifs <;> simp

@[simp] theorem logLast_now (i : Item) (st : LogState) (status progress : Nat) : (s.logLast i st status progress).now = s.now :=
  ite_now (s.log_now ..) ((countDenied_now ..).trans (s.log_now ..))

@[simp] theorem countStatus_now (c : CtxId) (status : Nat) : (s.countStatus c status).now = s.now :=
  ite_now (s.count_now ..) (ite_now (s.count_now ..) (ite_now (s.count_now ..) rfl))

@[simp] theorem writeRec_now (c : CtxId) (r : Rec) : (s.writeRec c r).now = s.now := by
  unfold writeRec
  dsimp only
  refine ite_now ?_ ?_
  · rw [interrupt_now, wrN_now, hostWrite_now]
  · rw [wrN_now, hostWrite_now]

@[simp] theorem writeWaiting_now (c : CtxId) (rs : List Rec) : (s.writeWaiting c rs).now = s.now := by
  induction rs generalizing s with
  | nil => rfl
  | cons r rs ih => exact ite_now ((ih _).trans (s.writeRec_now ..)) rfl

@[simp] theorem postRec_now (c : CtxId) (r : Rec) : (s.postRec c r).now = s.now := writeWaiting_now ..

@[simp] theorem itemRec_now (i : Item) (status progress : Nat) : (s.itemRec i status progress).now = s.now :=
  ite_now (s.countStatus_now ..) ((postRec_now ..).trans (s.countStatus_now ..))

/-! ## Trails, engines and queues -/

theorem writeHeader_now (i : Item) (st : Nat) : OkP (fun t => t.now = s.now) (s.writeHeader i st) :=
  OkP.bind fun t written => OkP.pure (s.vwrite_now _ _ _ t written)

@[simp] theorem stopHeader_now (i : Item) : (s.stopHeader i).now = s.now := by
  unfold stopHeader
  split
  · rfl
  · split
    · next written => exact s.writeHeader_now _ _ _ written
    · exact s.noteUe_now _

@[simp] theorem rewriteTrail_now (t : Trail) (st : Nat) (prov : Bool) : (s.rewriteTrail t st prov).now = s.now := by
  unfold rewriteTrail
  dsimp only
  split
  · next written => exact s.vwrite_now _ _ _ _ written
  · exact (tally_now ..).trans (s.noteUe_now _)

@[simp] theorem rewindTrails_now (f : Trail → Bool) : (s.rewindTrails f).now = s.now :=
  foldl_now (fun t _ => (unfetch_now ..).trans (t.rewriteTrail_now ..)) _ s

@[simp] theorem releaseDemand_now (d : List (Nat × Nat)) : (s.releaseDemand d).now = s.now := by
  unfold releaseDemand
  exact foldl_now (fun t ⟨_, _⟩ => t.wrN_now ..) d s

@[simp] theorem emptyQueues_now (cl : Nat) : (s.emptyQueues cl).now = s.now :=
  foldl_now (fun t _ => foldl_now (fun u _ => u.setQueue_now ..) _ t) _ s

@[simp] theorem dropSends_now (p : StreamProg) : (s.dropSends p).now = s.now := foldl_now (fun t _ => t.setQueue_now ..) _ s

@[simp] theorem dropEngine_now (e : Nat) (st : EngState) : (s.dropEngine e st).now = s.now :=
  (setEngine_now ..).trans ((releaseDemand_now ..).trans (foldl_now (fun t p => t.dropSends_now p) _ s))

@[simp] theorem dropStreams_now (cl : Nat) (st : EngState) : (s.dropStreams cl st).now = s.now :=
  (emptyQueues_now ..).trans (foldl_now (fun t e => t.dropEngine_now e st) _ s)

@[simp] theorem dropAhead_now (c : CtxId) (e : Nat) (x : Engine) : (s.dropAhead c e x).now = s.now := by
  unfold dropAhead
  dsimp only
  refine ite_now (s.dropEngine_now ..) ?_
  split
  · exact ite_now (s.releaseDemand_now _) rfl
  · rfl

/-! ## Aborts and faults -/

@[simp] theorem abortItem_now (i : Item) (status : Nat) (records : Bool) : (s.abortItem i status records).now = s.now :=
  ite_now ((itemRec_now ..).trans (s.logLast_now ..)) (s.logLast_now ..)

@[simp] theorem abortItems_now (f : Item → Bool) (records : Bool) : (s.abortItems f records).now = s.now :=
  foldl_now (fun t i => t.abortItem_now i _ _) _ s

/-- The cancel of an armed change is that of the change itself, and signals (R453). -/
theorem cancelArmed_signals (c : CtxId) :
    ∃ m, Signals [.stageArmed, .stageGen, .applyCancelCnt, .igcorStatus] { s with mgmt := m } (s.cancelArmed c) := by
  have same : Signals [.stageArmed, .stageGen, .applyCancelCnt, .igcorStatus] { s with mgmt := s.mgmt } s := Signals.refl ..
  unfold cancelArmed
  split
  · exact ⟨_, same⟩
  · split
    · exact ⟨_, ((((Signals.refl ..).wrBytes (by simp) ..).wrN (by simp) ..).tally (by simp) (by simp) ..).raise ..⟩
    · exact ⟨_, same⟩

@[simp] theorem cancelArmed_now (c : CtxId) : (s.cancelArmed c).now = s.now := by
  obtain ⟨m, signals⟩ := s.cancelArmed_signals c
  exact signals.now

@[simp] theorem cancelArmed_bar (c c' : CtxId) (b : Nat) : (s.cancelArmed c).bar c' b = s.bar c' b := by
  obtain ⟨m, signals⟩ := s.cancelArmed_signals c
  exact signals.bar c' b

@[simp] theorem discardAhead_now (c : CtxId) (records : Bool) : (s.discardAhead c records).now = s.now := by
  unfold discardAhead
  dsimp only
  rw [tallyN_now, rewindTrails_now, foldl_now (fun t e => t.dropAhead_now ..), abortItems_now, updCtx_now]

@[simp] theorem enterFaulted_now (c : CtxId) : (s.enterFaulted c).now = s.now := by
  refine ite_now rfl ?_
  rw [cancelArmed_now, discardAhead_now, setFlag_now, updCtx_now]

@[simp] theorem stopPartition_now (c : CtxId) (p : Nat) (service : Bool) : (s.stopPartition c p service).now = s.now := by
  unfold stopPartition
  dsimp only
  rw [enterFaulted_now]
  refine ite_now (s.abortItems_now ..) ?_
  rw [updCtx_now, tally_now, rewindTrails_now, foldl_now (fun t cl => t.dropStreams_now ..), abortItems_now]

@[simp] theorem failItem_now (i : Item) (status : Nat) : (s.failItem i status).now = s.now :=
  (stopPartition_now ..).trans (s.abortItem_now ..)

@[simp] theorem logThen_now (i : Item) (status : Nat) : (s.logThen i status).now = s.now :=
  ite_now ((itemRec_now ..).trans (s.log_now ..)) ((failItem_now ..).trans ((countDenied_now ..).trans (s.log_now ..)))

/-! ## Preemption -/

@[simp] theorem preemptItem_now (i : Item) : (s.preemptItem i).now = s.now := logThen_now ..

@[simp] theorem abandonTile_now (i : Item) : (s.abandonTile i).now = s.now := by
  unfold abandonTile
  split
  · rfl
  · exact ite_now rfl rfl

@[simp] theorem stopEngine_now (c : CtxId) (e : Nat) : (s.stopEngine c e).now = s.now := by
  unfold stopEngine
  dsimp only
  split
  · rfl
  · exact ite_now rfl rfl

@[simp] theorem stopAtPoint_now (i : Item) : (s.stopAtPoint i).now = s.now := by
  unfold stopAtPoint
  split
  · rfl
  · exact ite_now rfl ((preemptItem_now ..).trans (s.stopHeader_now _))

@[simp] theorem discardLines_now (c : CtxId) : (s.discardLines c).now = s.now :=
  foldl_now (fun t _ => foldl_now (fun u _ => u.setQueue_now ..) _ t) _ s

@[simp] theorem stopUnits_now (c : CtxId) : (s.stopUnits c).now = s.now := by
  unfold stopUnits
  dsimp only
  rw [discardLines_now, foldl_now stopAtPoint_now, foldl_now (fun t e => t.stopEngine_now ..), foldl_now abandonTile_now]

/-- A preemption leaves the time, whether it is accepted or refused. -/
theorem preempt_now (c : CtxId) : (s.preempt c).2.now = s.now := by
  unfold preempt
  dsimp only
  split
  · exact s.count_now ..
  · split
    · exact (count_now ..).trans (s.noteUe_now _)
    · exact stopUnits_now ..

end State

end Sys2Proof.Machine
end

section
/-! PROOFS. Context control: `PREEMPT`, `RESUME` and `FAULT_RESUME`, accepted and refused, and `RESET` (O12, O13). -/

namespace Sys2Proof.Machine

section
variable {s : State} {c : CtxId}

/-! ## `PREEMPT` (O12) -/

/-- The edge has a `RESET` or a fault event of the context, or has neither. -/
theorem State.edgeFree_iff : s.EdgeFree c ↔ (s.resetSoon c || s.stoppedSoon c) = false := by
  simp only [State.EdgeFree, Bool.or_eq_false_iff]

/-- A `PREEMPT` that has acted ahead of a completion does nothing more (R41). -/
theorem execPreempt_acted (acted : (s.ctx c).preAt = some s.now) :
    execPreempt c s = .next (s.updCtx c fun x => { x with preAt := none }) := by
  simp only [execPreempt, acted, if_true]

/-- Without a `RESET` and a fault event on its edge it preempts (R41). -/
theorem execPreempt_of_edgeFree (waits : (s.ctx c).preAt ≠ some s.now) (edge : s.EdgeFree c) :
    execPreempt c s = .next (s.preempt c).2 := by
  simp only [execPreempt, waits, State.edgeFree_iff.mp edge, Bool.false_eq_true, if_false]

/-- With one of them there it is refused (R41). -/
theorem execPreempt_of_not_edgeFree (waits : (s.ctx c).preAt ≠ some s.now) (edge : ¬ s.EdgeFree c) :
    execPreempt c s = .next (s.count .cmdRejectCnt c.val) := by
  rw [State.edgeFree_iff, Bool.not_eq_false] at edge
  simp only [execPreempt, waits, edge, State.refuseControl, if_false, if_true]

/-- The context can be preempted: it is RUNNING or PARKED and has a save area (R40, R343). -/
def State.Preemptible (s : State) (c : CtxId) : Prop :=
  ((s.ctx c).st = .running ∨ (s.ctx c).st = .parked) ∧ s.rdN .saveVa c.val ≠ 0

theorem State.preempt_refused (h : ¬ s.Preemptible c) : (s.preempt c).2 = s.count .cmdRejectCnt c.val := by
  have refused : (!(decide ((s.ctx c).st = .running) || decide ((s.ctx c).st = .parked)) ||
      decide (s.rdN .saveVa c.val = 0)) = true := by
    simpa [State.Preemptible, imp_iff_not_or] using h
  simp only [State.preempt, refused, if_true, State.refuseControl]

theorem State.preempt_untranslated {why : Stop} (h : s.Preemptible c)
    (area : s.reachAll (.log c) (s.rdN .saveVa c.val) 0x40000 true = .error why) :
    (s.preempt c).2 = (s.noteUe why).count .cmdRejectCnt c.val := by
  obtain ⟨state | state, va⟩ := h <;>
    simp [State.preempt, state, va, area, State.refuseControl]

theorem State.preempt_accepted {pages : List (Nat × Nat)} (h : s.Preemptible c)
    (area : s.reachAll (.log c) (s.rdN .saveVa c.val) 0x40000 true = .ok pages) :
    (s.preempt c).2 = (s.setCtx c
      { s.ctx c with st := .preempting, preemptAt := s.now, savePa := pages.map Prod.fst,
                     wasParked := decide ((s.ctx c).st = .parked) && decide ((s.ctx c).parkedAt ≠ s.now + 1) }).stopUnits c := by
  obtain ⟨state | state, va⟩ := h <;>
    simp [State.preempt, state, va, area]

/-! ## `RESUME` (O12) -/

theorem State.resume_refused (h : (s.ctx c).st ≠ .preempted) : (s.resume c).2 = s.count .cmdRejectCnt c.val := by
  simp only [State.resume, h, State.refuseControl, ne_eq, not_false_eq_true, if_true]

theorem State.resume_good (h : (s.ctx c).st = .preempted) (good : s.saveGood c = true) : (s.resume c).2 = s.resumed c := by
  simp only [State.resume, h, good, ne_eq, not_true_eq_false, Bool.not_true, Bool.false_eq_true, if_false]

/-- A save area that fails its checks is counted, a poisoned word in it as an uncorrectable error too (R330, R346). -/
theorem State.resume_bad (h : (s.ctx c).st = .preempted) (bad : s.saveGood c = false) :
    (s.resume c).2 = (((s.savePoison c).elim s fun w => s.foundUe (4 * w)).tally .saveBadCnt c.val .mmuStatus c.val 3).count
      .cmdRejectCnt c.val := by
  simp only [State.resume, h, bad, ne_eq, not_true_eq_false, Bool.not_false, if_false, if_true]
  cases s.savePoison c <;> rfl

/-! ## `FAULT_RESUME` (O12) -/

/-- A parked read of a sequencer that a `FAULT_RESUME` lets go on (R342, R343). -/
def State.seqGoes (s : State) (c : CtxId) (id : W32) (k : SeqStop) : Bool :=
  decide ((s.ctx c).st ≠ .preempting) && (decide (k.id = id) || decide (id = 0xFFFFFFFF))

/-- A `FAULT_RESUME` names something that may go on (R342). -/
def State.Resumable (s : State) (c : CtxId) (id : W32) : Prop :=
  (s.ctx c).st ≠ .preempted ∧ (s.items.filter (s.mayResume c id) ≠ [] ∨ ∃ k ∈ (s.ctx c).seqStops, s.seqGoes c id k = true)

theorem State.resumable_iff {id : W32} : s.Resumable c id ↔
    (decide ((s.ctx c).st = .preempted) ||
      ((s.items.filter (s.mayResume c id)).isEmpty && !(s.ctx c).seqStops.any (s.seqGoes c id))) = false := by
  simp only [State.Resumable, Bool.or_eq_false_iff, Bool.and_eq_false_iff, decide_eq_false_iff_not, Bool.not_eq_false',
    List.isEmpty_eq_false_iff, List.any_eq_true, ne_eq]

theorem State.faultResume_accepted {id : W32} (h : s.Resumable c id) :
    s.faultResume c id = (.ok, ((((s.items.filter (s.mayResume c id)).foldl (fun s i => s.unparkEngine i)
      (s.updCtx c fun x => { x with seqStops := x.seqStops.filter fun k => !s.seqGoes c id k })).wake
      (s.mayResume c id)).kick)) :=
  if_neg (Bool.eq_false_iff.mp (State.resumable_iff.mp h))

theorem State.faultResume_refused {id : W32} (h : ¬ s.Resumable c id) :
    s.faultResume c id = (.state, s.count .cmdRejectCnt c.val) :=
  if_pos (Bool.not_eq_false _ ▸ mt State.resumable_iff.mpr h)

end

theorem preemptStops : Sys2Proof.Claim.PreemptStops := by
  intro c s pages edge
  refine ⟨fun state waits va area => ?_, execPreempt_acted⟩
  rw [exec_preempt, execPreempt_of_edgeFree waits edge, State.preempt_accepted ⟨state, va⟩ area]

theorem resumeChecksSaveArea : Sys2Proof.Claim.ResumeChecksSaveArea := by
  intro c s preempted
  refine ⟨fun good => ?_, fun bad clean => ?_, fun w bad poisoned => ?_⟩
  · rw [exec_resume, execResume, State.resume_good preempted good]
  · rw [exec_resume, execResume, State.resume_bad preempted bad, clean]; rfl
  · rw [exec_resume, execResume, State.resume_bad preempted bad, poisoned]; rfl

theorem controlRefused : Sys2Proof.Claim.ControlRefused := by
  intro c s why
  refine ⟨fun waits refused => ?_, fun waits edge state va area => ?_, fun other => ?_⟩
  · by_cases edge : s.EdgeFree c
    · have not_preemptible : ¬ s.Preemptible c := by
        rintro ⟨state, va⟩
        rcases refused with ⟨running, parked⟩ | none | busy
        · exact state.elim running parked
        · exact va none
        · exact busy edge
      rw [exec_preempt, execPreempt_of_edgeFree waits edge, State.preempt_refused not_preemptible]
    · exact execPreempt_of_not_edgeFree waits edge
  · rw [exec_preempt, execPreempt_of_edgeFree waits edge, State.preempt_untranslated ⟨state, va⟩ area]
  · rw [exec_resume, execResume, State.resume_refused other]

theorem faultResume : Sys2Proof.Claim.FaultResume := by
  intro c id s goes named t
  refine ⟨fun state some_named => ?_, fun none_named => ?_⟩
  · have resumable : s.Resumable c id := ⟨state, some_named⟩
    rw [exec_faultResume, execFaultResume, State.faultResume_accepted resumable]
    rfl
  · have not_resumable : ¬ s.Resumable c id := by
      rintro ⟨state, items | ⟨k, mine, resumed⟩⟩
      · exact items (none_named.resolve_left state).1
      · exact Bool.false_ne_true (((none_named.resolve_left state).2 k mine).symm.trans resumed)
    rw [exec_faultResume, execFaultResume, State.faultResume_refused not_resumable]
    rfl

/-- Settles O12: the four claims. The refusals without a usable save area and with none parked, the parked reads of sequencers and the
order on an edge are the model's choices (DESIGN CHOICE 50, 56 and 16, DEDUCED 126). -/
theorem contextControl : Obligations.ContextControl :=
  ⟨preemptStops, resumeChecksSaveArea, controlRefused, faultResume⟩

/-! ## `RESET` (O13) -/

section
variable (s : State) (c : CtxId)

/-- A key whose entries a filter takes out of a store holds its default. -/
theorem Store.get_filter_of_dropped {α : Type} (d : Nat → α) (m : Store α) {p : Nat × α → Bool} {k : Nat}
    (dropped : ∀ v, p (k, v) = false) : Store.get d (m.filter p) k = d k := by
  induction m with
  | nil => rfl
  | cons e m ih =>
    obtain ⟨j, v⟩ := e
    rw [List.filter_cons]
    split
    · next kept =>
      have other : k ≠ j := by rintro rfl; exact Bool.false_ne_true ((dropped v).symm.trans kept)
      rw [Store.get, if_neg other, ih]
    · exact ih

/-- After the units are reset every barrier of the context is as after power-on (R224). -/
theorem State.resetUnits_bar {b : Nat} (h : b < 256) : (s.resetUnits c).bar c b = Barrier.init :=
  Store.get_filter_of_dropped _ _ fun v => by
    have place : (256 * c.val + b) / 256 = c.val := by omega
    simp only [place, ne_eq, not_true_eq_false, decide_false]

end

/-- A context as `RESET` leaves it (R40, R224, R420). -/
def State.IsReset (s : State) (c : CtxId) : Prop :=
  (s.ctx c).st = .idle ∧ (s.ctx c).prog = none ∧ (s.ctx c).next = none ∧ (s.ctx c).issued = [] ∧ (s.ctx c).token = none ∧
    s.rdN .sqHead c.val = (s.ctx c).sqTail.toNat ∧ ∀ b : Nat, b < 256 → s.bar c b = Barrier.init

/-- `RESET` clears the context's record and barriers, and takes its declared tail as `SQ_HEAD`. -/
theorem State.resetCtx_isReset (s : State) (c : CtxId) (records : Bool) : (s.resetCtx c records).IsReset c := by
  unfold State.resetCtx
  dsimp only
  generalize (s.discardAhead c records).abortItems (fun i => i.ctx == c) records = u
  have bars (b : Nat) (h : b < 256) : ((u.resetUnits c).cancelArmed c).bar c b = Barrier.init := by
    rw [State.cancelArmed_bar, State.resetUnits_bar _ _ h]
  generalize (u.resetUnits c).cancelArmed c = v at bars
  have resetBars (b : Nat) (h : b < 256) : ((v.resetFabric c).updCtx c Ctx.cleared).bar c b = Barrier.init := by
    rw [State.updCtx, State.setCtx_bar]
    exact bars b h
  have record : ((v.resetFabric c).updCtx c Ctx.cleared).ctx c = (v.ctx c).cleared := State.ctx_setCtx_self _ c _
  have width (x : W32) : x.toNat % 256 ^ (Obj.info .sqHead).size = x.toNat := Nat.mod_eq_of_lt x.isLt
  have head (t : State) (x : W32) : (t.wrN .sqHead c.val 0 x.toNat).rdN .sqHead c.val = x.toNat := by
    rw [State.rdN_wrN_self _ (by decide), width]
  unfold State.IsReset
  rw [head, State.wrN, State.wr_ctx, record]
  refine ⟨rfl, rfl, rfl, rfl, rfl, rfl, fun b h => ?_⟩
  rw [State.wr_bar, resetBars b h]

/-- The instant of a stop marked beside it changes none of that. -/
theorem State.IsReset.markStop {s : State} {c : CtxId} (h : s.IsReset c) (instant : Option Nat) :
    (s.updCtx c fun x => { x with stopAt := instant }).IsReset c := by
  simpa only [State.IsReset, State.updCtx, State.ctx_setCtx_self, State.setCtx_bar, State.rdN, State.setCtx_rd] using h

/-- Settles O13: the reset of the context is the last thing that happens to it, also after a fault event of the edge, whose instant
alone is marked. That the token goes is DEDUCED 95. -/
theorem resetMakesIdle : Obligations.ResetMakesIdle := by
  intro c s
  rw [exec_reset, execReset]
  split
  · exact ⟨_, rfl, ((s.stopCtx c).resetCtx_isReset c true).markStop _⟩
  · exact ⟨_, rfl, s.resetCtx_isReset c true⟩

end Sys2Proof.Machine
end

section
/-! PROOFS. The save area: records and a header of 64 bytes each, which `SAVE_AREA_WRITTEN` writes at their places and nowhere else
(O14). -/

namespace Sys2Proof.Machine

/-! ## Blocks of 64 bytes -/

theorem length_leBytes (n v : Nat) : (leBytes n v).length = n := by
  induction n generalizing v with
  | zero => rfl
  | succ n ih => exact congrArg (· + 1) (ih _)

theorem length_bytesOf (ws : List W64) : (bytesOf ws).length = 8 * ws.length := by
  simp only [bytesOf, List.length_flatMap, length_leBytes, List.map_const', List.sum_replicate, smul_eq_mul, Nat.mul_comm]

/-- Eight words with their `CHECK` are 64 bytes (R59, R344). -/
theorem length_withCheck {ws : List W64} (h : ws.length = 8) : (withCheck ws).length = 64 := by
  simp only [withCheck, List.length_append, List.length_take, length_bytesOf, length_leBytes, h]
  rfl

theorem length_saveRecord {pos : List W64} (h : pos.length = 4) (w0 unit seg kind tag progress : Nat) :
    (saveRecord w0 unit seg kind tag progress pos).length = 64 :=
  length_withCheck (by simp [h])

theorem length_listPos (issued : List (ListId × Nat)) (l : ListId) (low : Nat) : (listPos issued l low).length = 4 := by
  simp only [listPos, List.length_map, List.length_range]

theorem State.length_itemPos (s : State) (i : Item) : (s.itemPos i).length = 4 := by
  unfold State.itemPos
  dsimp only
  split <;> rfl

section
variable (s : State) (c : CtxId)

theorem State.length_saveHeader (n : Nat) : (s.saveHeader c n).length = 64 := length_withCheck rfl

theorem State.length_of_mem_saveRecords {b : List Byte} (h : b ∈ s.saveRecords c) : b.length = 64 := by
  have h := List.mem_of_mem_take h
  rcases List.mem_append.mp h with h | h
  · split at h
    · cases h
    · obtain ⟨l, _, rfl⟩ := List.mem_map.mp h
      exact length_saveRecord (length_listPos ..) ..
  · obtain ⟨i, _, rfl⟩ := List.mem_map.mp h
    exact length_saveRecord (s.length_itemPos i) ..

theorem State.length_saveRecords_le : (s.saveRecords c).length ≤ 4095 := by
  simp only [State.saveRecords, List.length_take]
  omega

/-! ## Many writes to memory -/

/-- Bytes written at their addresses, in order. -/
def State.pokeAll (s : State) (ws : List (Nat × List Byte)) : State := ws.foldl (fun s w => s.poke w.1 w.2) s

/-- A write reaches an address. -/
def Covers (w : Nat × List Byte) (a : Nat) : Prop := w.1 ≤ a ∧ a < w.1 + w.2.length

/-- What one write leaves, many leave. -/
theorem State.pokeAll_keeps {α : Type} (f : State → α) (keeps : ∀ t pa bs, f (State.poke t pa bs) = f t) (ws : List (Nat × List Byte)) :
    f (s.pokeAll ws) = f s := by
  unfold State.pokeAll
  exact foldl_keeps f (fun t w => keeps t w.1 w.2) ws s

@[simp] theorem State.pokeAll_ctx (ws : List (Nat × List Byte)) : (s.pokeAll ws).ctx c = s.ctx c :=
  s.pokeAll_keeps (·.ctx c) (fun t pa bs => t.poke_ctx pa bs c) ws

@[simp] theorem State.pokeAll_items (ws : List (Nat × List Byte)) : (s.pokeAll ws).items = s.items :=
  s.pokeAll_keeps (·.items) (fun t => t.poke_items) ws

@[simp] theorem State.pokeAll_now (ws : List (Nat × List Byte)) : (s.pokeAll ws).now = s.now :=
  s.pokeAll_keeps (·.now) (fun t => t.poke_now) ws

theorem State.pokeAll_rd (ws : List (Nat × List Byte)) {o : Obj} (n e : Nat)
    (h : o ∉ [Obj.prefetchDiscardCnt, .gatherStatus, .msixPba, .fabricDropCnt, .shxStatus, .eventNextSeq]) :
    (s.pokeAll ws).rd o n e = s.rd o n e :=
  s.pokeAll_keeps (·.rd o n e) (fun t pa bs => t.poke_rd pa bs n e h) ws

variable {s c}

/-- A byte that no write reaches stays. -/
theorem State.byteAt_pokeAll_outside {ws : List (Nat × List Byte)} {a : Nat} (h : ∀ w ∈ ws, ¬ Covers w a) :
    (s.pokeAll ws).byteAt a = s.byteAt a := by
  induction ws generalizing s with
  | nil => rfl
  | cons w ws ih =>
    have outside : ¬ Covers w a := h w List.mem_cons_self
    rw [State.pokeAll, List.foldl_cons, ← State.pokeAll, ih fun v hv => h v (List.mem_cons_of_mem _ hv), State.byteAt_poke]
    exact if_neg outside

/-- Of writes that do not overlap each stands in memory afterwards. -/
theorem State.holds_pokeAll {ws : List (Nat × List Byte)} (apart : ∀ v ∈ ws, ∀ w ∈ ws, v ≠ w → ∀ a, Covers v a → ¬ Covers w a)
    {w : Nat × List Byte} (h : w ∈ ws) : (s.pokeAll ws).Holds w.1 w.2 := by
  induction ws generalizing s with
  | nil => cases h
  | cons v ws ih =>
    by_cases later : w ∈ ws
    · exact ih (fun v hv w hw => apart v (List.mem_cons_of_mem _ hv) w (List.mem_cons_of_mem _ hw)) later
    · obtain rfl : w = v := (List.mem_cons.mp h).resolve_right later
      intro k hk
      have inside : Covers w (w.1 + k) := ⟨Nat.le_add_right .., Nat.add_lt_add_left hk _⟩
      rw [State.pokeAll, List.foldl_cons, ← State.pokeAll, State.byteAt_pokeAll_outside, State.byteAt_poke]
      · rw [if_pos (show _ ∧ _ from inside), Nat.add_sub_cancel_left]
      · intro u hu
        exact apart w List.mem_cons_self u (List.mem_cons_of_mem _ hu) (by rintro rfl; exact later hu) _ inside

/-! ## The places of the blocks (R344, R383) -/

/-- The save area is four pages of 64 KiB. -/
def Ctx.HasPages (x : Ctx) : Prop := x.savePa.length = 4 ∧ x.savePa.Nodup ∧ ∀ pa ∈ x.savePa, pa % 65536 = 0

/-- A block lies in one page of the area. -/
theorem Ctx.HasPages.saveAt_eq {x : Ctx} (h : x.HasPages) {k : Nat} (hk : k < 4096) :
    ∃ p : Nat, ∃ hp : p < x.savePa.length, p = k / 1024 ∧ x.saveAt (64 * k) = x.savePa[p] + 64 * (k % 1024) := by
  obtain ⟨four, _, _⟩ := h
  have page : 64 * k / 65536 = k / 1024 := by omega
  refine ⟨k / 1024, by omega, rfl, ?_⟩
  rw [Ctx.saveAt, page, List.getD_eq_getElem _ _ (by omega)]
  omega

/-- Two blocks do not overlap. -/
theorem Ctx.HasPages.saveAt_apart {x : Ctx} (h : x.HasPages) {k k' : Nat} (hk : k < 4096) (hk' : k' < 4096) (ne : k ≠ k') :
    x.saveAt (64 * k) + 64 ≤ x.saveAt (64 * k') ∨ x.saveAt (64 * k') + 64 ≤ x.saveAt (64 * k) := by
  obtain ⟨p, hp, at_p, place⟩ := h.saveAt_eq hk
  obtain ⟨p', hp', at_p', place'⟩ := h.saveAt_eq hk'
  obtain ⟨_, distinct, aligned⟩ := h
  have start := aligned _ (List.getElem_mem hp)
  have start' := aligned _ (List.getElem_mem hp')
  rw [place, place']
  by_cases same : p = p'
  · subst same
    omega
  · have other : x.savePa[p] ≠ x.savePa[p'] := fun e => same ((List.Nodup.getElem_inj_iff distinct).mp e)
    omega

/-! ## The writes of a save area -/

/-- Block k of a save area: its header, then its records. -/
def State.saveBlock (s : State) (c : CtxId) : Nat → List Byte
  | 0 => s.saveHeader c (s.saveRecords c).length
  | k + 1 => (s.saveRecords c).getD k []

/-- The writes of a save area: its records, and its header last (R344). -/
def State.saveWrites (s : State) (c : CtxId) : List (Nat × List Byte) :=
  ((s.saveRecords c).zipIdx.map fun e => ((s.ctx c).saveAt (64 * (e.2 + 1)), e.1)) ++
    [((s.ctx c).saveAt 0, s.saveHeader c (s.saveRecords c).length)]

theorem State.length_saveBlock {k : Nat} (h : k ≤ (s.saveRecords c).length) : (s.saveBlock c k).length = 64 := by
  cases k with
  | zero => exact s.length_saveHeader c _
  | succ k =>
    rw [State.saveBlock, List.getD_eq_getElem _ _ h]
    exact s.length_of_mem_saveRecords c (List.getElem_mem h)

/-- They are the writes of the blocks to their places. -/
theorem State.mem_saveWrites {w : Nat × List Byte} :
    w ∈ s.saveWrites c ↔ ∃ k ≤ (s.saveRecords c).length, w = ((s.ctx c).saveAt (64 * k), s.saveBlock c k) := by
  simp only [State.saveWrites, List.mem_append, List.mem_map, List.mem_singleton, List.mem_zipIdx_iff_getElem?, Prod.exists]
  constructor
  · rintro (⟨b, k, there, rfl⟩ | rfl)
    · obtain ⟨hk, rfl⟩ := List.getElem?_eq_some_iff.mp there
      exact ⟨k + 1, hk, by rw [State.saveBlock, List.getD_eq_getElem _ _ hk]⟩
    · exact ⟨0, Nat.zero_le _, rfl⟩
  · rintro ⟨_ | k, hk, rfl⟩
    · exact .inr rfl
    · refine .inl ⟨_, k, List.getElem?_eq_getElem hk, ?_⟩
      rw [State.saveBlock, List.getD_eq_getElem _ _ hk]

/-- No two of them overlap. -/
theorem State.saveWrites_apart (pages : (s.ctx c).HasPages) :
    ∀ v ∈ s.saveWrites c, ∀ w ∈ s.saveWrites c, v ≠ w → ∀ a, Covers v a → ¬ Covers w a := by
  intro v hv w hw ne a
  obtain ⟨k, hk, rfl⟩ := State.mem_saveWrites.mp hv
  obtain ⟨k', hk', rfl⟩ := State.mem_saveWrites.mp hw
  have few := s.length_saveRecords_le c
  have other : k ≠ k' := by rintro rfl; exact ne rfl
  have apart := pages.saveAt_apart (k := k) (k' := k') (by omega) (by omega) other
  simp only [Covers, State.length_saveBlock hk, State.length_saveBlock hk']
  omega

/-- Each block stands at its place afterwards. -/
theorem State.pokeAll_saveWrites_holds (pages : (s.ctx c).HasPages) {k : Nat} (hk : k ≤ (s.saveRecords c).length) :
    (s.pokeAll (s.saveWrites c)).Holds ((s.ctx c).saveAt (64 * k)) (s.saveBlock c k) :=
  State.holds_pokeAll (State.saveWrites_apart pages) (State.mem_saveWrites.mpr ⟨k, hk, rfl⟩)

/-- They reach no byte outside the pages of the area. -/
theorem State.pokeAll_saveWrites_outside (pages : (s.ctx c).HasPages) {a : Nat}
    (outside : ∀ pa ∈ (s.ctx c).savePa, a < pa ∨ pa + 65536 ≤ a) : (s.pokeAll (s.saveWrites c)).byteAt a = s.byteAt a := by
  refine State.byteAt_pokeAll_outside fun w hw => ?_
  obtain ⟨k, hk, rfl⟩ := State.mem_saveWrites.mp hw
  have few := s.length_saveRecords_le c
  obtain ⟨p, hp, _, place⟩ := pages.saveAt_eq (k := k) (by omega)
  have away := outside _ (List.getElem_mem hp)
  simp only [Covers, State.length_saveBlock hk, place]
  omega

/-! ## `SAVE_AREA_WRITTEN` (O14) -/

/-- The header depends on the context's record, its step and the time alone. -/
theorem State.saveHeader_congr {t : State} (ctx : t.ctx c = s.ctx c) (step : t.rd .ctxStep c.val = s.rd .ctxStep c.val)
    (now : t.now = s.now) (n : Nat) : t.saveHeader c n = s.saveHeader c n := by
  simp only [State.saveHeader, State.saveStep, ctx, step, now]

/-- A context of which a unit runs, or that is not PREEMPTING, waits. -/
theorem State.saved_waits (h : (s.ctx c).st ≠ .preempting ∨ s.allStopped c = false) : s.saved c = s := by
  have waits : (decide ((s.ctx c).st ≠ .preempting) || !s.allStopped c) = true := by
    rcases h with h | h <;> simp [h]
  simp only [State.saved, waits, if_true]

/-- A page that LOG requests no longer reach is counted (R350). -/
theorem State.saved_denied (state : (s.ctx c).st = .preempting) (stopped : s.allStopped c = true)
    (denied : ((s.ctx c).savePa.all fun pa => s.logOk c pa 65536) = false) : s.saved c = s.countDenied c := by
  simp only [State.saved, state, stopped, denied, ne_eq, not_true_eq_false, decide_false, Bool.not_true, Bool.or_self,
    Bool.false_eq_true, if_false, Bool.not_false, if_true]

/-- The writes as `SAVE_AREA_WRITTEN` makes them, whose header does not see the records before it. -/
theorem State.pokeAll_saveWrites (s : State) (c : CtxId) : s.pokeAll (s.saveWrites c) =
    let u := (s.saveRecords c).zipIdx.foldl (fun t e => t.poke ((s.ctx c).saveAt (64 * (e.2 + 1))) e.1) s
    u.poke ((s.ctx c).saveAt 0) (u.saveHeader c (s.saveRecords c).length) := by
  have records : (s.saveRecords c).zipIdx.foldl (fun t e => t.poke ((s.ctx c).saveAt (64 * (e.2 + 1))) e.1) s =
      s.pokeAll ((s.saveRecords c).zipIdx.map fun e => ((s.ctx c).saveAt (64 * (e.2 + 1)), e.1)) := by
    rw [State.pokeAll, List.foldl_map]
  dsimp only
  rw [records, State.saveHeader_congr (s.pokeAll_ctx c _) (s.pokeAll_rd _ _ _ (by decide)) (s.pokeAll_now _), State.saveWrites,
    State.pokeAll, State.pokeAll, List.foldl_append]
  rfl

/-- The state in which the area is written and the context PREEMPTED (R344). -/
def State.areaSaved (s : State) (c : CtxId) : State :=
  (((s.pokeAll (s.saveWrites c)).wrN .preemptLat c.val 0 (sat32 (s.now - (s.ctx c).preemptAt))).setCtx c
    { s.ctx c with st := .preempted, stopTime := s.now }).count .preemptCnt c.val

/-- With its units stopped and its pages reached the context's area is written. -/
theorem State.saved_written (state : (s.ctx c).st = .preempting) (stopped : s.allStopped c = true)
    (reached : ((s.ctx c).savePa.all fun pa => s.logOk c pa 65536) = true) : s.saved c = s.areaSaved c := by
  simp only [State.saved, state, stopped, reached, ne_eq, not_true_eq_false, decide_false, Bool.not_true, Bool.or_self,
    Bool.false_eq_true, if_false, ← State.pokeAll_saveWrites, State.areaSaved, State.updCtx, State.wrN, State.wr_ctx, State.wr_now,
    State.pokeAll_ctx, State.pokeAll_now]

variable (s c)

theorem State.areaSaved_ctx : (s.areaSaved c).ctx c = { s.ctx c with st := .preempted, stopTime := s.now } := by
  rw [State.areaSaved, State.count, State.wrN, State.wr_ctx, State.ctx_setCtx_self]

theorem State.areaSaved_ctx_ne {c' : CtxId} (other : c' ≠ c) : (s.areaSaved c).ctx c' = s.ctx c' := by
  rw [State.areaSaved, State.count, State.wrN, State.wr_ctx, State.ctx_setCtx, if_neg other, State.wrN, State.wr_ctx,
    State.pokeAll_ctx]

theorem State.areaSaved_items : (s.areaSaved c).items = s.items := by
  rw [State.areaSaved, State.count, State.wrN, State.wr_items, State.setCtx_items, State.wrN, State.wr_items, State.pokeAll_items]

theorem State.areaSaved_byteAt (a : Nat) : (s.areaSaved c).byteAt a = (s.pokeAll (s.saveWrites c)).byteAt a := by
  rw [State.areaSaved, State.count, State.wrN, State.wr_byteAt, State.setCtx_byteAt, State.wrN, State.wr_byteAt]

theorem State.areaSaved_preemptCnt : (s.areaSaved c).rdN .preemptCnt c.val = (s.rdN .preemptCnt c.val + 1) % 2 ^ 32 := by
  rw [State.areaSaved, State.count, State.rdN_wrN_self _ (by decide), State.rdN, State.setCtx_rd, State.wrN,
    State.rd_wr_other _ (by decide), State.pokeAll_rd _ _ _ _ (by decide)]
  rfl

theorem State.areaSaved_preemptLat :
    (s.areaSaved c).rdN .preemptLat c.val = sat32 (s.now - (s.ctx c).preemptAt) := by
  have width (n : Nat) : sat32 n < 256 ^ (Obj.info .preemptLat).size := Nat.lt_succ_of_le (Nat.min_le_right ..)
  rw [State.areaSaved, State.rdN, State.count, State.wrN, State.rd_wr_other _ (by decide), State.setCtx_rd, ← State.rdN,
    State.rdN_wrN_self _ (by decide), Nat.mod_eq_of_lt (width _)]

end

/-- Settles O14: in each of the three cases the state is known whole, and the written area block by block. That a refused page leaves
the context PREEMPTING is the model's choice (DESIGN CHOICE 50). -/
theorem saveAreaWritten : Obligations.SaveAreaWritten := by
  intro c s x recs
  simp only [exec_saveAreaWritten, execSaveAreaWritten]
  refine ⟨fun state stopped reached => ?_, fun waits => ?_, fun state stopped denied => ?_⟩
  · rw [State.saved_written state stopped reached]
    refine ⟨_, rfl, s.areaSaved_ctx c, s.areaSaved_preemptCnt c, s.areaSaved_preemptLat c, s.areaSaved_items c,
      fun c' => s.areaSaved_ctx_ne c, fun four distinct aligned => ?_⟩
    have pages : x.HasPages := ⟨four, distinct, aligned⟩
    simp only [State.Holds, State.areaSaved_byteAt]
    exact ⟨State.pokeAll_saveWrites_holds pages (Nat.zero_le _), fun k => State.pokeAll_saveWrites_holds (k := k + 1) pages,
      fun a => State.pokeAll_saveWrites_outside pages⟩
  · rw [State.saved_waits waits]
  · rw [State.saved_denied state stopped denied]

end Sys2Proof.Machine
end

section
/-! PROOFS. The issue events: a command that passes its checks launches, and none issues while its context or the module does not
run (O15, O16). -/

namespace Sys2Proof.Machine

/-! ## Where nothing issues (O16) -/

section
variable {s : State} {q : IssueAt}

/-- A command issues only while its context and the module run (R39, R41, R465, R472). -/
theorem State.ctxRuns_of_mayIssue {j : Job} (h : s.mayIssue q j = true) : s.ctxRuns q.ctx = true := by
  simp only [State.mayIssue, State.mayWork, Bool.and_eq_true] at h
  obtain ⟨state, ⟨⟨power, reset⟩, _⟩, _⟩ := h
  simp only [State.ctxRuns, state, power, reset, Bool.and_self]

theorem State.mayIssue_eq_false (still : s.ctxRuns q.ctx = false) (j : Job) : s.mayIssue q j = false :=
  Bool.eq_false_iff.mpr fun h => Bool.false_ne_true (still.symm.trans (State.ctxRuns_of_mayIssue h))

theorem State.canIssue_eq_false (still : s.ctxRuns q.ctx = false) (j : Job) : s.canIssue q j = false := by
  simp only [State.canIssue, State.ready, State.readyBut, State.mayIssue_eq_false still, Bool.false_and]

/-- No successor's program is read there. -/
theorem State.noteSuccessor_of_not_runs (still : s.ctxRuns q.ctx = false) : s.noteSuccessor q = s := by
  unfold State.noteSuccessor
  dsimp only
  split
  · rw [still, Bool.not_false, Bool.or_true, if_pos rfl]
  · rfl

/-- No descriptor that cannot be read stops its sequencer there. -/
theorem State.unreadable_of_not_runs (still : s.ctxRuns q.ctx = false) : s.unreadable q = s := by
  unfold State.unreadable
  split
  · exact State.noteSuccessor_of_not_runs still
  · split
    · rfl
    · simp only [State.mayIssue_eq_false still, Bool.false_and, Bool.false_eq_true, if_false]

/-- An issue event there changes nothing. -/
theorem State.issue_of_not_runs (still : s.ctxRuns q.ctx = false) (op : Nat) (check : State → Job → Except Stop BodyCheck)
    (start : Item → Job → State → State) : s.issue q op check start = s := by
  unfold State.issue
  split
  · rfl
  · split
    · exact State.unreadable_of_not_runs still
    · rw [State.canIssue_eq_false still, Bool.not_false, Bool.or_true, if_pos rfl]

theorem State.ctxRuns_eq_false
    (h : ((s.ctx q.ctx).st ≠ .running ∧ (s.ctx q.ctx).st ≠ .parked) ∨ s.rdN .pwrState ≠ 3 ∨ s.power.resetting = true) :
    s.ctxRuns q.ctx = false := by
  unfold State.ctxRuns
  rcases h with ⟨running, parked⟩ | power | reset
  · simp only [running, parked, decide_false, Bool.or_self, Bool.false_and]
  · simp only [power, decide_false, Bool.and_false, Bool.false_and]
  · simp only [reset, Bool.not_true, Bool.and_false]

end

/-- Every issue event is the issue of its opcode, with its own checks and its own start of work. -/
theorem exec_of_mem_issueOf {q : IssueAt} {holds stalls : Nat} {hostData : List Byte} {errUnit : Option Nat} {i : Instr}
    (h : i ∈ issueOf q holds stalls hostData errUnit) (s : State) :
    ∃ op check start, exec i s = .next (s.issue q op check start) := by
  simp only [issueOf, List.mem_cons, List.not_mem_nil, or_false] at h
  rcases h with rfl | rfl | rfl | rfl | rfl | rfl | rfl | rfl | rfl | rfl | rfl | rfl | rfl | rfl | rfl | rfl <;>
    exact ⟨_, _, _, rfl⟩

/-- Settles O16: every issue event is an issue, which asks whether the context and the module run. -/
theorem noIssueUnlessRunning : Obligations.NoIssueUnlessRunning := by
  intro q holds stalls hostData errUnit i s event stopped
  obtain ⟨op, check, start, answers⟩ := exec_of_mem_issueOf event s
  rw [answers, State.issue_of_not_runs (State.ctxRuns_eq_false stopped)]

/-! ## Commands that pass their checks (O15) -/

section
variable {s : State} {q : IssueAt} {j : Job} {plan : Option (Option (Nat × List Slot))}

/-- What a descriptor without a failing check has: a listed opcode, its list, its position, no reserved bit (R50, R57). -/
theorem State.firstBad_eq_none {body : BodyCheck} {badPlan : Bool} (h : s.firstBad q j body badPlan = none) :
    knownOpcode j.d.opcode = true ∧ badIssuer q j = false ∧ j.d.seq = q.pos ∧ j.d.reservedSet j.d.opcode = false := by
  unfold State.firstBad at h
  split_ifs at h with unknown issuer seq reserved field
  simp only [Bool.not_eq_true, Bool.not_eq_false', Bool.or_eq_false_iff, not_not] at unknown issuer seq reserved
  exact ⟨unknown, issuer, seq, reserved.1⟩

/-- Its body's checks are read, since no earlier check fails. -/
theorem State.failsEarly_eq_false {body : BodyCheck} {badPlan : Bool} (h : s.firstBad q j body badPlan = none) :
    s.failsEarly q j badPlan = false := by
  obtain ⟨known, issuer, seq, reserved⟩ := State.firstBad_eq_none h
  simp only [State.failsEarly, State.firstBad, known, issuer, seq, reserved, BodyCheck.ok, Bool.not_true, Bool.false_eq_true,
    if_false, ne_eq, not_true_eq_false, Bool.or_false, Bool.or_self]
  split <;> rfl

/-- A command that passes its checks is launched. -/
theorem State.issue_of_passes {op : Nat} {check : State → Job → Except Stop BodyCheck} (h : s.Passes q j op plan check)
    (known : op ≤ 0x0E) (start : Item → Job → State → State) : s.issue q op check start = s.launch q j plan start := by
  obtain ⟨unparked, job, opcode, can, readable, body, checked, good⟩ := h
  simp only [State.issue, unparked, job, opcode, can, readable, State.failsEarly_eq_false good, checked, good, known, if_true,
    Bool.false_eq_true, if_false, ne_eq, not_true_eq_false, Bool.not_true, decide_false, Bool.or_self]

/-- A command of an opcode that the table does not list is rejected before its body is read (R50, R51). -/
theorem State.issue_of_unlisted (unparked : s.seqParked q = false) (job : s.job q = some j) (unlisted : 0x0E < j.d.opcode)
    (can : s.canIssue q j = true) (readable : s.planFor q = .ok plan) (check : State → Job → Except Stop BodyCheck)
    (start : Item → Job → State → State) : s.issue q 0x0F check start = s.reject q j 0x21 := by
  have unknown : knownOpcode j.d.opcode = false := decide_eq_false (Nat.not_le.mpr unlisted)
  have first (body : BodyCheck) : s.firstBad q j body (plan = some none) = some 0x21 := by
    simp only [State.firstBad, unknown, Bool.not_false, if_true]
  have early : s.failsEarly q j (plan = some none) = true := by
    simp only [State.failsEarly, first, decide_true, Bool.true_or]
  have notListed : ¬ (0x0F ≤ 0x0E) := by decide
  simp only [State.issue, unparked, job, can, readable, early, first, unknown, notListed, BodyCheck.ok, Bool.false_eq_true, if_false,
    if_true, Bool.not_true, Bool.or_self]

end

theorem sequencerCommandsLaunch : Sys2Proof.Claim.SequencerCommandsLaunch := by
  intro q s j plan hostData errUnit
  refine ⟨fun h => ?_, fun h => ?_, fun h => ?_, fun h => ?_⟩ <;>
    exact congrArg _ (State.issue_of_passes h (by decide) _)

theorem engineCommandsLaunch : Sys2Proof.Claim.EngineCommandsLaunch := by
  intro q s j plan holds stalls
  refine ⟨fun h => ?_, fun h => ?_⟩ <;> exact congrArg _ (State.issue_of_passes h (by decide) _)

theorem producerCommandsLaunch : Sys2Proof.Claim.ProducerCommandsLaunch := by
  intro q s j plan
  refine ⟨fun h => ?_, fun h => ?_⟩ <;> exact congrArg _ (State.issue_of_passes h (by decide) _)

theorem gatherCommandsLaunch : Sys2Proof.Claim.GatherCommandsLaunch := by
  intro q s j plan
  refine ⟨fun h => ?_, fun h => ?_, fun h => ?_, fun h => ?_⟩ <;>
    exact congrArg _ (State.issue_of_passes h (by decide) _)

theorem domainCommandsLaunch : Sys2Proof.Claim.DomainCommandsLaunch := by
  intro q s j plan
  refine ⟨fun h => ?_, fun h => ?_, fun h => ?_⟩ <;> exact congrArg _ (State.issue_of_passes h (by decide) _)

theorem badOpcodeRejected : Sys2Proof.Claim.BadOpcodeRejected := by
  intro q s j plan unparked job unlisted can readable
  exact congrArg _ (State.issue_of_unlisted unparked job unlisted can readable _ _)

/-- Settles O15: the launch of each opcode's command is the one launch of an issue whose checks pass. The holds and stalls that come with
the command, and the work done within its event, are the model's choices (DESIGN CHOICE 85 and 11). -/
theorem commandsLaunch : Obligations.CommandsLaunch :=
  ⟨sequencerCommandsLaunch, engineCommandsLaunch, producerCommandsLaunch, gatherCommandsLaunch, domainCommandsLaunch,
    badOpcodeRejected⟩

end Sys2Proof.Machine
end

section
/-! PROOFS. Commits and the pacer: the completion of an item on its edge, its commit, the pacer's releases and the timeout of a
`COMMIT` (O18). -/

namespace Sys2Proof.Machine

section
variable {s t : State} {r : ItemRef} {i : Item} {status : Byte}

/-! ## What the edge lets a completion do (R41) -/

/-- With a `RESET` or a fault event of the context on its edge a completion does nothing. -/
theorem execItemCommit_of_not_edgeFree (found : s.item r = some i) (edge : ¬ s.EdgeFree i.ctx) : execItemCommit r s = .next s := by
  rw [State.edgeFree_iff, Bool.not_eq_false] at edge
  simp only [execItemCommit, found, edge, if_true]

/-- Without one, and without a `PREEMPT`, the item completes. -/
theorem execItemCommit_of_edgeFree (found : s.item r = some i) (edge : s.EdgeFree i.ctx) (alone : s.preemptSoon i.ctx = false) :
    execItemCommit r s = .next (s.completeItem i).kick := by
  simp only [execItemCommit, found, State.edgeFree_iff.mp edge, alone, Bool.false_eq_true, if_false]

/-- A `PREEMPT` there acts first, and marks that it has. -/
theorem execItemCommit_of_preemptSoon (found : s.item r = some i) (edge : s.EdgeFree i.ctx) (soon : s.preemptSoon i.ctx = true) :
    execItemCommit r s = .next (State.completeItem
      ((s.preempt i.ctx).2.updCtx i.ctx fun x => { x with preAt := some (s.preempt i.ctx).2.now }) i).kick := by
  simp only [execItemCommit, found, State.edgeFree_iff.mp edge, soon, Bool.false_eq_true, if_false, if_true, State.preempt_now]

/-! ## Completion (R56, R82, R257) -/

/-- The completion of a `COMMIT` is the step boundary. -/
theorem State.completeItem_commit (finished : i.phase = .finished status) (opcode : i.desc.opcode = 0x0B) :
    s.completeItem i = s.sealCommit i := by
  simp only [State.completeItem, finished, opcode, if_true]

/-- Another item whose results can be made visible commits. -/
theorem State.completeItem_sealed (finished : i.phase = .finished status) (opcode : i.desc.opcode ≠ 0x0B)
    (sealed : s.sealItem i = .ok t) : s.completeItem i =
      let u := t.commitItem ((t.current i).getD i) status.toNat
        (if i.desc.opcode = 5 then i.desc.seeds else ((t.current i).getD i).progress)
      if i.desc.opcode = 5 && ((u.ctx i.ctx).doneOf i.ahead).contains (i.list, i.seq) then
        u.count .sampledEdgeCnt i.ctx.val 0 i.sample.edges else u := by
  simp only [State.completeItem, finished, opcode, sealed, if_false]

/-- What stops its last access stops it. -/
theorem State.completeItem_stopped {why : Stop} (finished : i.phase = .finished status) (opcode : i.desc.opcode ≠ 0x0B)
    (notSample : i.desc.opcode ≠ 5) (stopped : s.sealItem i = .error why) :
    s.completeItem i = s.stopItem { i with phase := .working } why := by
  simp only [State.completeItem, finished, opcode, notSample, stopped, if_false]

end

/-- The commit of a finished item: what its edge lets it do, then its completion (R41, R56). -/
theorem finishedItemCommits : Sys2Proof.Claim.FinishedItemCommits := by
  intro r s i status found finished
  rw [exec_itemCommit]
  refine ⟨fun edge alone => ?_, fun edge soon => execItemCommit_of_preemptSoon found edge soon,
    execItemCommit_of_not_edgeFree found⟩
  rw [execItemCommit_of_edgeFree found edge alone]
  refine ⟨fun t notCommit notSample sealed => ?_, fun t sample sealed => ?_, fun why notCommit notSample stopped => ?_, fun commit => ?_⟩
  · have plain : i.desc.opcode ≠ 5 := notSample
    rw [State.completeItem_sealed finished notCommit sealed]
    simp only [plain, decide_false, Bool.false_and, Bool.false_eq_true, if_false]
  · have opcode : i.desc.opcode = 5 := sample
    rw [State.completeItem_sealed finished (by omega) sealed]
    simp only [opcode, decide_true, Bool.true_and, if_true]
  · rw [State.completeItem_stopped finished notCommit notSample stopped]
  · rw [State.completeItem_commit finished commit]

/-- The commit of an item by what its log says (R56, R61, R66). -/
theorem commitMakesArrival : Sys2Proof.Claim.CommitMakesArrival := by
  intro i status progress s t
  refine ⟨fun written => ?_, fun refused => ?_⟩
  · simp only [State.commitItem, written, Bool.not_true, Bool.false_eq_true, if_false]
  · simp only [State.commitItem, refused, Bool.not_false, if_true]

/-- The pacer's next release, once it is due (R76, R78). -/
theorem pacerReleases : Sys2Proof.Claim.PacerReleases := by
  intro c s p k slot plan next there running window due
  simp only [exec_paceRelease, execPaceRelease, State.pace, plan, next, there, running, window, due, ne_eq, not_false_eq_true,
    decide_true, Bool.and_self, if_true, Option.map_some, Option.getD_some]

/-- The timeout of the `COMMIT` that waits for its token (R81, R83). -/
theorem commitTimesOut : Sys2Proof.Claim.CommitTimesOut := by
  intro c s i waiting
  simp only [exec_commitTimeout, execCommitTimeout, State.commitLate, waiting]
  exact ⟨fun runs => congrArg _ (if_neg runs), fun preempted => congrArg _ (if_pos preempted)⟩

/-- Settles O18: the four claims. The clock that stands while PREEMPTED is R83's, the refused entry that fails its item R338's, and the
order of what waits on an edge R41's with DEDUCED 126. -/
theorem commitAndPace : Obligations.CommitAndPace :=
  ⟨finishedItemCommits, commitMakesArrival, pacerReleases, commitTimesOut⟩

end Sys2Proof.Machine
end

section
/-! PROOFS. The commit token, mismatch reports, the vote and its verdict, and the fenced state (O33). -/

namespace Sys2Proof.Machine

section
variable {s : State} {k : Packet} {c : CtxId} {rank : Nat} {t v : List W64} {x : Compared} {u : Vote}

/-! ## Packets heard (R367, R376) -/

/-- A collective packet that the module hears from a member is acted on once it has gone on to where others await it. -/
theorem State.HearsMember.receiveColl (h : s.HearsMember k) (act : State → State) : s.receiveColl k act = act (s.allowIn k) := by
  obtain ⟨⟨⟨fresh, known⟩, here, good⟩, current⟩ := h
  exact State.receiveColl_heard act fresh known here good current

/-! ## Tokens (R80, R375) -/

/-- A latched token is the one that the context's `COMMIT` finds. -/
@[simp] theorem State.latchToken_token (s : State) (c : CtxId) (t : List W64) : ((s.latchToken c t).ctx c).token = some t := by
  rw [State.latchToken, State.ctx_updCtx, if_pos rfl]

/-! ## Reports and the vote (R386) -/

/-- The module has sent the token of a step, as the holder does. -/
def State.sentToken (s : State) (c : CtxId) (step : W64) : Bool := s.surv.sent.any fun e => e.1 = c && e.2.getD 0 0 = step

/-- The vote about a step of a context. -/
def State.voteOn (s : State) (c : CtxId) (step : W64) : Option Vote := s.surv.votes.find? fun v => v.ctx == c && v.step == step

/-- A report of a step whose token was not sent is late. -/
theorem State.takeReport_unsent (unsent : s.sentToken c (t.getD 0 0) = false) : s.takeReport c rank t = s.lateReport := by
  simp only [State.sentToken] at unsent
  simp only [State.takeReport, unsent, Bool.not_false, if_true]

/-- The first report of a step opens its vote. -/
theorem State.takeReport_first (sent : s.sentToken c (t.getD 0 0) = true) (first : s.voteOn c (t.getD 0 0) = none) :
    s.takeReport c rank t = { s with surv := { s.surv with
      votes := s.surv.votes ++ [⟨c, t.getD 0 0, [(rank, tokenVals t)], true⟩] } } := by
  simp only [State.sentToken] at sent
  simp only [State.voteOn] at first
  simp only [State.takeReport, sent, first, Bool.not_true, Bool.false_eq_true, if_false]

/-- A report of a step whose vote has closed is late. -/
theorem State.takeReport_closed (sent : s.sentToken c (t.getD 0 0) = true) (vote : s.voteOn c (t.getD 0 0) = some u)
    (closed : u.isOpen = false) : s.takeReport c rank t = s.lateReport := by
  simp only [State.sentToken] at sent
  simp only [State.voteOn] at vote
  simp only [State.takeReport, sent, vote, closed, Bool.not_true, Bool.false_eq_true, if_false]

/-- A report of a step whose vote is open joins it, in the place of an earlier one of its rank. -/
theorem State.takeReport_open (sent : s.sentToken c (t.getD 0 0) = true) (vote : s.voteOn c (t.getD 0 0) = some u)
    (isOpen : u.isOpen = true) :
    s.takeReport c rank t = { s with surv := { s.surv with
      votes := s.surv.votes.map fun w =>
        if w.ctx == c && w.step == t.getD 0 0 then
          { w with reports := (rank, tokenVals t) :: w.reports.filter fun e => e.1 ≠ rank }
        else w } } := by
  simp only [State.sentToken] at sent
  simp only [State.voteOn] at vote
  simp only [State.takeReport, sent, vote, isOpen, Bool.not_true, Bool.false_eq_true, if_false, if_true]

/-! ## Verdicts (R386) -/

/-- A context that waits for a verdict no longer. -/
def State.dropReporter (s : State) (c : CtxId) : State :=
  { s with surv := { s.surv with reported := s.surv.reported.filter fun d => d ≠ c } }

/-- A verdict kept until its step is compared. -/
def State.keepVerdict (s : State) (c : CtxId) (v : List W64) : State :=
  { s with surv := { s.surv with verdicts := (c, v) :: s.surv.verdicts.filter fun e => e.1 ≠ c } }

/-- A verdict of all zeros waits for the comparison of the open step: that step has not compared and the member has not reported
(DESIGN CHOICE 156). -/
def State.AwaitsComparison (s : State) (c : CtxId) : Prop := s.uncompared c = true ∧ c ∉ s.surv.reported

theorem State.awaitsComparison_iff : s.AwaitsComparison c ↔ (s.uncompared c && !s.surv.reported.contains c) = true := by
  simp only [State.AwaitsComparison, Bool.and_eq_true, Bool.not_eq_true', List.contains_eq_mem, decide_eq_false_iff_not]

/-- No winner fences the member. -/
theorem State.actVerdict_noWinner (zero : noWinner v = true) : s.actVerdict c v x = (s.dropReporter c).fenceNow 1 := by
  simp only [State.actVerdict, zero, Bool.true_or, if_true, State.dropReporter]

/-- Values other than its own fence the member. -/
theorem State.actVerdict_differs (differs : tokenVals v ≠ x.vals) : s.actVerdict c v x = (s.dropReporter c).fenceNow 1 := by
  simp only [State.actVerdict, differs, ne_eq, not_false_eq_true, decide_true, Bool.or_true, if_true, State.dropReporter]

/-- Its own values show `VERDICT_CLEAR` when its comparison failed, and nothing otherwise. -/
theorem State.actVerdict_agrees (named : noWinner v = false) (agrees : tokenVals v = x.vals) :
    s.actVerdict c v x = if x.failed then (s.dropReporter c).setFlag .survStatus 0 6 else s.dropReporter c := by
  simp only [State.actVerdict, named, agrees, ne_eq, not_true_eq_false, decide_false, Bool.or_self, Bool.false_eq_true, if_false,
    State.dropReporter]

/-- A verdict with values is acted on once its step is compared. -/
theorem State.takeVerdict_compared (named : noWinner v = false) (found : s.comparedFor c (v.getD 0 0) = some x) :
    s.takeVerdict c v = s.actVerdict c v x := by
  simp only [State.takeVerdict, named, found, Bool.not_false, if_true]

/-- Before that it is kept. -/
theorem State.takeVerdict_uncompared (named : noWinner v = false) (found : s.comparedFor c (v.getD 0 0) = none) :
    s.takeVerdict c v = s.keepVerdict c v := by
  simp only [State.takeVerdict, named, found, Bool.not_false, if_true, State.keepVerdict]

/-- A verdict of all zeros that waits for a comparison is kept. -/
theorem State.takeVerdict_zero_awaits (zero : noWinner v = true) (waits : s.AwaitsComparison c) :
    s.takeVerdict c v = s.keepVerdict c v := by
  simp only [State.takeVerdict, zero, State.awaitsComparison_iff.mp waits, Bool.not_true, Bool.false_eq_true, if_false, if_true,
    State.keepVerdict]

/-- Any other is that of the last comparison, if there is one. -/
theorem State.takeVerdict_zero_last (zero : noWinner v = true) (waits : ¬ s.AwaitsComparison c)
    (last : (s.surv.compared.find? fun x => x.ctx == c) = some x) : s.takeVerdict c v = s.actVerdict c v x := by
  rw [State.awaitsComparison_iff] at waits
  simp only [State.takeVerdict, zero, waits, last, Bool.not_true, Bool.false_eq_true, if_false]

/-- Without one it is kept. -/
theorem State.takeVerdict_zero_never (zero : noWinner v = true) (waits : ¬ s.AwaitsComparison c)
    (last : (s.surv.compared.find? fun x => x.ctx == c) = none) : s.takeVerdict c v = s.keepVerdict c v := by
  rw [State.awaitsComparison_iff] at waits
  simp only [State.takeVerdict, zero, waits, last, Bool.not_true, Bool.false_eq_true, if_false, State.keepVerdict]

/-! ## The fence (R387) -/

/-- A module that is fenced makes no new entry. -/
theorem State.fenceNow_fenced {cause : Nat} (fenced : s.rdN .fenceState ≠ 0) : s.fenceNow cause = s := if_pos fenced

/-- One that is not enters the fence: it shows and reports the cause, and what is not IDLE stops. -/
theorem State.fenceNow_enters {cause : Nat} (unfenced : s.rdN .fenceState = 0) :
    s.fenceNow cause =
      ((((s.wrN .fenceState 0 0 cause).tally .fenceCnt 0 .survStatus 0 1).raise 0x04 none cause).stopAll Ctx.fences) :=
  if_neg (not_not.mpr unfenced)

/-- The test of `FENCE_CLEAR` reaches every context. -/
theorem State.allIdle_iff : (allCtx.all fun c => decide ((s.ctx c).st = .idle)) = true ↔ ∀ c, (s.ctx c).st = .idle := by
  simp only [allCtx, List.all_eq_true, List.mem_finRange, true_implies, decide_eq_true_eq]

theorem State.fenceLeave_idle (idle : ∀ c, (s.ctx c).st = .idle) : s.fenceLeave = (true, s.wrN .fenceState 0 0 0) :=
  if_pos (State.allIdle_iff.mpr idle)

theorem State.fenceLeave_busy (busy : (s.ctx c).st ≠ .idle) : s.fenceLeave = (false, s) :=
  if_neg fun all => busy (State.allIdle_iff.mp all c)

/-- `FENCE` is the accepted write of 1 to `FENCE_CONTROL`, whose cause is 2. -/
theorem execFence_eq : execFence s = .next (s.fenceNow 2) := by
  simp only [execFence, State.fenceControl, if_true, settle_ok]

/-- `FENCE_CLEAR` where the fence may be left. -/
theorem execFenceClear_left {t : State} (left : s.fenceLeave = (true, t)) : execFenceClear s = .next t := by
  simp only [execFenceClear, State.fenceControl, left, settle_ok, OfNat.ofNat_ne_one, if_false, if_true]

/-- `FENCE_CLEAR` where it may not: a refusal, which is counted (R436). -/
theorem execFenceClear_refused {t : State} (refused : s.fenceLeave = (false, t)) :
    execFenceClear s = .next (t.tally .igcorRefuseCnt 0 .igcorStatus 0 2) := by
  simp only [execFenceClear, State.fenceControl, refused, settle, OfNat.ofNat_ne_one, if_false, if_true]

end

/-! ## The claims (O33) -/

/-- A commit token from a member (R80, R375). -/
theorem tokenLatched : Sys2Proof.Claim.TokenLatched := by
  intro k s heard
  rw [exec_commitToken, execCommitToken, heard.receiveColl]
  exact ⟨rfl, State.latchToken_token ..⟩

/-- A report at the holder (R386). -/
theorem reportJoinsVote : Sys2Proof.Claim.ReportJoinsVote := by
  intro k s heard
  rw [exec_mismatchReport, execMismatchReport, heard.receiveColl]
  exact ⟨fun unsent => congrArg _ (State.takeReport_unsent unsent), fun sent first => congrArg _ (State.takeReport_first sent first),
    fun _ sent vote closed => congrArg _ (State.takeReport_closed sent vote closed),
    fun _ sent vote isOpen => congrArg _ (State.takeReport_open sent vote isOpen)⟩

/-- A verdict at a member (R386), one of all zeros by DESIGN CHOICE 156. -/
theorem verdictActs : Sys2Proof.Claim.VerdictActs := by
  intro k s x heard
  rw [exec_verdict, execVerdict, heard.receiveColl]
  refine ⟨fun named found differs => ?differs, fun named found agrees failed => ?failed, fun named found agrees passed => ?passed,
    fun named found => congrArg _ (State.takeVerdict_uncompared named found),
    fun zero waits => congrArg _ (State.takeVerdict_zero_awaits zero waits), fun zero waits last => ?last,
    fun zero waits last => congrArg _ (State.takeVerdict_zero_never zero waits last)⟩
  case differs => rw [State.takeVerdict_compared named found, State.actVerdict_differs differs]; rfl
  case failed => rw [State.takeVerdict_compared named found, State.actVerdict_agrees named agrees, if_pos failed]; rfl
  case passed => rw [State.takeVerdict_compared named found, State.actVerdict_agrees named agrees, passed]; rfl
  case last => rw [State.takeVerdict_zero_last zero waits last, State.actVerdict_noWinner zero]; rfl

/-- The window of the oldest open vote (R386). -/
theorem voteCloses : Sys2Proof.Claim.VoteCloses := by
  intro s v oldest
  simp only [exec_fenceVoteClose, execFenceVoteClose, State.closeVote, oldest, State.nextOp]

/-- A verdict that does not come in time (R386). -/
theorem lateVerdictFences : Sys2Proof.Claim.LateVerdictFences := by
  intro c s
  simp only [exec_verdictTimeout, execVerdictTimeout, State.verdictLate, List.contains_iff_mem]
  exact ⟨fun waits => congrArg _ (if_pos waits), fun free => congrArg _ (if_neg free)⟩

/-- The fence by command, and its end (R387). -/
theorem fenceAndClear : Sys2Proof.Claim.FenceAndClear := by
  intro s
  rw [exec_fence, exec_fenceClear, execFence_eq]
  refine ⟨fun unfenced => ?_, fun fenced => ?_, fun idle => execFenceClear_left (State.fenceLeave_idle idle),
    fun _ busy => execFenceClear_refused (State.fenceLeave_busy busy)⟩
  · rw [State.fenceNow_enters unfenced]; rfl
  · rw [State.fenceNow_fenced fenced]

/-- Settles O33: the six claims. The step of a verdict of all zeros is DESIGN CHOICE 156. -/
theorem tokensAndVotes : Obligations.TokensAndVotes :=
  ⟨tokenLatched, reportJoinsVote, verdictActs, voteCloses, lateVerdictFences, fenceAndClear⟩

end Sys2Proof.Machine
end

section
/-! PROOFS. The values of codes as rationals, and the grid of a format: the code below a fraction, and where the fraction lies on the way to
the next one (R88–R92, R98). -/

namespace Sys2Proof.Machine

/-! ## Values as rationals (R88, R91, R94) -/

/-- The value is finite, of the sign `neg` and the magnitude `q`. -/
def Val.Reads (v : Val) (neg : Bool) (q : ℚ) : Prop := ∃ n d : Nat, v = .fin neg n d ∧ 0 < d ∧ (n : ℚ) = q * d

/-- A fraction that reads as q is q. -/
theorem Val.Reads.eq_mul {neg : Bool} {q : ℚ} {a b : Nat} (reads : (Val.fin neg a b).Reads neg q) : (a : ℚ) = q * b := by
  obtain ⟨_, _, same, _, mag⟩ := reads
  cases same
  exact mag

/-- A whole number times a power of two. -/
theorem Val.reads_scale_ofNat (m : Nat) (k : Int) : ((Val.ofNat m).scale k).Reads false (m * 2 ^ k) := by
  by_cases up : 0 ≤ k
  · lift k to Nat using up
    exact ⟨m * 2 ^ k, 1, by simp [Val.scale, Val.ofNat], one_pos, by simp⟩
  · obtain ⟨j, rfl⟩ : ∃ j : Nat, k = -j := ⟨(-k).toNat, by omega⟩
    refine ⟨m, 1 * 2 ^ j, by simp only [Val.scale, Val.ofNat, if_neg up, neg_neg, Int.toNat_natCast], by positivity, ?_⟩
    rw [zpow_neg, zpow_natCast]
    push_cast
    field_simp

/-- The magnitude of a floating-point code of precision p, with least normal exponent emin (R88, R91, R94). -/
def codeMag (p : Nat) (emin : Int) (c : Nat) : ℚ :=
  if c / 2 ^ (p - 1) = 0 then (c % 2 ^ (p - 1) : Nat) * 2 ^ (emin - (p - 1))
  else (2 ^ (p - 1) + c % 2 ^ (p - 1) : Nat) * 2 ^ (emin + (c / 2 ^ (p - 1) : Nat) - 1 - (p - 1))

/-- A floating-point code reads as its exponent and mantissa say. -/
theorem codeVal_reads (p : Nat) (emin : Int) (c : Nat) : (codeVal p emin c).Reads false (codeMag p emin c) := by
  rw [codeVal, codeMag]
  split <;> exact Val.reads_scale_ofNat _ _

/-- A subnormal code is a multiple of the least value. -/
theorem codeMag_subnormal {p c : Nat} (emin : Int) (small : c < 2 ^ (p - 1)) : codeMag p emin c = c * 2 ^ (emin - (p - 1)) := by
  rw [codeMag, Nat.div_eq_of_lt small, if_pos rfl, Nat.mod_eq_of_lt small]

/-- The code 0 alone has the value 0. -/
theorem codeMag_eq_zero_iff (p : Nat) (emin : Int) (c : Nat) : codeMag p emin c = 0 ↔ c = 0 := by
  have power (k : Int) : (2 : ℚ) ^ k ≠ 0 := zpow_ne_zero k two_ne_zero
  rw [codeMag]
  split
  case isTrue small =>
    rw [mul_eq_zero, or_iff_left (power _), Nat.cast_eq_zero, Nat.mod_eq_of_lt (Nat.lt_of_div_eq_zero (by positivity) small)]
  case isFalse large =>
    refine iff_of_false (mul_ne_zero (by positivity) (power _)) ?_
    rintro rfl
    exact large (Nat.zero_div _)

/-- A normal code by its exponent and mantissa. -/
theorem codeMag_normal {p k m : Nat} (emin : Int) (pos : 0 < k) (small : m < 2 ^ (p - 1)) :
    codeMag p emin (k * 2 ^ (p - 1) + m) = (2 ^ (p - 1) + m : Nat) * 2 ^ (emin + k - 1 - (p - 1)) := by
  have two : 0 < 2 ^ (p - 1) := by positivity
  have exponent : (k * 2 ^ (p - 1) + m) / 2 ^ (p - 1) = k := by
    rw [mul_comm, Nat.mul_add_div two, Nat.div_eq_of_lt small, add_zero]
  have mantissa : (k * 2 ^ (p - 1) + m) % 2 ^ (p - 1) = m := by rw [Nat.mul_add_mod', Nat.mod_eq_of_lt small]
  rw [codeMag, exponent, mantissa, if_neg pos.ne']

/-! ## The grid of a format (R98) -/

/-- A fraction over a power of two. -/
theorem overPow_spec {n d : Nat} (hd : 0 < d) (k : Int) :
    0 < (overPow n d k).2 ∧ ((overPow n d k).1 : ℚ) * (2 ^ k * d) = n * (overPow n d k).2 := by
  rw [overPow]
  by_cases up : 0 ≤ k
  · lift k to Nat using up
    rw [if_pos (Int.natCast_nonneg k), Int.toNat_natCast, zpow_natCast]
    refine ⟨by positivity, ?_⟩
    push_cast
    ring
  · obtain ⟨j, rfl⟩ : ∃ j : Nat, k = -j := ⟨(-k).toNat, by omega⟩
    rw [if_neg up, neg_neg, Int.toNat_natCast, zpow_neg, zpow_natCast]
    refine ⟨hd, ?_⟩
    push_cast
    field_simp

/-- Whole units of a power of two reached by a fraction. -/
theorem mul_le_overPow_iff {n d : Nat} (hd : 0 < d) (k : Int) (m : Nat) :
    m * (overPow n d k).2 ≤ (overPow n d k).1 ↔ (m : ℚ) * (2 ^ k * d) ≤ n := by
  obtain ⟨pos, same⟩ := overPow_spec (n := n) hd k
  have pos' : (0 : ℚ) < (overPow n d k).2 := by exact_mod_cast pos
  have unit : (0 : ℚ) < 2 ^ k * d := by positivity
  rw [← mul_le_mul_iff_left₀ pos', ← same, mul_right_comm, mul_le_mul_iff_left₀ unit]
  exact_mod_cast Iff.rfl

/-- The bits of a fraction's parts give its power of two, or one too great by one. -/
theorem floorLog2_eq {n d : Nat} (hd : 0 < d) :
    floorLog2 n d = if (2 : ℚ) ^ ((n.log2 : Int) - d.log2) * d ≤ n then (n.log2 : Int) - d.log2 else (n.log2 : Int) - d.log2 - 1 := by
  have fits := mul_le_overPow_iff (n := n) hd ((n.log2 : Int) - d.log2) 1
  rw [Nat.cast_one, one_mul, one_mul] at fits
  simp only [← fits, floorLog2, overPow]
  split <;> rfl

/-- A positive fraction lies between its power of two and the next. -/
theorem floorLog2_spec {n d : Nat} (hn : 0 < n) (hd : 0 < d) :
    (2 : ℚ) ^ floorLog2 n d * d ≤ n ∧ (n : ℚ) < 2 ^ (floorLog2 n d + 1) * d := by
  have nLow : (2 : ℚ) ^ n.log2 ≤ n := by exact_mod_cast Nat.log2_self_le hn.ne'
  have nHigh : (n : ℚ) < 2 ^ n.log2 * 2 := by exact_mod_cast (pow_succ 2 n.log2 ▸ Nat.lt_log2_self : n < 2 ^ n.log2 * 2)
  have dLow : (2 : ℚ) ^ d.log2 ≤ d := by exact_mod_cast Nat.log2_self_le hd.ne'
  have dHigh : (d : ℚ) < 2 ^ d.log2 * 2 := by exact_mod_cast (pow_succ 2 d.log2 ▸ Nat.lt_log2_self : d < 2 ^ d.log2 * 2)
  have power : (2 : ℚ) ^ ((n.log2 : Int) - d.log2) * 2 ^ d.log2 = 2 ^ n.log2 := by
    rw [zpow_sub₀ two_ne_zero, zpow_natCast, zpow_natCast, div_mul_cancel₀ _ (by positivity)]
  have unit : (0 : ℚ) < 2 ^ ((n.log2 : Int) - d.log2) := by positivity
  rw [floorLog2_eq hd]
  split
  case isTrue fits =>
    refine ⟨fits, ?_⟩
    rw [zpow_add_one₀ two_ne_zero]
    linarith [mul_le_mul_of_nonneg_left dLow unit.le]
  case isFalse large =>
    rw [sub_add_cancel, zpow_sub_one₀ two_ne_zero]
    exact ⟨by linarith [mul_le_mul_of_nonneg_left dHigh.le unit.le], not_le.mp large⟩

/-- The code of m units in the last place at the exponent e. -/
def gridCode (p : Nat) (emin e : Int) (m : Nat) : Nat :=
  if m < 2 ^ (p - 1) then m else (e - emin + 1).toNat * 2 ^ (p - 1) + (m - 2 ^ (p - 1))

/-- The next code is one unit further, also where it begins the normal numbers. -/
theorem gridCode_succ {p m : Nat} {emin e : Int} (normal : m < 2 ^ (p - 1) → e = emin) :
    gridCode p emin e (m + 1) = gridCode p emin e m + 1 := by
  by_cases below : m < 2 ^ (p - 1)
  · obtain rfl := normal below
    simp only [gridCode, if_pos below, sub_self, zero_add, Int.toNat_one, one_mul]
    split <;> omega
  · simp only [gridCode, if_neg below, if_neg (show ¬ m + 1 < 2 ^ (p - 1) by omega)]
    omega

/-- The code of m units has the value of m units; the units of an exponent reach to the first value of the next. -/
theorem codeMag_gridCode {p m : Nat} {emin e : Int} (low : emin ≤ e) (fits : m ≤ 2 * 2 ^ (p - 1))
    (normal : m < 2 ^ (p - 1) → e = emin) : codeMag p emin (gridCode p emin e m) = m * 2 ^ (e - (p - 1)) := by
  by_cases below : m < 2 ^ (p - 1)
  · rw [gridCode, if_pos below, codeMag_subnormal emin below, normal below]
  obtain ⟨j, rfl⟩ : ∃ j : Nat, e = emin + j := ⟨(e - emin).toNat, by omega⟩
  have field : (emin + (j : Int) - emin + 1).toNat = j + 1 := by omega
  rw [gridCode, if_neg below, field]
  obtain carry | inside : m = 2 * 2 ^ (p - 1) ∨ m < 2 * 2 ^ (p - 1) := by omega
  · have next : (j + 1) * 2 ^ (p - 1) + (m - 2 ^ (p - 1)) = (j + 1 + 1) * 2 ^ (p - 1) + 0 := by
      rw [carry, Nat.add_mul (j + 1)]; omega
    rw [next, codeMag_normal emin (by omega) (by positivity), carry]
    have step : emin + ((j + 1 + 1 : Nat) : Int) - 1 - (p - 1) = emin + j - (p - 1) + 1 := by push_cast; ring
    rw [step, zpow_add_one₀ two_ne_zero]
    push_cast
    ring
  · rw [codeMag_normal emin (by omega) (by omega), Nat.add_sub_cancel' (by omega)]
    congr 2
    push_cast
    ring

/-- The fraction n / d lies above L by the share rem / dist of the way from L to H. -/
def LiesAt (n d rem dist : Nat) (L H : ℚ) : Prop := ((n : ℚ) - L * d) * dist = rem * (H - L) * d

section
variable {p n d : Nat} {emin : Int}

/-- On the grid a fraction is the whole units of its exponent, or of the least one, and a part of the next unit. -/
theorem gridBelow_eq (p : Nat) (emin : Int) (n d : Nat) :
    gridBelow p emin n d =
      let e := max (floorLog2 n d) emin
      let (a, b) := overPow n d (e - (p - 1 : Int))
      (gridCode p emin e (a / b), a % b, b) := rfl

/-- A power of two counted in units in the last place. -/
theorem units_of_pow (hp : 0 < p) (e : Int) : (2 : ℚ) ^ (p - 1) * 2 ^ (e - (p - 1 : Int)) = 2 ^ e := by
  obtain ⟨q, rfl⟩ : ∃ q, p = q + 1 := ⟨p - 1, by omega⟩
  rw [Nat.add_sub_cancel, ← zpow_natCast, ← zpow_add₀ two_ne_zero]
  congr 1
  push_cast
  ring

/-- A fraction below twice its exponent's power has fewer units than twice a whole significand. -/
theorem overPow_units_lt {e : Int} (hp : 0 < p) (hd : 0 < d) (below : (n : ℚ) < 2 ^ (e + 1) * d) :
    (overPow n d (e - (p - 1 : Int))).1 / (overPow n d (e - (p - 1 : Int))).2 < 2 * 2 ^ (p - 1) := by
  rw [← not_le, Nat.le_div_iff_mul_le (overPow_spec hd _).1, mul_le_overPow_iff hd, not_le]
  refine below.trans_eq ?_
  rw [zpow_add_one₀ two_ne_zero, ← units_of_pow hp e]
  push_cast
  ring

/-- A fraction that reaches its exponent's power has a whole significand of units. -/
theorem le_overPow_units {e : Int} (hp : 0 < p) (hd : 0 < d) (reaches : (2 : ℚ) ^ e * d ≤ n) :
    2 ^ (p - 1) ≤ (overPow n d (e - (p - 1 : Int))).1 / (overPow n d (e - (p - 1 : Int))).2 := by
  rw [Nat.le_div_iff_mul_le (overPow_spec hd _).1, mul_le_overPow_iff hd, Nat.cast_pow, Nat.cast_ofNat, ← mul_assoc, units_of_pow hp e]
  exact reaches

/-- The grid finds the code below a fraction and where the fraction lies on the way to the next one. -/
theorem gridBelow_liesAt (hp : 0 < p) (hd : 0 < d) :
    LiesAt n d (gridBelow p emin n d).2.1 (gridBelow p emin n d).2.2
      (codeMag p emin (gridBelow p emin n d).1) (codeMag p emin ((gridBelow p emin n d).1 + 1)) := by
  simp only [gridBelow_eq]
  set e : Int := max (floorLog2 n d) emin with he
  obtain ⟨pos, same⟩ := overPow_spec (n := n) hd (e - (p - 1 : Int))
  obtain rfl | hn := Nat.eq_zero_or_pos n
  · have empty : (overPow 0 d (e - (p - 1 : Int))).1 = 0 := by rw [overPow]; split <;> simp
    have first : gridCode p emin e 0 = 0 := if_pos (by positivity)
    rw [LiesAt, empty, Nat.zero_div, Nat.zero_mod, first, codeMag_subnormal emin (by positivity)]
    simp
  obtain ⟨reaches, below⟩ := floorLog2_spec hn hd
  have fits := overPow_units_lt (e := e) hp hd
    (below.trans_le (by gcongr; exacts [one_le_two, le_max_left ..]))
  have normal : (overPow n d (e - (p - 1 : Int))).1 / (overPow n d (e - (p - 1 : Int))).2 < 2 ^ (p - 1) → e = emin := by
    intro few
    by_contra other
    have top : e = floorLog2 n d := by omega
    exact few.not_ge (le_overPow_units hp hd (top ▸ reaches))
  generalize overPow n d (e - (p - 1 : Int)) = ab at pos same fits normal ⊢
  obtain ⟨a, b⟩ := ab
  dsimp only at *
  rw [LiesAt, ← gridCode_succ normal, codeMag_gridCode (le_max_right ..) fits.le normal,
    codeMag_gridCode (le_max_right ..) fits fun few => normal (Nat.lt_of_succ_lt few)]
  have parts : (a : ℚ) = b * (a / b : Nat) + (a % b : Nat) := by exact_mod_cast (Nat.div_add_mod a b).symm
  push_cast
  rw [parts] at same
  linear_combination -same

/-- A part of a unit is less than the unit. -/
theorem gridBelow_rem_lt (hd : 0 < d) : (gridBelow p emin n d).2.1 < (gridBelow p emin n d).2.2 := by
  rw [gridBelow_eq]
  exact Nat.mod_lt _ (overPow_spec hd _).1

/-- A fraction that reaches the least normal value has a normal code. -/
theorem gridBelow_normal (hp : 0 < p) (hd : 0 < d) (reaches : (2 : ℚ) ^ emin * d ≤ n) : 2 ^ (p - 1) ≤ (gridBelow p emin n d).1 := by
  have hn : 0 < n := by
    have : (0 : ℚ) < n := lt_of_lt_of_le (by positivity) reaches
    exact_mod_cast this
  obtain ⟨low, below⟩ := floorLog2_spec hn hd
  have normal : emin ≤ floorLog2 n d := by
    by_contra small
    refine (below.trans_le ?_).not_ge reaches
    gcongr
    exacts [one_le_two, by omega]
  have units := le_overPow_units hp hd low
  simp only [gridBelow_eq, max_eq_left normal, gridCode, if_neg units.not_gt]
  have field : 1 ≤ (floorLog2 n d - emin + 1).toNat := by omega
  exact le_add_right (Nat.le_mul_of_pos_left _ field)
end

/-! ## What the codes of a format read as (R88–R92) -/

/-- A whole number reads as itself. -/
theorem Val.reads_whole {v : Val} {neg : Bool} {m : Nat} (whole : v = .fin neg m 1) : v.Reads neg m :=
  ⟨m, 1, whole, one_pos, by simp⟩

/-- The zero reads as 0. -/
theorem Val.reads_zero : Val.zero.Reads false 0 := ⟨0, 1, rfl, one_pos, by simp⟩

/-- The sign of a Crilet-4 code is its bit 3, and 0x8 has none (R88). -/
theorem elemVal_crilet4_reads {c : Nat} (size : c < 16) : (elemVal 0 c).Reads (decide (8 < c)) (codeMag 2 0 (c % 8)) := by
  obtain ⟨n, d, code, hd, mag⟩ := codeVal_reads 2 0 (c % 8)
  have zero : n = 0 ↔ c % 8 = 0 := by
    rw [← codeMag_eq_zero_iff 2 0 (c % 8), ← Nat.cast_eq_zero (R := ℚ), mag, mul_eq_zero, or_iff_left (by exact_mod_cast hd.ne')]
  simp only [elemVal, code]
  by_cases blank : c % 8 = 0
  · rw [if_pos (zero.mpr blank), (codeMag_eq_zero_iff 2 0 _).mpr blank, decide_eq_false (show ¬ 8 < c by omega)]
    exact Val.reads_zero
  · have sign : (c / 8 % 2 = 1) = (8 < c) := by rw [eq_iff_iff]; omega
    rw [if_neg (mt zero.mp blank)]
    simp only [sign]
    exact ⟨n, d, rfl, hd, mag⟩

/-- An E4M3 magnitude code below the NaN (R91). -/
theorem elemVal_e4m3_reads {c : Nat} (size : c < 127) : (elemVal 4 c).Reads false (codeMag 4 (-6) c) := by
  obtain ⟨n, d, code, reads⟩ := codeVal_reads 4 (-6) c
  have positive : decide (c / 128 % 2 = 1) = false := decide_eq_false (by omega)
  simp only [elemVal, Nat.mod_eq_of_lt (show c < 128 by omega), if_neg size.ne, code, positive]
  exact ⟨n, d, rfl, reads⟩

/-- An E5M2 magnitude code below the infinity (R91). -/
theorem elemVal_e5m2_reads {c : Nat} (size : c < 124) : (elemVal 5 c).Reads false (codeMag 3 (-14) c) := by
  obtain ⟨n, d, code, reads⟩ := codeVal_reads 3 (-14) c
  have positive : decide (c / 128 % 2 = 1) = false := decide_eq_false (by omega)
  simp only [elemVal, Nat.mod_eq_of_lt (show c < 128 by omega), if_neg size.not_gt, if_neg size.ne, code, positive]
  exact ⟨n, d, rfl, reads⟩

/-- Positive normal FP32 bits (R91, R92). -/
theorem f32_reads {x : Nat} (normal : 0x800000 ≤ x) (size : x < 0x7F800000) : (f32 x).Reads false (codeMag 24 (-126) x) := by
  obtain ⟨n, d, code, reads⟩ := codeVal_reads 24 (-126) x
  have positive : decide (x / 2 ^ 31 % 2 = 1) = false := decide_eq_false (by omega)
  have bits : x % 2 ^ 31 = x := Nat.mod_eq_of_lt (by omega)
  simp only [f32, f32Strict, bits, if_neg normal.not_gt, if_neg size.not_gt, if_neg size.ne, code, positive]
  exact ⟨n, d, rfl, reads⟩

/-- More mantissa bits, all zero, change no value. -/
theorem codeMag_widen {p : Nat} (hp : 0 < p) (emin : Int) (k c : Nat) : codeMag (p + k) emin (c * 2 ^ k) = codeMag p emin c := by
  obtain ⟨q, rfl⟩ : ∃ q, p = q + 1 := ⟨p - 1, by omega⟩
  have width : 2 ^ (q + 1 + k - 1) = 2 ^ q * 2 ^ k := by rw [show q + 1 + k - 1 = q + k by omega, pow_add]
  have unit (e : Int) : (2 : ℚ) ^ (e - ((q + 1 : Nat) - 1 : Int)) = 2 ^ k * 2 ^ (e - ((q + 1 + k : Nat) - 1 : Int)) := by
    rw [← zpow_natCast, ← zpow_add₀ two_ne_zero]
    congr 1
    push_cast
    ring
  rw [codeMag, codeMag, width, Nat.mul_div_mul_right _ _ (by positivity), Nat.mul_mod_mul_right, Nat.add_sub_cancel, unit, unit]
  split <;> push_cast <;> ring

/-- Positive normal BF16 bits: the upper half of FP32 ones (R91, R92). -/
theorem bf16_reads {c : Nat} (normal : 0x80 ≤ c) (size : c < 0x7F80) : (bf16 c).Reads false (codeMag 8 (-126) c) := by
  rw [bf16, Nat.mod_eq_of_lt (by omega), ← codeMag_widen (by omega) (-126) 16 c]
  exact f32_reads (by omega) (by omega)

/-! ## Neighbouring codes (R98) -/

/-- The codes x.1 and x.1 + 1 of a format have values, and n / d lies between them as x.2 says. -/
def Neighbours (f n d : Nat) (x : Nat × Nat × Nat) : Prop :=
  ∃ L H : ℚ, (elemVal f x.1).Reads false L ∧ (elemVal f (x.1 + 1)).Reads false H ∧ LiesAt n d x.2.1 x.2.2 L H

/-- The largest magnitude code of a finite value. -/
def lastCode (f : Nat) : Nat := if f ≤ 5 then topCode f false else if f = 6 then 0x7F7F else 0x7F7FFFFF

section
variable {f p n d : Nat} {emin : Int}

/-- Where the codes of a format read as those of a grid, the codes that the grid finds are neighbours. -/
theorem gridBelow_neighbours (hp : 0 < p) (hd : 0 < d)
    (reads : ∀ c, (gridBelow p emin n d).1 ≤ c → c ≤ (gridBelow p emin n d).1 + 1 → (elemVal f c).Reads false (codeMag p emin c)) :
    Neighbours f n d (gridBelow p emin n d) :=
  ⟨_, _, reads _ le_rfl (Nat.le_succ _), reads _ (Nat.le_succ _) le_rfl, gridBelow_liesAt hp hd⟩

/-- Crilet-4i codes are whole numbers (R89). -/
theorem magBelow_neighbours_crilet4i (last : (magBelow 1 n d).1 + 1 ≤ 7) : Neighbours 1 n d (magBelow 1 n d) := by
  have reads : ∀ c ≤ 7, (elemVal 1 c).Reads false c := by
    intro c size
    apply Val.reads_whole
    rw [elemVal, Nat.mod_eq_of_lt (by omega), if_pos (by omega)]
  refine ⟨_, _, reads _ (Nat.le_of_succ_le last), reads _ last, ?_⟩
  have parts : (n : ℚ) = d * (n / d : Nat) + (n % d : Nat) := by exact_mod_cast (Nat.div_add_mod n d).symm
  simp only [magBelow, LiesAt]
  push_cast
  linear_combination (d : ℚ) * parts

/-- Crilet-3 codes are 0, 1, 2 and 4 (R89). -/
theorem magBelow_neighbours_crilet3 (last : (magBelow 2 n d).1 + 1 ≤ 3) : Neighbours 2 n d (magBelow 2 n d) := by
  have code1 : (elemVal 2 1).Reads false (1 : Nat) := Val.reads_whole (by decide)
  have code2 : (elemVal 2 2).Reads false (2 : Nat) := Val.reads_whole (by decide)
  have code3 : (elemVal 2 3).Reads false (4 : Nat) := Val.reads_whole (by decide)
  by_cases one : n < d
  · rw [show magBelow 2 n d = (0, n, d) from if_pos one]
    exact ⟨_, _, Val.reads_zero, code1, by simp [LiesAt]⟩
  by_cases two : n < 2 * d
  · rw [show magBelow 2 n d = (1, n - d, d) by rw [magBelow, if_neg one, if_pos two]]
    refine ⟨_, _, code1, code2, ?_⟩
    rw [LiesAt, Nat.cast_sub (not_lt.mp one)]
    push_cast
    ring
  by_cases four : n < 4 * d
  · rw [show magBelow 2 n d = (2, n - 2 * d, 2 * d) by rw [magBelow, if_neg one, if_neg two, if_pos four]]
    refine ⟨_, _, code2, code3, ?_⟩
    rw [LiesAt, Nat.cast_sub (not_lt.mp two)]
    push_cast
    ring
  · rw [magBelow, if_neg one, if_neg two, if_neg four] at last
    omega

/-- Crilet-2 codes are 0 and 1 (R89). -/
theorem magBelow_neighbours_crilet2 (last : (magBelow 3 n d).1 + 1 ≤ 1) : Neighbours 3 n d (magBelow 3 n d) := by
  have code1 : (elemVal 3 1).Reads false (1 : Nat) := Val.reads_whole (by decide)
  by_cases one : n < d
  · rw [show magBelow 3 n d = (0, n, d) from if_pos one]
    exact ⟨_, _, Val.reads_zero, code1, by simp [LiesAt]⟩
  · rw [magBelow, if_neg one] at last
    omega

/-- What remains above the lower code is less than the distance to the next. -/
theorem magBelow_rem_lt (f : Nat) (hd : 0 < d) : (magBelow f n d).2.1 < (magBelow f n d).2.2 := by
  match f with
  | 0 | 4 | 5 | 6 | _ + 7 => exact gridBelow_rem_lt hd
  | 1 => exact Nat.mod_lt n hd
  | 2 =>
    simp only [magBelow]
    split_ifs <;> dsimp only <;> omega
  | 3 =>
    simp only [magBelow]
    split_ifs <;> dsimp only <;> omega

/-- The two codes of every format between which a value lies, if the lower is not the last. -/
theorem magBelow_neighbours (hf : f ≤ 7) (hd : 0 < d) (large : 6 ≤ f → d ≤ n * 2 ^ 126) (last : (magBelow f n d).1 + 1 ≤ lastCode f) :
    Neighbours f n d (magBelow f n d) := by
  have reaches : 6 ≤ f → (2 : ℚ) ^ (-126 : Int) * d ≤ n := by
    intro wide
    have cast : (d : ℚ) ≤ n * 2 ^ 126 := by exact_mod_cast large wide
    rw [zpow_neg, inv_mul_le_iff₀ (by positivity), mul_comm]
    exact_mod_cast cast
  match f with
  | 0 =>
    refine gridBelow_neighbours two_pos hd fun c _ next => ?_
    have size : c < 8 := Nat.lt_succ_of_le (next.trans last)
    have reads := elemVal_crilet4_reads (show c < 16 by omega)
    rwa [Nat.mod_eq_of_lt size, decide_eq_false (by omega)] at reads
  | 1 => exact magBelow_neighbours_crilet4i last
  | 2 => exact magBelow_neighbours_crilet3 last
  | 3 => exact magBelow_neighbours_crilet2 last
  | 4 => exact gridBelow_neighbours (by omega) hd fun c _ next => elemVal_e4m3_reads (Nat.lt_succ_of_le (next.trans last))
  | 5 => exact gridBelow_neighbours (by omega) hd fun c _ next => elemVal_e5m2_reads (Nat.lt_succ_of_le (next.trans last))
  | 6 =>
    exact gridBelow_neighbours (by omega) hd fun c lo next =>
      bf16_reads ((gridBelow_normal (by omega) hd (reaches le_rfl)).trans lo) (Nat.lt_succ_of_le (next.trans last))
  | 7 =>
    exact gridBelow_neighbours (by omega) hd fun c lo next =>
      f32_reads ((gridBelow_normal (by omega) hd (reaches (by omega))).trans lo) (Nat.lt_succ_of_le (next.trans last))

end

end Sys2Proof.Machine
end

section
/-! PROOFS. Rounding and conversion, the Crilet-4 codes and the S16 scales (O23, O24, O25). -/

namespace Sys2Proof.Machine

/-! ## Rounding and conversion (O25) -/

/-- The measure between two neighbours, in the fractions that they read as (R98). -/
theorem neighboursMeasured : Sys2Proof.Claim.NeighboursMeasured := by
  intro f n d a b a' b' hf hd large
  have rest := magBelow_rem_lt (n := n) f hd
  have neighbours := magBelow_neighbours hf hd large
  generalize magBelow f n d = x at rest neighbours ⊢
  obtain ⟨lo, rem, dist⟩ := x
  refine ⟨rest, fun last lower upper => ?_⟩
  obtain ⟨L, H, readsL, readsH, lies⟩ := neighbours last
  rw [lower] at readsL
  rw [upper] at readsH
  rw [← Int.cast_inj (α := ℚ)]
  push_cast
  rw [readsL.eq_mul, readsH.eq_mul]
  have share : ((n : ℚ) - L * d) * dist = rem * (H - L) * d := lies
  linear_combination (b * b' : ℚ) * share

/-- A rest below the half is dropped, one above it rounds up, and the half goes to the even neighbour (R98). -/
theorem roundEven_cases (n d : Nat) :
    (2 * (n % d) < d ∧ roundEven n d = n / d) ∨ (d < 2 * (n % d) ∧ roundEven n d = n / d + 1) ∨
      (2 * (n % d) = d ∧ roundEven n d % 2 = 0 ∧ (roundEven n d = n / d ∨ roundEven n d = n / d + 1)) := by
  simp only [roundEven]
  split_ifs <;> omega

/-- Rounding to a whole number, by the double of the rest (R98). -/
theorem roundingIsNearestEven : Sys2Proof.Claim.RoundingIsNearestEven := by
  intro n d hd
  have parts : n / d * d + n % d = n := Nat.div_add_mod' n d
  obtain ⟨small, down⟩ | ⟨large, up⟩ | ⟨half, even, near⟩ := roundEven_cases n d
  · rw [down]
    omega
  · have below : n % d < d := Nat.mod_lt n hd
    rw [up, Nat.add_mul (n / d) 1 d]
    omega
  · obtain near | near := near
    · rw [near] at even ⊢
      omega
    · rw [near] at even ⊢
      rw [Nat.add_mul (n / d) 1 d]
      omega

/-- The magnitude code that a rounding takes of the two that a value lies between (R98). -/
def takenCode (mode r lo rem dist : Nat) : Nat :=
  if rem = 0 then lo
  else if mode = 1 then lo
  else if mode = 2 then (if 65536 ≤ 65536 * rem / dist + r then lo + 1 else lo)
  else if 2 * rem < dist then lo
  else if dist < 2 * rem then lo + 1
  else if lo % 2 = 0 then lo else lo + 1

/-- Mode 0 takes the nearer code, and of two equally near ones the even one (R98). -/
theorem takenCode_nearest (r lo rem dist : Nat) :
    (2 * rem < dist → takenCode 0 r lo rem dist = lo) ∧ (rem ≠ 0 → dist < 2 * rem → takenCode 0 r lo rem dist = lo + 1) ∧
    (rem ≠ 0 → 2 * rem = dist → lo % 2 = 0 → takenCode 0 r lo rem dist = lo) ∧
    (rem ≠ 0 → 2 * rem = dist → lo % 2 = 1 → takenCode 0 r lo rem dist = lo + 1) := by
  rw [takenCode, if_neg zero_ne_one, if_neg two_ne_zero.symm]
  split_ifs <;> omega

/-- A magnitude code cut to the infinity of a wide format (R98). -/
def cutCode (f m : Nat) : Nat := if f = 6 then min m 0x7F80 else if f = 7 then min m 0x7F800000 else m

/-- The code that a fraction converts to (R98). -/
theorem convert_fin_code (neg : Bool) (n d f mode r : Nat) :
    (convert (.fin neg n d) f mode r).code =
      if n = 0 then 0
      else if 6 ≤ f ∧ n * 2 ^ 126 < d then 0
      else if f ≤ 5 ∧ topOf f neg * d < n then signedCode f neg (topCode f neg)
      else signedCode f neg (cutCode f (takenCode mode r (magBelow f n d).1 (magBelow f n d).2.1 (magBelow f n d).2.2)) := by
  simp only [convert, apply_ite Conv.code, Bool.and_eq_true, decide_eq_true_eq]
  rfl

/-- A code up to the infinity stands. -/
theorem cutCode_of_le {f m : Nat} (fits : m ≤ if f = 6 then 0x7F80 else 0x7F800000) : cutCode f m = m := by
  rw [cutCode]
  split_ifs at fits ⊢ <;> omega

/-- `convert` follows the measure (R98). -/
theorem convertsToNearest : Sys2Proof.Claim.ConvertsToNearest := by
  intro neg n d f r hf hn
  rw [convert_fin_code, if_neg hn]
  generalize magBelow f n d = x
  obtain ⟨lo, rem, dist⟩ := x
  refine ⟨fun flush => if_pos flush, fun top => ?_, fun normal inside finite => ?_⟩
  · rw [if_neg (by omega), if_pos top]
  · have low : cutCode f lo = lo := cutCode_of_le finite.le
    have high : cutCode f (lo + 1) = lo + 1 := cutCode_of_le finite
    obtain ⟨nearLow, nearHigh, tieEven, tieOdd⟩ := takenCode_nearest r lo rem dist
    rw [if_neg normal, if_neg inside]
    exact ⟨fun less => by rw [nearLow less, low], fun rest more => by rw [nearHigh rest more, high],
      fun rest half even => by rw [tieEven rest half even, low], fun rest half odd => by rw [tieOdd rest half odd, high]⟩

/-- A fraction converts to the code of some magnitude. -/
theorem convert_fin_signedCode (neg : Bool) (n d f mode r : Nat) :
    ∃ m, (convert (.fin neg n d) f mode r).code = signedCode f neg m := by
  have zero : 0 = signedCode f neg 0 := by simp [signedCode]
  rw [convert_fin_code]
  split_ifs
  exacts [⟨0, zero⟩, ⟨0, zero⟩, ⟨_, rfl⟩, ⟨_, rfl⟩]

/-- A code with a sign bit set has a magnitude (R101). -/
theorem signedCode_ne_negativeZero {f z : Nat} (m : Nat)
    (zero : (f, z) ∈ [(0, 0x8), (2, 0x4), (4, 0x80), (5, 0x80), (6, 0x8000), (7, 0x80000000)]) : signedCode f true m ≠ z := by
  obtain rfl | hm := Nat.eq_zero_or_pos m
  · rintro rfl
    revert zero
    simp [signedCode]
  · simp only [List.mem_cons, Prod.mk.injEq, List.not_mem_nil, or_false] at zero
    rcases zero with ⟨rfl, rfl⟩ | ⟨rfl, rfl⟩ | ⟨rfl, rfl⟩ | ⟨rfl, rfl⟩ | ⟨rfl, rfl⟩ | ⟨rfl, rfl⟩ <;>
      simp [signedCode, fmtBits, hm.ne']

/-- A negative zero is a code that no conversion writes (R101). -/
theorem noNegativeZero : Sys2Proof.Claim.NoNegativeZero := by
  intro f z mode r n d zero
  obtain ⟨m, code⟩ := convert_fin_signedCode true n d f mode r
  exact code ▸ signedCode_ne_negativeZero m zero

/-- Settles O25: the four claims (R98, R101). -/
theorem roundingRules : Obligations.RoundingRules :=
  ⟨roundingIsNearestEven, neighboursMeasured, convertsToNearest, noNegativeZero⟩

/-! ## Crilet-4 codes (O23) -/

/-- The magnitude of a Crilet-4 code in halves (R88). -/
theorem two_mul_codeMag_crilet4 (c : Nat) :
    2 * codeMag 2 0 c = (if c / 2 = 0 then c % 2 else 2 ^ (c / 2 - 1) * (2 + c % 2) : Nat) := by
  rw [codeMag, show 2 ^ (2 - 1) = 2 from rfl]
  split
  case isTrue =>
    have unit : (2 : ℚ) ^ ((0 : Int) - ((2 : Nat) - 1)) = 1 / 2 := by norm_num
    rw [unit]
    ring
  case isFalse normal =>
    obtain ⟨j, exponent⟩ : ∃ j, c / 2 = j + 1 := ⟨c / 2 - 1, by omega⟩
    have power : (0 : Int) + (j + 1 : Nat) - 1 - ((2 : Nat) - 1) = j - 1 := by push_cast; ring
    rw [exponent, power, zpow_sub_one₀ two_ne_zero, zpow_natCast, Nat.add_sub_cancel]
    push_cast
    ring

/-- Settles O23: a Crilet-4 code reads as its magnitude bits do (R88). -/
theorem crilet4Codes : Obligations.Crilet4Codes := by
  intro c
  obtain ⟨n, d, code, hd, mag⟩ := elemVal_crilet4_reads c.isLt
  refine ⟨n, d, code, hd, ?_⟩
  have halves := two_mul_codeMag_crilet4 (c.toNat % 8)
  rw [show c.toNat % 8 / 2 = c.toNat / 2 % 4 by omega, show c.toNat % 8 % 2 = c.toNat % 2 by omega] at halves
  have same : (2 * n : ℚ) = 2 * codeMag 2 0 (c.toNat % 8) * d := by rw [mag, mul_assoc]
  rw [halves] at same
  exact_mod_cast same

/-! ## S16 scales (O24) -/

/-- An S16 scale with a sign, or with the last exponent, is a NaN (R94). -/
theorem scaleVal_s16_nan {c : Nat} (nan : c / 32768 % 2 = 1 ∨ c / 128 % 256 = 255) : scaleVal true c = .nan := by
  rw [scaleVal, if_pos rfl]
  by_cases sign : c / 32768 % 2 = 1
  · exact if_pos sign
  · rw [if_neg sign, if_pos (by omega)]

/-- Any other S16 scale reads as its exponent and mantissa (R94). -/
theorem scaleVal_s16_reads {c : Nat} (sign : c / 32768 % 2 = 0) (last : c / 128 % 256 ≠ 255) :
    (scaleVal true c).Reads false (codeMag 8 (-126) (c / 128 % 256 * 128 + c % 128)) := by
  have parts : c % 32768 = c / 128 % 256 * 128 + c % 128 := by omega
  rw [scaleVal, if_pos rfl, if_neg (by omega), if_neg (by omega), parts]
  exact codeVal_reads ..

/-- The sign of a 16-bit scale as a bit of its number. -/
theorem getLsbD_15_iff (c : BitVec 16) : c.getLsbD 15 = true ↔ c.toNat / 32768 % 2 = 1 := by
  rw [BitVec.getLsbD, Nat.testBit_eq_decide_div_mod_eq, decide_eq_true_iff]

/-- A block scale of NaN makes every element NaN (R94, R103). -/
theorem Operand.element_nan {p : Operand} (x : Val) (on : p.on = true) : p.element .nan x = (.nan, Val.ofNat 1) := by
  simp [Operand.element, on]

/-- A block scale of zero makes every element +0 (R94, R103). -/
theorem Operand.element_zero {p : Operand} {v : Val} (x : Val) (on : p.on = true) (zero : v.isZero = true) (number : v ≠ .nan) :
    p.element v x = (.zero, Val.ofNat 1) := by
  simp [Operand.element, on, zero, number]

/-- A narrow block with a NaN takes the NaN scale (R97, R102). -/
theorem chooseScale_nan {f : Nat} (s16 : Bool) {xs : List Val} (narrow : isNarrow f = true) (nan : .nan ∈ xs) :
    (chooseScale f s16 xs).1 = nanScale s16 := by
  have any : xs.any (· = .nan) = true := List.any_eq_true.mpr ⟨_, nan, decide_eq_true rfl⟩
  rw [chooseScale, narrow, any, Bool.and_self, if_pos rfl]

/-- A normal S16 scale is 2^(e − 127) × (1 + m / 128) (R94). -/
theorem scaleVal_s16_normal {c : Nat} (sign : c / 32768 % 2 = 0) (low : 1 ≤ c / 128 % 256) (high : c / 128 % 256 ≤ 254) :
    ∃ n d : Nat, scaleVal true c = .fin false n d ∧ 0 < d ∧ n * (128 * 2 ^ 127) = d * (2 ^ (c / 128 % 256) * (128 + c % 128)) := by
  obtain ⟨n, d, code, hd, mag⟩ := scaleVal_s16_reads sign (by omega)
  refine ⟨n, d, code, hd, ?_⟩
  have scale : codeMag 8 (-126) (c / 128 % 256 * 128 + c % 128) =
      (128 + c % 128 : Nat) * 2 ^ ((-126 : Int) + (c / 128 % 256 : Nat) - 1 - ((8 : Nat) - 1)) :=
    codeMag_normal (p := 8) (-126) low (Nat.mod_lt c (by omega))
  generalize c / 128 % 256 = e at *
  have power : (2 : ℚ) ^ ((-126 : Int) + e - 1 - ((8 : Nat) - 1)) * (128 * 2 ^ 127) = 2 ^ e := by
    rw [show (-126 : Int) + e - 1 - ((8 : Nat) - 1) = e - (134 : Nat) by push_cast; ring, zpow_sub₀ two_ne_zero, zpow_natCast, zpow_natCast]
    norm_num
  have same : (n * (128 * 2 ^ 127) : ℚ) = d * (2 ^ e * (128 + c % 128 : Nat)) := by
    rw [mag, scale]
    linear_combination ((128 + c % 128 : Nat) * d : ℚ) * power
  exact_mod_cast same

/-- A subnormal S16 scale is 2^−126 × m / 128 (R94). -/
theorem scaleVal_s16_subnormal {c : Nat} (sign : c / 32768 % 2 = 0) (least : c / 128 % 256 = 0) :
    ∃ n d : Nat, scaleVal true c = .fin false n d ∧ 0 < d ∧ n * (128 * 2 ^ 126) = d * (c % 128) := by
  obtain ⟨n, d, code, hd, mag⟩ := scaleVal_s16_reads sign (by omega)
  refine ⟨n, d, code, hd, ?_⟩
  have scale : codeMag 8 (-126) (c % 128) = (c % 128 : Nat) * 2 ^ ((-126 : Int) - ((8 : Nat) - 1)) :=
    codeMag_subnormal (p := 8) (-126) (Nat.mod_lt c (by omega))
  have power : (2 : ℚ) ^ ((-126 : Int) - ((8 : Nat) - 1)) * (128 * 2 ^ 126) = 1 := by norm_num
  rw [least, Nat.zero_mul, Nat.zero_add, scale] at mag
  have same : (n * (128 * 2 ^ 126) : ℚ) = d * (c % 128 : Nat) := by
    rw [mag]
    linear_combination ((c % 128 : Nat) * d : ℚ) * power
  exact_mod_cast same

/-- Settles O24: a scale without a sign reads as the positive BF16 code, subnormal ones kept; the two fixed scales are single codes (R94). -/
theorem s16Scales : Obligations.S16Scales := by
  have zero : scaleVal true (0 : BitVec 16).toNat = .fin false 0 (2 ^ 133) := by decide
  have one : scaleVal true 0x3F80 = .fin false 128 128 := by decide
  have positive (c : BitVec 16) (sign : c.getLsbD 15 = false) : c.toNat / 32768 % 2 = 0 := by
    have clear := mt (getLsbD_15_iff c).mpr (Bool.eq_false_iff.mp sign)
    omega
  have isNan (c : BitVec 16) (nan : c.getLsbD 15 = true ∨ c.toNat / 128 % 256 = 255) : scaleVal true c.toNat = .nan :=
    scaleVal_s16_nan (nan.imp_left (getLsbD_15_iff c).mp)
  refine ⟨fun c => ⟨fun sign low high => scaleVal_s16_normal (positive c sign) low high,
      fun sign least => scaleVal_s16_subnormal (positive c sign) least, isNan c⟩,
    fun p c x on => ⟨?_, fun nan => isNan c nan ▸ Operand.element_nan x on⟩, fun f xs narrow nan => chooseScale_nan true narrow nan,
    128, one, by omega⟩
  rintro rfl
  exact Operand.element_zero x on (zero ▸ rfl) (by rw [zero]; nofun)

end Sys2Proof.Machine
end

section
/-! PROOFS. The operations at a queue: `MARK`, `UNMARK`, `REWIND`, `RELEASE` and a read, alone on their edge and together (O20). -/

namespace Sys2Proof.Machine

section
variable {s : State} {q : QueueId}

/-! ## The operations of one edge (R222) -/

@[simp] theorem State.joined_acts (l : List (QueueId × QueueAct)) : ({ s with acts := l } : State).joined q = s.joined q := rfl

/-- Taken by their ranks, a single operation acts. -/
theorem State.byRank_single (s : State) (e : QueueId × QueueAct) :
    (List.range 5).foldl (fun s k => ([e].filter fun e => e.2.rank = k).foldl State.act s) s = s.act e := by
  obtain ⟨q, a⟩ := e
  cases a <;> rfl

/-- Taken by their ranks, a `RELEASE` acts before another operation that came before it. -/
theorem State.byRank_release_first (s : State) (q : QueueId) {a : QueueAct} (other : a.rank ≠ 0) (n : W32) :
    (List.range 5).foldl (fun s k => ([(q, a), (q, .release n)].filter fun e => e.2.rank = k).foldl State.act s) s =
      (s.actRelease q n).act (q, a) := by
  cases a with
  | release => exact absurd rfl other
  | unmark | rewind | mark | read => rfl

/-- While the next command joins it, an operation waits. -/
theorem State.queueAct_joined (joined : s.joined q = true) (a : QueueAct) :
    s.queueAct q a = { s with acts := s.acts ++ [(q, a)] } := by
  simp only [State.queueAct, State.joined_acts, joined, if_true]

/-- An operation alone on its edge acts by itself, and the credit that a `RELEASE` frees is used after it. -/
theorem State.queueAct_alone (alone : s.ActsAlone q) (a : QueueAct) :
    s.queueAct q a = if a.rank = 0 then ((s.act (q, a)).pumpQueue (queueIx q)).kick else s.act (q, a) := by
  obtain ⟨notJoined, others⟩ := alone
  have noneHere : s.acts.filter (fun e => e.1 = q) = [] := List.filter_eq_nil_iff.mpr (by simpa using others)
  have allThere : s.acts.filter (fun e => e.1 ≠ q) = s.acts := List.filter_eq_self.mpr (by simpa using others)
  have mine : (s.acts ++ [(q, a)]).filter (fun e => e.1 = q) = [(q, a)] := by simp [List.filter_append, noneHere]
  have rest : (s.acts ++ [(q, a)]).filter (fun e => e.1 ≠ q) = s.acts := by rw [List.filter_append, allThere]; simp
  simp only [State.queueAct, State.joined_acts, notJoined, mine, rest, State.byRank_single]
  simp

/-- An operation that frees nothing, alone on its edge. -/
theorem State.queueAct_alone_other (alone : s.ActsAlone q) {a : QueueAct} (other : a.rank ≠ 0) : s.queueAct q a = s.act (q, a) := by
  rw [State.queueAct_alone alone, if_neg other]

/-- A `RELEASE` that ends its edge acts before the one operation that came before it. -/
theorem State.queueAct_release_after {a : QueueAct} (last : s.joined q = false) (before : s.acts = [(q, a)]) (other : a.rank ≠ 0)
    (n : W32) : s.queueAct q (.release n) =
      (((({ s with acts := [] } : State).actRelease q n).act (q, a)).pumpQueue (queueIx q)).kick := by
  have mine : [(q, a), (q, QueueAct.release n)].filter (fun e => e.1 = q) = [(q, a), (q, .release n)] := by simp
  have rest : [(q, a), (q, QueueAct.release n)].filter (fun e => e.1 ≠ q) = [] := by simp
  simp only [State.queueAct, State.joined_acts, last, before, List.cons_append, List.nil_append, mine, rest,
    State.byRank_release_first _ q other]
  simp [QueueAct.rank]

/-! ## `RELEASE`, `REWIND` and a read (R197, R205, R217, R220) -/

/-- A `RELEASE` within what may be freed. -/
theorem State.actRelease_within {n : W32} (within : n.toNat ≤ (s.queue (queueIx q)).releasable) :
    s.actRelease q n = s.setQueue (queueIx q) ((s.queue (queueIx q)).free n.toNat) := by
  simp only [State.actRelease, Nat.min_eq_left within, Nat.lt_irrefl, if_false]

/-- A larger `RELEASE` is clamped and counted. -/
theorem State.actRelease_clamped {n : W32} (larger : (s.queue (queueIx q)).releasable < n.toNat) :
    s.actRelease q n =
      (s.setQueue (queueIx q) ((s.queue (queueIx q)).free (s.queue (queueIx q)).releasable)).misuse q := by
  simp only [State.actRelease, Nat.min_eq_right larger.le, larger, if_true]

/-- A misuse is counted for the context that owns the queue. -/
theorem State.misuse_owned {c : CtxId} (owner : s.queueCtx q = some c) :
    s.misuse q = s.tally .queueMisuseCnt c.val .queueStatus c.val 1 := by
  simp only [State.misuse, owner]

/-- `REWIND` without a mark is a misuse. -/
theorem State.actRewind_unmarked (unmarked : (s.queue (queueIx q)).mark = none) : s.actRewind q = s.misuse q := by
  simp only [State.actRewind, unmarked]

/-- `REWIND` with a mark goes back to it, counted for the context that owns the queue. -/
theorem State.actRewind_marked {m : W32} {c : CtxId} (marked : (s.queue (queueIx q)).mark = some m)
    (owner : (s.setQueue (queueIx q) { s.queue (queueIx q) with rd := m, off := (s.queue (queueIx q)).moff }).queueCtx q = some c) :
    s.actRewind q = (s.setQueue (queueIx q) { s.queue (queueIx q) with rd := m, off := (s.queue (queueIx q)).moff }).tally
      .queueRewindCnt c.val .queueStatus c.val 2 := by
  simp only [marked] at owner
  simp only [State.actRewind, marked, owner]

/-- A queue without an unread line shows the idle item. -/
theorem Queue.front_of_unread_zero {x : Queue} (empty : x.unread = 0) : x.front = ⟨zeros 64, 0, none⟩ := if_pos empty

/-- A consumer that waits for priming reads nothing; one that needs a line waits for it too. -/
theorem State.actRead_priming (priming : (s.queue (queueIx q)).prime ≠ none) (need : Bool) :
    s.actRead q need = if need then s.setQueue (queueIx q) { s.queue (queueIx q) with waits := true } else s := by
  simp only [State.actRead, Option.isSome_iff_ne_none.mpr priming, if_true]

/-- A read takes the line at the read counter. -/
theorem State.actRead_line (primed : (s.queue (queueIx q)).prime = none) (line : (s.queue (queueIx q)).unread ≠ 0) (need : Bool) :
    s.actRead q need = (s.emit (.queueItem (s.queue (queueIx q)).front.payload (s.queue (queueIx q)).front.tag)).setQueue (queueIx q)
      (s.queue (queueIx q)).step := by
  simp only [State.actRead, primed, Option.isSome_none, Bool.false_eq_true, if_false, line, ne_eq, not_false_eq_true, if_true]

/-- A read that finds no line answers the idle item; what follows is the consumer's. -/
theorem State.actRead_idle (primed : (s.queue (queueIx q)).prime = none) (empty : (s.queue (queueIx q)).unread = 0) (need : Bool) :
    s.actRead q need =
      if need = false then s.emit (.queueItem (zeros 64) 0)
      else if (s.producer (queueIx q)).any fun e => e.2.regular then (s.emit (.queueItem (zeros 64) 0)).missedRead q
      else (s.emit (.queueItem (zeros 64) 0)).setQueue (queueIx q) { s.queue (queueIx q) with waits := true } := by
  simp only [State.actRead, primed, Option.isSome_none, Bool.false_eq_true, if_false, empty, ne_eq, not_true_eq_false,
    Queue.front_of_unread_zero empty, Bool.not_eq_true']

end

/-! ## The claims (O20) -/

/-- `MARK` and `UNMARK` write their queue alone (R220). -/
theorem markAndUnmark : Sys2Proof.Claim.MarkAndUnmark := by
  intro q joins s alone
  rw [exec_mark, exec_unmark, execMark, execUnmark, State.queueAct_alone_other alone (a := .mark) nofun,
    State.queueAct_alone_other alone (a := .unmark) nofun]
  refine ⟨s.actMark q, s.actUnmark q, rfl, rfl, ?_, ?_, fun k other => ⟨?_, ?_⟩, rfl, rfl⟩
  · exact (State.queue_setQueue ..).trans (if_pos rfl)
  · exact (State.queue_setQueue ..).trans (if_pos rfl)
  · exact (State.queue_setQueue ..).trans (if_neg other)
  · exact (State.queue_setQueue ..).trans (if_neg other)

/-- `REWIND` without and with a mark (R220, R221). -/
theorem rewindToMark : Sys2Proof.Claim.RewindToMark := by
  intro q joins s m c alone
  rw [exec_rewind, execRewind, State.queueAct_alone_other alone (a := .rewind) nofun]
  refine ⟨fun owner unmarked => congrArg _ ?_, fun marked owner => congrArg _ (State.actRewind_marked marked owner)⟩
  exact (State.actRewind_unmarked unmarked).trans (State.misuse_owned owner)

/-- `RELEASE` within what may be freed, and beyond (R220). -/
theorem releaseClamps : Sys2Proof.Claim.ReleaseClamps := by
  intro q joins n s alone
  have acts : s.queueAct q (.release n) = ((s.actRelease q n).pumpQueue (queueIx q)).kick :=
    (State.queueAct_alone alone _).trans (if_pos rfl)
  rw [exec_release, execRelease, acts]
  exact ⟨fun within => by rw [State.actRelease_within within], fun larger => by rw [State.actRelease_clamped larger]⟩

/-- A read of a line, of none, and before priming (R197, R205, R217, R218). -/
theorem queueReadTakesLine : Sys2Proof.Claim.QueueReadTakesLine := by
  intro q need joins s alone
  have acts : exec (.queueRead ⟨q, need, joins⟩) s = .next (s.actRead q need) := by
    rw [exec_queueRead, execQueueRead, State.queueAct_alone_other alone (a := .read need) nofun]
    rfl
  rw [acts]
  refine ⟨fun primed line => ?_, fun primed empty => ?_, fun priming => ?_⟩
  · rw [State.actRead_line primed line]
    exact ⟨_, rfl, rfl, (State.queue_setQueue ..).trans (if_pos rfl),
      fun k other => (State.queue_setQueue ..).trans (if_neg other), rfl⟩
  · rw [State.actRead_idle primed empty]
    refine ⟨fun can => by rw [if_pos can], fun must regular => ?_, fun must irregular => ?_⟩
    · simp only [must, regular, Bool.true_eq_false, if_false, if_true]
    · simp only [must, irregular, Bool.true_eq_false, Bool.false_eq_true, if_false]
  · rw [State.actRead_priming priming]
    exact ⟨fun can => by simp only [can, Bool.false_eq_true, if_false], fun must => by simp only [must, if_true]⟩

/-- The operations of one edge wait for the last of them, and a `RELEASE` acts first (R222). -/
theorem edgeOrder : Sys2Proof.Claim.EdgeOrder := by
  intro q joins n a s
  rw [exec_release, exec_unmark, execRelease, execUnmark]
  refine ⟨fun joined => ⟨?_, ?_⟩, fun last before other => ?_⟩
  · exact congrArg _ (State.queueAct_joined joined _)
  · exact congrArg _ (State.queueAct_joined joined _)
  · exact congrArg _ (State.queueAct_release_after last before other n)

/-- Settles O20: the five claims. Beyond the queue's own counters a `RELEASE` lets the producer and waiting work go on, and a missed read
stops items. That a consumer in priming reads nothing is DEDUCED 63 (beside R197), that operations say that they join their edge is
DEDUCED 141, and that the offset in a line stands with the mark is DEDUCED 142. -/
theorem streamQueues : Obligations.StreamQueues :=
  ⟨markAndUnmark, rewindToMark, releaseClamps, queueReadTakesLine, edgeOrder⟩

end Sys2Proof.Machine
end

section
/-! PROOFS. Barriers, memory read back, and the state after module reset (O17, O22, O6). -/

namespace Sys2Proof.Machine

/-! ## `BARRIER` (O17) -/

section
variable {s : State} {i cur : Item}

/-- An item in flight waits for its commit in its present form (R56). -/
theorem State.finish_current (h : s.current i = some cur) (status : Byte) :
    s.finish i status = s.setItem { cur with phase := .finished status } := by
  simp only [State.finish, h]

/-- A `BARRIER` in flight closes its barrier, and is finished (R226). -/
theorem startBarrier_current (h : s.current i = some cur) (j : Job) :
    startBarrier i j s =
      (s.setBar i.ctx i.desc.bBar ⟨.closed, i.desc.bCount, 0⟩).setItem { cur with phase := .finished 0 } :=
  State.finish_current (s := s.setBar ..) h 0

end

/-- `BARRIER` writes its barrier and its item's phase alone (R226). -/
theorem barrierCloses : Sys2Proof.Claim.BarrierCloses := by
  intro i j s cur present
  rw [startBarrier_current present]
  refine ⟨?_, rfl, fun c b other => ?_, rfl⟩
  · rw [State.setItem_bar, State.bar_setBar_self]
  · rw [State.setItem_bar, State.bar_setBar, if_neg other]

/-! ## Arrivals (O17) -/

section
variable (s : State) (c : CtxId)

/-- The entries that the end of a slot writes: the lag and the counts of lateness (R77). -/
def slotObjs : List Obj := [.paceLag, .paceMaxLag, .lateSlotCnt, .paceStatus, .lateStepCnt]

/-- The end of a slot writes its context's record, then signals (R75, R77). -/
theorem State.endSlot_signals (p : Plan) (k : Nat) : ∃ x, Signals slotObjs (s.setCtx c x) (s.endSlot c p k) := by
  have late {a t : State} {q : Prop} [Decidable q] {n m b : Nat} (h : Signals slotObjs a t) :
      Signals slotObjs a (if q then t.tally .lateSlotCnt n .paceStatus m b else t) :=
    .ite (h.tally (by decide) (by decide) ..) h
  have breach {a t : State} {q : Prop} [Decidable q] {n m b code arg : Nat} {who : Option CtxId} (h : Signals slotObjs a t) :
      Signals slotObjs a (if q then (t.tally .lateStepCnt n .paceStatus m b).raise code who arg else t) :=
    .ite ((h.tally (by decide) (by decide) ..).raise ..) h
  exact ⟨_, breach (late (((Signals.refl ..).wrN (o := .paceLag) (by decide) ..).wrN (o := .paceMaxLag) (by decide) ..))⟩

@[simp] theorem State.endSlot_bar (p : Plan) (k : Nat) (c' : CtxId) (b : Nat) : (s.endSlot c p k).bar c' b = s.bar c' b := by
  obtain ⟨x, signals⟩ := s.endSlot_signals c p k
  rw [signals.bar, State.setCtx_bar]

@[simp] theorem State.endSlots_bar (all : Bool) (n : Nat) (c' : CtxId) (b : Nat) : (s.endSlots c all n).bar c' b = s.bar c' b := by
  induction n generalizing s with
  | zero => rfl
  | succ n ih =>
    unfold State.endSlots
    split
    · rfl
    · split
      · rfl
      · split
        · rw [ih, State.endSlot_bar]
        · rfl

/-- No barrier changes as slots end. -/
@[simp] theorem State.closeSlots_bar (all : Bool) (c' : CtxId) (b : Nat) : (s.closeSlots c all).bar c' b = s.bar c' b := by
  unfold State.closeSlots
  split
  · rfl
  · exact s.endSlots_bar ..

variable {s c} {b : Nat}

/-- An arrival at a barrier that is not CLOSED is counted, and not applied (R227). -/
theorem State.arrive_not_closed (other : (s.bar c b).st ≠ .closed) :
    s.arrive c b = s.tally .barExcessCnt c.val .queueStatus c.val 0 := if_pos other

/-- An arrival at a CLOSED barrier that waits for more adds one. -/
theorem State.arrive_waits (closed : (s.bar c b).st = .closed) (more : (s.bar c b).arrived + 1 < (s.bar c b).count) :
    s.arrive c b = s.setBar c b { s.bar c b with arrived := (s.bar c b).arrived + 1 } :=
  (if_neg (not_not.mpr closed)).trans (if_pos more)

/-- The arrival that reaches the count opens the barrier, which closes the slots that name it (R75, R227). -/
theorem State.arrive_opens (closed : (s.bar c b).st = .closed) (last : (s.bar c b).count ≤ (s.bar c b).arrived + 1) :
    s.arrive c b = ((s.setBar c b { s.bar c b with arrived := (s.bar c b).arrived + 1, st := .opened }).updCtx c
      fun x => x.closeOn b).closeSlots c false :=
  (if_neg (not_not.mpr closed)).trans (if_neg last.not_gt)

/-- The barrier that an arrival has opened. -/
theorem State.arrive_bar_of_last (closed : (s.bar c b).st = .closed) (last : (s.bar c b).count ≤ (s.bar c b).arrived + 1) :
    (s.arrive c b).bar c b = { s.bar c b with arrived := (s.bar c b).arrived + 1, st := .opened } := by
  rw [State.arrive_opens closed last, State.closeSlots_bar, State.updCtx, State.setCtx_bar, State.bar_setBar_self]

end

/-- An arrival by the state of its barrier and what it still waits for (R227). -/
theorem arrivalCounts : Sys2Proof.Claim.ArrivalCounts := by
  intro c b s
  refine ⟨State.arrive_not_closed, State.arrive_waits, fun closed last => ?_⟩
  rw [State.arrive_bar_of_last closed last]
  exact ⟨rfl, rfl⟩

/-- The arrival of a committed item is outstanding until it is registered (R228). -/
theorem arrivalRegistered : Sys2Proof.Claim.ArrivalRegistered := by
  intro c bar s outstanding
  rw [exec_barrierArrival]
  exact if_pos (List.contains_iff_mem.mpr outstanding)

/-- Settles O17: the three claims. -/
theorem barrierArrivals : Obligations.BarrierArrivals := ⟨barrierCloses, arrivalCounts, arrivalRegistered⟩

/-! ## Memory (O22) -/

/-- A word stays poisoned unless a write covers it whole (R330). -/
theorem State.mem_poke_poison {s : State} {pa : Nat} {bs : List Byte} {w : Nat} :
    w ∈ (s.poke pa bs).poison ↔ w ∈ s.poison ∧ ¬ (pa ≤ 4 * w ∧ 4 * w + 4 ≤ pa + bs.length) := by
  simp only [State.poke_poison, List.mem_filter, Nat.mul_comm w 4, Bool.not_eq_true', ← Bool.decide_and, decide_eq_false_iff_not]

/-- A write keeps the canonical form of memory. -/
theorem State.poke_mem_wf {s : State} (h : Memory.wf s.scratch s.mem = true) (pa : Nat) (bs : List Byte) :
    Memory.wf (s.poke pa bs).scratch (s.poke pa bs).mem = true := by
  rw [State.poke_scratch, State.poke_mem]
  exact Memory.wf_memWrite _ _ _ _ h

/-- Settles O22: the byte at an address after a write, by whether the write reaches it; the words that the write covers whole; and the
form that a write keeps. -/
theorem memoryReadsBack : Obligations.MemoryReadsBack := by
  intro pa bs s
  refine ⟨fun a low high => ?_, fun a outside => ?_, fun w => State.mem_poke_poison, fun form => State.poke_mem_wf form pa bs⟩
  · rw [State.byteAt_poke, if_pos ⟨low, high⟩]
  · rw [State.byteAt_poke, if_neg outside]

/-! ## Module reset (O6) -/

/-- The number of an element names its entry. -/
theorem regObj_regCode (o : Obj) (n e : Nat) : regObj (regCode o n e) = o := by
  have number : regCode o n e / 131072 / 16 = o.ctorIdx := by
    unfold regCode
    omega
  rw [regObj, number, Obj.ofNat_ctorIdx]

/-- After module reset an entry holds its reset value (R12, R437). -/
theorem State.reset_rd (o : Obj) (n e : Nat) :
    State.reset.rd o n e = regInit o (regCopy (regCode o n e)) (regElem (regCode o n e)) :=
  congrArg (regInit · _ _) (regObj_regCode o n e)

/-- Each staged value is the applied one after module reset (R448). -/
theorem State.reset_rdStaged (o : Obj) (n e : Nat) : State.reset.rdStaged o n e = State.reset.rd o n e := rfl

/-- Every store is empty after module reset. -/
theorem resetHasForm : Sys2Proof.Claim.ResetHasForm where
  mem := rfl
  poison := .nil
  regs := rfl
  staged := rfl
  copyA := rfl
  copyB := rfl
  ctxs := rfl
  heads := rfl
  bars := rfl
  arrays := rfl
  engines := rfl
  queues := rfl
  msiLast := rfl
  ports := rfl
  mprog := rfl
  imageA := rfl
  imageB := rfl
  events := Nat.zero_le _
  records := Nat.zero_le _

/-- The entries hold their reset values; the rest is empty (R224, R448, R449, R456, R472). -/
theorem resetStandsAsStated : Sys2Proof.Claim.ResetStandsAsStated := by
  have step (c : CtxId) : State.reset.rdN .ctxStep c.val = 0 := by rw [State.rdN, State.reset_rd]; rfl
  have time : State.reset.rd .globalTime = 0 := State.reset_rd ..
  have eventSeq : State.reset.rdN .eventNextSeq = 0 := by rw [State.rdN, State.reset_rd]; rfl
  have stageGen : State.reset.rdN .stageGen = 1 := by rw [State.rdN, State.reset_rd]; rfl
  exact ⟨fun c => ⟨rfl, step c, fun _ => rfl⟩, fun _ => ⟨rfl, rfl⟩, rfl, time, eventSeq, rfl, stageGen, State.reset_rdStaged, rfl⟩

/-- Settles O6: the two claims. -/
theorem resetState : Obligations.ResetState := ⟨resetHasForm, resetStandsAsStated⟩

end Sys2Proof.Machine
end

section
/-! PROOFS. Neighbourhood sampling: Floyd's choice without replacement (O26). -/

namespace Sys2Proof.Machine

/-- A value that a list lacks lengthens it by one when it is put in. -/
theorem length_insertNat {n : Nat} {l : List Nat} (new : n ∉ l) : (insertNat n l).length = l.length + 1 := by
  induction l with
  | nil => rfl
  | cons m r ih =>
    obtain ⟨other, new⟩ := not_or.mp (mt List.mem_cons.mpr new)
    rw [insertNat, if_neg other]
    split
    · rfl
    · rw [List.length_cons, ih new, List.length_cons]

/-- A draw of 64 bits picks one of the `n` values below `n` (R246). -/
theorem pick_lt {u n : Nat} (bits : u < 2 ^ 64) (values : 0 < n) : pick u n < n :=
  Nat.div_lt_of_lt_mul (Nat.mul_lt_mul_of_pos_right bits values)

/-- One round of the loop of R248, for the value `x`: draw `u` picks a value up to `x`, and `x` takes the place of one chosen
before. -/
def floydRound (x u : Nat) (c : List Nat) : List Nat :=
  if c.contains (pick u (x + 1)) then insertNat x c else insertNat (pick u (x + 1)) c

/-- A list longer than the fanout is sampled by the rounds of R248, from `d - f` on. -/
theorem uniform_of_lt {d f : Nat} (long : f < d) (u : Nat → Nat) :
    uniform d f u = (List.range f).foldl (fun c j => floydRound (d - f + j) (u j) c) [] :=
  if_neg (Nat.not_le_of_lt long)

/-- What the rounds before the value `b` leave chosen: `k` positions, all below `b`, in rising order (R248). -/
structure Chosen (b k : Nat) (c : List Nat) : Prop where
  rising : c.Pairwise (· < ·)
  below  : ∀ x ∈ c, x < b
  length : c.length = k

/-- A position at `b` or below it that is not chosen yet is one more. -/
theorem Chosen.insert {b k n : Nat} {c : List Nat} (h : Chosen b k c) (low : n ≤ b) (new : n ∉ c) :
    Chosen (b + 1) (k + 1) (insertNat n c) where
  rising := insertNat_rising h.rising
  below x hx := by
    rcases mem_insertNat.mp hx with rfl | old
    · exact Nat.lt_succ_of_le low
    · exact Nat.lt_succ_of_lt (h.below x old)
  length := by rw [length_insertNat new, h.length]

/-- A round chooses one position more: the value of the round itself lies above all that are chosen, so it is new when the pick is
not (R248). -/
theorem Chosen.round {x k u : Nat} {c : List Nat} (h : Chosen x k c) (bits : u < 2 ^ 64) :
    Chosen (x + 1) (k + 1) (floydRound x u c) := by
  rw [floydRound]
  split
  case isTrue => exact h.insert le_rfl fun mem => Nat.lt_irrefl x (h.below x mem)
  case isFalse new =>
    exact h.insert (Nat.le_of_lt_succ (pick_lt bits x.succ_pos)) fun mem => new (List.contains_iff_mem.mpr mem)

/-- After `k` rounds from `b` on, `k` positions below `b + k` are chosen (R248). -/
theorem chosen_rounds (b : Nat) {u : Nat → Nat} (bits : ∀ j, u j < 2 ^ 64) (k : Nat) :
    Chosen (b + k) k ((List.range k).foldl (fun c j => floydRound (b + j) (u j) c) []) := by
  induction k with
  | zero => exact ⟨.nil, fun _ mem => absurd mem List.not_mem_nil, rfl⟩
  | succ k ih =>
    rw [List.range_succ, List.foldl_append]
    exact ih.round (bits k)

/-- Uniform sampling chooses among the positions of the list as many as the fanout asks for, or all (R248). -/
theorem uniform_chosen (d f : Nat) {u : Nat → Nat} (bits : ∀ j, u j < 2 ^ 64) : Chosen d (min d f) (uniform d f u) := by
  rcases Nat.lt_or_ge f d with long | short
  · have rounds := chosen_rounds (d - f) bits f
    rw [Nat.sub_add_cancel long.le, ← uniform_of_lt long] at rounds
    rwa [Nat.min_eq_right long.le]
  · rw [uniform, if_pos short, Nat.min_eq_left short]
    exact ⟨List.pairwise_lt_range, fun _ => List.mem_range.mp, List.length_range⟩

/-- Settles O26: the three parts of what sampling leaves chosen. -/
theorem samplesDistinct : Obligations.SamplesDistinct := by
  intro d f u bits
  obtain ⟨rising, below, length⟩ := uniform_chosen d f bits
  exact ⟨rising, below, length⟩

end Sys2Proof.Machine
end

section
/-! PROOFS. The coalescer's rows: the partials of a segment and their merge with a store's list (O27). -/

namespace Sys2Proof.Machine

/-! ## The items of a segment in order -/

/-- The key by which the items of a segment are sorted: row, then source (R281). -/
def itemKey (x : Nat × Nat × List Nat) : Nat ×ₗ Nat := toLex (x.1, x.2.1)

theorem insertItem_eq_orderedInsert (x : Nat × Nat × List Nat) (l : List (Nat × Nat × List Nat)) :
    insertItem x l = l.orderedInsert (itemKey ⁻¹'o (· ≤ ·)) x := by
  induction l with
  | nil => rfl
  | cons y r ih => simp [insertItem, ih, itemKey, Order.Preimage, Prod.Lex.toLex_le_toLex]

/-- The items of a segment as `partialsOf` sorts them. -/
def sortItems (its : List (Nat × Nat × List Nat)) : List (Nat × Nat × List Nat) := its.foldr insertItem []

theorem sortItems_eq_insertionSort (its : List (Nat × Nat × List Nat)) :
    sortItems its = its.insertionSort (itemKey ⁻¹'o (· ≤ ·)) :=
  congrArg (its.foldr · []) (funext₂ insertItem_eq_orderedInsert)

/-- Sorting neither drops nor doubles an item. -/
theorem sortItems_perm (its : List (Nat × Nat × List Nat)) : (sortItems its).Perm its :=
  sortItems_eq_insertionSort its ▸ its.perm_insertionSort _

/-- Items sorted by row and source stand in rows that do not fall. -/
theorem sortItems_rows_sorted (its : List (Nat × Nat × List Nat)) : ((sortItems its).map (·.1)).Pairwise (· ≤ ·) := by
  have sorted : (sortItems its).Pairwise (itemKey ⁻¹'o (· ≤ ·)) :=
    sortItems_eq_insertionSort its ▸ List.pairwise_insertionSort _ its
  exact List.pairwise_map.mpr (sorted.imp (Prod.Lex.monotone_fst _ _))

/-! ## Its partials -/

/-- The rows of a segment: each row that an item names, once. -/
def segmentRows (its : List (Nat × Nat × List Nat)) : List Nat := ((sortItems its).map (·.1)).dedup

theorem mem_segmentRows {row : Nat} {its : List (Nat × Nat × List Nat)} : row ∈ segmentRows its ↔ row ∈ its.map (·.1) :=
  List.mem_dedup.trans ((sortItems_perm its).map _).mem_iff

/-- Sorted rows that do not repeat rise. -/
theorem segmentRows_rising (its : List (Nat × Nat × List Nat)) : (segmentRows its).Pairwise (· < ·) :=
  have sorted := (sortItems_rows_sorted its).sublist (List.dedup_sublist _)
  (sorted.sortedLE.sortedLT_of_nodup (List.nodup_dedup _)).pairwise

/-- A segment has one partial for each of its rows, made of the row's items in sorted order (R281). -/
theorem partialsOf_eq_map (len e : Nat) (its : List (Nat × Nat × List Nat)) :
    (partialsOf len e its).1 =
      (segmentRows its).map fun r => partialOf len e r (((sortItems its).filter fun x => x.1 = r).map (·.2)) :=
  List.map_map

theorem partialsOf_rows (len e : Nat) (its : List (Nat × Nat × List Nat)) :
    (partialsOf len e its).1.map (·.1) = segmentRows its := by
  rw [partialsOf_eq_map, List.map_map]
  exact List.map_id _

/-- A partial counts the items of its row. -/
theorem partialsOf_count {len e : Nat} {its : List (Nat × Nat × List Nat)} {m : Merged} (mem : m ∈ (partialsOf len e its).1) :
    m.2.1 = (its.filter fun x => x.1 = m.1).length := by
  rw [partialsOf_eq_map] at mem
  obtain ⟨row, -, rfl⟩ := List.mem_map.mp mem
  calc (((sortItems its).filter fun x => x.1 = row).map (·.2)).length
    _ = ((sortItems its).filter fun x => x.1 = row).length := List.length_map _
    _ = (its.filter fun x => x.1 = row).length := ((sortItems_perm its).filter _).length_eq

/-! ## The merge -/

/-- A merge holds the rows of both lists and no other. -/
theorem mem_mergeLists_rows {row n : Nat} {a b : List Merged} :
    row ∈ (mergeLists n a b).map (·.1) ↔ row ∈ a.map (·.1) ∨ row ∈ b.map (·.1) := by
  fun_induction mergeLists n a b with
  | case1 a b => rw [List.map_append, List.mem_append]
  | case2 n b => simp
  | case3 n a => simp
  | case4 n x a y b less ih => simp only [List.map_cons, List.mem_cons, ih, or_assoc]
  | case5 n x a y b _ more ih => simp only [List.map_cons, List.mem_cons, ih, or_left_comm]
  | case6 n x a y b notLess notMore ih =>
    have same : y.1 = x.1 := by omega
    simp only [List.map_cons, List.mem_cons, ih, same]
    tauto

/-- A head below the rows of both lists of a merge goes before them. -/
theorem rising_cons_mergeLists {n : Nat} {m : Merged} {a b : List Merged} (rest : ((mergeLists n a b).map (·.1)).Pairwise (· < ·))
    (belowA : ∀ row ∈ a.map (·.1), m.1 < row) (belowB : ∀ row ∈ b.map (·.1), m.1 < row) :
    ((m :: mergeLists n a b).map (·.1)).Pairwise (· < ·) :=
  List.pairwise_cons.mpr ⟨fun row mem => (mem_mergeLists_rows.mp mem).elim (belowA row) (belowB row), rest⟩

/-- A row below the head of a rising list is below all its rows. -/
theorem below_of_below_head {row : Nat} {y : Merged} {b : List Merged} (rising : ((y :: b).map (·.1)).Pairwise (· < ·))
    (less : row < y.1) : ∀ other ∈ (y :: b).map (·.1), row < other :=
  List.forall_mem_cons.mpr ⟨less, fun _ mem => less.trans (List.rel_of_pairwise_cons rising mem)⟩

/-- Rising lists merge into a rising list, when the bound leaves a step for each of their records (R281). -/
theorem mergeLists_rising {n : Nat} {a b : List Merged} (room : a.length + b.length ≤ n)
    (risingA : (a.map (·.1)).Pairwise (· < ·)) (risingB : (b.map (·.1)).Pairwise (· < ·)) :
    ((mergeLists n a b).map (·.1)).Pairwise (· < ·) := by
  fun_induction mergeLists n a b with
  | case1 a b =>
    obtain ⟨noA, noB⟩ := Nat.add_eq_zero_iff.mp (Nat.le_zero.mp room)
    rw [List.eq_nil_of_length_eq_zero noA, List.eq_nil_of_length_eq_zero noB]
    exact .nil
  | case2 n b => exact risingB
  | case3 n a => exact risingA
  | case4 n x a y b less ih =>
    obtain ⟨belowA, tailA⟩ := List.pairwise_cons.mp risingA
    have fits : a.length + (y :: b).length ≤ n := by grind
    exact rising_cons_mergeLists (ih fits tailA risingB) belowA (below_of_below_head risingB less)
  | case5 n x a y b _ more ih =>
    obtain ⟨belowB, tailB⟩ := List.pairwise_cons.mp risingB
    have fits : (x :: a).length + b.length ≤ n := by grind
    exact rising_cons_mergeLists (ih fits risingA tailB) (below_of_below_head risingA more) belowB
  | case6 n x a y b notLess notMore ih =>
    obtain ⟨belowA, tailA⟩ := List.pairwise_cons.mp risingA
    obtain ⟨belowB, tailB⟩ := List.pairwise_cons.mp risingB
    have fits : a.length + b.length ≤ n := by grind
    have same : x.1 = y.1 := Nat.le_antisymm (Nat.le_of_not_lt notMore) (Nat.le_of_not_lt notLess)
    exact rising_cons_mergeLists (ih fits tailA tailB) belowA (same ▸ belowB)

/-- Settles O27: the partials of a segment, then the merge (R281). -/
theorem coalescedRowsRise : Obligations.CoalescedRowsRise := by
  refine ⟨fun len e its => ?_, fun n a b room risingA risingB => ?_⟩
  · rw [partialsOf_rows]
    exact ⟨segmentRows_rising its, fun _ => mem_segmentRows, fun _ => partialsOf_count⟩
  · exact ⟨mergeLists_rising room risingA risingB, fun _ => mem_mergeLists_rows⟩

end Sys2Proof.Machine
end

section
/-! PROOFS. The fold of a hashed collection (O28). -/

namespace Sys2Proof.Machine

/-- The fold of R288 is its computation on 64-bit words, whose product with the rows is taken at full width. -/
theorem fold_eq_words (i salt : W64) (rows : Nat) :
    let x := (i ^^^ salt) * 0x9E3779B97F4A7C15
    let y := x ^^^ (x >>> 29)
    fold salt.toNat rows i.toNat = (y >>> 32).toNat * rows / 2 ^ 32 := by
  intro x y
  have product : x.toNat = Nat.xor i.toNat salt.toNat * 0x9E3779B97F4A7C15 % 2 ^ 64 := BitVec.toNat_mul ..
  have mixed : y.toNat = Nat.xor x.toNat (x.toNat / 2 ^ 29) := by
    rw [BitVec.toNat_xor, BitVec.toNat_ushiftRight, Nat.shiftRight_eq_div_pow]
    rfl
  rw [BitVec.toNat_ushiftRight, Nat.shiftRight_eq_div_pow, mixed, product, fold]

/-- The upper half of a 64-bit word is a 32-bit number. -/
theorem toNat_upperHalf_lt (y : W64) : (y >>> 32).toNat < 2 ^ 32 := by
  rw [BitVec.toNat_ushiftRight, Nat.shiftRight_eq_div_pow]
  exact Nat.div_lt_of_lt_mul y.isLt

/-- The fold of a 64-bit index lies within the physical rows, of which there is one at least (R288). -/
theorem fold_lt (i salt : W64) {rows : Nat} (nonempty : 0 < rows) : fold salt.toNat rows i.toNat < rows := by
  rw [fold_eq_words]
  exact Nat.div_lt_of_lt_mul (Nat.mul_lt_mul_of_pos_right (toNat_upperHalf_lt _) nonempty)

/-- Settles O28: the fold in words, its bound, and where it is used; the example of R288 is computed. -/
theorem foldIntoRows : Obligations.FoldIntoRows := by
  refine ⟨fun i salt last => ⟨?_, ?_⟩, fun x i hashed => ?_, ?_⟩
  · exact fold_eq_words i salt _
  · exact Nat.le_of_lt_succ (fold_lt i salt last.toNat.succ_pos)
  · exact if_pos hashed
  · decide

end Sys2Proof.Machine
end

section
/-! PROOFS. Vitrine copies, invalidations, scrub passes and the end of a retirement (O21). -/

namespace Sys2Proof.Machine

/-! ## The copy of a row (R294) -/

/-- A copy of a COPYING row that is not copied yet puts the row into its slot and marks it in the residency word. -/
theorem State.copyDone_copying {c : CtxId} {coll row : Nat} {s t u : State} {p : Pend} {v : Resid}
    (found : (s.pend.find? fun p => p.isOf c coll row) = some p) (word : s.resid (.unit p.ctx p.cluster) p.coln p.row = .ok v)
    (copying : v.state = 1) (notDone : v.done = false) (copied : s.copyRow p = .ok t)
    (marked : t.setResid (.unit p.ctx p.cluster) p.coln p.row { v with done := true } = .ok u) : s.copyDone c coll row = u := by
  have due : (decide (v.state = 1) && !v.done) = true := by rw [copying, notDone]; rfl
  simp only [State.copyDone, found, word, due, copied, marked, bind, Except.bind, if_true]

theorem vitrineCopied : Sys2Proof.Claim.VitrineCopied := by
  intro c coll row s t u p v found word copying notDone copied marked
  rw [exec_vitrineCopyDone, execVitrineCopyDone, State.copyDone_copying found word copying notDone copied marked]

/-! ## Invalidations (R336, R350) -/

section
variable {s : State} {c : CtxId}

theorem State.mmuInvalidate_busy (busy : (s.ctx c).inval ≠ none) (va count : Nat) :
    s.mmuInvalidate c va count = (.state, s) := if_pos (Option.isSome_iff_ne_none.mpr busy)

theorem State.mmuInvalidate_free (free : (s.ctx c).inval = none) (va count : Nat) :
    s.mmuInvalidate c va count = if va % 65536 ≠ 0 then (.range, s) else
      (.ok, s.setCtx c { s.ctx c with inval := some (va % 2 ^ 48, count) }) := by
  rw [State.mmuInvalidate, free]
  rfl

theorem execInvalDone_held {va units : Nat} (busy : (s.ctx c).inval = some (va, units)) (held : s.holdsPages c va units = true) :
    execInvalDone c s = .next s := by
  simp only [execInvalDone, busy, held, if_true]

theorem execInvalDone_free {va units : Nat} (busy : (s.ctx c).inval = some (va, units)) (free : s.holdsPages c va units = false) :
    execInvalDone c s = .next { s.setCtx c { s.ctx c with inval := none } with
      purged := s.purged ++ [(c, va, units * 65536, s.writes)] } := by
  simp only [execInvalDone, busy, free, Bool.false_eq_true, if_false]
  rfl

/-- An invalidation that ends at `n` writes leaves no older entry cached for an address of its range. -/
theorem State.le_purgedAt_of_purged {a va len n : Nat} {old : List (CtxId × Nat × Nat × Nat)}
    (ends : s.purged = old ++ [(c, va, len, n)]) (low : va ≤ a) (high : a < va + len) : n ≤ s.purgedAt c a := by
  simp [State.purgedAt, ends, low, high]

end

theorem invalidationStarts : Sys2Proof.Claim.InvalidationStarts := by
  intro c va count s
  rw [exec_mmuInval, execMmuInval]
  refine ⟨fun free aligned => ?_, fun refused => ?_⟩
  · rw [State.mmuInvalidate_free free, if_neg (not_not.mpr aligned)]
    rfl
  · by_cases free : (s.ctx c).inval = none
    · rw [State.mmuInvalidate_free free, if_pos (refused.resolve_left (not_not.mpr free))]
      rfl
    · rw [State.mmuInvalidate_busy free]
      rfl

theorem invalidationEnds : Sys2Proof.Claim.InvalidationEnds := by
  intro c s va units busy
  rw [exec_invalDone]
  refine ⟨fun free => ⟨_, execInvalDone_free busy free, ?_, fun c' other => ?_, fun a low high => ?_, rfl, rfl⟩,
    execInvalDone_held busy⟩
  · exact s.ctx_setCtx_self c _
  · exact (s.ctx_setCtx c c' _).trans (if_neg other)
  · exact State.le_purgedAt_of_purged rfl low high

/-! ## Scrub passes (R330, R331) -/

theorem State.degradedPcs_nil (s : State) : s.degradedPcs [] = [] := by
  simp [State.degradedPcs]

/-- One corrected word alone does not exceed a threshold of one or more. -/
theorem State.degradedPcs_single {s : State} (threshold : 1 ≤ s.rdN .pcDegradeThresh) (pc : Nat) : s.degradedPcs [pc] = [] := by
  refine List.filter_eq_nil_iff.mpr fun i _ more => ?_
  have few : ([pc].filter (· = i)).length ≤ 1 := List.length_filter_le ..
  exact absurd (of_decide_eq_true more) (Nat.not_lt.mpr (few.trans threshold))

/-- A pass with one finding, which lies in HBM, has that one finding there. -/
theorem hbmFindings_single {f : ScrubFinding} (hbm : findingPa f < 0x24000000000) : hbmFindings [f] = [f] :=
  List.filter_cons_of_pos (decide_eq_true hbm)

/-- A pass whose corrected words do not exceed the threshold of a pseudo-channel only counts what it found. -/
theorem execHbmScrubPass_quiet {found : List ScrubFinding} {s : State}
    (quiet : ((hbmFindings found).foldl State.scrubbed s).degradedPcs (s.correctedPcs found) = []) :
    execHbmScrubPass found s = .next ((hbmFindings found).foldl State.scrubbed s) := by
  rw [execHbmScrubPass, quiet]
  rfl

theorem scrubFindings : Sys2Proof.Claim.ScrubFindings := by
  intro found pa s
  simp only [exec_hbmScrubPass]
  refine ⟨rfl, execHbmScrubPass_quiet (State.degradedPcs_nil _), fun hbm => ⟨?_, fun threshold => ?_⟩⟩
  · have one : hbmFindings [.uncorrectable pa] = [.uncorrectable pa] := hbmFindings_single hbm
    have noPcs : s.correctedPcs [.uncorrectable pa] = [] := by rw [State.correctedPcs, one]; rfl
    rw [execHbmScrubPass_quiet (by rw [noPcs, State.degradedPcs_nil]), one]
    rfl
  · have one : hbmFindings [.corrected pa] = [.corrected pa] := hbmFindings_single hbm
    have pc : s.correctedPcs [.corrected pa] = [s.servingPc pa.toNat] := by rw [State.correctedPcs, one]; rfl
    rw [execHbmScrubPass_quiet (by rw [pc, one]; exact State.degradedPcs_single threshold _), one]
    rfl

/-! ## The end of a retirement (R349) -/

theorem execRetireCopyDone_copying {d : DieId} {s : State} (copying : s.rdN .retireState 0 d.val = 1) :
    execRetireCopyDone d s = .next ((s.count .hbmPoisonCnt 0 0 (s.copiedPoison d.val)).wrN .retireState 0 d.val 2) :=
  if_pos copying

theorem retirementDone : Sys2Proof.Claim.RetirementDone := by
  intro d s copying
  have apart : regCode .hbmPoisonCnt 0 0 ≠ regCode .retireState 0 d.val := regCode_ne (by decide) 0 d.val 0 0
  refine ⟨_, execRetireCopyDone_copying copying, ?_, ?_, fun o n e notPoison notState => ?_, rfl⟩
  · exact State.rdN_wrN_self _ (by decide) ..
  · rw [State.rdN, State.wrN_rd, if_neg apart]
    exact s.rdN_wrN_self (by decide) ..
  · rw [State.wrN_rd, if_neg notState, s.count_rd_ne notPoison]

/-- Settles O21: the five claims. That a start of `MMU_INVAL` is aligned is asked by its entry (R350). -/
theorem memoryService : Obligations.MemoryService :=
  ⟨vitrineCopied, invalidationStarts, invalidationEnds, scrubFindings, retirementDone⟩

end Sys2Proof.Machine
end

section
/-! PROOFS. The form that every step keeps (O5). -/

namespace Sys2Proof.Machine

/-- Every step answers: of the queue it takes at most the front command, and it keeps what one command or one cycle must not disturb. -/
theorem step_keeps (s : State) : NextP (Keeps { s with pending := s.pending.tail }) (step s) := by
  cases waits : s.pending with
  | nil =>
    have idle : step s = .next s.tick := by simp only [step, waits]
    have same : ({ s with pending := [] } : State) = s := by rw [← waits]
    rw [idle, List.tail_nil, same]
    exact NextP.next (State.tick_keeps (Keeps.refl s))
  | cons c rest => exact step_front_keeps waits

/-- Settles O5: the form does not see the queue, and the step keeps it of the state with the queue's rest. -/
theorem stepKeepsForm : Obligations.StepKeepsForm := by
  intro s t wf answers
  obtain ⟨u, answered, keeps⟩ := step_keeps s
  obtain rfl : u = t := Host.Outcome.next.inj (answered.symm.trans answers)
  exact keeps.wf (wf.withPending _)

end Sys2Proof.Machine
end

section
/-! PROOFS. The states of a link: training, verification, and what makes a port FAILED (O29). -/

namespace Sys2Proof.Machine

section
variable {s : State} {p : Nat}

/-! ## Training (R356) -/

/-- A port reads back as it was put. -/
@[simp] theorem State.port_setPort_self (s : State) (k : Nat) (x : Port) : (s.setPort k x).port k = x := by
  rw [State.port_setPort, if_pos rfl]

/-- A port's record does not say whether the port is in use. -/
@[simp] theorem State.setPort_portEnabled (s : State) (k : Nat) (x : Port) (p : Nat) :
    (s.setPort k x).portEnabled p = s.portEnabled p := rfl

/-- A DOWN port in use, with signal on every lane that is not disabled, trains. -/
theorem State.tryTrain_trains (down : (s.port p).st = 1) (used : s.portEnabled p = true)
    (signal : ((s.port p).signal ||| (s.rd .laneDisable p).truncate 4) = 0xF) :
    s.tryTrain p = s.setPort p (s.port p).training := by
  simp only [State.tryTrain, down, used, signal, decide_true, Bool.and_self, if_true]

/-- Any other does not. -/
theorem State.tryTrain_waits (not : (s.port p).st ≠ 1 ∨ s.portEnabled p = false ∨
    ((s.port p).signal ||| (s.rd .laneDisable p).truncate 4) ≠ 0xF) : s.tryTrain p = s := by
  refine if_neg fun all => ?_
  simp only [Bool.and_eq_true, decide_eq_true_eq] at all
  obtain ⟨⟨down, used⟩, signal⟩ := all
  rcases not with h | h | h
  · exact h down
  · exact Bool.false_ne_true (h.symm.trans used)
  · exact h signal

/-- A port moves only from the state that its event belongs to. -/
theorem State.portMove_from {a b : Nat} (there : (s.port p).st = a) : s.portMove p a b = s.setPort p { s.port p with st := b } :=
  if_pos there

theorem State.portMove_other {a b : Nat} (other : (s.port p).st ≠ a) : s.portMove p a b = s := if_neg other

end

/-! ## The claims (O29) -/

/-- Signal on the lanes of a port (R356). -/
theorem signalTrains : Sys2Proof.Claim.SignalTrains := by
  intro p lanes s
  rw [exec_signalDetect, execSignalDetect]
  refine ⟨fun down used signal => ?_, fun not => ?_⟩
  · rw [State.tryTrain_trains (by simpa using down) (by simpa using used) (by simpa using signal), State.port_setPort_self]
  · rw [State.tryTrain_waits (by simpa using not)]

/-- The retry of a port that is DOWN (R356). -/
theorem retryTrains : Sys2Proof.Claim.RetryTrains := fun _ _ down used signal =>
  congrArg _ (State.tryTrain_trains down used signal)

/-- Convergence, alignment, and their timeouts (R356). -/
theorem trainingMoves : Sys2Proof.Claim.TrainingMoves := by
  intro p s
  refine ⟨fun train => ⟨congrArg _ (State.portMove_from train), congrArg _ (State.portMove_from train)⟩,
    fun align => ⟨(if_pos align).trans ?_, congrArg _ (State.portMove_from align)⟩,
    fun other => ⟨congrArg _ (State.portMove_other other), congrArg _ (State.portMove_other other)⟩,
    fun other => ⟨if_neg other, congrArg _ (State.portMove_other other)⟩⟩
  rw [State.portMove_from align]

/-- The exchange of `IDENT` (R357); the way to UP3 is DEDUCED 60, the timeout's failure DEDUCED 59. -/
theorem identVerifies : Sys2Proof.Claim.IdentVerifies := by
  intro p domain coord dims peerPort s verify
  have waits : ¬ (s.port p.val).st ≠ 4 := not_not.mpr verify
  rw [exec_ident, exec_verifyTimeout, execIdent, execVerifyTimeout, if_neg waits, if_pos verify]
  refine ⟨fun agrees full => ?_, fun agrees spare => ?_, fun differs => ?_, rfl⟩
  · simp only [agrees, full, Bool.not_true, Bool.false_eq_true, if_false, if_true]
  · simp only [agrees, spare, Bool.not_true, Bool.false_eq_true, if_false]
  · simp only [differs, Bool.not_false, if_true]

/-- A verification that fails (R357). -/
theorem miswiredFails : Sys2Proof.Claim.MiswiredFails := by
  intro p s
  refine ⟨?_, rfl⟩
  have links := (((Signals.refl [.linkMiswireCnt] (s.setPort p { s.port p with st := 7 })).tally (c := .linkMiswireCnt)
    (o := .shxStatus) (by simp) (by simp [signalObjs]) 0 0 2).raise 0x21 none p).links p
  rw [State.port_setPort_self] at links
  exact congrArg Prod.fst links

/-- Settles O29: the five claims. That a `VERIFY` timeout counts as a failure is DEDUCED 59, the way to UP3 at verification R358's with
DEDUCED 60. -/
theorem linkTraining : Obligations.LinkTraining :=
  ⟨signalTrains, retryTrains, trainingMoves, identVerifies, miswiredFails⟩

end Sys2Proof.Machine
end

section
/-! PROOFS. The widths of a link, its codewords, its credit, and what it holds (O30). -/

namespace Sys2Proof.Machine

section
variable {s : State} {p : PortId}

/-! ## Lanes that a port loses (R356, R358) -/

/-- An UP port that loses one lane of those in use asks for three, unless an exchange is under way. -/
theorem State.loseLanes_asks (up : (s.port p.val).st = 5) (one : laneCount (s.lanesOff p.val &&& (s.port p.val).lanes) = 1)
    (free : (s.port p.val).asked = none) (stays : (s.port p.val).change = none) :
    s.loseLanes p = s.sendLaneChange p (~~~ (s.lanesOff p.val &&& (s.port p.val).lanes)) := by
  have some_off : s.lanesOff p.val &&& (s.port p.val).lanes ≠ 0#4 := fun none_off => by simp [none_off, laneCount] at one
  simp [State.loseLanes, up, some_off, one, free, stays]

theorem State.loseLanes_under_way (up : (s.port p.val).st = 5)
    (one : laneCount (s.lanesOff p.val &&& (s.port p.val).lanes) = 1)
    (busy : (s.port p.val).asked ≠ none ∨ (s.port p.val).change ≠ none) : s.loseLanes p = s := by
  have some_off : s.lanesOff p.val &&& (s.port p.val).lanes ≠ 0#4 := fun none_off => by simp [none_off, laneCount] at one
  have busy : ((s.port p.val).asked.isSome || (s.port p.val).change.isSome) = true := by
    simpa only [Bool.or_eq_true, Option.isSome_iff_ne_none] using busy
  simp [State.loseLanes, up, some_off, one, busy]

/-- Two lanes of an UP port take its link down. -/
theorem State.loseLanes_two (up : (s.port p.val).st = 5)
    (two : 2 ≤ laneCount (s.lanesOff p.val &&& (s.port p.val).lanes)) : s.loseLanes p = s.linkDown p.val := by
  have some_off : s.lanesOff p.val &&& (s.port p.val).lanes ≠ 0#4 := fun none_off => by simp [none_off, laneCount] at two
  simp [State.loseLanes, up, some_off, two]

/-- Any lane of an UP3 port does. -/
theorem State.loseLanes_up3 (up3 : (s.port p.val).st = 6) (some_off : s.lanesOff p.val &&& (s.port p.val).lanes ≠ 0#4) :
    s.loseLanes p = s.linkDown p.val := by
  simp [State.loseLanes, up3, some_off]

/-- A port that is neither, and lanes that are not in use, have no part in it. -/
theorem State.loseLanes_unused (unused : ((s.port p.val).st ≠ 5 ∧ (s.port p.val).st ≠ 6) ∨
    s.lanesOff p.val &&& (s.port p.val).lanes = 0) : s.loseLanes p = s := by
  refine if_pos ?_
  simpa only [Bool.or_eq_true, Bool.and_eq_true, decide_eq_true_eq] using unused

/-! ## A change of width that is agreed (R358) -/

/-- Before its codeword nothing happens. -/
theorem State.widthDue_early {own : Bool} {seq : BitVec 10} {lanes : BitVec 4} (agreed : (s.port p.val).change = some (own, seq, lanes))
    (early : 512 ≤ ((if own then (s.port p.val).txNext else (s.port p.val).rxNext) - seq).toNat) : s.widthDue p = s := by
  simp only [State.widthDue, agreed, early, if_true]

/-- With it the port goes over to the lanes agreed. -/
theorem State.widthDue_due {own : Bool} {seq : BitVec 10} {lanes : BitVec 4} (agreed : (s.port p.val).change = some (own, seq, lanes))
    (due : ((if own then (s.port p.val).txNext else (s.port p.val).rxNext) - seq).toNat < 512) :
    s.widthDue p =
      let u := s.setPort p.val { s.port p.val with change := none }
      if laneCount lanes = 3 then (u.toUp3 p.val (lowLane (~~~ lanes))).loseLanes p else (u.toUp p.val).portGoes p.val := by
  simp only [State.widthDue, agreed, Nat.not_le.mpr due, if_false]

/-! ## Corrected symbols (R358) -/

/-- One lane's count in the window of all lanes: above the threshold the lane is raised. -/
def State.judgeRate (s : State) (p : PortId) (e : W32 × Nat) : State :=
  if s.rdN .laneDegradeThresh < e.1.toNat then s.laneDegraded p.val e.2 else s

theorem execLaneSymbolRateWindow_eq (l0 l1 l2 l3 : W32) :
    execLaneSymbolRateWindow p l0 l1 l2 l3 s =
      .next ((((s.judgeRate p (l0, 0)).judgeRate p (l1, 1)).judgeRate p (l2, 2)).judgeRate p (l3, 3)) := rfl

theorem State.judgeRate_within {r : W32} (lane : Nat) (within : r.toNat ≤ s.rdN .laneDegradeThresh) : s.judgeRate p (r, lane) = s :=
  if_neg (Nat.not_lt.mpr within)

theorem State.judgeRate_above {r : W32} (lane : Nat) (above : s.rdN .laneDegradeThresh < r.toNat) :
    s.judgeRate p (r, lane) = s.laneDegraded p.val lane :=
  if_pos above

/-- The notice of a lane leaves the threshold. -/
@[simp] theorem State.laneDegraded_thresh (s : State) (p lane : Nat) :
    (s.laneDegraded p lane).rdN .laneDegradeThresh = s.rdN .laneDegradeThresh :=
  (((Signals.refl [] s).setFlag (by simp [signalObjs]) ..).raise ..).rdN _ _ (by decide)

end

/-! ## The claims (O30) -/

/-- Loss of lock on a lane (R356, R358). -/
theorem laneLossNarrows : Sys2Proof.Claim.LaneLossNarrows := by
  intro p lane s x t off
  have port : t.port p.val = { x with lost := x.lost ||| BitVec.ofNat 4 (2 ^ lane.val) } := State.port_setPort_self ..
  have lost : t.lanesOff p.val &&& (t.port p.val).lanes = off := by rw [port]
  have st : (t.port p.val).st = x.st := by rw [port]
  have asked : (t.port p.val).asked = x.asked := by rw [port]
  have change : (t.port p.val).change = x.change := by rw [port]
  have acts : exec (.laneLockLoss p lane) s = .next (t.loseLanes p) := rfl
  rw [acts, ← lost, ← st, ← asked, ← change]
  exact ⟨fun up one free stays => congrArg _ (State.loseLanes_asks up one free stays),
    fun up one busy => congrArg _ (State.loseLanes_under_way up one busy),
    fun up two => congrArg _ (State.loseLanes_two up two), fun up3 some_off => congrArg _ (State.loseLanes_up3 up3 some_off),
    fun unused => congrArg _ (State.loseLanes_unused unused)⟩

/-- Lock on a lane again (R358). -/
theorem laneRestoredAsks : Sys2Proof.Claim.LaneRestoredAsks := by
  intro p lane s t
  refine ⟨fun up3 full => ?_, fun not => ?_⟩
  · exact if_pos (by simp only [Bool.and_eq_true, decide_eq_true_eq]; exact ⟨up3, full⟩)
  · refine if_neg fun all => ?_
    simp only [Bool.and_eq_true, decide_eq_true_eq] at all
    exact not.elim (fun h => h all.1) (fun h => h all.2)

/-- The write of `LANE_DISABLE` (R356, R358). -/
theorem laneDisableWrite : Sys2Proof.Claim.LaneDisableWrite := by
  intro p v s
  have listed : v ∈ ([0, 1, 2, 4, 8] : List Byte) ↔ (v = 0 || v = 1 || v = 2 || v = 4 || v = 8) = true := by
    simp [or_assoc]
  rw [exec_laneDisable, execLaneDisable, listed]
  refine ⟨fun refused => ?_, fun taken failed => ?_, fun taken low => ?_⟩
  · rw [Bool.not_eq_true] at refused
    simp only [State.laneDisable, refused, Bool.not_false, if_true, settle]
  · simp only [State.laneDisable, taken, failed, Bool.not_true, Bool.false_eq_true, if_false, if_true, settle]
  · have not_failed : (s.port p.val).st ≠ 7 := by omega
    have not_up3 : (s.port p.val).st ≠ 6 := by omega
    have unused : ((s.wrN .laneDisable p.val 0 v.toNat).port p.val).st ≠ 5 ∧
        ((s.wrN .laneDisable p.val 0 v.toNat).port p.val).st ≠ 6 := by
      rw [State.wrN, State.wr_port]
      omega
    simp only [State.laneDisable, taken, not_failed, not_up3, Bool.not_true, Bool.false_eq_true, if_false, settle,
      State.loseLanes_unused (.inl unused)]

/-- A `LANE_CHANGE` of the peer (R358); request and answer are DESIGN CHOICE 41. -/
theorem laneChangeFollows : Sys2Proof.Claim.LaneChangeFollows := by
  intro p seq lanes s x mayFollow
  have follows : ((x.st = 5 && laneCount lanes = 3) || (x.st = 6 && lanes = 0xF && s.lanesOff p.val = 0)) = true ↔ mayFollow := by
    simp only [mayFollow, Bool.or_eq_true, Bool.and_eq_true, decide_eq_true_eq, and_assoc]
  rw [exec_laneChange]
  exact ⟨fun answer => if_pos answer, fun wish can => (if_neg wish).trans (if_pos (follows.mpr can)),
    fun wish cannot => (if_neg wish).trans (if_neg (mt follows.mp cannot))⟩

/-- The codeword from which an agreed change holds (R358; DESIGN CHOICE 41). -/
theorem widthChangesAtCodeword : Sys2Proof.Claim.WidthChangesAtCodeword := by
  intro p own seq lanes s x next t u
  have port : t.port p.val = { x with asked := none, change := some (own, seq, lanes) } := State.port_setPort_self ..
  have agreed : (t.port p.val).change = some (own, seq, lanes) := by rw [port]
  have waits : (if own then (t.port p.val).txNext else (t.port p.val).rxNext) = next := by rw [port]
  have left : t.setPort p.val { t.port p.val with change := none } = u := by rw [port]
  have acts : s.agreeLanes p own seq lanes = t.widthDue p := rfl
  rw [acts, ← waits]
  refine ⟨fun early => State.widthDue_early agreed early, fun due three => ?_, fun due four => ?_⟩
  · simp only [State.widthDue_due agreed due, left, three, if_true]
  · simp only [State.widthDue_due agreed due, left, four, if_false]

/-- The corrected symbols of a window (R358). -/
theorem laneRateRaises : Sys2Proof.Claim.LaneRateRaises := by
  intro p l0 l1 l2 l3 s rates
  rw [exec_laneSymbolRateWindow, execLaneSymbolRateWindow_eq]
  refine ⟨fun within => ?_, fun k above others => ?_⟩
  · simp only [rates, List.forall_mem_cons] at within
    obtain ⟨h0, h1, h2, h3, -⟩ := within
    simp only [State.judgeRate_within, h0, h1, h2, h3]
  · simp only [Fin.forall_fin_succ, rates] at others
    fin_cases k <;> simp_all [State.judgeRate_within, State.judgeRate_above, rates]

/-- A codeword received (R354, R355). -/
theorem codewordSequence : Sys2Proof.Claim.CodewordSequence := by
  intro p seq ack decoded corrected s
  rw [exec_codeword, exec_codeword, exec_codeword]
  refine ⟨fun low high => ?_, fun untrained => if_pos ?_⟩
  · have trained : ((s.port p.val).st < 3 || 7 ≤ (s.port p.val).st : Bool) = false := by
      simp only [Bool.or_eq_false_iff, decide_eq_false_iff_not]
      omega
    simp only [execCodeword, trained, Bool.false_eq_true, if_false, Bool.not_true, Bool.not_false, if_true, true_and]
    exact ⟨fun gap => if_pos gap, fun expected => if_neg (not_not.mpr expected)⟩
  · simpa only [Bool.or_eq_true, decide_eq_true_eq] using untrained

/-- Credit that comes back (R362; the cap is DESIGN CHOICE 61). -/
theorem creditReturns : Sys2Proof.Claim.CreditReturns := fun _ _ _ _ _ => rfl

/-- The timeout of a held packet (R365). -/
theorem hopTimeoutDrops : Sys2Proof.Claim.HopTimeoutDrops := by
  intro p s k rest
  rw [exec_shxHopTimeout, execShxHopTimeout]
  refine ⟨fun holds down other => ?_, fun none_or_up => ?_⟩
  · cases sibling : siblingOf p.val with
    | none => simp only [holds, down, Bool.or_self, Bool.false_eq_true, if_false]
    | some q => simp only [holds, down, other q sibling, Bool.or_self, Bool.false_eq_true, if_false]
  · rcases none_or_up with empty | up | ⟨q, sibling, up⟩
    · simp only [empty]
    · cases held : (s.port p.val).held <;> simp only [up, Bool.true_or, if_true]
    · cases held : (s.port p.val).held <;> simp only [sibling, up, Bool.or_true, if_true]

/-- Settles O30: the nine claims. The cap of credit is DESIGN CHOICE 61, the codeword that answers DESIGN CHOICE 13, the request and the
answer of `LANE_CHANGE` DESIGN CHOICE 41. -/
theorem lanesAndCodewords : Obligations.LanesAndCodewords :=
  ⟨laneLossNarrows, laneRestoredAsks, laneDisableWrite, laneChangeFollows, widthChangesAtCodeword, laneRateRaises, codewordSequence,
    creditReturns, hopTimeoutDrops⟩

end Sys2Proof.Machine
end

section
/-! PROOFS. Packets that are dropped or only go on (O31), and the packets, aborts and timeouts of a reduction (O32, O58). -/

namespace Sys2Proof.Machine

section
variable {s : State} {k : Packet} {i : Item}

/-! ## Packets that the module does not act on (R359–R361, R364) -/

/-- A packet that repeats another is discarded, and its buffer is free. -/
theorem State.receive_again (act : State → State) (again : s.again k = true) :
    s.receive k act = (s.landed k).1.giveBack (s.landed k).2 := by
  rw [State.receive_refused act (.inl again)]
  exact if_pos again

/-- One of a reserved type is counted as well. -/
theorem State.receive_reserved (act : State → State) (fresh : s.again k = false) (reserved : knownType k.type = false) :
    s.receive k act = ((s.landed k).1.giveBack (s.landed k).2).fabricDrop := by
  rw [State.receive_refused act (.inr reserved)]
  exact if_neg (ne_true_of_eq_false fresh)

/-- A unicast packet is here at the coordinate that it names, and nowhere else. -/
theorem State.isHere_unicast (unicast : k.dstRank ≠ 0xFFFF) : s.isHere k = decide (k.dst = s.rdN .shxCoord) := if_neg unicast

/-- A packet that the fabric takes, and that is for another module, only goes on. -/
theorem State.Admits.receive_elsewhere (admits : s.Admits k) (unicast : k.dstRank ≠ 0xFFFF)
    (elsewhere : k.dst ≠ (s.allowIn k).rdN .shxCoord) (act : State → State) : s.receive k act = s.allowIn k :=
  State.receive_transit act admits.1 admits.2 (by rw [State.isHere_unicast unicast, decide_eq_false elsewhere])

/-- One in transit whose port of arrival is not given goes on as it is. -/
theorem State.allowIn_transit (unported : k.via = none) (unicast : k.dstRank ≠ 0xFFFF) (elsewhere : k.dst ≠ s.rdN .shxCoord) :
    s.allowIn k = s.forward k := by
  simp only [State.allowIn, State.landed, State.inTransit, State.passOn, unported, unicast, elsewhere, ne_eq, not_false_eq_true,
    decide_true, Bool.and_self, if_true, if_false]

/-! ## Packets that it hears (R360, R367) -/

/-- A packet that the module hears is acted on once it has gone on to where others await it. -/
theorem State.Hears.receive (heard : s.Hears k) (act : State → State) : s.receive k act = act (s.allowIn k) := by
  obtain ⟨⟨fresh, known⟩, here, good⟩ := heard
  exact State.receive_heard act fresh known here good

/-- What comes from a member to the module that it names changes nothing as it comes. -/
theorem State.ComesFromMember.allowIn (comes : s.ComesFromMember k) : s.allowIn k = s := by
  obtain ⟨unported, -, unicast, there, -⟩ := comes
  exact State.allowIn_here unported unicast there

/-- And the module hears it. -/
theorem State.ComesFromMember.hears (comes : s.ComesFromMember k) : s.HearsMember k := by
  have same := comes.allowIn
  obtain ⟨unported, known, unicast, there, good, epoch, member⟩ := comes
  refine ⟨⟨⟨State.again_none unported, known⟩, ?_, good⟩, ?_⟩
  · rw [same, State.isHere_unicast unicast, decide_eq_true there]
  · simp only [same, State.current?, epoch, member, decide_true, Bool.and_self]

/-! ## What is kept of a reduction (R367–R370, R387) -/

/-- The headers of a reduction with one more, in the place of an earlier one of its rank. -/
def State.keepHeader (s : State) (k : Packet) : State :=
  s.setColl { s.coll k.ctx k.opSeq with
    headers := ((s.coll k.ctx k.opSeq).headers.filter fun h => h.1 ≠ k.srcRank) ++ [(k.srcRank, wordsOf 8 k.data)] }

/-- Its partials and results with one more. -/
def State.keepPart (s : State) (k : Packet) : State :=
  s.setColl { s.coll k.ctx k.opSeq with parts := (s.coll k.ctx k.opSeq).parts ++ [k] }

/-- A header from a member is kept, and answered by a fenced module. -/
theorem State.HearsMember.takeHeader (heard : s.HearsMember k) :
    s.takeHeader k =
      if (s.allowIn k).rdN .fenceState = 0 then (s.allowIn k).keepHeader k
      else (s.allowIn k).send k.srcRank (mkPacket 0x14 k.ctx (wordAt k.data 0) k.opSeq []) := by
  rw [State.takeHeader, heard.receiveColl, ite_not]
  rfl

/-- A partial or a result from a member is kept, but by a fenced module. -/
theorem State.HearsMember.takePart (heard : s.HearsMember k) :
    s.takePart k = if (s.allowIn k).rdN .fenceState = 0 then (s.allowIn k).keepPart k else s.allowIn k := by
  rw [State.takePart, heard.receiveColl, ite_not]
  rfl

/-! ## Aborts (R371) -/

/-- A reduction noted as aborted, and whether for headers that disagree. -/
def State.noteAbort (s : State) (k : Packet) : State :=
  s.setColl { s.coll k.ctx k.opSeq with aborted := true, mismatch := decide (wordAt k.data 0 = 2) }

/-- The `REDUCE` that an abort names, unless it has committed. -/
def State.abortNames (s : State) (k : Packet) : Option Item :=
  s.items.find? fun i => i.ctx == k.ctx && i.desc.opcode = 9 && i.step = k.w2 && s.redOrder i = k.opSeq && i.phase ≠ .committed

/-- An abort of a reduction that is over here changes nothing. -/
theorem State.HearsMember.takeAbort_over (heard : s.HearsMember k) (ended : (s.allowIn k).redOver k.ctx k.w2 k.opSeq = true) :
    s.takeAbort k = s.allowIn k := by
  rw [State.takeAbort, heard.receiveColl, if_pos ended]

/-- Another is noted, and fails the `REDUCE` that it names. -/
theorem State.HearsMember.takeAbort_noted (heard : s.HearsMember k) (runs : (s.allowIn k).redOver k.ctx k.w2 k.opSeq = false) :
    s.takeAbort k = (((s.allowIn k).noteAbort k).abortNames k).elim ((s.allowIn k).noteAbort k) ((s.allowIn k).noteAbort k).abortHere := by
  rw [State.takeAbort, heard.receiveColl, runs, if_neg Bool.false_ne_true]
  change (match ((s.allowIn k).noteAbort k).abortNames k with | some i => _ | none => _) = _
  cases ((s.allowIn k).noteAbort k).abortNames k <;> rfl

/-- The headers of an item's reduction disagree, or its abort says so (R367; DEDUCED 48). -/
def State.HeadersDiffer (s : State) (i : Item) : Prop :=
  (s.coll i.ctx (s.redOrder i)).mismatch = true ∨
    ∃ h ∈ (s.coll i.ctx (s.redOrder i)).headers.map Prod.snd,
      redAgree h ≠ redAgree (((s.coll i.ctx (s.redOrder i)).headers.map Prod.snd).getD 0 [])

theorem State.headersDiffer_iff : s.HeadersDiffer i ↔
    ((s.coll i.ctx (s.redOrder i)).mismatch ||
      !(((s.coll i.ctx (s.redOrder i)).headers.map Prod.snd).all fun h =>
        redAgree h = redAgree (((s.coll i.ctx (s.redOrder i)).headers.map Prod.snd).getD 0 []))) = true := by
  simp only [State.HeadersDiffer, Bool.or_eq_true, Bool.not_eq_true', List.all_eq_false, decide_eq_true_eq, ne_eq]

/-- An item that is aborted fails by that. -/
theorem State.abortHere_differ (differ : s.HeadersDiffer i) : s.abortHere i = (s.dropColl i).stopItem i .mismatch := by
  rw [State.headersDiffer_iff] at differ
  simp only [State.abortHere, differ, if_true]

theorem State.abortHere_agree (agree : ¬ s.HeadersDiffer i) : s.abortHere i = (s.dropColl i).stopItem i .lost := by
  rw [State.headersDiffer_iff, Bool.not_eq_true] at agree
  simp only [State.abortHere, agree, Bool.false_eq_true, if_false]

/-- An abort of this module's own is counted. -/
theorem State.abortColl_count (s : State) (c : CtxId) (step : W64) (order reason : Nat) :
    (s.abortColl c step order reason).rdN .collAbortCnt = (s.rdN .collAbortCnt + 1) % 2 ^ 32 := by
  have told : Signals [] s (s.broadcast (mkPacket 0x14 c step order (padGranules (leBytes 8 reason)))) :=
    (Signals.refl [] s).broadcast _
  unfold State.abortColl
  generalize s.broadcast (mkPacket 0x14 c step order (padGranules (leBytes 8 reason))) = t at told
  have reported (u : State) (arg : Nat) : Signals [] u ((u.setFlag .shxStatus 0 4).raise 0x23 (some c) arg) :=
    ((Signals.refl [] u).setFlag (by simp [signalObjs]) ..).raise ..
  dsimp only [State.tally]
  rw [(reported _ _).rdN 0 0 (by decide), State.count, State.rdN_wrN_self _ (by decide), State.rdN, State.wrN,
    State.rd_wr_other _ (by decide), told.rd .collAbortCnt 0 0 (by decide)]
  rfl

/-- The `REDUCE` of a context that waits for the fabric. -/
def State.waitingReduce (s : State) (c : CtxId) : Option Item :=
  s.items.find? fun i => i.ctx == c && i.desc.opcode = 9 && (i.phase = .working || i.isParked)

/-- A timeout aborts it for all, with reason 1, and fails it. -/
theorem State.collTimeout_some {c : CtxId} (waits : s.waitingReduce c = some i) :
    s.collTimeout c = ((s.abortColl i.ctx i.step (s.redOrder i) 1).dropColl i).stopItem i .lost := by
  simp only [State.waitingReduce] at waits
  simp only [State.collTimeout, waits, State.loseColl, OfNat.one_ne_ofNat, if_false]

theorem State.collTimeout_none {c : CtxId} (idle : s.waitingReduce c = none) : s.collTimeout c = s := by
  simp only [State.waitingReduce] at idle
  simp only [State.collTimeout, idle]

end

/-! ## The claims (O31) -/

/-- Collective packets of another epoch, of no member, or damaged (R360, R367, R376). -/
theorem foreignPacketsDropped : Sys2Proof.Claim.ForeignPacketsDropped := by
  intro k s admits here foreign u
  have dropped (act : State → State) : s.receiveColl k act = u := State.receiveColl_dropped act admits.1 admits.2 here foreign
  simp only [exec_redHdr, execRedHdr, State.takeHeader, exec_redDense, execRedDense, exec_redSparse, execRedSparse, exec_redResult,
    execRedResult, State.takePart, exec_collAbort, execCollAbort, State.takeAbort, exec_commitToken, execCommitToken, exec_mismatchReport,
    execMismatchReport, exec_verdict, execVerdict, dropped, and_self]

/-- Repetitions and reserved types (R359, R361). -/
theorem repetitionsDropped : Sys2Proof.Claim.RepetitionsDropped := by
  intro k s u
  simp only [exec_commitToken, execCommitToken, State.receiveColl, exec_depotWr, execDepotWr, exec_prune, execPrune, exec_tunWr,
    execTunWr, State.fromPortal, exec_applyPrep, execApplyPrep]
  refine ⟨fun again => ?_, fun fresh reserved => ?_⟩
  · simp only [State.receive_again _ again, u, and_self]
  · simp only [State.receive_reserved _ fresh reserved, u, and_self]

/-- Packets in transit (R364). -/
theorem transitGoesOn : Sys2Proof.Claim.TransitGoesOn := by
  intro p k s unicast elsewhere
  refine ⟨fun admits other => ?_, fun admits other => congrArg _ (admits.receive_elsewhere unicast other _),
    fun unported => State.allowIn_transit unported unicast elsewhere⟩
  simp only [exec_commitToken, execCommitToken, State.receiveColl, exec_applyVote, execApplyVote, exec_depotWr, execDepotWr,
    exec_depotRd, execDepotRd, exec_prune, execPrune, admits.receive_elsewhere unicast other, and_self]

/-- Settles O31: the three claims. The epoch and the membership of a packet are R376's and R367's. -/
theorem packetsJudged : Obligations.PacketsJudged := ⟨foreignPacketsDropped, repetitionsDropped, transitGoesOn⟩

/-! ## The claims (O32) -/

/-- Headers (R367, R387; the fenced module's answer is DEDUCED 91). -/
theorem headerKept : Sys2Proof.Claim.HeaderKept := by
  intro k s heard
  rw [exec_redHdr, execRedHdr, heard.takeHeader]
  exact ⟨fun free => by rw [if_pos free]; rfl, fun fenced => by rw [if_neg fenced]⟩

/-- Partials and results (R368–R370, R387). -/
theorem partialsKept : Sys2Proof.Claim.PartialsKept := by
  intro k s heard
  simp only [exec_redDense, execRedDense, exec_redSparse, execRedSparse, exec_redResult, execRedResult, heard.takePart, and_self,
    State.keepPart, apply_ite State.kick]

/-- An abort received (R371): its reason is DESIGN CHOICE 139, the status for headers that disagree DEDUCED 48. -/
theorem abortFailsReduce : Sys2Proof.Claim.AbortFailsReduce := by
  intro k s heard u v named
  rw [exec_collAbort, execCollAbort]
  refine ⟨fun ended => ?_, fun runs none_named => ?_, fun i runs names => ?_⟩
  · rw [heard.takeAbort_over ended]
  · rw [heard.takeAbort_noted runs, show ((s.allowIn k).noteAbort k).abortNames k = none from none_named]; rfl
  · rw [heard.takeAbort_noted runs, show ((s.allowIn k).noteAbort k).abortNames k = some i from names]
    exact ⟨fun differ => congrArg (Host.Outcome.next ∘ State.kick) (State.abortHere_differ differ),
      fun agree => congrArg (Host.Outcome.next ∘ State.kick) (State.abortHere_agree agree)⟩

/-- The timeout of a `REDUCE` (R371). -/
theorem collTimeoutAborts : Sys2Proof.Claim.CollTimeoutAborts := fun _ _ =>
  ⟨fun _ waits => congrArg _ (State.collTimeout_some waits), fun idle => congrArg _ (State.collTimeout_none idle)⟩

/-- Settles O32: the four claims. The reason in the data of `COLL_ABORT` is DESIGN CHOICE 139, `STEP_MISMATCH` on an abort that was
received DEDUCED 48, and the answer of a fenced module DEDUCED 91. -/
theorem reductions : Obligations.Reductions := ⟨headerKept, partialsKept, abortFailsReduce, collTimeoutAborts⟩

/-! ## The claims (O58) -/

/-- Packets that come from a member (R367–R370, R387). -/
theorem reductionPacketsComplete : Sys2Proof.Claim.ReductionPacketsComplete := by
  intro k s comes
  simp only [exec_redHdr, execRedHdr, exec_redDense, execRedDense, exec_redSparse, execRedSparse, exec_redResult, execRedResult,
    comes.hears.takePart, comes.hears.takeHeader, comes.allowIn]
  refine ⟨fun free => ?_, fun fenced => ?_⟩
  · simp only [if_pos free, State.keepHeader, State.keepPart, and_self]
  · simp only [if_neg fenced, and_self]

/-- Aborts that come from a member, and the timeout (R371). -/
theorem abortsComplete : Sys2Proof.Claim.AbortsComplete := by
  refine ⟨?_, fun c s i waits => ⟨congrArg _ (State.collTimeout_some waits), State.abortColl_count ..⟩⟩
  intro k s i comes runs t names
  have noted := comes.hears.takeAbort_noted (by rw [comes.allowIn]; exact runs)
  rw [comes.allowIn, show (s.noteAbort k).abortNames k = some i from names] at noted
  rw [exec_collAbort, execCollAbort, noted]
  rfl

/-- Settles O58: the two claims, with the choices that O32 names (DESIGN CHOICE 139, DEDUCED 48 and 91). -/
theorem reductionsComplete : Obligations.ReductionsComplete := ⟨reductionPacketsComplete, abortsComplete⟩

end Sys2Proof.Machine
end

section
/-! PROOFS. A change of the whole domain: its start, the votes, the decision, and the instant (O35, O36). -/

namespace Sys2Proof.Machine

section
variable {s : State} {k : Packet} {d : DomApply}

/-! ## The start at the holder (R376) -/

/-- What a `DOMAIN_APPLY` must meet: the holder's, of a form that exists, with no change under way and no image armed, and for the time
form beyond the guard and without a change of membership. -/
def State.MayStart (s : State) (form : Byte) (arg : W64) : Prop :=
  s.isHolder = true ∧ form.toNat ≤ 1 ∧ s.fabric.apply = none ∧ s.mgmt.armed = none ∧
    (form.toNat = 1 → s.rdN .globalTime + s.rdN .shxApplyGuard ≤ arg.toNat ∧ s.changesMembers = false)

/-- The form of a `DOMAIN_APPLY`. -/
def applyForm (w0 : W64) : Byte := (w0 >>> 32).truncate 8

/-- Its `APPLY_PREP` broadcast. -/
def State.announce (s : State) (w0 w1 : W64) : State :=
  s.nextOp.2.broadcast (mkPacket 0x21 0 0 s.fabric.opSeq.toNat (bytesOf [w0, w1]))

/-- One that meets all of it is announced, and the holder prepares and votes. -/
theorem State.domStart_starts {w0 w1 : W64} (may : s.MayStart (applyForm w0) w1) :
    s.domStart w0 w1 =
      let r := (s.announce w0 w1).prepare (w0.truncate 32) (applyForm w0) w1 true
      (.ok, r.2.takeVote (r.2.rdN .shxRank) (w0.truncate 32) (BitVec.ofNat 32 r.1)) := by
  obtain ⟨holder, form, free, disarmed, timed⟩ := may
  have isTime : applyForm w0 = 1 → (applyForm w0).toNat = 1 := fun e => by rw [e]; rfl
  have beyond : ¬ ((decide (applyForm w0 = 1) && decide (w1.toNat < s.rdN .globalTime + s.rdN .shxApplyGuard)) = true) := by
    simp only [Bool.and_eq_true, decide_eq_true_eq]
    exact fun h => Nat.not_lt.mpr (timed (isTime h.1)).1 h.2
  have members : ¬ ((decide (applyForm w0 = 1) && s.changesMembers) = true) := by
    simp only [Bool.and_eq_true, decide_eq_true_eq]
    exact fun h => Bool.false_ne_true ((timed (isTime h.1)).2.symm.trans h.2)
  simp only [applyForm] at form
  simp only [State.domStart, holder, Nat.not_lt.mpr form, free, disarmed, Bool.not_true, Option.isSome_none, Bool.or_self,
    Bool.false_eq_true, if_false]
  exact (if_neg beyond).trans (if_neg members)

/-- One that breaks any of it is refused. -/
theorem State.domStart_refused {w0 w1 : W64} (not : ¬ s.MayStart (applyForm w0) w1) :
    settle (s.domStart w0 w1) = s.tally .igcorRefuseCnt 0 .igcorStatus 0 2 := by
  unfold State.domStart
  dsimp only
  split_ifs with guest form busy near members
  case neg =>
    simp only [Bool.not_eq_true', Bool.not_eq_false, Nat.not_lt, Bool.or_eq_true, Option.isSome_iff_ne_none, not_or, not_not,
      Bool.and_eq_true, decide_eq_true_eq, not_and, Bool.not_eq_true] at guest form busy near members
    have isTime (h : (applyForm w0).toNat = 1) : applyForm w0 = 1 := BitVec.eq_of_toNat_eq h
    exact absurd ⟨guest, form, busy.1, busy.2, fun time => ⟨near (isTime time), members (isTime time)⟩⟩ not
  all_goals rfl

/-! ## Votes (R376) -/

/-- A vote at the holder of an undecided change is kept in the place of an earlier one of its rank. -/
theorem State.takeVote_kept {rank : Nat} {rule : W32} (change : s.fabric.apply = some d) (holder : d.holder = true)
    (undecided : d.decided = none) :
    s.takeVote rank d.id rule =
      let votes := (rank, rule) :: d.votes.filter fun v => v.1 ≠ rank
      let t := s.setDom (some { d with votes := votes })
      if (t.memberList.all fun r => votes.any fun v => v.1 = r) = true then t.decideVotes else t := by
  simp only [State.takeVote, change, holder, undecided, Bool.not_true, ne_eq, not_true_eq_false, decide_false, Option.isSome_none,
    Bool.or_self, Bool.false_eq_true, if_false]

/-- Any other vote does nothing. -/
theorem State.takeVote_other {rank : Nat} {id rule : W32} (change : s.fabric.apply = some d)
    (other : d.holder = false ∨ d.id ≠ id ∨ d.decided ≠ none) : s.takeVote rank id rule = s := by
  simp only [State.takeVote, change]
  refine if_pos ?_
  simpa only [Bool.or_eq_true, Bool.not_eq_true', decide_eq_true_eq, Option.isSome_iff_ne_none, or_assoc] using other

theorem State.takeVote_none {rank : Nat} {id rule : W32} (change : s.fabric.apply = none) : s.takeVote rank id rule = s := by
  simp only [State.takeVote, change]

/-! ## The decision of the holder (R376) -/

/-- The votes of a change that refuse it. -/
def DomApply.refusals (d : DomApply) : List (Nat × W32) := d.votes.filter fun v => v.2 ≠ 0

/-- One more refusal seen: the lower rank stands. -/
def lowerRefusal (a : Nat × Nat) (v : Nat × W32) : Nat × Nat := if v.1 < a.1 then (v.1, v.2.toNat) else a

/-- Every member of the epoch has voted. -/
def State.allVoted (s : State) (d : DomApply) : Bool := s.memberList.all fun r => d.votes.any fun v => v.1 = r

theorem State.allVoted_iff : s.allVoted d = true ↔ ∀ r ∈ s.memberList, ∃ v ∈ d.votes, v.1 = r := by
  simp only [State.allVoted, List.all_eq_true, List.any_eq_true, decide_eq_true_eq]

theorem DomApply.refusals_eq_nil_iff : d.refusals = [] ↔ ∀ v ∈ d.votes, v.2 = 0 := by
  simp only [DomApply.refusals, List.filter_eq_nil_iff, decide_eq_true_eq, not_not]

/-- The holder of an undecided change decides by the votes that it has. -/
theorem State.decideVotes_eq (change : s.fabric.apply = some d) (holder : d.holder = true) (undecided : d.decided = none) :
    s.decideVotes =
      if s.allVoted d = true ∧ d.refusals = [] then
        (s.nextOp.2.broadcast (mkPacket 0x23 0 (goArg d.id false) s.fabric.opSeq.toNat [])).domGo d.id
      else
        (s.nextOp.2.broadcast (mkPacket 0x23 0 (goArg d.id true) s.fabric.opSeq.toNat [])).domCancel d.id
          (d.refusals.foldl lowerRefusal (0xFFFF, 0)).1 (d.refusals.foldl lowerRefusal (0xFFFF, 0)).2 := by
  have undone : (!d.holder || d.decided.isSome) = false := by simp only [holder, undecided, Bool.not_true, Option.isSome_none, Bool.or_self]
  have go : (s.allVoted d && d.refusals.isEmpty) = true ↔ s.allVoted d = true ∧ d.refusals = [] := by
    rw [Bool.and_eq_true, List.isEmpty_iff]
  simp only [← go]
  simp only [State.decideVotes, change, undone, Bool.false_eq_true, if_false]
  rfl

/-- A refusal stands while none of a lower rank follows. -/
theorem foldl_lowerRefusal_of_le {a : Nat × Nat} {l : List (Nat × W32)} (least : ∀ w ∈ l, a.1 ≤ w.1) : l.foldl lowerRefusal a = a := by
  induction l with
  | nil => rfl
  | cons w l ih =>
    rw [List.forall_mem_cons] at least
    rw [List.foldl_cons, lowerRefusal, if_neg (Nat.not_lt.mpr least.1), ih least.2]

/-- Among refusals of higher ranks the lowest one is found. -/
theorem foldl_lowerRefusal_of_lowest {v : Nat × W32} {l : List (Nat × W32)} {a : Nat × Nat} (mem : v ∈ l) (below : v.1 < a.1)
    (lowest : ∀ w ∈ l, w = v ∨ v.1 < w.1) : l.foldl lowerRefusal a = (v.1, v.2.toNat) := by
  induction l generalizing a with
  | nil => exact absurd mem (List.not_mem_nil)
  | cons w l ih =>
    rw [List.forall_mem_cons] at lowest
    obtain ⟨head, tail⟩ := lowest
    rw [List.foldl_cons]
    by_cases same : w = v
    · rw [same, lowerRefusal, if_pos below]
      exact foldl_lowerRefusal_of_le fun x hx => (tail x hx).elim (fun e => e ▸ le_rfl) le_of_lt
    · have later : v ∈ l := (List.mem_cons.mp mem).resolve_left (Ne.symm same)
      have higher : v.1 < w.1 := head.resolve_left same
      refine ih later ?_ tail
      unfold lowerRefusal
      split <;> assumption

/-! ## A member's vote (R376, R387) -/

/-- A vote sent to the rank that asked for it. -/
def State.sendVote (s : State) (k : Packet) (rule : Nat) : State :=
  s.nextOp.2.send k.srcRank (mkPacket 0x22 0 (voteArg ((wordAt k.data 0).truncate 32) rule) s.fabric.opSeq.toNat [])

/-- A member that is not fenced prepares, and votes as it finds. -/
theorem State.takePrep_prepares (unfenced : s.rdN .fenceState = 0) (free : s.fabric.apply = none) :
    s.takePrep k =
      let r := s.prepare ((wordAt k.data 0).truncate 32) (applyForm (wordAt k.data 0)) (wordAt k.data 1) false
      r.2.sendVote k r.1 := by
  simp only [State.takePrep, unfenced, free, ne_eq, not_true_eq_false, if_false, Option.isSome_none, Bool.false_eq_true, applyForm,
    State.sendVote, State.nextOp]

/-- While an earlier change stands it votes a refusal (DESIGN CHOICE 37). -/
theorem State.takePrep_busy (unfenced : s.rdN .fenceState = 0) (busy : s.fabric.apply ≠ none) :
    s.takePrep k = s.sendVote k 0xFFFFFFFF := by
  have busy : s.fabric.apply.isSome = true := Option.isSome_iff_ne_none.mpr busy
  simp only [State.takePrep, unfenced, busy, ne_eq, not_true_eq_false, if_false, if_true, State.sendVote, State.nextOp]

/-! ## A member's part in the decision (R376, R401, R449, R453) -/

/-- A member that is ready holds a go, unless its instant has come. -/
theorem State.domGo_held (change : s.fabric.apply = some d) (ready : d.prepared = true) (waits : d.form ≠ 0 ∨ s.quiet d.arg = false) :
    s.domGo d.id = s.setDom (some { d with decided := some true }) := by
  have not_due : ¬ (decide (d.form = 0) && s.quiet d.arg) = true := by
    simp only [Bool.and_eq_true, decide_eq_true_eq, not_and, Bool.not_eq_true]
    exact fun form => waits.resolve_left (not_not.mpr form)
  simp only [State.domGo, change, ready, not_due, ne_eq, not_true_eq_false, decide_false, Bool.not_true, Bool.or_self,
    Bool.false_eq_true, if_false]

/-- A change whose step is past takes effect at once. -/
theorem State.domGo_fires (change : s.fabric.apply = some d) (ready : d.prepared = true) (form : d.form = 0)
    (quiet : s.quiet d.arg = true) : s.domGo d.id = s.domFire d := by
  simp only [State.domGo, change, ready, form, quiet, ne_eq, not_true_eq_false, decide_false, decide_true, Bool.not_true, Bool.or_self,
    Bool.and_self, Bool.false_eq_true, if_false, if_true]

/-- A go for another change, or at a member that was not ready, does nothing. -/
theorem State.domGo_other {id : W32} (change : s.fabric.apply = some d) (other : d.id ≠ id ∨ d.prepared = false) : s.domGo id = s := by
  simp only [State.domGo, change]
  refine if_pos ?_
  simpa only [Bool.or_eq_true, Bool.not_eq_true', decide_eq_true_eq] using other

theorem State.domGo_none {id : W32} (free : s.fabric.apply = none) : s.domGo id = s := by simp only [State.domGo, free]

/-- The staged image of a change discarded, with a new generation. -/
def State.discardImage (s : State) : State := (s.discardScope 0x10).bumpGen

/-- A cancelled change counted and raised, with the generation of the image. -/
def State.tellCancel (s : State) : State :=
  let w := s.tally .applyCancelCnt 0 .igcorStatus 0 4
  w.raise 0x31 none (w.rdN .stageGen % 2 ^ 24 * 256 + 0x10)

/-- A cancel at a member that was ready disarms its image, discards it, and tells. -/
theorem State.domCancel_ready (change : s.fabric.apply = some d) (ready : d.prepared = true) (rank rule : Nat) :
    s.domCancel d.id rank rule = ((s.setDom none).disarm.discardImage.tellCancel).domResult d.id 3 rank rule := by
  simp only [State.domCancel, change, ready, ne_eq, not_true_eq_false, if_false, if_true]
  rfl

/-- At one that refused the image is discarded alone (DESIGN CHOICE 75). -/
theorem State.domCancel_refused (change : s.fabric.apply = some d) (refused : d.prepared = false)
    (disarmed : (s.setDom none).mgmt.armed = none) (rank rule : Nat) :
    s.domCancel d.id rank rule = (s.setDom none).discardImage.domResult d.id 3 rank rule := by
  simp only [State.domCancel, change, refused, disarmed, Option.isSome_none, Bool.false_eq_true, ne_eq, not_true_eq_false, if_false]
  rfl

/-- One that is armed for something else keeps its image. -/
theorem State.domCancel_armed (change : s.fabric.apply = some d) (refused : d.prepared = false)
    (armed : (s.setDom none).mgmt.armed ≠ none) (rank rule : Nat) :
    s.domCancel d.id rank rule = (s.setDom none).domResult d.id 3 rank rule := by
  have armed : (s.setDom none).mgmt.armed.isSome = true := Option.isSome_iff_ne_none.mpr armed
  simp only [State.domCancel, change, refused, armed, Bool.false_eq_true, ne_eq, not_true_eq_false, if_false, if_true]

/-- A cancel of another change does nothing. -/
theorem State.domCancel_other {id : W32} (change : s.fabric.apply = some d) (other : d.id ≠ id) (rank rule : Nat) :
    s.domCancel id rank rule = s := by
  simp only [State.domCancel, change, other, ne_eq, not_false_eq_true, if_true]

theorem State.domCancel_none {id : W32} (free : s.fabric.apply = none) (rank rule : Nat) : s.domCancel id rank rule = s := by
  simp only [State.domCancel, free]

/-- A go that the module hears. -/
theorem State.Hears.takeGo_go (heard : s.Hears k) (go : bit 63 k.w2 = false) : s.takeGo k = (s.allowIn k).domGo (k.w2.truncate 32) := by
  rw [State.takeGo, heard.receive, go, if_neg Bool.false_ne_true]

/-- A cancel that it hears. -/
theorem State.Hears.takeGo_cancel (heard : s.Hears k) (cancel : bit 63 k.w2 = true) :
    s.takeGo k = (s.allowIn k).domCancel (k.w2.truncate 32) 0 0 := by
  rw [State.takeGo, heard.receive, if_pos cancel]

end

/-! ## The claims (O35) -/

/-- The write of `DOMAIN_APPLY` (R376). -/
theorem domainApplyStarts : Sys2Proof.Claim.DomainApplyStarts := by
  intro w0 w1 s form t r
  rw [exec_domainApply, execDomainApply]
  refine ⟨fun holder known free disarmed timed => ?_, fun broken => congrArg _ (State.domStart_refused fun may => ?_)⟩
  · rw [State.domStart_starts ⟨holder, known, free, disarmed, timed⟩, settle_ok]
    rfl
  · obtain ⟨holder, known, free, disarmed, timed⟩ := may
    rcases broken with guest | unknown | busy | armed | ⟨time, near | members⟩
    · exact Bool.false_ne_true (guest.symm.trans holder)
    · exact Nat.not_lt.mpr known unknown
    · exact busy free
    · exact armed disarmed
    · exact Nat.not_lt.mpr (timed time).1 near
    · exact Bool.false_ne_true ((timed time).2.symm.trans members)

/-- An `APPLY_PREP` at a member (R376, R387). -/
theorem prepareVotes : Sys2Proof.Claim.PrepareVotes := by
  intro k s heard u w0 r vote
  have sent (v : State) (rule : Nat) : v.sendVote k rule = vote v rule := rfl
  rw [exec_applyPrep, execApplyPrep, heard.receive]
  refine ⟨fun unfenced free => ?_, fun unfenced busy => ?_, fun fenced => congrArg _ (if_pos fenced)⟩
  · rw [State.takePrep_prepares unfenced free, ← sent]
    rfl
  · rw [State.takePrep_busy unfenced busy, sent]

/-- An `APPLY_VOTE` at the holder (R376). -/
theorem voteCollected : Sys2Proof.Claim.VoteCollected := by
  intro k s d heard
  rw [exec_applyVote, execApplyVote, heard.receive]
  refine ⟨fun change holder same undecided => ?_, fun change other => congrArg _ (State.takeVote_other change other),
    fun free => congrArg _ (State.takeVote_none free)⟩
  rw [← same, State.takeVote_kept change holder undecided]

/-- The holder's deadline (R376). -/
theorem deadlineDecides : Sys2Proof.Claim.DeadlineDecides := by
  intro s d change holder undecided t op
  rw [exec_applyVoteDeadline, execApplyVoteDeadline, State.voteDeadline, State.decideVotes_eq change holder undecided]
  refine ⟨fun all agreed => ?go, fun v mem refuses ranked lowest => ?refused, fun missing => ?missing⟩
  case go => rw [if_pos ⟨State.allVoted_iff.mpr all, DomApply.refusals_eq_nil_iff.mpr agreed⟩]; rfl
  case refused =>
    rw [if_neg fun go => refuses (DomApply.refusals_eq_nil_iff.mp go.2 v mem), foldl_lowerRefusal_of_lowest (v := v)]
    · rfl
    · exact List.mem_filter.mpr ⟨mem, decide_eq_true refuses⟩
    · exact ranked
    · intro w hw
      obtain ⟨voted, refusal⟩ := List.mem_filter.mp hw
      exact lowest w voted (of_decide_eq_true refusal)
  case missing =>
    obtain ⟨⟨r, member, silent⟩, agreed⟩ := missing
    rw [if_neg fun go => (State.allVoted_iff.mp go.1 r member).elim fun v hv => silent v hv.1 hv.2,
      DomApply.refusals_eq_nil_iff.mpr agreed]
    rfl

/-- Settles O35: the four claims. The coding of the packets and the refusals of a second change and of the time form are DESIGN
CHOICE 37; rank 0xFFFF for a missing vote is the model's choice with it. -/
theorem domainPrepared : Obligations.DomainPrepared := ⟨domainApplyStarts, prepareVotes, voteCollected, deadlineDecides⟩

/-! ## The claims (O36) -/

/-- A go at a member (R376, R401). -/
theorem goHeld : Sys2Proof.Claim.GoHeld := by
  intro k s d heard go
  rw [exec_applyGo, execApplyGo, heard.takeGo_go go]
  exact ⟨fun change same ready waits => congrArg _ (same ▸ State.domGo_held change ready waits),
    fun change same ready form quiet => congrArg _ (same ▸ State.domGo_fires change ready form quiet),
    fun change other => congrArg _ (State.domGo_other change other), fun free => congrArg _ (State.domGo_none free)⟩

/-- A cancel at a member (R376, R449, R453; DESIGN CHOICE 75). -/
theorem cancelDiscards : Sys2Proof.Claim.CancelDiscards := by
  intro k s d heard cancel
  rw [exec_applyGoCancel, execApplyGoCancel, heard.takeGo_cancel cancel]
  exact ⟨fun change same ready => congrArg _ (same ▸ State.domCancel_ready change ready 0 0),
    fun change same refused disarmed => congrArg _ (same ▸ State.domCancel_refused change refused disarmed 0 0),
    fun change same refused armed => congrArg _ (same ▸ State.domCancel_armed change refused armed 0 0),
    fun change other => congrArg _ (State.domCancel_other change other 0 0), fun free => congrArg _ (State.domCancel_none free 0 0)⟩

/-- The instant of a time-form change (R376; at no other instant, DESIGN CHOICE 137). -/
theorem instantApplies : Sys2Proof.Claim.InstantApplies := by
  intro s d change form ready
  rw [exec_domainApplyInstant, execDomainApplyInstant]
  simp only [State.domInstant, change, form, ready, ne_eq, not_true_eq_false, decide_false, Bool.not_true, Bool.or_self, Bool.false_or,
    decide_not, Bool.not_eq_true', decide_eq_false_iff_not]
  refine ⟨fun due go => ?_, fun due undecided => ?_, fun early => congrArg _ (if_pos early)⟩
  · simp only [due, go, not_true_eq_false, if_false, if_true]
  · simp only [due, undecided, not_true_eq_false, if_false, reduceCtorEq]

/-- Settles O36: the three claims. That a member which refused discards without a count is DESIGN CHOICE 75, that a change applies at
no time but its own DESIGN CHOICE 137, and the coding of identifier and cancel bit DESIGN CHOICE 37. -/
theorem domainDecided : Obligations.DomainDecided := ⟨goHeld, cancelDiscards, instantApplies⟩

end Sys2Proof.Machine
end

section
/-! PROOFS. The time of the fabric, and lines of multicast at their receivers (O37). -/

namespace Sys2Proof.Machine

section
variable {s : State} {k : Packet} {p : Nat}

/-! ## Time (R377) -/

/-- A lag of at most 64 SCLK cycles is slewed away. -/
theorem State.discipline_slews {lag : Int} (small : lag.natAbs ≤ 64 * 68) (sign : Int) :
    s.discipline lag sign = { s with fabric := { s.fabric with slew := lag } } := if_pos small

/-- A larger one is removed at once. -/
theorem State.discipline_steps {lag : Int} (large : 64 * 68 < lag.natAbs) (sign : Int) :
    s.discipline lag sign = s.stepTime (lag.tdiv 68) (sign * lag.tdiv 68) := if_neg (Nat.not_le.mpr large)

/-! ## Lines (R373, R374) -/

/-- A port that holds no line has none to try again. -/
theorem State.retryMcast_empty (empty : (s.port p).mcast = []) : s.retryMcast p = s := by
  simp only [State.retryMcast, empty, List.isEmpty_nil, if_true]

/-- A write to memory leaves the lines that ports hold. -/
theorem State.poke_mcast (s : State) (pa : Nat) (bs : List Byte) (p : Nat) : ((s.poke pa bs).port p).mcast = (s.port p).mcast := by
  obtain ⟨u, told, written⟩ := s.poke_eq pa bs
  rw [written, State.put_port]
  exact congrArg Prod.snd (told.links p)

/-- A program that begins anew at a receiver leaves the lines that its ports hold. -/
theorem State.unprune_mcast (k : Packet) (ring : Nat) : ((s.unprune k ring).port p).mcast = (s.port p).mcast := by
  unfold State.unprune
  dsimp only
  split
  · exact State.poke_mcast ..
  · rfl

/-- A line for no ring of the module is none of its own. -/
theorem State.takeLine_elsewhere (empty : (s.port p).mcast = []) (elsewhere : s.mcastRing k = none) : s.takeLine p k = s := by
  simp only [State.takeLine, State.retryMcast_empty empty, elsewhere]

/-- One of a program that the module has pruned itself from is discarded. -/
theorem State.takeLine_pruned {ring : Nat} (empty : (s.port p).mcast = []) (here : s.mcastRing k = some ring)
    (pruned : s.isPruned k = true) : s.takeLine p k = s := by
  simp only [State.takeLine, State.retryMcast_empty empty, here, pruned, if_true]

/-- Any other is written where its ring has room, and held where it has none. -/
theorem State.takeLine_delivered {ring : Nat} (empty : (s.port p).mcast = []) (here : s.mcastRing k = some ring)
    (awaited : s.isPruned k = false) :
    s.takeLine p k =
      let u := s.unprune k ring
      (u.mcastWrite ring k).getD (u.setPort p { u.port p with mcast := (u.port p).mcast.concat k }) := by
  have held : ((s.unprune k ring).port p).mcast = [] := (State.unprune_mcast k ring).trans empty
  simp only [State.takeLine, State.retryMcast_empty empty, here, awaited, held, List.any_nil, Bool.false_eq_true, if_false,
    List.length_nil, show ¬ 64 ≤ 0 by decide]
  cases (s.unprune k ring).mcastWrite ring k <;> rfl

end

/-! ## The claims (O37) -/

/-- The offset to the parent (R377); the rounding and the saturation are DESIGN CHOICE 64. -/
theorem timeOffsetMeasured : Sys2Proof.Claim.TimeOffsetMeasured := by
  intro t1 t2 t3 t4 s offset u v
  have source : v.rdN .timeSource = s.rdN .timeSource :=
    congrArg BitVec.toNat (State.rd_wr_other s (o := .timeOffset) (by decide) 0 0 0 0 _)
  have acts : exec (.shxTimePacket t1 t2 t3 t4) s =
      if v.rdN .timeSource = 1 then .next (v.discipline offset 1) else .next v := rfl
  rw [acts, source]
  refine ⟨fun reported => if_neg reported, fun follows small => ?_, fun follows large => ?_⟩
  · rw [if_pos follows, State.discipline_slews small]
  · rw [if_pos follows, State.discipline_steps large]

/-- The exchange on the edges of the tree (R377; DESIGN CHOICE 113, DESIGN CHOICE 135). -/
theorem timeExchangeSends : Sys2Proof.Claim.TimeExchangeSends := by
  intro s
  rw [exec_shxTimeExchange]
  refine ⟨fun none_there => ?_, fun root there => ⟨fun is_root => ?_, fun d minus parent => ?_⟩⟩
  · simp only [execShxTimeExchange, none_there]
  · simp only [execShxTimeExchange, there, is_root]
  · simp only [execShxTimeExchange, there, parent, State.stamp, State.freeW]
    rfl

/-- A line at a receiver (R373, R374; DESIGN CHOICE 42). -/
theorem lineDelivered : Sys2Proof.Claim.LineDelivered := by
  intro p k s k' u heard empty
  have acts : exec (.mcast p k) s = .next (u.takeLine p.val k) := congrArg _ (heard.receive _)
  rw [acts]
  refine ⟨fun elsewhere => ?_, fun ring here => ⟨fun pruned => ?_, fun t awaited room => ?_, fun awaited full => ?_⟩⟩
  · rw [State.takeLine_elsewhere empty elsewhere]
  · rw [State.takeLine_pruned empty here pruned]
  · rw [State.takeLine_delivered empty here awaited]
    simp only [room, Option.getD_some]
  · rw [State.takeLine_delivered empty here awaited]
    simp only [full, Option.getD_none]

/-- The timeout of a held line (R374). -/
theorem oldLinePrunes : Sys2Proof.Claim.OldLinePrunes := by
  intro p s k rest
  rw [exec_mcastPruneTimeout]
  refine ⟨fun oldest still => ?_, fun still younger => ?_, fun empty => ?_⟩
  · simp only [execMcastPruneTimeout, still, oldest, if_true]
  · simp only [execMcastPruneTimeout, still, Ne.symm younger, if_false]
  · simp only [execMcastPruneTimeout, empty]

/-- A `PRUNE` at the source (R374). -/
theorem pruneCounted : Sys2Proof.Claim.PruneCounted := fun _ _ heard => congrArg _ (heard.receive _)

/-- Settles O37: the five claims. Halves, steps and saturation of the offset are DESIGN CHOICE 64, the answers to the children in the
exchange DESIGN CHOICE 135, and the receiver's own table entry DESIGN CHOICE 42. -/
theorem timeAndMulticast : Obligations.TimeAndMulticast :=
  ⟨timeOffsetMeasured, timeExchangeSends, lineDelivered, oldLinePrunes, pruneCounted⟩

end Sys2Proof.Machine
end

section
/-! PROOFS. Tunnels between a portal and its members, and requests cut on the module's own link (O45). -/

namespace Sys2Proof.Machine

section
variable {s : State} {k : Packet} {act : State → State} {f : CtxId}

/-! ## Who may send what (R379, R426) -/

/-- A member acts on what it hears from its portal. -/
theorem State.Hears.fromPortal (heard : s.Hears k) (member : (s.allowIn k).isMemberMode = true)
    (portal : k.srcRank = (s.allowIn k).portalRank) : s.fromPortal k act = act (s.allowIn k) := by
  rw [State.fromPortal, heard.receive]
  exact if_pos (by rw [member, decide_eq_true portal]; rfl)

/-- What another sends it is discarded and counted. -/
theorem State.Hears.fromPortal_strange (heard : s.Hears k) (member : (s.allowIn k).isMemberMode = true)
    (strange : k.srcRank ≠ (s.allowIn k).portalRank) :
    s.fromPortal k act = (s.allowIn k).tally .tunnelRejectCnt 0 .hostStatus 0 1 := by
  rw [State.fromPortal, heard.receive]
  refine (if_neg ?_).trans (if_pos member)
  rw [decide_eq_false strange, Bool.and_false]
  exact Bool.false_ne_true

/-- A portal acts on what it hears from a member of its group. -/
theorem State.Hears.fromMember {i : Nat} {act : State → Nat → State} (heard : s.Hears k) (portal : (s.allowIn k).rdN .portalMode = 1)
    (group : (s.allowIn k).groupIndex k.srcRank = some i) : s.fromMember k act = act (s.allowIn k) i := by
  simp only [State.fromMember, heard.receive, portal, group, if_true]

/-- A function that is enabled, with its bus mastering on, may make requests. -/
theorem State.masters_iff : s.masters f = true ↔ s.fnOn f = true ∧ s.pcie.busOff.getLsbD f.val = false := by
  simp only [State.masters, Bool.and_eq_true, Bool.not_eq_true']

/-! ## Requests cut (R429) -/

/-- Outputs sent one after another stand behind those before them, in their order. -/
theorem State.foldl_emit_out {α : Type} (g : α → Output) (l : List α) (s : State) :
    (l.foldl (fun t x => t.emit (g x)) s).out = s.out ++ l.map g := by
  induction l generalizing s with
  | nil => simp
  | cons x l ih => rw [List.foldl_cons, ih, State.emit_out, List.map_cons, List.append_assoc, List.singleton_append]

/-- A list made from the numbers below n, with its positions. -/
theorem zipIdx_map_range {α : Type} (g : Nat → α) (n : Nat) :
    ((List.range n).map g).zipIdx = (List.range n).map fun k => (g k, k) := by
  apply List.ext_getElem <;> simp

/-- What fits one request is one request. -/
theorem ceilDiv_eq_one {a b : Nat} (pos : 0 < a) (fits : a ≤ b) : ceilDiv a b = 1 := by
  unfold ceilDiv
  exact Nat.div_eq_of_lt_le (by omega) (by omega)

/-- The requests hold all that is asked for. -/
theorem le_mul_ceilDiv {a b : Nat} (pos : 0 < b) : a ≤ b * ceilDiv a b := by
  have step := Nat.lt_div_mul_add (a := a + b - 1) pos
  unfold ceilDiv
  rw [Nat.mul_comm]
  omega

/-- The parts of bytes at a size, one behind the other, are the bytes from the start on. -/
theorem flatten_parts (data : List Byte) (m n : Nat) :
    ((List.range n).map fun k => (data.drop (m * k)).take m).flatten = data.take (m * n) := by
  induction n with
  | zero => simp
  | succ n ih => rw [List.range_succ, List.map_append, List.flatten_append, ih, Nat.mul_succ, List.take_add]; simp

/-- The lengths of the parts of a length at a size add up to it. -/
theorem sum_parts (len m n : Nat) : ((List.range n).map fun k => min m (len - m * k)).sum = min (m * n) len := by
  induction n with
  | zero => simp
  | succ n ih =>
    rw [List.range_succ, List.map_append, List.sum_append, ih, Nat.mul_succ]
    simp only [List.map_cons, List.map_nil, List.sum_cons, List.sum_nil]
    omega

end

/-! ## The claims (O45) -/

/-- A member's own portal (R379, R426; the coding is DESIGN CHOICE 14). -/
theorem memberServesTunnel : Sys2Proof.Claim.MemberServesTunnel := by
  intro k s heard u data len member portal
  rw [exec_tunWr, exec_tunRd, execTunWr, execTunRd, heard.fromPortal member portal, heard.fromPortal member portal]
  exact ⟨fun window => ⟨congrArg _ (if_pos window), congrArg _ (if_pos window)⟩,
    fun page => ⟨congrArg _ (if_neg page), congrArg _ (if_neg page)⟩⟩

/-- Tunnel packets of a stranger (R426). -/
theorem strangeTunnelRejected : Sys2Proof.Claim.StrangeTunnelRejected := by
  intro k s heard member strange t
  refine ⟨congrArg _ (heard.fromPortal_strange member strange), congrArg _ (heard.fromPortal_strange member strange), ?_⟩
  rw [exec_tunCpl, execTunCpl, heard.receive]
  simp only [member, strange, if_true, decide_false, Bool.not_false, State.tunnelReject, t]

/-- The completion of a read through a tunnel (R379). -/
theorem completionEndsRead : Sys2Proof.Claim.CompletionEndsRead := by
  intro k s x heard u from_ names
  rw [exec_tunCpl, execTunCpl, heard.receive]
  rcases from_ with ⟨member, portal⟩ | ⟨not_member, group, portal⟩
  · simp only [u] at member portal names
    simp only [member, portal, names, if_true, decide_true, Bool.not_true, Bool.false_eq_true, if_false, u]
  · simp only [u] at not_member group portal names
    simp only [not_member, group, portal, names, Bool.false_eq_true, if_false, decide_true, Bool.and_self, Bool.not_true, u]

/-- A member's own requests at its portal (R379, R426). -/
theorem portalServesMember : Sys2Proof.Claim.PortalServesMember := by
  intro k hostData s i heard u len on portal group
  simp only [exec_tunDmaRd, exec_tunDmaWr, exec_tunIrq, execTunDmaRd, execTunDmaWr, execTunIrq, heard.fromMember portal group]
  refine ⟨fun may whole => ?_, fun not => ?_⟩
  · have may : (s.allowIn k).masters k.ctx = true := State.masters_iff.mpr may
    simp only [may, Bool.not_true, Bool.false_eq_true, if_false, if_true, Option.bind_some, Option.bind_none]
    rw [if_pos whole]
    exact ⟨rfl, rfl, rfl, rfl⟩
  · have not : (s.allowIn k).masters k.ctx = false := Bool.eq_false_iff.mpr (mt State.masters_iff.mp not)
    simp only [not, Bool.not_false, Bool.false_eq_true, if_false, if_true, and_self, u]

/-- Requests at the sizes of the link (R429). -/
theorem requestsCut : Sys2Proof.Claim.RequestsCut := by
  intro f addr len data s
  refine ⟨fun _ fits some_data => ?write, fun pos => ?writes, fun _ fits some_len => ?read, fun pos => ?reads⟩
  case write =>
    have one := ceilDiv_eq_one (List.length_pos_iff.mpr some_data) fits
    simp only [State.postWrites, one, List.range_one, List.foldl_cons, List.foldl_nil, Nat.mul_zero, Nat.add_zero, List.drop_zero,
      List.take_of_length_le fits]
  case writes =>
    refine ⟨(List.range (ceilDiv data.length s.pcie.mps)).map fun k => (data.drop (s.pcie.mps * k)).take s.pcie.mps, ?_, ?_, ?_⟩
    · rw [flatten_parts, List.take_of_length_le (le_mul_ceilDiv pos)]
    · simp only [List.forall_mem_map, List.length_take]
      exact fun _ _ => Nat.min_le_left ..
    · rw [State.postWrites, State.foldl_emit_out, zipIdx_map_range, List.map_map]
      rfl
  case read =>
    have one := ceilDiv_eq_one some_len fits
    simp only [State.postReads, one, List.range_one, List.foldl_cons, List.foldl_nil, Nat.mul_zero, Nat.add_zero, Nat.sub_zero,
      Nat.min_eq_right fits]
  case reads =>
    refine ⟨(List.range (ceilDiv len s.pcie.mrrs)).map fun k => min s.pcie.mrrs (len - s.pcie.mrrs * k), ?_, ?_, ?_⟩
    · rw [sum_parts, Nat.min_eq_right (le_mul_ceilDiv pos)]
    · simp only [List.forall_mem_map]
      exact fun _ _ => Nat.min_le_left ..
    · rw [State.postReads, State.foldl_emit_out, zipIdx_map_range, List.map_map]
      rfl

/-- The timeout of a read through a tunnel (R379). -/
theorem tunnelTimesOut : Sys2Proof.Claim.TunnelTimesOut := by
  intro opSeq s x names
  simp only [exec_shxTunnelTimeout, execShxTunnelTimeout, names]
  exact ⟨fun host => by rw [if_pos host], fun own => by rw [if_neg own]⟩

/-- Settles O45: the six claims. Requests on the module's own link are cut by R429; the coding of the packets is DESIGN CHOICE 14. -/
theorem tunnels : Obligations.Tunnels :=
  ⟨memberServesTunnel, strangeTunnelRejected, completionEndsRead, portalServesMember, requestsCut, tunnelTimesOut⟩

end Sys2Proof.Machine
end

section
/-! PROOFS. Interrupts and functions: MSI-X messages, the holdoff, resets of functions and the link (O41, O42). -/

namespace Sys2Proof.Machine

/-! ## Messages -/

/-- An enabled function with an unmasked vector sends its message. -/
theorem State.msixSend_sent {s : State} {f : CtxId} {vec : Nat} (clear : bit 0 (s.rd .msixTable f.val (4 * vec + 3)) = false)
    (on : s.fnOn f = true) :
    s.msixSend f vec =
      { s.emit (.msix f (BitVec.ofNat 8 vec)
          (BitVec.ofNat 64 (s.rdN .msixTable f.val (4 * vec) + 2 ^ 32 * s.rdN .msixTable f.val (4 * vec + 1)))
          ((s.rd .msixTable f.val (4 * vec + 2)).truncate 32)) with
        msiLast := Store.set (fun _ => 0) s.msiLast (256 * f.val + vec) (s.now + 1) } := by
  rw [State.msixSend, if_neg (by simp [clear, on])]
  rfl

/-- A masked vector, or one of a disabled function, is marked pending. -/
theorem State.msixSend_held {s : State} {f : CtxId} {vec : Nat}
    (held : bit 0 (s.rd .msixTable f.val (4 * vec + 3)) = true ∨ s.fnOn f = false) :
    s.msixSend f vec =
      s.wr .msixPba f.val (vec / 64) (s.rd .msixPba f.val (vec / 64) ||| BitVec.ofNat 64 (2 ^ (vec % 64))) := by
  rw [State.msixSend, if_pos (by simpa using held)]

/-- A pending message of an unmasked vector goes. -/
theorem State.sendPending_pending {s : State} {f : CtxId} {vec : Nat}
    (pending : bit (vec % 64) (s.rd .msixPba f.val (vec / 64)) = true)
    (clear : bit 0 (s.rd .msixTable f.val (4 * vec + 3)) = false) (on : s.fnOn f = true) :
    s.sendPending f vec =
      (s.wr .msixPba f.val (vec / 64) (withBit (s.rd .msixPba f.val (vec / 64)) (vec % 64) false)).msixSend f vec := by
  simp only [State.sendPending, pending, clear, on, Bool.not_false, Bool.and_self, if_true]

/-- A vector without a pending message sends nothing. -/
theorem State.sendPending_none {s : State} {f : CtxId} {vec : Nat}
    (none : bit (vec % 64) (s.rd .msixPba f.val (vec / 64)) = false) : s.sendPending f vec = s := by
  simp only [State.sendPending, none, Bool.false_and, Bool.false_eq_true, if_false]

/-- A function whose BARs are served is enabled. -/
theorem State.fnOn_of_endpoint {s : State} {f : CtxId} (h : s.endpoint f = true) : s.fnOn f = true := by
  simp only [State.endpoint, Bool.and_eq_true] at h
  exact h.2

/-- An MSI-X message (R422). -/
theorem messageSentOrPending : Sys2Proof.Claim.MessageSentOrPending := by
  intro f vec s
  refine ⟨fun clear on => ?_, fun held => ?_⟩
  · rw [State.msixSend_sent clear on]
    exact ⟨rfl, rfl⟩
  · rw [State.msixSend_held held]
    exact ⟨rfl, State.rd_wr_self ..⟩

/-- A vector unmasked (R422). -/
theorem unmaskSends : Sys2Proof.Claim.UnmaskSends := by
  intro f vec s t
  have table : t.rd .msixTable f.val (4 * vec.toNat + 3) = 0 := State.rd_wr_self ..
  have pba : t.rd .msixPba f.val (vec.toNat / 64) = s.rd .msixPba f.val (vec.toNat / 64) :=
    State.rd_wr_other s (by decide) ..
  have unmasked (is_open : s.PageOpen f) : exec (.msixUnmask f vec) s = .next (t.sendPending f vec.toNat) := by
    obtain ⟨served, own⟩ := is_open
    simp only [exec_msixUnmask, execMsixUnmask, served, own, Bool.not_true, Bool.false_eq_true, if_false, State.unmask, t]
  refine ⟨fun is_open pending => ?_, fun is_open none => ?_, fun served member => ?_⟩
  · rw [← pba] at pending ⊢
    have on : s.fnOn f = true := State.fnOn_of_endpoint is_open.1
    rw [unmasked is_open, State.sendPending_pending pending (by rw [table]; rfl) on]
  · rw [unmasked is_open, State.sendPending_none (pba ▸ none)]
  · simp only [exec_msixUnmask, execMsixUnmask, served, member, Bool.not_true, Bool.false_eq_true, if_false, if_true]

/-! ## Functions -/

/-- A virtual function enabled (R409). -/
theorem functionEnabled : Sys2Proof.Claim.FunctionEnabled := by
  intro f s virtual
  simp only [exec_vfEnable, execVfEnable, virtual, if_false]

/-- The resets of functions and of the link (R430, R432). -/
theorem functionReset : Sys2Proof.Claim.FunctionReset := by
  intro f s all
  have physical : s.flr 0 = all := rfl
  refine ⟨fun served => ?_, fun served virtual => ?_, fun served => ?_, fun powered => ?_⟩
  · simp only [exec_d3hotToD0, execD3hotToD0, served, if_true]
  · simp only [exec_flr, execFlr, served, if_true, State.flr, virtual, if_false]
  · simp only [exec_flr, execFlr, served, if_true, physical]
  · simp only [exec_hotReset, execHotReset, powered, if_true, physical]

/-- The negotiated link (R432). -/
theorem linkShown : Sys2Proof.Claim.LinkShown := by
  intro width rate s powered
  refine ⟨s.wrN .hostLink 0 0 (width.toNat * 256 + rate.toNat), ?_, ?_, fun o n e other => ?_, rfl⟩
  · simp only [exec_pcieLinkUp, execPcieLinkUp, powered, if_true]
  · have size : Obj.hostLink.info.size = 4 := rfl
    rw [State.rdN_wrN_self _ (by decide), size, Nat.mod_eq_of_lt (by omega)]
  · rw [State.wrN_rd, if_neg other]

/-- Settles O42: each message and reset by the branch of its command; that an `FLR` of the physical function disables the virtual
functions is PRESUMED 58. -/
theorem functionsAndMessages : Obligations.FunctionsAndMessages :=
  ⟨unmaskSends, messageSentOrPending, functionEnabled, functionReset, linkShown⟩

/-! ## The holdoff -/

/-- A cause outside its vector's holdoff sends its message. -/
theorem State.vector_sends {s : State} {f : CtxId} {vec : Nat}
    (free : Store.get (fun _ => 0) s.msiLast (256 * f.val + vec) = 0 ∨ bits 15 0 (s.rd .irqHoldoff f.val) = 0 ∨
      Store.get (fun _ => 0) s.msiLast (256 * f.val + vec) - 1 + bits 15 0 (s.rd .irqHoldoff f.val) ≤ s.now) :
    s.vector f vec = s.msixSend f vec := by
  rw [State.vector, if_neg]
  simp only [Bool.and_eq_true, decide_eq_true_eq]
  omega

/-- A cause within its vector's holdoff is marked. -/
theorem State.vector_marks {s : State} {f : CtxId} {vec : Nat}
    (sent : Store.get (fun _ => 0) s.msiLast (256 * f.val + vec) ≠ 0) (holds : bits 15 0 (s.rd .irqHoldoff f.val) ≠ 0)
    (within : s.now < Store.get (fun _ => 0) s.msiLast (256 * f.val + vec) - 1 + bits 15 0 (s.rd .irqHoldoff f.val)) :
    s.vector f vec =
      if s.msiHeld.contains (256 * f.val + vec) then s else { s with msiHeld := s.msiHeld ++ [256 * f.val + vec] } := by
  rw [State.vector, if_pos]
  simp only [Bool.and_eq_true, decide_eq_true_eq]
  exact ⟨⟨holds, sent⟩, within⟩

/-- Settles O41: a cause either sends or is marked, by the place of the time in the holdoff; its end sends one message for the mark. -/
theorem holdoffCollectsCauses : Obligations.HoldoffCollectsCauses := by
  intro f vec s key sent holdoff
  have width : bits 15 0 (s.rd .irqHoldoff f.val) = holdoff := by simp only [bits, holdoff, State.rdN, pow_zero, Nat.div_one]; rfl
  refine ⟨fun free => State.vector_sends ?_, fun was holds within => ?_, fun marked => ?_, fun unmarked => ?_, fun clear on => ?_⟩
  · rwa [width]
  · rw [State.vector_marks was (width ▸ holds) (width ▸ within)]
    by_cases marked : key ∈ s.msiHeld
    · rw [if_pos (List.contains_iff_mem.mpr marked), if_pos marked]
    · rw [if_neg (mt List.contains_iff_mem.mp marked), if_neg marked]
  · rw [exec_irqHoldoffExpiry, execIrqHoldoffExpiry, if_pos (List.contains_iff_mem.mpr marked)]
  · rw [exec_irqHoldoffExpiry, execIrqHoldoffExpiry, if_neg (mt List.contains_iff_mem.mp unmarked)]
  · rw [State.msixSend_sent clear on]
    simp only [Store.get_set, if_true, key]

end Sys2Proof.Machine
end

section
/-! PROOFS. The host window and a portal's aperture (O43, O44). -/

namespace Sys2Proof.Machine

/-! ## Accesses within a line -/

/-- A range within a 64-byte line lies in one page. -/
theorem piecesOf_line {va len : Nat} (some_len : 0 < len) (line : va % 64 + len ≤ 64) : piecesOf va len = [(va, len)] := by
  have inside : min len (65536 - va % 65536) = len := by omega
  simp only [piecesOf, pieces, inside, Nat.sub_self, if_true, if_neg some_len.ne']

/-- A range within a 64-byte line is one line. -/
theorem windowLines_line {va len : Nat} (some_len : 0 < len) (line : va % 64 + len ≤ 64) (fuel : Nat) :
    windowLines va len (fuel + 2) = [(va, len)] := by
  have inside : min len (64 - va % 64) = len := by omega
  simp only [windowLines, inside, Nat.sub_self, if_true, if_neg some_len.ne']

section
variable {s : State} {r : Req} {va len : Nat}

/-- A read within a line that is reached and meets no poison. -/
theorem State.vread_line_ok (some_len : 0 < len) (line : va % 64 + len ≤ 64) {pa : Nat} (reached : s.reach r va len false = .ok pa)
    (clean : s.poisonIn pa len = none) : s.vread r va len = .ok (s.bytesAt pa len) := by
  simp only [State.vread, State.reachAll, piecesOf_line some_len line, List.mapM_cons, List.mapM_nil, reached, bind_pure_comp]
  simp [State.fetch, clean, bind, Except.bind, pure, Except.pure, Functor.map, Except.map]

/-- A read within a line that is not reached. -/
theorem State.vread_line_error (some_len : 0 < len) (line : va % 64 + len ≤ 64) {why : Stop} (stops : s.reach r va len false = .error why) :
    s.vread r va len = .error why := by
  simp only [State.vread, State.reachAll, piecesOf_line some_len line, List.mapM_cons, List.mapM_nil, stops]
  rfl

/-- A write within a line that is reached and leaves no poisoned word in part. -/
theorem State.vwrite_line_ok {bs : List Byte} (some_bs : 0 < bs.length) (line : va % 64 + bs.length ≤ 64) {pa : Nat}
    (reached : s.reach r va bs.length true = .ok pa) (clean : s.poisonPart pa bs.length = none) :
    s.vwrite r va bs = .ok (s.poke pa bs) := by
  simp only [State.vwrite, State.reachAll, piecesOf_line some_bs line, List.mapM_cons, List.mapM_nil, reached, bind_pure_comp]
  simp [State.storeAll, State.store, clean, bind, Except.bind, pure, Except.pure, Functor.map, Except.map]

end

/-! ## The window (R415) -/

section
variable {s : State} {f : CtxId} {off len : Nat}

/-- A window read within a line whose bytes are read. -/
theorem State.windowRead_ok {bs : List Byte} (some_len : 0 < len) (line : (s.rdN .winBase f.val + off) % 64 + len ≤ 64)
    (read : s.vread (.host f) (s.rdN .winBase f.val + off) len = .ok bs) : s.windowRead f off len = (bs, s) := by
  simp only [State.windowRead, windowLines_line some_len line, State.readLines64, read, Option.map_some, List.append_nil, Option.getD_some]

/-- A window read within a line that faults or is refused. -/
theorem State.windowRead_fails {why : Stop} (some_len : 0 < len) (line : (s.rdN .winBase f.val + off) % 64 + len ≤ 64)
    (fails : s.vread (.host f) (s.rdN .winBase f.val + off) len = .error why)
    (kind : why = .denied ∨ ∃ a x l w, why = .fault a x l w) : s.windowRead f off len = (allOnes len, s.winErr f) := by
  obtain rfl | ⟨a, x, l, w, rfl⟩ := kind <;>
    simp only [State.windowRead, windowLines_line some_len line, State.readLines64, fails, Option.map_some, List.append_nil,
      Option.getD_some]

/-- A window write within a line that is reached. -/
theorem State.windowWrite_ok {data : List Byte} {t : State} (some_data : 0 < data.length)
    (line : (s.rdN .winBase f.val + off) % 64 + data.length ≤ 64)
    (written : s.vwrite (.host f) (s.rdN .winBase f.val + off) data = .ok t) : s.windowWrite f off data = t := by
  simp only [State.windowWrite, windowLines_line some_data line, State.writeLines64, List.take_length, written]

end

/-- `WINDOW_READ` of a page that the host reaches. -/
theorem State.PageOpen.windowRead {s : State} {f : CtxId} (is_open : s.PageOpen f) (off : BitVec 34) (len : Nat) :
    exec (.windowRead f off len) s =
      .next ((s.windowRead f off.toNat len).2.emit (.hostData f (s.windowRead f off.toNat len).1)) := by
  obtain ⟨served, own⟩ := is_open
  simp only [exec_windowRead, execWindowRead, served, own, Bool.not_true, Bool.false_eq_true, if_false]

/-- `WINDOW_WRITE` to a page that the host reaches. -/
theorem State.PageOpen.windowWrite {s : State} {f : CtxId} (is_open : s.PageOpen f) (off : BitVec 34) (data : List Byte) :
    exec (.windowWrite f off data) s = .next (s.windowWrite f off.toNat data) := by
  obtain ⟨served, own⟩ := is_open
  simp only [exec_windowWrite, execWindowWrite, served, own, Bool.not_true, Bool.false_eq_true, if_false]

/-- Settles O43: the write is one write to memory at the translated address. -/
theorem windowLineWritten : Obligations.WindowLineWritten := by
  intro f off data s pa is_open va some_data line reached clean
  have some_data : 0 < data.length := List.length_pos_iff.mpr some_data
  have written := State.windowWrite_ok some_data line (State.vwrite_line_ok some_data line reached clean)
  refine ⟨s.poke pa data, by rw [is_open.windowWrite, written], fun a low high => ?_, fun a outside => ?_, State.poke_ctxs .., State.poke_items ..,
    (State.poke_keeps (Keeps.refl s)).out, fun o n e other => State.poke_rd _ _ _ n e other⟩
  · rw [State.byteAt_poke, if_pos ⟨low, high⟩]
  · rw [State.byteAt_poke, if_neg outside]

/-- Window reads within a line (R415). -/
theorem windowLineRead : Sys2Proof.Claim.WindowLineRead := by
  intro f off len s is_open va some_len line
  have fails {why : Stop} (stops : s.reach (.host f) va len false = .error why)
      (kind : why = .denied ∨ ∃ a x l w, why = .fault a x l w) :
      exec (.windowRead f off len) s = .next ((s.winErr f).emit (.hostData f (allOnes len))) := by
    rw [is_open.windowRead, State.windowRead_fails some_len line (State.vread_line_error some_len line stops) kind]
  refine ⟨fun pa reached clean => ?_, fun a r l w stops => fails stops (.inr ⟨a, r, l, w, rfl⟩), fun stops => fails stops (.inl rfl)⟩
  rw [is_open.windowRead, State.windowRead_ok some_len line (State.vread_line_ok some_len line reached clean)]

/-! ## The aperture (R411, R425) -/

/-- An aperture access that reaches nothing. -/
theorem execApertureAccess_elsewhere {f : CtxId} {off : BitVec 35} {s : State} (served : s.endpoint f = true)
    (nothing : s.rdN .portalMode ≠ 1 ∨ apertureAt off.toNat = none ∨
      ∃ i bar o : Nat, apertureAt off.toNat = some (i, bar, o) ∧ bit 31 (s.rd .portalGroup 0 i) = false) (a : Access) :
    execApertureAccess f off a s = .next (s.elsewhere f a) := by
  unfold execApertureAccess
  rw [if_neg (by simp [served])]
  by_cases portal : s.rdN .portalMode = 1
  · rw [if_neg (not_not.mpr portal)]
    obtain mode | none | ⟨i, bar, o, reached, invalid⟩ := nothing
    · exact absurd portal mode
    · simp only [none]
    · simp only [reached, invalid, Bool.not_false, if_true]
  · rw [if_pos portal]

/-- What an aperture access reaches. -/
theorem apertureReaches : Sys2Proof.Claim.ApertureReaches := by
  intro f off len data s served
  refine ⟨fun portal i bar o reached valid => ⟨fun own => ?_, fun other => ?_⟩, fun nothing => ?_⟩
  · subst own
    simp [execApertureAccess, served, portal, reached, valid]
  · simp [execApertureAccess, served, portal, reached, valid, other]
  · simp only [exec_apertureAccess, execApertureAccess_elsewhere served nothing, State.elsewhere, and_self]

/-- The window and the aperture in STANDBY (R462). -/
theorem standbyReadsUnsupported : Sys2Proof.Claim.StandbyReadsUnsupported := by
  intro f off ap len data s unserved standby
  have answer : s.noBar f = s.emit (.unsupported f) := if_pos standby
  simp only [exec_windowRead, exec_windowWrite, exec_apertureAccess, execWindowRead, execWindowWrite, execApertureAccess, unserved,
    Bool.not_false, if_true, answer, and_self]

/-- Settles O44: reads by the line that they lie in, the aperture by what its offset reaches; the answers of STANDBY are R462's with
DEDUCED 162. -/
theorem windowAndAperture : Obligations.WindowAndAperture :=
  ⟨windowLineRead, apertureReaches, standbyReadsUnsupported⟩

end Sys2Proof.Machine
end

section
/-! PROOFS. Context pages: doorbells, rings, submission entries, the mailbox (O40). -/

namespace Sys2Proof.Machine

/-! ## Bytes of numbers -/

/-- The bytes of a number hold it, cut to their width. -/
theorem leNat_leBytes (n v : Nat) : leNat (leBytes n v) = v % 256 ^ n := by
  induction n generalizing v with
  | zero => simp [leNat, leBytes, Nat.mod_one]
  | succ n ih => rw [leBytes, leNat, ih, BitVec.toNat_ofNat, pow_succ' 256, Nat.mod_mul (a := 256)]

/-- Bytes replaced whole. -/
theorem patch_all {bs new : List Byte} (h : new.length = bs.length) : patch bs 0 new = new := by
  simp [patch, h]

/-! ## A register of a page written whole (R412) -/

/-- A write does not reach a register outside it. -/
theorem overlap_apart {off at_ width : Nat} {data : List Byte} (apart : off + data.length ≤ at_ ∨ at_ + width ≤ off) :
    overlap off data at_ width = none := by
  simp only [overlap]
  rw [if_neg (by omega)]

/-- A write of a register's own bytes. -/
theorem overlap_whole {off width : Nat} {data : List Byte} (length : data.length = width) (some_data : 0 < width) :
    overlap off data off width = some (0, data) := by
  subst length
  simp only [overlap, max_self, min_self, if_pos (Nat.lt_add_of_pos_right some_data), Nat.sub_self, List.drop_zero, Nat.add_sub_cancel_left,
    List.take_length]

/-- The registers of a page lie apart, below the mailbox. -/
theorem pageMap_apart : ∀ r ∈ pageMap, ∀ q ∈ pageMap, q ≠ r → r.1 + r.2.1 ≤ q.1 ∨ q.1 + q.2.1 ≤ r.1 := by decide

theorem pageMap_nodup : pageMap.Nodup := by decide

theorem pageMap_below : ∀ r ∈ pageMap, 0 < r.2.1 ∧ r.1 + r.2.1 ≤ 0x1000 := by decide

/-- A page write of one register's bytes writes that register alone. -/
theorem State.pageWrite_register {r : Nat × Nat × Obj} (row : r ∈ pageMap) {data : List Byte} (length : data.length = r.2.1) (f : CtxId)
    (s : State) : s.pageWrite f r.1 data = s.writePageReg f r.2.2 (leNat data) := by
  obtain ⟨some_data, below⟩ := pageMap_below r row
  have others (t : State) (l : List (Nat × Nat × Obj)) (h : ∀ q ∈ l, q ∈ pageMap ∧ q ≠ r) :
      l.foldl (fun s r' => s.writePart f r.1 data r') t = t := by
    refine foldl_eq_of_fixed fun q hq => ?_
    obtain ⟨mem, ne⟩ := h q hq
    simp only [State.writePart, overlap_apart (length ▸ pageMap_apart r row q mem ne)]
  have whole : s.writePart f r.1 data r = s.writePageReg f r.2.2 (leNat data) := by
    simp only [State.writePart, overlap_whole length some_data, ne_eq, not_true, decide_false, Bool.and_false, Bool.false_eq_true,
      if_false]
    rw [patch_all (by rw [length, length_leBytes])]
  have fold : pageMap.foldl (fun s r' => s.writePart f r.1 data r') s = s.writePageReg f r.2.2 (leNat data) := by
    obtain ⟨before, after, split⟩ := List.append_of_mem row
    have once : (before ++ r :: after).Nodup := split ▸ pageMap_nodup
    have mem {q} (h : q ∈ before ++ r :: after) : q ∈ pageMap := split ▸ h
    rw [split, List.foldl_append, List.foldl_cons, others s before, whole, others _ after]
    · exact fun q h => ⟨mem (by simp [h]), fun e => (List.nodup_cons.mp (List.nodup_append.mp once).2.1).1 (e ▸ h)⟩
    · exact fun q h => ⟨mem (by simp [h]), fun e => (List.nodup_append.mp once).2.2 q h r (by simp) e⟩
  simp only [State.pageWrite, fold, overlap_apart (.inl (length ▸ below)),
    overlap_apart (at_ := 0x8000) (width := 4096) (.inl (length ▸ below.trans (by decide)))]

section
variable {s : State} {f : CtxId}

/-- A page that the host reaches takes its writes. -/
theorem State.PageOpen.hostPageWrite (is_open : s.PageOpen f) (off : Nat) (data : List Byte) :
    s.hostPageWrite f off data = s.pageWrite f off data := by
  obtain ⟨served, own⟩ := is_open
  simp only [State.hostPageWrite, served, own, Bool.not_true, Bool.false_eq_true, if_false, Bool.false_and]

/-- A 32-bit register of an open page written whole. -/
theorem State.PageOpen.writeReg (is_open : s.PageOpen f) {off width : Nat} {o : Obj} (row : (off, width, o) ∈ pageMap) (v : Nat) :
    s.hostPageWrite f off (leBytes width v) = s.writePageReg f o (v % 256 ^ width) := by
  rw [is_open.hostPageWrite, State.pageWrite_register row (length_leBytes ..), leNat_leBytes]

/-! ## Doorbells (R418, R420) -/

/-- A tail that is taken. -/
theorem State.writeSqTail_taken {v : W32} (enabled : bit 31 (s.rd .sqCfg f.val) = true)
    (inside : (v - (s.rd .sqHead f.val).truncate 32).toNat ≤ 2 ^ bits 3 0 (s.rd .sqCfg f.val))
    (ahead : ((s.ctx f).sqTail - (s.rd .sqHead f.val).truncate 32).toNat ≤ (v - (s.rd .sqHead f.val).truncate 32).toNat) :
    s.writeSqTail f v = (s.setCtx f { s.ctx f with sqTail := v }).fetchMore f := by
  unfold State.writeSqTail
  exact if_neg (by simp only [enabled, Nat.not_lt.mpr inside, Nat.not_lt.mpr ahead, decide_false, Bool.not_true, Bool.or_self, Bool.false_eq_true,
    not_false_eq_true])

/-- A tail that is refused. -/
theorem State.writeSqTail_refused {v : W32}
    (bad : ¬ (bit 31 (s.rd .sqCfg f.val) = true ∧ (v - (s.rd .sqHead f.val).truncate 32).toNat ≤ 2 ^ bits 3 0 (s.rd .sqCfg f.val) ∧
      ((s.ctx f).sqTail - (s.rd .sqHead f.val).truncate 32).toNat ≤ (v - (s.rd .sqHead f.val).truncate 32).toNat)) :
    s.writeSqTail f v = s.doorbellErr f := by
  unfold State.writeSqTail
  refine if_pos ?_
  simpa only [Bool.or_eq_true, Bool.not_eq_true', decide_eq_true_eq, not_and_or, Bool.not_eq_true, not_le, or_assoc] using bad

/-- A head that is taken. -/
theorem State.writeCqHead_taken {v : W32} (enabled : bit 31 (s.rd .cqCfg f.val) = true)
    (inside : ((s.rd .cqTail f.val).truncate 32 - v).toNat ≤ 2 ^ bits 4 0 (s.rd .cqCfg f.val))
    (ahead : ((s.rd .cqTail f.val).truncate 32 - v).toNat ≤ ((s.rd .cqTail f.val).truncate 32 - (s.ctx f).cqHead : W32).toNat) :
    s.writeCqHead f v = (s.setCtx f { s.ctx f with cqHead := v }).drainRecs f := by
  unfold State.writeCqHead
  exact if_neg (by simp only [enabled, Nat.not_lt.mpr inside, Nat.not_lt.mpr ahead, decide_false, Bool.not_true, Bool.or_self, Bool.false_eq_true,
    not_false_eq_true])

/-- A head that is refused. -/
theorem State.writeCqHead_refused {v : W32}
    (bad : ¬ (bit 31 (s.rd .cqCfg f.val) = true ∧ ((s.rd .cqTail f.val).truncate 32 - v).toNat ≤ 2 ^ bits 4 0 (s.rd .cqCfg f.val) ∧
      ((s.rd .cqTail f.val).truncate 32 - v).toNat ≤ ((s.rd .cqTail f.val).truncate 32 - (s.ctx f).cqHead : W32).toNat)) :
    s.writeCqHead f v = s.doorbellErr f := by
  unfold State.writeCqHead
  refine if_pos ?_
  simpa only [Bool.or_eq_true, Bool.not_eq_true', decide_eq_true_eq, not_and_or, Bool.not_eq_true, not_le, or_assoc] using bad

/-- A 32-bit value written to an open page comes whole. -/
theorem State.PageOpen.writeReg32 (is_open : s.PageOpen f) {off : Nat} {o : Obj} (row : (off, 4, o) ∈ pageMap) (v : W32) :
    s.hostPageWrite f off (leBytes 4 v.toNat) = s.writePageReg f o v.toNat := by
  rw [is_open.writeReg row, Nat.mod_eq_of_lt (show v.toNat < 256 ^ 4 from v.isLt)]

/-- The doorbell of the submission ring (R418). -/
theorem submissionTail : Sys2Proof.Claim.SubmissionTail := by
  intro c v s is_open cfg head ok
  have bell : exec (.sqTail c v) s = .next (s.writeSqTail c v) := by
    rw [exec_sqTail, execSqTail, is_open.writeReg32 (o := .sqTail) (by decide), State.writePageReg, BitVec.ofNat_toNat, BitVec.setWidth_eq]
  refine ⟨fun ⟨enabled, inside, ahead⟩ => ?_, fun bad => ?_⟩
  · rw [bell, State.writeSqTail_taken enabled inside ahead]
  · rw [bell, State.writeSqTail_refused bad, State.doorbellErr]

/-- The doorbell of the completion ring (R420). -/
theorem completionHead : Sys2Proof.Claim.CompletionHead := by
  intro c v s is_open cfg tail ok
  have bell : exec (.cqHead c v) s = .next (s.writeCqHead c v) := by
    rw [exec_cqHead, execCqHead, is_open.writeReg32 (o := .cqHead) (by decide), State.writePageReg, BitVec.ofNat_toNat, BitVec.setWidth_eq]
  refine ⟨fun ⟨enabled, inside, ahead⟩ => ?_, fun bad => ?_⟩
  · rw [bell, State.writeCqHead_taken enabled inside ahead]
  · rw [bell, State.writeCqHead_refused bad, State.doorbellErr]

/-! ## Rings (R413) -/

/-- The enable bit of a ring's configuration as a field. -/
theorem bits_31_of_bit {w : W64} (h : bit 31 w = true) : bits 31 31 w = 1 := by
  rw [bit, BitVec.getLsbD, Nat.testBit_eq_decide_div_mod_eq, decide_eq_true_eq] at h
  exact h

/-- An enabling write of the submission ring that is taken. -/
theorem State.writeSqCfg_enables {v : W32} (will : bit 31 (v.zeroExtend 64) = true) (was : bit 31 (s.rd .sqCfg f.val) = false)
    (ok : ringWriteOk ((s.ctx f).st = .idle) (s.rd .sqCfg f.val) (v.zeroExtend 64) 4 1 12 = true) :
    s.writeSqCfg f v = ((s.wrN .sqCfg f.val 0 (2 ^ 31 + bits 3 0 (v.zeroExtend 64))).wr .sqHead f.val 0 0).updCtx f
      fun x => { x with sqTail := 0, fetching := false } := by
  simp only [State.writeSqCfg, ok, was, will, bits_31_of_bit will, Bool.not_true, Bool.false_eq_true, if_false, Bool.not_false, Bool.and_self,
    if_true, Nat.one_mul]

/-- A write of the submission ring that is refused. -/
theorem State.writeSqCfg_refused {v : W32}
    (bad : ringWriteOk ((s.ctx f).st = .idle) (s.rd .sqCfg f.val) (v.zeroExtend 64) 4 1 12 = false) :
    s.writeSqCfg f v = s.doorbellErr f := by
  simp only [State.writeSqCfg, bad, Bool.not_false, if_true]

/-- An enabling write of the completion ring that is taken. -/
theorem State.writeCqCfg_enables {v : W32} (will : bit 31 (v.zeroExtend 64) = true) (was : bit 31 (s.rd .cqCfg f.val) = false)
    (ok : ringWriteOk ((s.ctx f).st = .idle) (s.rd .cqCfg f.val) (v.zeroExtend 64) 5 4 16 = true) :
    s.writeCqCfg f v = (((s.wrN .cqCfg f.val 0 (2 ^ 31 + bits 4 0 (v.zeroExtend 64))).wr .cqTail f.val 0 0).updCtx f
      fun x => { x with cqHead := 0 }).drainRecs f := by
  simp only [State.writeCqCfg, ok, was, will, bits_31_of_bit will, Bool.not_true, Bool.false_eq_true, if_false, Bool.not_false, Bool.and_self,
    if_true, Nat.one_mul]

/-- A write of the completion ring that is refused. -/
theorem State.writeCqCfg_refused {v : W32}
    (bad : ringWriteOk ((s.ctx f).st = .idle) (s.rd .cqCfg f.val) (v.zeroExtend 64) 5 4 16 = false) :
    s.writeCqCfg f v = s.doorbellErr f := by
  simp only [State.writeCqCfg, bad, Bool.not_false, if_true]

/-- The configuration of the rings (R413). -/
theorem ringConfigured : Sys2Proof.Claim.RingConfigured := by
  intro c v s is_open will
  have sq : exec (.sqCfg c v) s = .next ((s.writeSqCfg c v).fetchMore c) := by
    rw [exec_sqCfg, execSqCfg, is_open.writeReg32 (o := .sqCfg) (by decide), State.writePageReg, BitVec.ofNat_toNat, BitVec.setWidth_eq]
  have cq : exec (.cqCfg c v) s = .next (s.writeCqCfg c v) := by
    rw [exec_cqCfg, execCqCfg, is_open.writeReg32 (o := .cqCfg) (by decide), State.writePageReg, BitVec.ofNat_toNat, BitVec.setWidth_eq]
  refine ⟨fun was ok => ?_, fun bad => ?_, fun was ok => ?_, fun bad => ?_⟩
  · rw [sq, State.writeSqCfg_enables will was ok]
  · rw [sq, State.writeSqCfg_refused bad, State.doorbellErr]
  · rw [cq, State.writeCqCfg_enables will was ok]
  · rw [cq, State.writeCqCfg_refused bad, State.doorbellErr]

/-! ## Entries (R419) -/

/-- A host error leaves the contexts. -/
theorem State.hostError_ctx (s : State) (c d : CtxId) : (s.hostError c).ctx d = s.ctx d :=
  ((Signals.refl [.hostDmaErrCnt, .hostCtxStatus] s).hostError (by simp) (by simp) c).ctx d

/-- A submission entry comes (R419). -/
theorem entryFetched : Sys2Proof.Claim.EntryFetched := by
  intro c w0 w1 w2 w3 s fetching t keep
  have state : (t.ctx c).st = (s.ctx c).st := by simp [t, State.count, State.wrN]
  have state_failed : ((t.hostError c).ctx c).st = (s.ctx c).st := by rw [State.hostError_ctx, state]
  have good : s.fetched c (.entry w0 w1 w2 w3) = (if (t.ctx c).st = .idle then t.openEntry c ⟨w0, w1, w2, w3, false⟩
      else keep t ⟨w0, w1, w2, w3, false⟩).fetchMore c := by
    simp only [State.fetched, fetching, Bool.not_true, Bool.false_eq_true, if_false]
    rfl
  have bad : s.fetched c .error = (if ((t.hostError c).ctx c).st = .idle then (t.hostError c).openEntry c ⟨0, 0, 0, 0, true⟩
      else keep (t.hostError c) ⟨0, 0, 0, 0, true⟩).fetchMore c := by
    simp only [State.fetched, fetching, Bool.not_true, Bool.false_eq_true, if_false, if_true]
    rfl
  simp only [exec_submissionFetch, execSubmissionFetch, good, bad, state, state_failed]
  exact ⟨fun idle => by rw [if_pos idle], fun busy => by rw [if_neg busy], fun idle => by rw [if_pos idle], fun busy => by rw [if_neg busy]⟩

/-! ## The mailbox and the registers (R412, R428) -/

/-- The mailbox submits (R428). -/
theorem mailboxSubmits : Sys2Proof.Claim.MailboxSubmits := by
  intro f s is_open v
  have go : exec (.mailboxGo f) s = .next (s.mailboxGo f) := by
    obtain ⟨served, own⟩ | ⟨standby, own⟩ := is_open
    · simp only [exec_mailboxGo, execMailboxGo, served, own, Bool.not_true, Bool.false_and, Bool.false_eq_true, if_false]
    · simp only [exec_mailboxGo, execMailboxGo, standby, own, Bool.not_true, Bool.and_false, Bool.false_and, Bool.false_eq_true, if_false]
  refine ⟨fun free some_len => ?_, fun bad => ?_⟩
  · rw [go, State.mailboxGo, if_neg (by simp [v, free, some_len])]
  · rw [go, State.mailboxGo, if_pos (by simpa using bad)]
    rfl

/-- The event mask lies in the low half of a word. -/
theorem eventMask_low (v : W64) : BitVec.ofNat 64 (v.toNat % 256 ^ 4) &&& 0x1F3FFF = v &&& 0x1F3FFF := by
  have low : BitVec.ofNat 64 (v.toNat % 256 ^ 4) = v &&& 0xFFFFFFFF := by
    apply BitVec.eq_of_toNat_eq
    rw [BitVec.toNat_ofNat, BitVec.toNat_and, show (0xFFFFFFFF : W64).toNat = 2 ^ 32 - 1 from rfl, Nat.and_two_pow_sub_one_eq_mod]
    omega
  rw [low, BitVec.and_assoc]
  rfl

/-- The registers of a page (R412, R424). -/
theorem pageRegisterWritten : Sys2Proof.Claim.PageRegisterWritten := by
  intro f v s
  refine ⟨fun is_open => ⟨?_, ?_, ?_⟩, fun unserved off width none => ?_⟩
  · have whole : v.toNat % 256 ^ 8 = v.toNat := Nat.mod_eq_of_lt v.isLt
    have written := is_open.writeReg (off := 0x128) (width := 8) (o := .winBase) (by decide) v.toNat
    rw [whole] at written
    exact congrArg Host.Outcome.next written
  · have half : v.toNat % 256 ^ 4 % 65536 = v.toNat % 65536 := by omega
    have written := is_open.writeReg (off := 0x130) (width := 4) (o := .irqHoldoff) (by decide) v.toNat
    rw [State.writePageReg, half] at written
    exact congrArg Host.Outcome.next written
  · have written := is_open.writeReg (off := 0x134) (width := 4) (o := .eventMask) (by decide) v.toNat
    rw [State.writePageReg, eventMask_low] at written
    exact congrArg Host.Outcome.next written
  · have nothing : ¬ (s.configOnly f && isMailbox off.toNat && (!s.isMemberMode || decide (f.val = 0))) = true := by
      obtain h | h := none <;> simp [h]
    simp only [exec_registerWrite, execRegisterWrite, State.hostPageWrite, unserved, Bool.not_false, if_true, if_neg nothing]

end

/-- Settles O40: each page register by the branch of its write; a mailbox's length is the one at its submission (DESIGN CHOICE 98), and it
serves in STANDBY (DEDUCED 162). -/
theorem ringsAndPages : Obligations.RingsAndPages :=
  ⟨submissionTail, completionHead, ringConfigured, entryFetched, mailboxSubmits, pageRegisterWritten⟩

end Sys2Proof.Machine
end

section
/-! PROOFS. Depots of partners, restores and the provenance check (O38, O39). -/

namespace Sys2Proof.Machine

/-! ## Writes to a depot (R393) -/

@[simp] theorem State.poke_surv (s : State) (pa : Nat) (bs : List Byte) : (s.poke pa bs).surv = s.surv := by
  obtain ⟨u, told, written⟩ := s.poke_eq pa bs
  rw [written, State.put_surv, told.surv]

/-- The state in which the granules of a `DEPOT_WR` stand in their slot, `COMPLETE` cleared unless they are its first. -/
def State.depotStored (u : State) (k : Packet) (i at_ : Nat) : State :=
  let base := u.depotSlot i
  (if at_ = 0 then u else u.poke (base + 48) [u.byteAt (base + 48) &&& 0xFE]).poke (base + at_) k.data

/-- What has come of a chunk by the operation of a packet, as a mask of its granules. -/
def State.depotMask (u : State) (k : Packet) (i at_ : Nat) : Nat :=
  Nat.lor (((u.surv.depot.find? fun e => e.slot = i && e.chunk = at_ / 65536 && e.op = k.opSeq).map DepotPart.mask).getD 0)
    ((2 ^ (k.data.length / 32) - 1) * 2 ^ (at_ % 65536 / 32))

section
variable {u : State} {k : Packet} {i at_ : Nat}

theorem State.depotStored_surv : (u.depotStored k i at_).surv = u.surv := by
  unfold State.depotStored
  split <;> simp

theorem State.depotStored_ctxs : (u.depotStored k i at_).ctxs = u.ctxs := by
  unfold State.depotStored
  split <;> simp

theorem State.depotStored_items : (u.depotStored k i at_).items = u.items := by
  unfold State.depotStored
  split <;> simp

theorem State.depotStored_rd {o : Obj} (other : o ∉ prefetchObjs) (n e : Nat) : (u.depotStored k i at_).rd o n e = u.rd o n e := by
  unfold State.depotStored
  split <;> simp only [State.poke_rd _ _ _ n e other]

/-- A byte of the granules. -/
theorem State.depotStored_inside {a : Nat} (low : u.depotSlot i + at_ ≤ a) (high : a < u.depotSlot i + at_ + k.data.length) :
    (u.depotStored k i at_).byteAt a = k.data.getD (a - (u.depotSlot i + at_)) 0 := by
  rw [State.depotStored, State.byteAt_poke, if_pos ⟨low, high⟩]

/-- A byte outside the granules. -/
theorem State.depotStored_outside {a : Nat}
    (outside : ¬ (u.depotSlot i + at_ ≤ a ∧ a < u.depotSlot i + at_ + k.data.length)) :
    (u.depotStored k i at_).byteAt a = if a = u.depotSlot i + 48 ∧ at_ ≠ 0 then u.byteAt a &&& 0xFE else u.byteAt a := by
  rw [State.depotStored, State.byteAt_poke, if_neg outside]
  by_cases start : at_ = 0
  · simp only [start, if_true, ne_eq, not_true, and_false, if_false]
  · rw [if_neg start, State.byteAt_poke]
    by_cases mark : a = u.depotSlot i + 48
    · subst mark
      simp [start]
    · rw [if_neg (by simp only [List.length_singleton]; omega), if_neg (fun h => mark h.1)]

/-- What lets a `DEPOT_WR` into its slot: no reserved bit, a source that this module keeps a depot for, the present epoch, memory that
FABRIC writes reach, and a slot of the source. -/
structure State.DepotTakes (u : State) (k : Packet) (i at_ : Nat) : Prop where
  reserved : bits 63 48 k.w2 = 0
  partner  : u.partnerOf k.srcRank = u.rdN .shxRank
  epoch    : k.epoch = u.rdN .epoch
  reached  : u.fabricOk true (u.rdN .depotPa + bits 47 0 k.w2) k.data.length = true
  slot     : u.slotAt k.srcRank (bits 47 0 k.w2) k.data.length = some (i, at_)

variable (takes : u.DepotTakes k i at_)
include takes

/-- A chunk that stays incomplete notes its granules. -/
theorem State.takeDepotWrite_part (part : u.depotMask k i at_ ≠ 2 ^ 2048 - 1) :
    u.takeDepotWrite k =
      { u.depotStored k i at_ with
        surv := { u.surv with
          depot := (u.surv.depot.filter fun e => !(e.slot = i && e.chunk = at_ / 65536)) ++
            [⟨i, at_ / 65536, k.opSeq, u.depotMask k i at_⟩] } } := by
  obtain ⟨reserved, partner, epoch, reached, slot⟩ := takes
  simp only [State.takeDepotWrite, reserved, partner, epoch, reached, slot, decide_true, Bool.and_self, if_true]
  rw [← State.depotStored, State.depotStored_surv]
  exact if_neg part

/-- The last granules of a chunk complete it. -/
theorem State.takeDepotWrite_whole (whole : u.depotMask k i at_ = 2 ^ 2048 - 1) :
    u.takeDepotWrite k = (u.depotPut k i at_).chunkWhole k i (at_ / 65536) := by
  obtain ⟨reserved, partner, epoch, reached, slot⟩ := takes
  simp only [State.takeDepotWrite, reserved, partner, epoch, reached, slot, decide_true, Bool.and_self, if_true]
  have surv : (u.depotStored k i at_).surv = u.surv := State.depotStored_surv
  rw [← State.depotStored, surv]
  refine (if_pos whole).trans ?_
  rw [← surv]
  rfl

end

/-- Settles O38: the granules are one write to memory, and the mark, where they are not the slot's first, another before it; what came by an
earlier operation does not count (DEDUCED 166). -/
theorem depotWriteStored : Obligations.DepotWriteStored := by
  intro k s i at_ heard u was reserved partner epoch reached slot part
  have takes : u.DepotTakes k i at_ := ⟨reserved, partner, epoch, reached, slot⟩
  have put : exec (.depotWr k) s = _ :=
    (congrArg Host.Outcome.next (heard.receive _)).trans (congrArg _ (State.takeDepotWrite_part takes part))
  refine ⟨_, put, fun a low high => State.depotStored_inside low high, fun a outside => State.depotStored_outside outside, State.depotStored_ctxs,
    State.depotStored_items, fun o n e other => State.depotStored_rd other n e⟩

section
variable {s : State} {k : Packet}

/-- A hash area that FABRIC writes do not reach refuses the chunk. -/
theorem State.chunkWhole_refused {i chunk : Nat} (unreached : s.fabricOk true (s.hashPa i chunk) 8 = false) :
    s.chunkWhole k i chunk = s.depotRefuse k := by
  simp only [State.chunkWhole, unreached, Bool.not_false, if_true]

/-- Chunks that come whole (R393). -/
theorem depotChunkCompleted : Sys2Proof.Claim.DepotChunkCompleted := by
  intro k s i at_ heard u chunk was reserved partner epoch reached slot whole v bs w head sealed ack
  have put : exec (.depotWr k) s = .next (v.chunkWhole k i chunk) := by
    rw [exec_depotWr, execDepotWr, heard.receive, State.takeDepotWrite_whole ⟨reserved, partner, epoch, reached, slot⟩ whole]
  refine ⟨fun hash => ⟨fun first frozen => ?_, fun plain => ?_⟩, fun hash => by rw [put, State.chunkWhole_refused hash]⟩
  · have seals : (decide (chunk = 0) && bit 1 (wordAt bs 6)) = true := by simp [first, frozen]
    rw [put, State.chunkWhole, if_neg (by simp [hash])]
    exact congrArg (fun x => Host.Outcome.next (ack x)) (if_pos seals)
  · have open_ : ¬ (decide (chunk = 0) && bit 1 (wordAt bs 6)) = true := by
      obtain h | h := plain <;> simp [h]
    rw [put, State.chunkWhole, if_neg (by simp [hash])]
    exact congrArg (fun x => Host.Outcome.next (ack x)) (if_neg open_)

/-- Writes of a rank without a depot here (R393). -/
theorem depotWriteRefused : Sys2Proof.Claim.DepotWriteRefused := by
  intro k s heard stranger
  rw [exec_depotWr, execDepotWr, heard.receive]
  simp only [State.takeDepotWrite, stranger, decide_false, Bool.and_false, Bool.false_and, Bool.false_eq_true, if_false]
  rfl

/-! ## Reads of a depot (R398, R399) -/

/-- A read that no poison stops. -/
theorem State.readPa_ok {pa len : Nat} (clean : s.poisonIn pa len = none) : s.readPa pa len = .ok (s.bytesAt pa len) := by
  simp only [State.readPa, clean]

section
variable {u : State} {arg : Nat} {data : List Byte}

/-- An answer to a `DEPOT_RD`. -/
def State.depotAnswer (u : State) (k : Packet) (arg : Nat) (data : List Byte) : State :=
  u.send k.srcRank (mkPacket 0x42 k.ctx (BitVec.ofNat 64 arg) k.opSeq data)

/-- A read of a shared stream of a context that is not IDLE, or of a fenced module. -/
theorem State.takeDepotRead_busy (shared : bit 63 k.w2 = true) (busy : (u.ctx k.ctx).st ≠ .idle ∨ u.rdN .fenceState ≠ 0) :
    u.takeDepotRead k = u.depotAnswer k (2 ^ 63 + bits 47 0 k.w2) [] := by
  unfold State.takeDepotRead
  rw [if_pos shared, if_pos (by simpa using busy)]
  rfl

/-- A read of a shared stream that finds its 4 KiB. -/
theorem State.takeDepotRead_shared {pa : Nat} {bs : List Byte} (shared : bit 63 k.w2 = true) (plain : bit 62 k.w2 = false)
    (idle : (u.ctx k.ctx).st = .idle) (unfenced : u.rdN .fenceState = 0) (found : u.sharedPa k.ctx (bits 47 0 k.w2) false = .ok pa)
    (read : u.readPa pa 4096 = .ok bs) : u.takeDepotRead k = u.depotAnswer k (bits 47 0 k.w2) bs := by
  unfold State.takeDepotRead
  rw [if_pos shared, if_neg (by simp [idle, unfenced]), if_neg (by simp [plain])]
  simp only [found, read, Except.bind, State.depotAnswer]

/-- What lets a read of a depot slot through: a requester that owns it, a range inside it, and memory that FABRIC reads reach. -/
structure State.DepotServes (u : State) (k : Packet) (i : Nat) : Prop where
  own     : bit 63 k.w2 = false
  partner : u.partnerOf k.srcRank = u.rdN .shxRank
  index   : 2 * u.sourceIndex k.srcRank + bits 48 48 k.w2 = i
  slot    : i < 8
  inside  : bits 47 0 k.w2 + 4096 ≤ u.rdN .depotSlotBytes
  reached : u.fabricOk false (u.depotSlot i + bits 47 0 k.w2) 4096 = true
  hashed  : u.fabricOk false (u.hashPa i (bits 47 0 k.w2 / 65536)) 8 = true

variable {i : Nat} (serves : u.DepotServes k i) {bs : List Byte} (read : u.readPa (u.depotSlot i + bits 47 0 k.w2) 4096 = .ok bs)
include serves read

/-- A read within a chunk. -/
theorem State.takeDepotRead_inner (inner : bits 47 0 k.w2 % 65536 ≠ 0) :
    u.takeDepotRead k = u.depotAnswer k (bits 47 0 k.w2) bs := by
  obtain ⟨own, partner, rfl, slot, inside, reached, hashed⟩ := serves
  unfold State.takeDepotRead
  rw [if_neg (by simp [own]), if_neg (by simp [partner, slot, inside]), if_neg (by simp [reached, hashed])]
  simp only [if_neg inner, pure_bind, read]
  rfl

/-- A read of a chunk's start is answered after the chunk's hash. -/
theorem State.takeDepotRead_start (start : bits 47 0 k.w2 % 65536 = 0)
    (clean : u.poisonIn (u.hashPa i (bits 47 0 k.w2 / 65536)) 8 = none) :
    u.takeDepotRead k = (u.depotAnswer k (2 ^ 62 + bits 47 0 k.w2) (u.bytesAt (u.hashPa i (bits 47 0 k.w2 / 65536)) 8)).depotAnswer k
      (bits 47 0 k.w2) bs := by
  obtain ⟨own, partner, rfl, slot, inside, reached, hashed⟩ := serves
  unfold State.takeDepotRead
  rw [if_neg (by simp [own]), if_neg (by simp [partner, slot, inside]), if_neg (by simp [reached, hashed])]
  simp only [if_pos start, State.readPa_ok clean, read]
  rfl

end

/-- Depot reads (R398, R399). -/
theorem depotReadAnswered : Sys2Proof.Claim.DepotReadAnswered := by
  intro k s bs pa heard u off i answer
  have asked : exec (.depotRd k) s = .next (u.takeDepotRead k) := congrArg Host.Outcome.next (heard.receive _)
  refine ⟨fun own partner slot inside data hash read => ?_, fun shared plain idle unfenced found read => ?_, fun shared busy => ?_⟩
  · have serves : u.DepotServes k i := ⟨own, partner, rfl, slot, inside, data, hash⟩
    exact ⟨fun inner => asked.trans (congrArg _ (State.takeDepotRead_inner serves read inner)),
      fun start clean => asked.trans (congrArg _ (State.takeDepotRead_start serves read start clean))⟩
  · exact asked.trans (congrArg _ (State.takeDepotRead_shared shared plain idle unfenced found read))
  · exact asked.trans (congrArg _ (State.takeDepotRead_busy shared busy))

section
variable {u : State} {i : Item} {x : Restore} {v : Prov}

/-- An answer that a `SNAPSHOT` waits for. -/
theorem State.takeDepotData_snapshot
    (found : (u.items.find? fun i =>
      i.desc.opcode = 13 && i.phase = .working && i.pos = [k.opSeq] && i.desc.nPartner = k.srcRank) = some i) :
    u.takeDepotData k = u.chunkAnswered i (bit 63 k.w2) := by
  simp only [State.takeDepotData, found]

variable (none : (u.items.find? fun i =>
  i.desc.opcode = 13 && i.phase = .working && i.pos = [k.opSeq] && i.desc.nPartner = k.srcRank) = none)
include none

/-- An answer that a restore slot waits for. -/
theorem State.takeDepotData_restore
    (found : (u.surv.restores.find? fun x => x.op = k.opSeq && x.peer = k.srcRank) = some x) :
    u.takeDepotData k = u.restoreTake x k := by
  simp only [State.takeDepotData, none, found]

variable (no_copy : (u.surv.restores.find? fun x => x.op = k.opSeq && x.peer = k.srcRank) = Option.none)
include no_copy

/-- An answer that the provenance check waits for. -/
theorem State.takeDepotData_prov (found : u.surv.prov = some v) (op : v.op = k.opSeq) (peer : v.peer = k.srcRank) :
    u.takeDepotData k = u.provTake v k := by
  simp only [State.takeDepotData, none, no_copy, found, op, peer, decide_true, Bool.and_self, if_true]

/-- An answer that nothing waits for. -/
theorem State.takeDepotData_unasked (idle : u.surv.prov = Option.none) : u.takeDepotData k = u := by
  simp only [State.takeDepotData, none, no_copy, idle]

end

/-- `DEPOT_DATA` by its operation. -/
theorem depotDataTaken : Sys2Proof.Claim.DepotDataTaken := by
  intro k s i x v heard u snap copy
  have taken : exec (.depotData k) s = .next (u.takeDepotData k).kick := congrArg Host.Outcome.next (heard.receive _)
  rw [taken]
  exact ⟨fun found => congrArg (fun t : State => Host.Outcome.next t.kick) (State.takeDepotData_snapshot found),
    fun none found => congrArg (fun t : State => Host.Outcome.next t.kick) (State.takeDepotData_restore none found),
    fun none no_copy found op peer => congrArg (fun t : State => Host.Outcome.next t.kick) (State.takeDepotData_prov none no_copy found op peer),
    fun none no_copy idle => congrArg (fun t : State => Host.Outcome.next t.kick) (State.takeDepotData_unasked none no_copy idle)⟩

/-! ## Restores and the provenance check (R398, R399) -/

/-- Restores start (R398). -/
theorem restoreStarts : Sys2Proof.Claim.RestoreStarts := by
  intro w0 w1 w2 w3 s bs busy
  simp only [exec_restoreReq, execRestoreReq, State.restoreStart]
  refine ⟨fun good free => ?_, fun bad => ?_⟩
  · rw [if_neg (by rw [show s.restoreBad _ = false from good]; decide), if_neg (by rw [show List.any _ _ = false from free]; decide), settle_ok]
  · by_cases broken : s.restoreBad bs = true
    · rw [if_pos broken]
      rfl
    · rw [if_neg broken, if_pos (bad.resolve_left broken)]
      rfl

/-- Provenance checks start (R399). -/
theorem provenanceStarts : Sys2Proof.Claim.ProvenanceStarts := by
  intro w s c
  simp only [exec_provReq, execProvReq, State.provStart]
  refine ⟨fun exists_ free => ?_, fun bad => ?_⟩
  · rw [if_neg (Nat.not_lt.mpr (Nat.le_of_lt_succ exists_)), if_neg (by simp [free]), settle_ok]
  · by_cases beyond : 15 < c
    · rw [if_pos beyond]
      rfl
    · rw [if_neg beyond, if_pos (Option.isSome_iff_ne_none.mpr (bad.resolve_left beyond))]
      rfl

end

/-- Settles O39: each packet by the branch of its judgement; the bits of reads and hash answers are DESIGN CHOICE 39, and a request while a check
runs is refused (DESIGN CHOICE 67). -/
theorem depotsAndRestores : Obligations.DepotsAndRestores :=
  ⟨depotChunkCompleted, depotWriteRefused, depotReadAnswered, depotDataTaken, restoreStarts, provenanceStarts⟩

end Sys2Proof.Machine
end

section
/-! PROOFS. The majority of a vote (O34), and the events of an edge (O9). -/

namespace Sys2Proof.Machine

/-! ## Verdicts (R386) -/

/-- The members that stand in two groups are at most all. -/
theorem length_filter_add_length_filter_le {α : Type} [DecidableEq α] {a b : α} (ne : a ≠ b) (l : List α) :
    (l.filter (· = a)).length + (l.filter (· = b)).length ≤ l.length := by
  rw [← List.countP_eq_length_filter, ← List.countP_eq_length_filter, List.length_eq_countP_add_countP (· = a)]
  refine Nat.add_le_add_left (List.countP_mono_left fun x _ is_b => ?_) _
  simp only [decide_eq_true_eq] at is_b ⊢
  exact fun is_a => ne (is_a ▸ is_b)

section
variable {s : State} {v : Vote} {g h : List W64} {n m : Nat}

/-- The members of two groups of a vote are at most all members. -/
theorem State.voteGroups_add_le (hg : (g, n) ∈ s.voteGroups v) (hh : (h, m) ∈ s.voteGroups v) (ne : g ≠ h) :
    n + m ≤ s.memberList.length := by
  obtain ⟨_, _, eg⟩ := List.mem_map.mp hg
  obtain ⟨_, _, eh⟩ := List.mem_map.mp hh
  obtain ⟨rfl, rfl⟩ := Prod.mk.inj eg
  obtain ⟨rfl, rfl⟩ := Prod.mk.inj eh
  exact (length_filter_add_length_filter_le ne _).trans_eq (List.length_map _)

/-- At most one group holds more than half of the members. -/
theorem State.majority_unique (hg : (g, n) ∈ s.voteGroups v) (hh : (h, m) ∈ s.voteGroups v) (most : s.memberList.length < 2 * n)
    (more : s.memberList.length < 2 * m) : h = g := by
  by_contra ne
  have := State.voteGroups_add_le hg hh (Ne.symm ne)
  omega

end

/-- Settles O34: the group found holds more than half of the members, and two such groups would hold more than all. -/
theorem majorityWins : Obligations.MajorityWins := by
  intro s v
  refine ⟨fun g n found => ?_, fun none => ?_⟩
  · have most : s.memberList.length < 2 * n := by simpa using List.find?_some found
    refine ⟨by simp only [State.verdictOf, found], most, fun g' n' member more => ?_⟩
    exact State.majority_unique (List.mem_of_find?_eq_some found) member most more
  · have nobody : ((s.voteGroups v).find? fun g => s.memberList.length < 2 * g.2) = Option.none := by
      rw [List.find?_eq_none]
      exact fun ⟨g, n⟩ member => by simpa using none g n member
    simp only [State.verdictOf, nobody]
    rfl

/-! ## Events of an edge (R456) -/

/-- An event put among others is one more of them. -/
theorem EventRec.insert_perm (e : EventRec) (l : List EventRec) : (e.insert l).Perm (e :: l) := by
  induction l with
  | nil => exact .refl _
  | cons x r ih =>
    rw [EventRec.insert]
    split
    · exact .refl _
    · exact (ih.cons x).trans (.swap e x r)

/-- An event put in its place keeps the order. -/
theorem EventRec.insert_sorted (e : EventRec) {l : List EventRec} (sorted : l.Pairwise fun a b => a.rank ≤ b.rank) :
    (e.insert l).Pairwise fun a b => a.rank ≤ b.rank := by
  induction l with
  | nil => exact List.pairwise_singleton ..
  | cons x r ih =>
    obtain ⟨first, rest⟩ := List.pairwise_cons.mp sorted
    rw [EventRec.insert]
    split
    case isTrue before =>
      refine List.pairwise_cons.mpr ⟨fun y hy => ?_, sorted⟩
      obtain rfl | hy := List.mem_cons.mp hy
      · exact before.le
      · exact before.le.trans (first y hy)
    case isFalse behind =>
      refine List.pairwise_cons.mpr ⟨fun y hy => ?_, ih rest⟩
      obtain rfl | hy := List.mem_cons.mp ((e.insert_perm r).mem_iff.mp hy)
      · exact Nat.le_of_not_lt behind
      · exact first y hy

/-- Numbering leaves the ranks. -/
theorem map_rank_numbered (q : W64) (l : List EventRec) : (numbered q l).map EventRec.rank = l.map EventRec.rank := by
  induction l generalizing q with
  | nil => rfl
  | cons e r ih => rw [numbered, List.map_cons, List.map_cons, ih]; rfl

/-- Numbered events take successive sequences. -/
theorem seq_of_numbered {q : W64} {l : List EventRec} {k : Nat} {x : EventRec} (h : (numbered q l)[k]? = some x) :
    x.seq = q + BitVec.ofNat 64 k := by
  induction l generalizing q k with
  | nil => simp [numbered] at h
  | cons e r ih =>
    cases k with
    | zero =>
      obtain rfl : { e with seq := q } = x := by simpa [numbered] using h
      simp
    | succ k =>
      rw [ih (by simpa [numbered] using h), BitVec.add_assoc]
      congr 1
      bv_omega

/-- The order of events is the order of their ranks. -/
theorem pairwise_rank_iff {l : List EventRec} :
    (l.Pairwise fun a b => a.rank ≤ b.rank) ↔ (l.map EventRec.rank).Pairwise (· ≤ ·) := List.pairwise_map.symm

section
variable {s : State} (code : Nat) (c : Option CtxId) (arg : Nat)

/-- The events of the present edge. -/
def State.edgeEvents (u : State) : List EventRec := u.events.drop (u.events.length - u.fresh)

/-- The events of the edge once another is raised: in their order, with the last sequences. -/
def State.edgeWith (s : State) (code : Nat) (c : Option CtxId) (arg : Nat) : List EventRec :=
  numbered (s.rd .eventNextSeq - BitVec.ofNat 64 s.fresh) ((s.newEvent code c arg).insert s.edgeEvents)

/-- The ring once an event is raised. -/
theorem State.raise_events : (s.raise code c arg).events =
    (s.events.take (s.events.length - s.fresh) ++ s.edgeWith code c arg).drop
      ((s.events.take (s.events.length - s.fresh) ++ s.edgeWith code c arg).length - 1024) := by
  simp only [State.raise, State.count, State.wrN, State.wr_events, State.edgeWith, State.edgeEvents]

theorem State.raise_fresh : (s.raise code c arg).fresh = min 1024 (s.fresh + 1) := by
  simp only [State.raise, State.count, State.wrN, State.wr_fresh]

/-- The next sequence goes up. -/
theorem State.raise_nextSeq : (s.raise code c arg).rd .eventNextSeq = s.rd .eventNextSeq + 1 := by
  simp only [State.raise, State.count, State.wrN_succ _ _ (show Obj.eventNextSeq.info.size = 8 from rfl), State.rd_wr_self]
  simp only [State.rd]

theorem State.map_rank_edgeWith :
    (s.edgeWith code c arg).map EventRec.rank = ((s.newEvent code c arg).insert s.edgeEvents).map EventRec.rank :=
  map_rank_numbered ..

theorem State.map_rank_edgeWith_perm :
    ((s.edgeWith code c arg).map EventRec.rank).Perm ((s.newEvent code c arg).rank :: s.edgeEvents.map EventRec.rank) := by
  rw [State.map_rank_edgeWith]
  exact (EventRec.insert_perm _ _).map EventRec.rank

theorem State.edgeWith_sorted (sorted : s.edgeEvents.Pairwise fun a b => a.rank ≤ b.rank) :
    (s.edgeWith code c arg).Pairwise fun a b => a.rank ≤ b.rank := by
  rw [pairwise_rank_iff, State.map_rank_edgeWith, ← pairwise_rank_iff]
  exact EventRec.insert_sorted _ sorted

/-- While the ring holds the edge whole, so it does with one event more. -/
theorem State.edgeEvents_raise (room : s.fresh < 1024) (whole : s.fresh ≤ s.events.length) :
    (s.raise code c arg).edgeEvents = s.edgeWith code c arg := by
  have edge : s.edgeEvents.length = s.fresh := by rw [State.edgeEvents, List.length_drop]; omega
  have more : (s.edgeWith code c arg).length = s.fresh + 1 := by
    have same := (s.map_rank_edgeWith_perm code c arg).length_eq
    simpa [edge] using same
  have before : (s.events.take (s.events.length - s.fresh)).length = s.events.length - s.fresh := by rw [List.length_take]; omega
  rw [State.edgeEvents, State.raise_fresh, State.raise_events, List.length_drop, List.drop_drop, List.length_append, before, more]
  refine (congrArg (List.drop · _) ?_).trans (List.drop_left' before)
  omega

end

/-- Settles O9: an event raised is inserted by its rank among those of its edge, which are then numbered with the last sequences (DESIGN
CHOICE 136). -/
theorem eventEntersRing : Obligations.EventEntersRing := by
  intro code c arg s t e edge
  have next : t.rd .eventNextSeq = s.rd .eventNextSeq + 1 := State.raise_nextSeq code c arg
  have told : Signals [] s t := (Signals.refl [] s).raise code c arg
  refine ⟨⟨rfl, rfl, rfl, by cases c <;> rfl⟩, fun first => ?_, fun room whole _ sorted => ?_, ?_, ?_, told.mem, told.ctxs, told.items⟩
  · have edge_one : s.edgeWith code c arg = [{ e with seq := s.rd .eventNextSeq }] := by
      simp [State.edgeWith, State.edgeEvents, first, EventRec.insert, numbered, e]
    rw [State.raise_events, edge_one, first, Nat.sub_zero, List.take_length, List.length_append, List.length_singleton]
  · have now : edge t = s.edgeWith code c arg := State.edgeEvents_raise code c arg room whole
    rw [now]
    refine ⟨?_, State.edgeWith_sorted code c arg sorted, State.map_rank_edgeWith_perm code c arg, fun k x at_k => ?_⟩
    · rw [State.raise_fresh]
      omega
    · have inside : k < s.fresh + 1 := by
        have := (List.getElem?_eq_some_iff.mp at_k).1
        have same := (s.map_rank_edgeWith_perm code c arg).length_eq
        simp only [List.length_map, List.length_cons, State.edgeEvents, List.length_drop] at same
        omega
      rw [seq_of_numbered at_k, next]
      bv_omega
  · rw [State.rdN, next, BitVec.toNat_add]
    rfl
  · rw [State.raise_events, List.length_drop]
    omega

end Sys2Proof.Machine
end

section
/-! PROOFS. Power states, saves and supply (O51, O52). -/

namespace Sys2Proof.Machine

/-! ## What the operations over the power state leave -/

/-- A key whose entries a filter leaves in a store holds what it held. -/
theorem Store.get_filter_of_kept {α : Type} (d : Nat → α) (m : Store α) {p : Nat × α → Bool} {k : Nat} (kept : ∀ v, p (k, v) = true) :
    Store.get d (m.filter p) k = Store.get d m k := by
  induction m with
  | nil => rfl
  | cons e m ih =>
    obtain ⟨j, v⟩ := e
    by_cases same : k = j
    · subst same
      rw [List.filter_cons_of_pos (kept v), Store.get, Store.get, if_pos rfl, if_pos rfl]
    · rw [List.filter_cons]
      split
      · rw [Store.get, Store.get, if_neg same, if_neg same, ih]
      · rw [ih, Store.get, if_neg same]

section
variable (s : State)

/-- The power state written is read back. -/
theorem State.toPwr_pwrState {st : Nat} (h : st < 256) : (s.toPwr st).rdN .pwrState = st := by
  rw [State.toPwr, State.rdN_wrN_self _ (by decide)]
  exact Nat.mod_eq_of_lt h

/-- The power state written leaves every other entry. -/
theorem State.toPwr_rd {st n e : Nat} {o : Obj} (other : o.ctorIdx ≠ Obj.pwrState.ctorIdx) : (s.toPwr st).rd o n e = s.rd o n e :=
  State.rd_wr_other s other ..

/-- An event of the chapter on power is a signal. -/
theorem State.pwrEvent_signals (code arg b : Nat) : Signals [.pwrStatus] s (s.pwrEvent code arg b) :=
  ((Signals.refl _ s).setFlag (by simp) _ _).raise _ _ _

/-- All work stopped: the power state's entry and memory stay. -/
theorem State.stopWork_rd {n e : Nat} {o : Obj} (link : o.ctorIdx ≠ Obj.hostLink.ctorIdx) (status : o.ctorIdx ≠ Obj.hostStatus.ctorIdx) :
    s.stopWork.rd o n e = s.rd o n e := by
  unfold State.stopWork State.linkLost State.markFlag State.setBit
  refine (State.rd_wr_other _ status ..).trans ((State.rd_wr_other _ link ..).trans rfl)

@[simp] theorem State.stopWork_ctxs : s.stopWork.ctxs = [] := rfl
@[simp] theorem State.stopWork_items : s.stopWork.items = [] := rfl
@[simp] theorem State.stopWork_mem : s.stopWork.mem = s.mem := rfl
@[simp] theorem State.stopWork_strong : s.stopWork.strong = s.strong := rfl
@[simp] theorem State.stopWork_power : s.stopWork.power = { s.power with bypass := true, h := 0 } := rfl

end

/-! ## OFF and STANDBY (R462) -/

section
variable {s : State}

/-- In OFF an entry of the strongroom is as it was. -/
theorem State.off_rd_strongroom {o : Obj} (strong : o.info.cls = .strongroom) (n e : Nat) : s.off.rd o n e = s.rd o n e := by
  have other : o.ctorIdx ≠ Obj.pwrState.ctorIdx := fun same => by
    rw [Obj.ctorIdx_inj same] at strong
    exact absurd strong (by decide)
  refine (State.toPwr_rd _ other).trans (Store.get_filter_of_kept _ _ fun v => ?_)
  exact decide_eq_true (by rw [codeClass, regObj_regCode, strong])

/-- In OFF every other entry is at its default. -/
theorem State.off_rd_default {o : Obj} (weak : o.info.cls ≠ .strongroom) (other : o ≠ .pwrState) (n e : Nat) :
    s.off.rd o n e = regDefault (regCode o n e) := by
  refine (State.toPwr_rd _ fun same => other (Obj.ctorIdx_inj same)).trans (Store.get_filter_of_dropped _ _ fun v => ?_)
  exact decide_eq_false (by rw [codeClass, regObj_regCode]; exact weak)

/-- In OFF the power state is 0. -/
theorem State.off_pwrState : s.off.rdN .pwrState = 0 := State.toPwr_pwrState _ (by decide)

/-- A module in OFF whose store write was not under way has its copies. -/
theorem State.off_copies (quiet : s.storing = false) : s.off.copyA = s.copyA ∧ s.off.copyB = s.copyB := by
  have same : (if s.storing = true then s.setOldCopy StoreCopy.torn else s) = s := if_neg (by simp [quiet])
  show (if s.storing = true then s.setOldCopy StoreCopy.torn else s).copyA = _ ∧
    (if s.storing = true then s.setOldCopy StoreCopy.torn else s).copyB = _
  rw [same]
  exact ⟨rfl, rfl⟩

/-- Power-up that starts. -/
theorem State.tryPower_starts (standby : s.rdN .pwrState = 1) (qualified : s.power.qualified = true) (trip : s.power.tripLatch = false)
    (volts : s.power.overLatch = false) (wait : s.power.retryWait = false) (tries : s.power.exhausted = false) :
    s.tryPower = ({ s with power := { s.power with group := 0, unprot := false } } : State).toPwr 2 := by
  unfold State.tryPower
  exact if_pos (by simp [standby, qualified, trip, volts, wait, tries])

/-- Power-up starts in STANDBY alone. -/
theorem State.tryPower_elsewhere (other : s.rdN .pwrState ≠ 1) : s.tryPower = s := by
  unfold State.tryPower
  exact if_neg (by simp [other])

end

/-- Standby power (R462). -/
theorem standbyEntered : Sys2Proof.Claim.StandbyEntered := by
  intro straps s t u
  have state : t.rdN .pwrState = s.rdN .pwrState := rfl
  refine ⟨fun off => ?_, fun on => ?_⟩
  · have comes : exec (.standbyPower straps) s = .next (t.loadDict.emit (.addressProbe t.loadDict.ownIid)).toStandby :=
      if_neg (not_not.mpr (state.trans off))
    rw [comes, State.toStandby, if_pos (show (t.loadDict.emit _).power.standby = true from rfl)]
    rfl
  · exact if_pos (state ▸ on)

/-- Standby power lost (R462). -/
theorem standbyLost : Sys2Proof.Claim.StandbyLost := by
  intro s t
  refine ⟨fun low => ⟨t.off, if_pos low, State.off_pwrState, rfl, rfl, rfl, rfl, fun quiet => State.off_copies (s := t) quiet,
    fun o n e strong => State.off_rd_strongroom strong n e, fun o n e weak other => State.off_rd_default weak other n e⟩, fun high => ?_⟩
  exact if_neg (Nat.not_le.mpr high)

/-- The main input (R462). -/
theorem inputQualified : Sys2Proof.Claim.InputQualified := by
  intro s t
  refine ⟨fun standby trip volts wait tries => ?_, fun other => ?_⟩
  · exact ⟨_, congrArg Host.Outcome.next (State.tryPower_starts (s := t) standby rfl trip volts wait tries),
      State.toPwr_pwrState _ (by decide), rfl⟩
  · exact congrArg Host.Outcome.next (State.tryPower_elsewhere (s := t) other)

/-! ## The power-up sequence (R460–R464) -/

section
variable {s : State} {micros : W32}

/-- The hold-up capacitor that is raised as low leaves the power state. -/
theorem State.holdupLow_pwrState (s : State) : s.holdupLow.rdN .pwrState = s.rdN .pwrState := by
  have told := s.pwrEvent_signals 0x42 (s.rdN .holdupUf) 3
  unfold State.holdupLow
  generalize s.pwrEvent 0x42 (s.rdN .holdupUf) 3 = v at told ⊢
  exact told.rdN 0 0 (by decide)

/-- It leaves the group that is awaited. -/
theorem State.holdupLow_group (s : State) : s.holdupLow.power.group = s.power.group := by
  have told := s.pwrEvent_signals 0x42 (s.rdN .holdupUf) 3
  unfold State.holdupLow
  generalize s.pwrEvent 0x42 (s.rdN .holdupUf) 3 = v at told ⊢
  exact (congrArg Power.group told.power :)

/-- Power-up goes on to rail group 1. -/
def State.toGroupOne (v : State) : Host.Outcome State Fault Refusal :=
  if v.rdN .pwrState = 2 && v.power.group = 0 then .next { v with power := { v.power with group := 1 } } else .next v

/-- `HOLDUP_CHARGED` of a module with power. -/
theorem execHoldupCharged_powered (powered : s.rdN .pwrState ≠ 0) (reached : Bool) :
    let t := if reached then s.wrN .holdupUf 0 0 (micros.toNat / 20) else s
    execHoldupCharged micros reached s = (if !reached || t.rdN .holdupUf < 1350 then t.holdupLow else t).toGroupOne := if_neg powered

/-- Power-up goes on with the capacitor charged. -/
theorem State.toGroupOne_awaited (powering : s.rdN .pwrState = 2) (first : s.power.group = 0) :
    s.toGroupOne = .next { s with power := { s.power with group := 1 } } := by
  unfold State.toGroupOne
  exact if_pos (by simp [powering, first])

/-- Power-up goes on without protection. -/
theorem State.toGroupOne_low (powering : s.rdN .pwrState = 2) (first : s.power.group = 0) :
    s.holdupLow.toGroupOne = .next { s.pwrEvent 0x42 (s.rdN .holdupUf) 3 with
      power := { (s.pwrEvent 0x42 (s.rdN .holdupUf) 3).power with unprot := true, group := 1 } } := by
  rw [State.toGroupOne_awaited (s.holdupLow_pwrState.trans powering) (s.holdupLow_group.trans first)]
  unfold State.holdupLow
  generalize s.pwrEvent 0x42 (s.rdN .holdupUf) 3 = v
  rfl

end

/-- Power-up (R461, R462). -/
theorem powerUpSequence : Sys2Proof.Claim.PowerUpSequence := by
  intro micros g s powering
  refine ⟨fun first small => ?_, fun some_group awaited => ⟨fun more => ?_, fun last => ?_⟩⟩
  · intro t low goes
    have powered : s.rdN .pwrState ≠ 0 := by omega
    have state : t.rdN .pwrState = 2 := by
      have same : t.rd .pwrState = s.rd .pwrState := State.rd_wr_other s (by decide) ..
      rw [State.rdN, same]
      exact powering
    have shown : t.rdN .holdupUf = micros.toNat / 20 := by
      have size : Obj.holdupUf.info.size = 4 := rfl
      rw [State.rdN_wrN_self _ (by decide), size]
      omega
    refine ⟨fun enough => ?_, fun little => ?_, ?_⟩
    · have good : ¬ (!true || decide (t.rdN .holdupUf < 1350)) = true := by simp [shown, enough]
      exact (execHoldupCharged_powered powered true).trans ((congrArg State.toGroupOne (if_neg good)).trans
        (State.toGroupOne_awaited state first))
    · have bad : (!true || decide (t.rdN .holdupUf < 1350)) = true := by simp [shown, little]
      exact (execHoldupCharged_powered powered true).trans ((congrArg State.toGroupOne (if_pos bad)).trans
        (State.toGroupOne_low state first))
    · exact (execHoldupCharged_powered powered false).trans (State.toGroupOne_low powering first)
  · rw [exec_railGroupRegulated, execRailGroupRegulated, if_neg (by simp [powering, some_group, ← awaited]), if_pos more]
  · rw [exec_railGroupRegulated, execRailGroupRegulated, if_neg (by simp [powering, some_group, ← awaited]), if_neg (by omega)]

/-- A fault of power-up, and the next try (R463). -/
theorem powerFaultRetries : Sys2Proof.Claim.PowerFaultRetries := by
  intro g s
  refine ⟨fun powering some_group awaited => ?_, fun waits => ?_⟩
  · rw [exec_pwrFault, execPwrFault, if_neg (by simp [powering, some_group, ← awaited])]
  · rw [exec_pwrRetryTimer, execPwrRetryTimer, if_pos waits]

/-- Settles O51: each step of the power-up by the branch of its command; the dictionary that STANDBY loads is DEDUCED 106, the states of a retry
DEDUCED 107. -/
theorem powerUpAndDown : Obligations.PowerUpAndDown :=
  ⟨standbyEntered, standbyLost, inputQualified, powerUpSequence, powerFaultRetries⟩

/-! ## Saves (R464, R465) -/

/-- Warnings of the supply (R460). -/
theorem supplyWatched : Sys2Proof.Claim.SupplyWatched := by
  intro mv s powered
  rw [exec_supplyWarn, execSupplyWarn, if_neg powered, exec_sagGlitch, execSagGlitch, if_neg powered]
  exact ⟨rfl, rfl⟩

section
variable {s : State} {cause : Nat}

/-- A save in ON. -/
theorem State.beginSave_on (on : s.rdN .pwrState = 3) :
    s.beginSave cause = ({ (s.count .sagSeq).stopWork with
      power := { (s.count .sagSeq).stopWork.power with
        saveCause := cause, saveTime := (s.count .sagSeq).rd .globalTime, collected := (s.count .sagSeq).collect
        resetting := false } } : State).toPwr 4 := by
  unfold State.beginSave
  exact if_neg (not_not.mpr on)

/-- A save starts in ON alone. -/
theorem State.beginSave_elsewhere (other : s.rdN .pwrState ≠ 3) : s.beginSave cause = s := by
  unfold State.beginSave
  exact if_pos other

/-- The module that has begun a save from a state: it is SAVING, its work has stopped, the critical state is collected, the latches stay. -/
structure State.Saves (s t : State) (cause : Nat) : Prop where
  state     : t.rdN .pwrState = 4
  cause     : t.power.saveCause = cause
  overLatch : t.power.overLatch = s.power.overLatch
  tripLatch : t.power.tripLatch = s.power.tripLatch
  items     : t.items = []
  ctxs      : t.ctxs = []
  mem       : t.mem = s.mem
  seq       : t.rdN .sagSeq = (s.rdN .sagSeq + 1) % 2 ^ 64
  collected : t.power.collected = (s.count .sagSeq).collect

/-- A save begins in ON. -/
theorem State.beginSave_saves (on : s.rdN .pwrState = 3) : s.Saves (s.beginSave cause) cause := by
  rw [State.beginSave_on on]
  have power : (s.count .sagSeq).stopWork.power = { s.power with bypass := true, h := 0 } := rfl
  refine ⟨State.toPwr_pwrState _ (by decide), rfl, (congrArg Power.overLatch power :), (congrArg Power.tripLatch power :), rfl, rfl,
    State.stopWork_mem _, ?_, rfl⟩
  rw [State.rdN, State.toPwr_rd _ (by decide)]
  refine (congrArg BitVec.toNat (State.stopWork_rd (s.count .sagSeq) (by decide) (by decide))).trans ?_
  exact State.rdN_wrN_self s (by decide) ..

end

/-- Saves begin (R465, R466). -/
theorem saveBegins : Sys2Proof.Claim.SaveBegins := by
  intro mv s a b b'
  refine ⟨fun on => ?_, fun saving => ⟨?_, ?_⟩, fun powering => ?_⟩
  · have told : Signals [.inputMv] s b := ((Signals.refl _ s).wrN (by simp) 0 0 _).raise _ _ _
    have state : b'.rdN .pwrState = 3 := by
      simp only [b', State.rdN, State.setPower_rd]
      exact (told.rdN 0 0 (by decide)).trans on
    have seq : b'.rdN .sagSeq = s.rdN .sagSeq := by
      simp only [b', State.rdN, State.setPower_rd]
      exact told.rdN 0 0 (by decide)
    have sag : exec .sag s = .next (a.beginSave 1) := if_neg (show ¬ a.rdN .pwrState = 2 from by rw [show a.rdN .pwrState = 3 from on]; decide)
    have volts : exec (.overvoltage mv) s = .next (b'.beginSave 4) := if_neg (not_not.mpr on)
    have first : a.Saves (a.beginSave 1) 1 := State.beginSave_saves on
    have second : b'.Saves (b'.beginSave 4) 4 := State.beginSave_saves state
    exact ⟨_, _, sag, volts, first.state, second.state, first.cause, second.cause, second.overLatch, first.items, second.items, first.ctxs,
      second.ctxs, first.mem, second.mem.trans told.mem, first.seq, second.seq.trans (by rw [seq]), first.collected, second.collected⟩
  · have away : a.rdN .pwrState = 4 := saving
    have sag : exec .sag s = .next (a.beginSave 1) := if_neg (by rw [away]; decide)
    rw [sag, State.beginSave_elsewhere (by rw [away]; decide)]
  · exact if_pos (by rw [saving]; decide)
  · exact if_pos powering

/-! ## Power-down (R464) -/

/-- A module that is down: no memory, at most powering up, with a strongroom. -/
structure State.Down (g : Strongroom) (s : State) : Prop where
  strong : s.strong = g
  mem    : s.mem = []
  state  : s.rdN .pwrState ≤ 2

section
variable {g : Strongroom} {s : State}

/-- A try to power up leaves a module down. -/
theorem State.Down.tryPower (down : s.Down g) : s.tryPower.Down g := by
  unfold State.tryPower
  dsimp only
  split
  · exact ⟨down.strong, down.mem, (State.toPwr_pwrState _ (by decide)).le⟩
  · exact down

/-- A reset begun in a module that is down leaves it so. -/
theorem State.Down.beginReset (down : s.Down g) (cause : Nat) (cold : Bool) : (s.beginReset cause cold).Down g := by
  refine ⟨down.strong, down.mem, ?_⟩
  have state : (s.beginReset cause cold).rdN .pwrState = s.rdN .pwrState := by
    refine congrArg BitVec.toNat ((State.rd_wr_other _ (by decide) ..).trans ?_)
    exact State.stopWork_rd s (by decide) (by decide)
  exact state.le.trans down.state

/-- A reset source of a module that is down leaves it so. -/
theorem State.Down.startReset (down : s.Down g) (cause : Nat) (cold : Bool) : (s.startReset cause cold).Down g := by
  have awake : ¬ s.rdN .pwrState = 4 := by have := down.state; omega
  unfold State.startReset
  dsimp only
  rw [if_neg awake]
  split
  · exact down
  · split
    · exact down.beginReset cause cold
    · split
      · split
        · exact ⟨down.strong, down.mem, down.state⟩
        · exact down
      · split
        · exact down.beginReset cause cold
        · exact down

/-- What a source of a save does leaves the module down. -/
theorem State.Down.actAfter (down : s.Down g) (e : Nat × Bool) : (s.actAfter e).Down g := by
  unfold State.actAfter
  split
  · exact State.Down.tryPower ⟨down.strong, down.mem, down.state⟩
  · exact down.startReset ..

/-- A module in STANDBY, or in OFF, is down. -/
theorem State.Down.toStandby (strong : s.strong = g) (mem : s.mem = []) : s.toStandby.Down g := by
  unfold State.toStandby
  split
  · refine State.Down.tryPower ⟨strong, mem, ?_⟩
    have state : ((s.toPwr 1).sampleStraps).rdN .pwrState = 1 := by
      have same : ((s.toPwr 1).sampleStraps).rd .pwrState = (s.toPwr 1).rd .pwrState := State.rd_wr_other _ (by decide) ..
      rw [State.rdN, same]
      exact State.toPwr_pwrState s (by decide)
    exact state.le.trans (by decide)
  · exact ⟨strong, rfl, State.off_pwrState.le.trans (by decide)⟩

/-- Power-down leaves a module down, with its strongroom. -/
theorem State.powerDown_down (s : State) : s.powerDown.Down s.strong := by
  unfold State.powerDown
  generalize s.power.after = late
  dsimp only
  have start : (State.toStandby { s.stopWork with
      mem := [], prior := [], poison := [], scratch := 0
      power := { s.stopWork.power with resetting := false, after := [] } }).Down s.strong := State.Down.toStandby rfl rfl
  revert start
  generalize State.toStandby _ = t
  intro down
  induction late generalizing t with
  | nil => exact down
  | cons e late ih => exact ih _ (down.actAfter e)

end

/-- Saves end (R466, R468). -/
theorem saveEnds : Sys2Proof.Claim.SaveEnds := by
  intro cycles s saving
  have ends (r : List Byte) : ∃ t : State, s.endSave r = t ∧ t.strong.records = (r :: s.strong.records).take 2 ∧ t.mem = [] ∧
      t.rdN .pwrState ≤ 2 := by
    refine ⟨_, if_neg (not_not.mpr saving), ?_⟩
    have down := State.powerDown_down { s with
      strong := { s.strong with records := (r :: s.strong.records).take 2 }
      power := { s.power with lastSave := s.power.saveCause, collected := [] } }
    exact ⟨congrArg Strongroom.records down.strong, down.mem, down.state⟩
  obtain ⟨t, whole, records, mem, state⟩ := ends (s.sagRecord cycles.toNat)
  obtain ⟨u, torn, records', mem', state'⟩ := ends []
  exact ⟨t, u, congrArg Host.Outcome.next whole, congrArg Host.Outcome.next torn, records, records', mem, mem', state, state'⟩

/-- Settles O52: a save is one collection and one stop of all work, and every end of it powers the module down. -/
theorem savesAndSupply : Obligations.SavesAndSupply := ⟨supplyWatched, saveBegins, saveEnds⟩

end Sys2Proof.Machine
end

section
/-! PROOFS. The thermal sample, module reset and its sources (O53, O54, O55). -/

namespace Sys2Proof.Machine

/-! ## The thermal sample (R470) -/

section
variable {t : ThermalData} {s : State}

/-- The readings leave what the trip and the throttle are judged by. -/
theorem State.takeReadings_rd {o : Obj} (other : isReading o = false) (n e : Nat) : (s.takeReadings t).rd o n e = s.rd o n e := by
  have apart (r : Obj) (reading : isReading r = true) : o.ctorIdx ≠ r.ctorIdx := fun same => by
    rw [Obj.ctorIdx_inj same, reading] at other
    exact Bool.noConfusion other
  have die (v : State) (i x : Nat) : (v.wrN .tjMaxC 0 i x).rd o n e = v.rd o n e := State.rd_wr_other v (apart .tjMaxC (by decide)) ..
  unfold State.takeReadings
  simp only [State.wrN, State.rd_wr_other _ (apart .coolantInC (by decide)), State.rd_wr_other _ (apart .inputMv (by decide)),
    State.rd_wr_other _ (apart .inputMw (by decide)), State.rd_wr_other _ (apart .stbyMv (by decide)),
    State.rd_wr_other _ (apart .holdupMv (by decide))]
  exact foldl_keeps (·.rd o n e) (fun v (x : BitVec 16 × Nat) => die v x.2 x.1.toNat) _ s

theorem State.takeReadings_power : (s.takeReadings t).power = s.power := by
  unfold State.takeReadings
  simp only [State.wrN, State.wr_power]
  refine foldl_keeps State.power ?_ _ s
  exact fun _ _ => rfl

/-- The throttle's step. -/
def throttleStep (s : State) (t : ThermalData) : Nat :=
  let limit : Int := 10 * s.rdN .tjThrottleC
  let cap := 1000 * s.rdN .powerCap
  if (tjList t).any (fun x => limit ≤ x.toInt) || cap < t.inMw.toNat then min 7 (s.power.h + 1)
  else if ((tjList t).all fun x => x.toInt + 30 ≤ limit) && 100 * t.inMw.toNat ≤ 98 * cap then s.power.h - 1 else s.power.h

/-- The throttle sets its step, and a signal may say so. -/
theorem State.throttle_signals : Signals [.pwrStatus] (s.setPower { s.power with h := throttleStep s t }) (s.throttle t) := by
  unfold State.throttle
  exact Signals.ite (State.pwrEvent_signals ..) (Signals.refl ..)

theorem State.throttle_power : (s.throttle t).power = { s.power with h := throttleStep s t } := State.throttle_signals.power

/-- The throttle leaves the power state. -/
theorem State.throttle_pwrState : (s.throttle t).rdN .pwrState = s.rdN .pwrState :=
  State.throttle_signals.rdN 0 0 (by decide)

/-- The coolant's judgement counts, and a signal may say so. -/
theorem State.coolant_signals : ∃ n, Signals [.pwrStatus] (s.setPower { s.power with hotRun := n }) (s.coolant t) := by
  unfold State.coolant
  exact ⟨_, Signals.ite (State.pwrEvent_signals ..) (Signals.refl ..)⟩

/-- A die at 105 °C in a second sample is found. -/
theorem exists_trip_run {runs : List Nat} {d : Fin 4} (before : 1 ≤ runs.getD d.val 0) (hot : 1050 ≤ ((tjList t).getD d.val 0).toInt) :
    ∃ k, ((tjList t).zipIdx.map fun e => if 1050 ≤ e.1.toInt then runs.getD e.2 0 + 1 else 0).findIdx? (2 ≤ ·) = some k := by
  rw [← Option.isSome_iff_exists, List.findIdx?_isSome, List.any_eq_true]
  refine ⟨runs.getD d.val 0 + 1, List.mem_map.mpr ⟨((tjList t).getD d.val 0, d.val), ?_, if_pos hot⟩, decide_eq_true (by omega)⟩
  fin_cases d <;> simp [tjList]

/-- A trip latches and starts a save. -/
theorem State.trip_saves {d : Fin 4} (on : s.rdN .pwrState = 3) (clear : s.power.tripLatch = false) (before : 1 ≤ s.power.tripRun.getD d.val 0)
    (hot : 1050 ≤ ((tjList t).getD d.val 0).toInt) :
    (s.trip t).rdN .pwrState = 4 ∧ (s.trip t).power.tripLatch = true ∧ (s.trip t).power.saveCause = 2 := by
  obtain ⟨k, found⟩ := exists_trip_run before hot
  unfold State.trip
  dsimp only
  rw [found]
  dsimp only
  generalize was : s.setPower _ = u
  have state : u.rdN .pwrState = 3 := by rw [← was]; exact on
  have latch : u.power.tripLatch = false := by rw [← was]; exact clear
  have told : Signals [] u (u.raise 0x44 none k) := (Signals.refl _ _).raise _ _ _
  rw [if_neg (by simp [state, latch])]
  generalize u.raise 0x44 none k = v at told ⊢
  have saves : ({ v with power := { v.power with tripLatch := true } } : State).Saves
      (State.beginSave { v with power := { v.power with tripLatch := true } } 2) 2 :=
    State.beginSave_saves ((told.rdN 0 0 (by decide)).trans state)
  exact ⟨saves.state, saves.tripLatch, saves.cause⟩

end

/-- The sample (R470). -/
theorem sampleShown : Sys2Proof.Claim.SampleShown := by
  intro t s powered u
  have shown : exec (.thermalSample t) s = .next (((if u.running then u.throttle t else u).trip t).coolant t) := by
    rw [exec_thermalSample, execThermalSample, if_neg powered]
  have power : u.power = s.power := State.takeReadings_power
  have pwr : u.rdN .pwrState = s.rdN .pwrState := congrArg BitVec.toNat (State.takeReadings_rd (by decide) 0 0)
  have running : u.running = s.running := by rw [State.running, State.running, pwr, power]
  refine ⟨fun runs => ?_, fun halted => ?_, fun d on clear before hot => ⟨_, shown, ?_⟩⟩
  · rw [shown, if_pos (running.trans runs)]
  · rw [shown, if_neg (by rw [running, halted]; decide)]
  · obtain ⟨n, told⟩ := State.coolant_signals (s := (if u.running then u.throttle t else u).trip t) (t := t)
    have judged : (if u.running then u.throttle t else u).rdN .pwrState = 3 ∧
        (if u.running then u.throttle t else u).power.tripLatch = false ∧
        (if u.running then u.throttle t else u).power.tripRun = s.power.tripRun := by
      split
      · rw [State.throttle_pwrState, State.throttle_power, power]
        exact ⟨pwr.trans on, clear, rfl⟩
      · rw [power]
        exact ⟨pwr.trans on, clear, rfl⟩
    obtain ⟨state, latch, run⟩ := judged
    obtain ⟨saving, latched, cause⟩ := State.trip_saves (t := t) (d := d) state latch (by rw [run]; exact before) hot
    refine ⟨(told.rdN 0 0 (by decide)).trans saving, ?_, ?_⟩
    · rw [told.power]; exact latched
    · rw [told.power]; exact cause

/-- The throttle (R470). -/
theorem throttleSteps : Sys2Proof.Claim.ThrottleSteps := by
  intro t s limit hot heavy cool
  have step : (s.throttle t).power.h = throttleStep s t := congrArg Power.h State.throttle_power
  have rises : ((tjList t).any (fun x => limit ≤ x.toInt) || decide (1000 * s.rdN .powerCap < t.inMw.toNat)) = true ↔ hot ∨ heavy := by
    simp [hot, heavy]
  have falls : (((tjList t).all fun x => x.toInt + 30 ≤ limit) && decide (100 * t.inMw.toNat ≤ 98 * (1000 * s.rdN .powerCap))) = true ↔
      cool := by simp [cool]
  rw [step]
  refine ⟨fun up => if_pos (rises.mpr up), fun not_hot light clear => ?_, fun not_hot light warm => ?_⟩
  · exact (if_neg (mt rises.mp (not_or.mpr ⟨not_hot, light⟩))).trans (if_pos (falls.mpr clear))
  · exact (if_neg (mt rises.mp (not_or.mpr ⟨not_hot, light⟩))).trans (if_neg (mt falls.mp warm))

/-- Settles O53: the sample is its readings, the throttle, the trip and the coolant in turn; a second hot sample ends in a save. -/
theorem thermalSample : Obligations.ThermalSample := ⟨sampleShown, throttleSteps⟩

/-! ## Reset sources (R471) -/

/-- Resets asked for (R471). -/
theorem moduleResetAsked : Sys2Proof.Claim.ModuleResetAsked := by
  intro s code cold rest
  refine ⟨?_, fun trip volts => ?_, fun asked => ?_, fun none => ?_⟩
  · simp [execModuleResetWarm, State.moduleReset, settle_ok]
  · simp [execModuleResetCold, State.moduleReset, trip, volts, settle_ok]
  · rw [exec_moduleResetDelay, execModuleResetDelay, asked]
  · rw [exec_moduleResetDelay, execModuleResetDelay, none]

/-- The latches cleared (R462, R465). -/
theorem latchesCleared : Sys2Proof.Claim.LatchesCleared := by
  intro s held
  have held' : (s.power.tripLatch || s.power.overLatch) = true := by simpa using held
  have asked : s.moduleReset 2 = if !s.latchClearable then (.state, s)
      else if s.rdN .pwrState = 4 then (.ok, { s with power := { s.power with after := s.power.after.concat (9, true) } })
      else (.ok, s.clearLatches) := by
    simp [State.moduleReset, held']
  rw [exec_moduleResetCold, execModuleResetCold, asked]
  refine ⟨fun cool other => ?_, fun cool saving => ?_, fun hot => ?_⟩
  · rw [if_neg (by simp [cool]), if_neg other, settle_ok, State.clearLatches]
  · rw [if_neg (by simp [cool]), if_pos saving, settle_ok, List.concat_eq_append]
  · rw [if_pos (by simp [hot])]
    rfl

section
variable {s : State} {cause : Nat} {cold : Bool}

/-- A reset begun: its cause and kind stand, all work has stopped, and memory stays. -/
theorem State.beginReset_facts : (s.beginReset cause cold).power.resetting = true ∧ (s.beginReset cause cold).power.cause = cause ∧
    (s.beginReset cause cold).power.cold = cold ∧ (s.beginReset cause cold).power.perst = s.power.perst ∧
    (s.beginReset cause cold).items = [] ∧ (s.beginReset cause cold).mem = s.mem := by
  unfold State.beginReset
  dsimp only
  exact ⟨rfl, rfl, rfl, rfl, rfl, s.stopWork_mem⟩

/-- A source of a running module begins a reset. -/
theorem State.startReset_running (on : s.rdN .pwrState = 3) (idle : s.power.resetting = false) :
    s.startReset cause cold = s.beginReset cause cold := by
  simp [State.startReset, on, idle]

/-- A source that comes while the module is SAVING is kept. -/
theorem State.startReset_saving (saving : s.rdN .pwrState = 4) :
    s.startReset cause cold = { s with power := { s.power with after := s.power.after ++ [(cause, cold)] } } := by
  simp [State.startReset, saving]

end

/-- Reset sources (R465, R471). -/
theorem resetSources : Sys2Proof.Claim.ResetSources := by
  intro s
  refine ⟨fun runs => ?_, fun saving => ?_, rfl⟩
  · obtain ⟨on, idle⟩ : s.rdN .pwrState = 3 ∧ s.power.resetting = false := by simpa [State.running] using runs
    have told : Signals [] s (s.raise 0x47 none 0) := (Signals.refl _ s).raise _ _ _
    have dog : exec .watchdogExpiry s = .next (s.beginReset 6 false) := congrArg Host.Outcome.next (State.startReset_running on idle)
    have perst : exec .perstAssert s = .next (({ s with power := { s.power with perst := true } } : State).beginReset 7 false) :=
      congrArg Host.Outcome.next (State.startReset_running (s := { s with power := { s.power with perst := true } }) on idle)
    have pll : exec .pllUnlock s = .next ((s.raise 0x47 none 0).beginReset 5 true) := by
      rw [exec_pllUnlock, execPllUnlock, if_neg (by rw [on]; decide),
        State.startReset_running ((told.rdN 0 0 (by decide)).trans on) (told.power ▸ idle)]
    obtain ⟨t1, t2, t3, _, t5, t6⟩ := State.beginReset_facts (s := s) (cause := 6) (cold := false)
    obtain ⟨u1, u2, u3, u4, u5, u6⟩ :=
      State.beginReset_facts (s := { s with power := { s.power with perst := true } }) (cause := 7) (cold := false)
    obtain ⟨v1, v2, v3, _, v5, v6⟩ := State.beginReset_facts (s := s.raise 0x47 none 0) (cause := 5) (cold := true)
    exact ⟨_, _, _, dog, perst, pll, t1, t2, t3, u1, u2, u3, u4, v1, v2, v3, t5, u5, v5, t6, u6, v6.trans told.mem⟩
  · exact congrArg Host.Outcome.next (State.startReset_saving saving)

/-- The reference (R473, R475). -/
theorem referenceWatched : Sys2Proof.Claim.ReferenceWatched := by
  intro s t
  refine ⟨fun locked fresh powered => ?_, fun other => ?_, rfl⟩
  · exact if_pos (show (decide (s.rdN .refState % 4 = 2) && !s.power.holdover && decide (s.rdN .pwrState ≠ 0)) = true by
      simp [locked, fresh, powered])
  · refine if_neg (show ¬ (decide (s.rdN .refState % 4 = 2) && !s.power.holdover && decide (s.rdN .pwrState ≠ 0)) = true from ?_)
    obtain h | h | h := other <;> simp [h]

/-- The sag record copied to its polder (R469). -/
theorem recordExported : Sys2Proof.Claim.RecordExported := by
  intro s p r found
  have copied : s.srExport 1 = match s.lastRecord with
      | some r => if p.limit < p.base + r.length || !s.mgmtOk true p.base r.length then (.state, s) else (.ok, s.poke p.base r)
      | none => (.state, s) := by
    unfold State.srExport
    rw [if_neg (by decide), found]
    cases s.lastRecord <;> rfl
  rw [exec_srExport, execSrExport, copied]
  refine ⟨fun record fits granted => ?_, fun none => ?_⟩
  · rw [record]
    dsimp only
    rw [if_neg (by simp [fits, granted]), settle_ok]
  · rw [none]
    rfl

/-- Settles O54: each source by the branch of its command; `MODULE_RESET` is accepted outside ON (DESIGN CHOICE 46), and `SR_EXPORT` without a record
is refused (DESIGN CHOICE 108). -/
theorem resetsAndReference : Obligations.ResetsAndReference :=
  ⟨moduleResetAsked, latchesCleared, resetSources, referenceWatched, recordExported⟩

end Sys2Proof.Machine
end

section
/-! PROOFS. A module reset completes (O55). -/

namespace Sys2Proof.Machine

/-! ## What leaves the event ring -/

/-- The event ring, and how many of its events are of the present edge. -/
def State.evRing (s : State) : List EventRec × Nat := (s.events, s.fresh)

/-- A choice of two states whose rings are the same. -/
theorem State.ite_evRing {c : Prop} [Decidable c] {x y : State} {r : List EventRec × Nat} (hx : x.evRing = r) (hy : y.evRing = r) :
    (if c then x else y).evRing = r := by split <;> assumption

section
variable (s : State)

theorem State.wr_evRing (o : Obj) (n e : Nat) (v : W64) : (s.wr o n e v).evRing = s.evRing := by
  simp only [State.evRing, State.wr_events, State.wr_fresh]

theorem State.setPort_evRing (p : Nat) (x : Port) : (s.setPort p x).evRing = s.evRing := rfl
theorem State.emit_evRing (o : Output) : (s.emit o).evRing = s.evRing := rfl
theorem State.markFlag_evRing (o : Obj) (n b : Nat) : (s.markFlag o n b).evRing = s.evRing := by
  simp only [State.evRing, State.markFlag, State.setBit, State.wr_events, State.wr_fresh]

theorem State.count_evRing (o : Obj) (n e k : Nat) : (s.count o n e k).evRing = s.evRing := s.wr_evRing ..

theorem State.wrBytes_evRing (o : Obj) (n off : Nat) (bs : List Byte) : (s.wrBytes o n off bs).evRing = s.evRing := by
  induction bs generalizing s off with
  | nil => rfl
  | cons b r ih => exact (ih _ _).trans (s.wr_evRing ..)

theorem State.sendWords_evRing (p : Nat) (ks : List Packet) (n : Nat) : (s.sendWords p ks n).evRing = s.evRing := by
  induction n generalizing s with
  | zero => rfl
  | succ n ih => exact ih _

theorem State.wire_evRing (p : Nat) (k : Packet) : (s.wire p k).evRing = s.evRing := by
  unfold State.wire
  dsimp only
  rw [State.emit_evRing, State.setPort_evRing]
  exact State.ite_evRing rfl (s.sendWords_evRing ..)

theorem State.giveBack_evRing (k : Packet) : (s.giveBack k).evRing = s.evRing := by
  unfold State.giveBack
  split
  · rfl
  · exact s.wire_evRing ..

theorem State.portSend_evRing (p : Nat) (k : Packet) : (s.portSend p k).evRing = s.evRing := by
  unfold State.portSend
  dsimp only
  split
  · exact (State.giveBack_evRing ..).trans (State.wire_evRing ..)
  · rfl

theorem State.forwardOn_evRing (k : Packet) (d : Nat) (minus first : Bool) : (s.forwardOn k d minus first).evRing = s.evRing := by
  exact (State.portSend_evRing ..).trans (State.ite_evRing rfl rfl)

/-- A packet sent leaves the ring. -/
theorem State.sendTo_evRing {r : Nat} {k : Packet} {t : State} (sent : s.sendTo r k = some t) : t.evRing = s.evRing := by
  unfold State.sendTo at sent
  split at sent
  · cases sent
  · dsimp only at sent
    split at sent
    · cases sent
      exact s.portSend_evRing ..
    · split at sent
      · cases sent
      · split at sent
        · cases sent
          rfl
        · cases sent
          exact s.forwardOn_evRing ..

/-- A packet sent, or what stands for one that cannot be, leaves the ring. -/
theorem State.sendOr_evRing {r : Nat} {k : Packet} {t : State} (other : t.evRing = s.evRing) :
    ((s.sendTo r k).getD t).evRing = s.evRing := by
  cases sent : s.sendTo r k with
  | none => exact other
  | some u => exact s.sendTo_evRing sent

theorem State.msixSend_evRing (f : CtxId) (v : Nat) : (s.msixSend f v).evRing = s.evRing := by
  unfold State.msixSend
  exact State.ite_evRing (s.wr_evRing ..) rfl

theorem State.vector_evRing (f : CtxId) (v : Nat) : (s.vector f v).evRing = s.evRing := by
  unfold State.vector
  exact State.ite_evRing (State.ite_evRing rfl rfl) (s.msixSend_evRing f v)

/-- An interrupt leaves the ring. -/
theorem State.interrupt_evRing (f : CtxId) (v : Nat) : (s.interrupt f v).evRing = s.evRing := by
  unfold State.interrupt
  refine State.ite_evRing (State.sendOr_evRing s.nextOp.2 ?_) (s.vector_evRing f v)
  exact (State.markFlag_evRing ..).trans (State.count_evRing ..)

/-- A flag set leaves the ring. -/
theorem State.setFlag_evRing (o : Obj) (n b : Nat) : (s.setFlag o n b).evRing = s.evRing := by
  unfold State.setFlag
  dsimp only
  split
  · exact s.markFlag_evRing ..
  · exact State.ite_evRing ((State.interrupt_evRing ..).trans (s.markFlag_evRing ..)) (s.markFlag_evRing ..)

end

/-! ## Events of a reset (R456) -/

section
variable {s : State} {code : Nat} {c : Option CtxId} {arg : Nat}

/-- The first event of an empty ring. -/
theorem State.raise_first (empty : s.evRing = ([], 0)) :
    (s.raise code c arg).evRing = ([{ s.newEvent code c arg with seq := s.rd .eventNextSeq - BitVec.ofNat 64 0 }], 1) := by
  obtain ⟨events, fresh⟩ := Prod.mk.inj empty
  have edge : s.edgeEvents = [] := by rw [State.edgeEvents, events, List.drop_nil]
  rw [State.evRing, State.raise_events, State.raise_fresh, State.edgeWith, edge, events, fresh]
  simp [EventRec.insert, numbered]

/-- The second event of a ring, of the same edge and behind the first. -/
theorem State.raise_second {x : EventRec} (one : s.evRing = ([x], 1)) (behind : x.rank ≤ (s.newEvent code c arg).rank) :
    ∃ q q' : W64, (s.raise code c arg).events = [{ x with seq := q }, { s.newEvent code c arg with seq := q' }] := by
  obtain ⟨events, fresh⟩ := Prod.mk.inj one
  have edge : s.edgeEvents = [x] := by rw [State.edgeEvents, events, fresh]; rfl
  have placed : (s.newEvent code c arg).insert [x] = [x, s.newEvent code c arg] := by
    rw [EventRec.insert, if_neg (Nat.not_lt.mpr behind), EventRec.insert]
  refine ⟨s.rd .eventNextSeq - BitVec.ofNat 64 1, s.rd .eventNextSeq - BitVec.ofNat 64 1 + 1, ?_⟩
  rw [State.raise_events, State.edgeWith, edge, placed, events, fresh]
  simp [numbered]

end

/-! ## The state after a reset (R437, R472) -/

/-- What neither an entry nor a port holds, the configuration of a port leaves. -/
theorem State.reconfigPort_frame {α : Type} {f : State → α} (entry : ∀ v n e x, f (State.wrN v .portBudget n e x) = f v)
    (port : ∀ v p x, f (State.setPort v p x) = f v) (v : State) (b : Bool) (p : Nat) : f (v.reconfigPort b p) = f v := by
  unfold State.reconfigPort
  dsimp only
  split
  · rw [port]
    split
    · exact entry ..
    · rfl
  · split
    · exact port ..
    · rfl

section
variable {s : State}

/-- What neither an entry nor a port holds is after a reset as its load leaves it. -/
theorem State.afterReset_frame {α : Type} {f : State → α} (entry : ∀ v o n e x, f (State.wr v o n e x) = f v)
    (port : ∀ v p x, f (State.setPort v p x) = f v) : f s.afterReset = f s.afterLoad := by
  unfold State.afterReset
  dsimp only
  refine (foldl_keeps f (fun v p => State.reconfigPort_frame (fun v n e x => entry v _ n e _) port v false p) _ _).trans ?_
  simp only [State.wrN, State.sampleStraps, State.applyFuses, State.toPwr, entry]

theorem State.afterReset_evRing : s.afterReset.evRing = ([], 0) :=
  State.afterReset_frame (f := State.evRing) State.wr_evRing State.setPort_evRing

theorem State.afterReset_ctxs : s.afterReset.ctxs = [] :=
  State.afterReset_frame (f := State.ctxs) State.wr_ctxs State.setPort_ctxs

theorem State.afterReset_items : s.afterReset.items = [] :=
  State.afterReset_frame (f := State.items) State.wr_items State.setPort_items

theorem State.afterReset_now : s.afterReset.now = 0 :=
  State.afterReset_frame (f := State.now) State.wr_now State.setPort_now

theorem State.afterReset_mem : s.afterReset.mem = s.mem.filter fun e => s.resetKeeps e.1 :=
  State.afterReset_frame (f := State.mem) State.wr_mem State.setPort_mem

theorem State.afterReset_resetting : s.afterReset.power.resetting = false :=
  State.afterReset_frame (f := fun v => v.power.resetting)
    (fun v o n e x => congrArg Power.resetting (v.wr_power o n e x)) (fun v p x => congrArg Power.resetting (v.setPort_power p x))

/-- The cause is shown. -/
theorem State.afterReset_cause (small : s.power.cause < 256) : s.afterReset.rdN .resetCause = s.power.cause := by
  unfold State.afterReset
  dsimp only
  refine (foldl_keeps (State.rdN · .resetCause) (fun v p => State.reconfigPort_frame (f := (State.rdN · .resetCause))
    (fun v n e x => congrArg BitVec.toNat (State.rd_wr_other v (by decide) ..)) (fun v p x => rfl) v false p) _ _).trans ?_
  rw [State.rdN, State.wrN, State.rd_wr_other _ (by decide), State.sampleStraps, State.wrN, State.rd_wr_other _ (by decide), ← State.rdN,
    State.rdN_wrN_self _ (by decide)]
  exact Nat.mod_eq_of_lt small

/-- The report of a sag record is a signal. -/
theorem State.reportSag_signals : Signals [.srSummary, .pwrStatus, .srReported] s s.reportSag := by
  unfold State.reportSag
  split
  · exact Signals.refl ..
  · dsimp only
    split
    · exact Signals.refl ..
    · exact ((((Signals.refl _ s).wrBytes (by simp) ..).setFlag (by simp) ..).raise ..).wr (by simp) ..

/-- The report of a sag record in an empty ring is its one event, or there is none. -/
theorem State.reportSag_evRing (empty : s.evRing = ([], 0)) :
    s.reportSag.evRing = ([], 0) ∨ ∃ x : EventRec, s.reportSag.evRing = ([x], 1) ∧ x.code = 0x41 ∧ x.ctx = 0xF := by
  unfold State.reportSag
  split
  · exact .inl empty
  · dsimp only
    split
    · exact .inl empty
    · refine .inr ⟨_, (State.wr_evRing ..).trans (State.raise_first ?_), rfl, rfl⟩
      rw [State.setFlag_evRing, State.wrBytes_evRing, empty]

/-- What is judged of a state when a reset completes: the event of the reset follows. -/
theorem State.raise_reset {cause : Nat} (quiet : s.evRing = ([], 0) ∨ ∃ x : EventRec, s.evRing = ([x], 1) ∧ x.code = 0x41 ∧ x.ctx = 0xF) :
    (∃ e : EventRec, (s.raise 0x4B none cause).events.getLast? = some e ∧ e.code = 0x4B ∧ e.arg = BitVec.ofNat 32 cause) ∧
      ∀ e ∈ (s.raise 0x4B none cause).events, e.code = 0x41 ∨ e.code = 0x4B := by
  obtain empty | ⟨x, one, code, ctx⟩ := quiet
  · rw [(Prod.mk.inj (State.raise_first (code := 0x4B) (c := none) (arg := cause) empty)).1]
    exact ⟨⟨_, rfl, rfl, rfl⟩, by simp [State.newEvent]⟩
  · have behind : x.rank ≤ (s.newEvent 0x4B none cause).rank := by
      simp [EventRec.rank, code, ctx, State.newEvent]
    obtain ⟨q, q', events⟩ := State.raise_second one behind
    rw [events]
    exact ⟨⟨_, rfl, rfl, rfl⟩, by simp [State.newEvent, code]⟩

/-- A reset that waits for nothing completes. -/
theorem State.resetDone_completes (resetting : s.power.resetting = true)
    (ready : ¬ ((s.rdN .refSelect = 2 ∧ s.power.refclk = false) ∨ (s.power.perstHold = true ∧ s.power.perst = true))) :
    s.resetDone = (if s.power.cause ≤ 4 then s.afterReset.reportSag else s.afterReset).raise 0x4B none s.power.cause := by
  unfold State.resetDone
  refine if_neg ?_
  simpa [resetting] using ready

/-- A reset that waits, or one that is not in progress, does not complete. -/
theorem State.resetDone_waits (waits : s.power.resetting = false ∨
      (s.rdN .refSelect = 2 ∧ s.power.refclk = false) ∨ (s.power.perstHold = true ∧ s.power.perst = true)) :
    s.resetDone = s := by
  unfold State.resetDone
  refine if_pos ?_
  simpa [or_assoc] using waits

end

/-- Settles O55: what neither an entry nor a port holds is as the load of the reset leaves it, and the ring holds what is raised on it. -/
theorem moduleResetCompletes : Obligations.ModuleResetCompletes := by
  intro s waits
  refine ⟨fun resetting small ready => ?_, fun held => congrArg Host.Outcome.next (State.resetDone_waits held)⟩
  have done : exec .moduleResetDone s = .next _ := congrArg Host.Outcome.next (State.resetDone_completes resetting ready)
  generalize reported : (if s.power.cause ≤ 4 then s.afterReset.reportSag else s.afterReset) = u at done
  have told : Signals [.srSummary, .pwrStatus, .srReported] s.afterReset u := by
    rw [← reported]
    exact Signals.ite State.reportSag_signals (Signals.refl ..)
  have quiet : u.evRing = ([], 0) ∨ ∃ x : EventRec, u.evRing = ([x], 1) ∧ x.code = 0x41 ∧ x.ctx = 0xF := by
    rw [← reported]
    split
    · exact State.reportSag_evRing State.afterReset_evRing
    · exact .inl State.afterReset_evRing
  have all := told.raise 0x4B none s.power.cause
  obtain ⟨last, codes⟩ := State.raise_reset (cause := s.power.cause) quiet
  refine ⟨_, done, ?_, all.ctxs.trans State.afterReset_ctxs, all.items.trans State.afterReset_items, all.now.trans State.afterReset_now,
    (all.rdN 0 0 (by decide)).trans (State.afterReset_cause small), last, codes, fun warm => ?_, fun cold => ?_⟩
  · rw [all.power]
    exact State.afterReset_resetting
  · rw [all.mem, State.afterReset_mem]
    simp [State.resetKeeps, warm]
  · rw [all.mem, State.afterReset_mem]
    simp [State.resetKeeps, cold]

end Sys2Proof.Machine
end

section
/-! PROOFS. The sync chain and the emergency stop (O56, O57). -/

namespace Sys2Proof.Machine

/-! ## The bytes of a frame (R476) -/

/-- One step of the CRC-16 stays in 16 bits. -/
theorem crc16Bit_lt (c : Nat) (b : Bool) : crc16Bit c b < 2 ^ 16 := by
  have low : c * 2 % 65536 < 2 ^ 16 := Nat.mod_lt _ (by decide)
  unfold crc16Bit
  dsimp only
  split
  · exact Nat.xor_lt_two_pow low (by decide)
  · exact low

/-- The CRC-16 over a byte stays in 16 bits. -/
theorem crc16Byte_lt (c : Nat) (b : Byte) : crc16Byte c b < 2 ^ 16 := by
  unfold crc16Byte
  rw [List.range_succ, List.foldl_append, List.foldl_cons, List.foldl_nil]
  exact crc16Bit_lt ..

/-- The CRC-16 of bytes is a 16-bit number. -/
theorem crc16_lt (bs : List Byte) : crc16 bs < 2 ^ 16 := by
  unfold crc16
  induction bs using List.reverseRecOn with
  | nil => decide
  | append_singleton bs b _ =>
    rw [List.foldl_append, List.foldl_cons, List.foldl_nil]
    exact crc16Byte_lt ..

section
variable (type pos : Nat) (body : W64)

/-- The first 13 bytes of a frame. -/
def syncHead (type pos : Nat) (body : W64) : List Byte := leBytes 1 type ++ leBytes 2 pos ++ leBytes 8 body.toNat ++ zeros 2

theorem syncBytes_eq : syncBytes type pos body = syncHead type pos body ++ (leBytes 2 (crc16 (syncHead type pos body)) ++ zeros 1) := by
  simp only [syncBytes, syncHead, List.append_assoc]

theorem length_syncHead : (syncHead type pos body).length = 13 := by
  simp only [syncHead, List.length_append, length_leBytes, zeros, List.length_replicate]

theorem length_syncBytes : (syncBytes type pos body).length = 16 := by
  rw [syncBytes_eq, List.length_append, List.length_append, length_syncHead, length_leBytes]
  rfl

/-- The first 13 bytes of a frame are its head. -/
theorem take_syncBytes : (syncBytes type pos body).take 13 = syncHead type pos body := by
  rw [syncBytes_eq]
  exact List.take_left' (length_syncHead ..)

/-- The CRC of a frame is that of its head. -/
theorem crc_syncBytes : leNat (((syncBytes type pos body).drop 13).take 2) = crc16 (syncHead type pos body) := by
  rw [syncBytes_eq, List.drop_left' (length_syncHead ..), List.take_left' (length_leBytes ..), leNat_leBytes]
  exact Nat.mod_eq_of_lt (crc16_lt _)

end

/-- Frames of the module's own (R476). -/
theorem framesAreWhole : Sys2Proof.Claim.FramesAreWhole := by
  intro type pos body small_type small_pos f
  refine ⟨length_syncBytes .., ?_, ?_, ?_, ?_⟩
  · simp only [frameGood, f, length_syncBytes, take_syncBytes, crc_syncBytes, Bool.not_false, decide_true, Bool.and_self]
  · have field : f.bytes.take 1 = leBytes 1 type := rfl
    rw [frameType, field, leNat_leBytes]
    exact Nat.mod_eq_of_lt small_type
  · have field : (f.bytes.drop 1).take 2 = leBytes 2 pos := rfl
    rw [framePos, field, leNat_leBytes]
    exact Nat.mod_eq_of_lt small_pos
  · have field : (f.bytes.drop 3).take 8 = leBytes 8 body.toNat := rfl
    rw [frameBody, field, leNat_leBytes, Nat.mod_eq_of_lt (show body.toNat < 256 ^ 8 from body.isLt), BitVec.ofNat_toNat, BitVec.setWidth_eq]

/-! ## Frames taken (R476, R477, R481) -/

section
variable {s : State} {f : SyncFrame} {type : Nat} {onDn : Bool} {act : State → State}

/-- With the bypass closed a frame is passed on. -/
theorem State.takeFrame_bypass (closed : s.power.bypass = true) :
    s.takeFrame type f onDn act = s.emit (.syncFrame onDn f.bytes) := if_pos closed

/-- A frame that is not good is counted. -/
theorem State.takeFrame_bad (opened : s.power.bypass = false) (bad : frameGood f = false) : s.takeFrame type f onDn act = s.badFrame := by
  simp only [State.takeFrame, opened, bad, Bool.false_eq_true, if_false, Bool.not_false, if_true]

/-- A frame of another type does nothing. -/
theorem State.takeFrame_other (opened : s.power.bypass = false) (good : frameGood f = true) (other : frameType f ≠ type) :
    s.takeFrame type f onDn act = s := by
  simp only [State.takeFrame, opened, good, other, Bool.false_eq_true, if_false, Bool.not_true, ne_eq, not_false_eq_true, if_true]

/-- A good frame on SYNC_DN_IN. -/
theorem State.TakesFrame.down (takes : s.TakesFrame f type) : s.takeFrame type f true act = act (s.afterDn f) := by
  obtain ⟨opened, good, rfl⟩ := takes
  simp only [State.takeFrame, opened, good, Bool.false_eq_true, if_false, Bool.not_true, ne_eq, not_true, if_true]
  rfl

/-- A good frame on SYNC_UP_IN. -/
theorem State.TakesFrame.up (takes : s.TakesFrame f type) :
    s.takeFrame type f false act = act { s with sync := { s.sync with lostUp := false } } := by
  obtain ⟨opened, good, rfl⟩ := takes
  simp only [State.takeFrame, opened, good, Bool.false_eq_true, if_false, Bool.not_true, ne_eq, not_true]

/-- A frame of the module's own goes while the bypass is open. -/
theorem State.syncSend_open (opened : s.power.bypass = false) (down : Bool) (body : W64) :
    s.syncSend type down body = s.emit (.syncFrame down (syncBytes type s.chainPos body)) := if_neg (by simp [opened])

/-- The position of a frame moves no other entry. -/
theorem State.afterDn_rd {o : Obj} (other : o.ctorIdx ≠ Obj.syncPos.ctorIdx) (n e : Nat) : (s.afterDn f).rd o n e = s.rd o n e := by
  unfold State.afterDn
  dsimp only
  split
  · rfl
  · exact State.rd_wr_other _ other ..

theorem State.afterDn_isHead : (s.afterDn f).isHead = s.isHead := by
  rw [State.isHead, State.isHead, State.rdN, State.afterDn_rd (by decide), ← State.rdN]

theorem State.afterDn_sync : (s.afterDn f).sync = { s.sync with lostDn := false } := by
  unfold State.afterDn
  dsimp only
  split <;> rfl

theorem State.afterDn_power : (s.afterDn f).power = s.power := by
  unfold State.afterDn
  dsimp only
  split <;> rfl

end

/-- Frames that are bad, of another type, or passed on (R476, R481). -/
theorem badFramesCounted : Sys2Proof.Claim.BadFramesCounted := by
  intro f onDn turnaround t1 t4 s bad
  have discard : exec (.syncFrameDiscard true) s = if (true && !s.power.bypass) = true then .next bad else .next s := rfl
  refine ⟨fun opened => ⟨?_, fun wrong => ?_, fun good => ?_⟩, rfl, fun closed => ⟨?_, ?_⟩⟩
  · rw [discard, if_pos (by simp [opened])]
  · simp only [exec_syncTimeFrame, exec_syncStepFrame, exec_estop, exec_echoReq, exec_echoRsp, execSyncTimeFrame, execSyncStepFrame,
      execEstop, execEchoReq, execEchoRsp, State.takeFrame_bad opened wrong]
    exact ⟨rfl, rfl, rfl, rfl, rfl⟩
  · exact ⟨fun other => congrArg Host.Outcome.next (State.takeFrame_other opened good other),
      fun other => congrArg Host.Outcome.next (State.takeFrame_other opened good other),
      fun other => congrArg Host.Outcome.next (State.takeFrame_other opened good other),
      fun other => congrArg Host.Outcome.next (State.takeFrame_other opened good other),
      fun other => congrArg Host.Outcome.next (State.takeFrame_other opened good other)⟩
  · rw [discard, if_neg (by simp [closed])]
  · simp only [exec_syncTimeFrame, exec_syncStepFrame, exec_estop, exec_echoReq, exec_echoRsp, execSyncTimeFrame, execSyncStepFrame,
      execEstop, execEchoReq, execEchoRsp, State.takeFrame_bypass closed, and_self]

/-! ## Time and steps (R478–R480, R482) -/

/-- `TIME` (R478–R480). -/
theorem chainTimeTaken : Sys2Proof.Claim.ChainTimeTaken := by
  intro f s takes t body
  have taken : exec (.syncTimeFrame f) s = .next (t.takeTime body) := congrArg Host.Outcome.next takes.down
  have head : t.isHead = s.isHead := State.afterDn_isHead
  have source : t.rdN .timeSource = s.rdN .timeSource := congrArg BitVec.toNat (State.afterDn_rd (by decide) ..)
  have first : t.sync.acquired = s.sync.acquired := (congrArg Sync.acquired State.afterDn_sync :)
  rw [taken]
  refine ⟨fun member chain fresh => ⟨({ t with sync := { t.sync with acquired := true } } : State).wr .globalTime 0 0
    (body + BitVec.ofNat 64 (t.rdN .syncHopDelay / 68)), ?_, ?_, ?_, ?_⟩, fun member chain has => ?_, fun other => ?_⟩
  · simp only [State.takeTime, head, member, source, chain, first, fresh]
    rfl
  · rfl
  · rw [State.rd_wr_self, show t.rdN .syncHopDelay = s.rdN .syncHopDelay from congrArg BitVec.toNat (State.afterDn_rd (by decide) ..)]
  · have pos : t.rdN .syncPos = (framePos f + 1) % 2 ^ 16 := by
      have at_ : t = State.wrN { s with sync := { s.sync with lostDn := false } } .syncPos 0 0 (framePos f + 1) := if_neg (by
        rw [show State.isHead _ = s.isHead from rfl, member]; decide)
      rw [at_, State.rdN_wrN_self _ (by decide)]
      rfl
    rw [State.rdN, State.rd_wr_other _ (by decide)]
    exact pos
  · simp only [State.takeTime, head, member, source, chain, first, has]
    rfl
  · refine congrArg Host.Outcome.next (if_pos ?_)
    rw [head, source]
    simpa using other

/-- `STEP` (R482). -/
theorem stepMarkTaken : Sys2Proof.Claim.StepMarkTaken := by
  intro f s takes member body t lags
  have taken : exec (.syncStepFrame f) s = .next ((s.afterDn f).takeStepMark body) := congrArg Host.Outcome.next takes.down
  have marked : (s.afterDn f).takeStepMark body =
      if t.rdN .ctxStep + t.rdN .syncStepLag < body.toNat && t.sync.lagStep ≠ some body then
        ((({ t with sync := { t.sync with lagStep := some body } } : State).count .stepLagCnt).pwrEvent 0x4A (body.toNat % 2 ^ 32) 9)
      else t := if_neg (by rw [State.afterDn_isHead, member]; decide)
  rw [taken, marked]
  refine ⟨fun near => ?_, fun far new => ?_⟩
  · rw [if_neg (by
      simp only [Bool.and_eq_true, decide_eq_true_eq]
      exact fun ⟨far, new⟩ => near.elim (· far) new)]
  · rw [if_pos (by
      simp only [Bool.and_eq_true, decide_eq_true_eq]
      exact ⟨far, new⟩)]

/-! ## Timers and echoes (R479, R480) -/

/-- The timers of the chain. -/
theorem chainTimersSend : Sys2Proof.Claim.ChainTimersSend := by
  intro s opened
  refine ⟨fun sends => ?_, fun member => ?_⟩
  · rw [exec_syncTimeTimer, execSyncTimeTimer, if_pos (by simpa [opened] using sends), State.syncSend_open opened]
  · have sent : exec .syncEchoTimer s = _ := (if_neg (by simp [member, opened])).trans (congrArg Host.Outcome.next
      (State.syncSend_open (s := { s with sync := { s.sync with echoSeq := s.sync.echoSeq + 1 } }) opened false _))
    exact ⟨_, sent, rfl, rfl, rfl, rfl, rfl⟩

/-- `ECHO_REQ` answered. -/
theorem echoAnswered : Sys2Proof.Claim.EchoAnswered := by
  intro f turnaround s takes
  obtain ⟨opened, _, _⟩ := id takes
  have taken : exec (.echoReq f turnaround) s = _ := congrArg Host.Outcome.next
    (takes.up.trans (State.syncSend_open (s := { s with sync := { s.sync with lostUp := false } }) opened true _))
  exact ⟨_, taken, rfl, rfl, rfl, rfl, rfl⟩

/-- `ECHO_RSP` measured. -/
theorem echoMeasures : Sys2Proof.Claim.EchoMeasures := by
  intro f t1 t4 s takes
  have same : (s.afterDn f).sync.echoSeq = s.sync.echoSeq := (congrArg Sync.echoSeq State.afterDn_sync :)
  rw [exec_echoRsp, execEchoRsp, takes.down, same]
  exact ⟨fun last => by rw [if_neg (not_not.mpr last)], fun older => by rw [if_pos older]⟩

/-- `SYNC_LOSS`. -/
theorem syncLossRaised : Sys2Proof.Claim.SyncLossRaised := by
  intro up s opened
  rw [exec_syncLoss, execSyncLoss, opened, Bool.false_or]
  exact ⟨fun fresh => by rw [fresh]; rfl, fun lost => by rw [lost]; rfl⟩

/-- Settles O56: each frame by the branch of `takeFrame`, and then by its own; the members that send `TIME` are DEDUCED 109. -/
theorem chainTraffic : Obligations.ChainTraffic :=
  ⟨badFramesCounted, framesAreWhole, chainTimeTaken, stepMarkTaken, chainTimersSend, echoAnswered, echoMeasures, syncLossRaised⟩

/-! ## The emergency stop (R483) -/

section
variable {s : State} {pos : BitVec 16}

/-- A stop that is latched already changes nothing. -/
theorem State.latchStop_latched (latched : s.sync.latched = true) : s.latchStop pos = s := if_pos latched

/-- A stop is latched. -/
theorem State.latchStop_fresh (fresh : s.sync.latched = false) :
    s.latchStop pos = ((({ s with sync := { s.sync with latched := true, estopPos := pos } } : State).stopAll fun _ => true).count
      .estopCnt).pwrEvent 0x48 pos.toNat 7 := if_neg (by simp [fresh])

end

/-- `ESTOP` (R483). -/
theorem stopLatchedAndSentOn : Sys2Proof.Claim.StopLatchedAndSentOn := by
  intro f onDn s takes t0 t pos u
  have taken : exec (.estop f onDn) s = .next ((t.latchStop pos).syncSend 3 onDn (pos.zeroExtend 64)) := by
    cases onDn
    · exact congrArg Host.Outcome.next takes.up
    · exact congrArg Host.Outcome.next takes.down
  have same : t.sync.latched = s.sync.latched := by
    cases onDn
    · rfl
    · exact (congrArg Sync.latched State.afterDn_sync :)
  rw [taken]
  refine ⟨fun fresh => ?_, fun latched => ?_⟩
  · rw [State.latchStop_fresh (same.trans fresh)]
  · rw [State.latchStop_latched (same.trans latched)]

/-- The stop raised, repeated and cleared (R483). -/
theorem stopRaisedRepeatedCleared : Sys2Proof.Claim.StopRaisedRepeatedCleared := by
  intro s
  refine ⟨rfl, fun latched origin => ?_, fun quiet => ?_, fun old => ?_, fun recent => ?_⟩
  · rw [exec_estopRepeat, execEstopRepeat, if_pos (by simp [latched, origin])]
  · rw [exec_estopRepeat, execEstopRepeat, if_neg (by simpa [or_iff_not_imp_left] using quiet)]
  · simp [execEstopClear, State.estopControl, old, settle_ok]
  · simp [execEstopClear, State.estopControl, recent, settle]

/-- Settles O57: a stop is latched once and sent on always; a raise while it is latched makes this module an origin too (DEDUCED 110). -/
theorem emergencyStop : Obligations.EmergencyStop := ⟨stopLatchedAndSentOn, stopRaisedRepeatedCleared⟩

end Sys2Proof.Machine
end

section
/-! PROOFS. Who may ask for operations, and what single operations answer (O46, O47, O48). -/

namespace Sys2Proof.Machine

/-! ## Refusals (R40, R436, R441) -/

section
variable {s : State} {x : IgOp} {st : Status}

/-- What is not a refused write of `CTX_CONTROL` is not counted as one. -/
theorem State.countControl_of_not_control (other : x.op ≠ 2 ∨ ∀ n, findEntry x.index x.sub ≠ .ok (.ctxControl, n)) :
    s.countControl x st = s := by
  unfold State.countControl
  split
  case isTrue control =>
    obtain op | entry := other
    · exact absurd (of_decide_eq_true (Bool.and_eq_true_iff.mp control).1) op
    · split
      · exact absurd ‹_› (entry _)
      · rfl
  case isFalse => rfl

/-- An operation that its entry does not refuse for its access or its type is not counted as a refused write. -/
theorem State.countControl_of_served (access : st ≠ .access) (type : st ≠ .type_) : s.countControl x st = s :=
  if_neg (by simp [access, type])

/-- A write of `CTX_CONTROL` that is refused for its access is counted. -/
theorem State.countControl_access {n : Nat} (op : x.op = 2) (entry : findEntry x.index x.sub = .ok (.ctxControl, n)) :
    s.countControl x .access = s.count .cmdRejectCnt n := by
  simp only [State.countControl, op, entry, decide_true, Bool.true_or, Bool.and_self, if_true]

/-- A record that its requester may not ask for. -/
theorem State.runRecord_denied {at_ : State} {who : Requester} {want gen : Nat} (denied : s.mayRun who x = false) :
    s.runRecord at_ who want gen x =
      ⟨.access, [], (s.tally .igcorRefuseCnt 0 .igcorStatus 0 2).countControl x .access, false⟩ := by
  simp only [State.runRecord, denied, Bool.false_eq_true, if_false, settle]

end

/-- Who may write over the segment (R441). -/
theorem State.mayRun_segment (iid : W64) (x : IgOp) (s : State) :
    s.mayRun (.segment iid) x = true ↔ x.op ∈ [1, 3, 7, 8] ∨ (∀ w ∈ (List.range 8).map fun e => s.rd .mgmtWriters 0 e, w = 0) ∨
      (iid ≠ 0 ∧ iid ∈ (List.range 8).map fun e => s.rd .mgmtWriters 0 e) := by
  have writers : s.rdRange .mgmtWriters 0 0 8 = (List.range 8).map fun e => s.rd .mgmtWriters 0 e := by
    rw [State.rdRange, rangeFrom, List.map_map]
    exact List.map_congr_left fun e _ => by rw [Function.comp_apply, Nat.zero_add]
  have none : ((((List.range 8).map fun e => s.rd .mgmtWriters 0 e).filter (· ≠ 0)).isEmpty = true) ↔
      ∀ w ∈ (List.range 8).map fun e => s.rd .mgmtWriters 0 e, w = 0 := by
    rw [List.isEmpty_iff, List.filter_eq_nil_iff]
    simp only [ne_eq, decide_eq_true_eq, not_not]
  have one : ((((List.range 8).map fun e => s.rd .mgmtWriters 0 e).filter (· ≠ 0)).contains iid = true) ↔
      iid ≠ 0 ∧ iid ∈ (List.range 8).map fun e => s.rd .mgmtWriters 0 e := by
    rw [List.contains_iff_mem, List.mem_filter, decide_eq_true_eq, and_comm]
  rw [State.mayRun, writers]
  simp only [Bool.or_eq_true, none, one, isReadOp, decide_eq_true_eq, List.mem_cons, List.not_mem_nil, or_false, or_assoc]

/-- Settles O46: the writers are the non-zero elements; a record that is denied is a refusal that its own count follows. -/
theorem segmentAccess : Obligations.SegmentAccess := by
  intro iid x s writers
  refine ⟨s.mayRun_segment iid x, fun snap want gen denied => ?_⟩
  rw [State.runRecord_denied denied]
  exact ⟨fun n op entry => by rw [State.countControl_access op entry], fun other => by rw [State.countControl_of_not_control other]⟩

/-! ## Staging (R448) -/

/-- Elements staged leave every applied value. -/
theorem State.stageElems_rd (s : State) (o : Obj) (n : Nat) (es : List (Nat × Nat)) (o' : Obj) (n' e' : Nat) :
    (s.stageElems o n es).rd o' n' e' = s.rd o' n' e' := by
  induction es generalizing s with
  | nil => rfl
  | cons e r ih => exact (ih _).trans (State.wrStaged_rd ..)

/-- Settles O48: a staged write is one to the staging image. -/
theorem stagingKeepsApplied : Obligations.StagingKeepsApplied := by
  intro o n e v s
  refine ⟨?_, fun o' n' e' => State.wrStaged_rd .., fun es o' n' e' => s.stageElems_rd o n es o' n' e'⟩
  rw [State.rdStaged_wrStaged, if_pos rfl]

/-! ## Single operations -/

/-- The state that a record leaves, with the generation advanced when it changed the image. -/
def OpResult.closed (r : OpResult) (x : IgOp) : State :=
  let t := (settle (r.status, r.state)).countControl x r.status
  if r.touched then t.bumpGen else t

section
variable {s : State} {who : Requester} {want : Nat} {x : IgOp}

/-- A served operation is one frame of one record. -/
theorem State.Serves.single (serves : s.Serves who x) :
    s.single who want x =
      (((s.runOp s who want (s.rdN .stageGen) x).closed x).count .igcorRxCnt).emit
        (.answer (BitVec.ofNat 8 (s.runOp s who want (s.rdN .stageGen) x).status.code) (s.runOp s who want (s.rdN .stageGen) x).data) := by
  obtain ⟨up, reached, may⟩ := serves
  simp only [State.single, up, reached, Bool.not_true, Bool.or_self, Bool.false_eq_true, if_false, State.runFrame, State.runRecords,
    Option.getD_none, State.runRecord, may, if_true]
  generalize s.runOp s who want (s.rdN .stageGen) x = r
  split <;> simp only [Bool.false_or, List.map_nil, List.foldl_cons, List.foldl_nil, OpResult.closed]

/-- An operation that is served with `OK` and changes no generation. -/
theorem State.Serves.single_ok (serves : s.Serves who x) {d : List Byte} {t : State}
    (done : s.runOp s who want (s.rdN .stageGen) x = ⟨.ok, d, t, false⟩) :
    s.single who want x = (t.count .igcorRxCnt).emit (.answer 0 d) := by
  rw [serves.single, done, OpResult.closed]
  simp only [settle_ok, State.countControl_of_served (st := .ok) (by decide) (by decide), Bool.false_eq_true, if_false]
  rfl

/-- An operation that is served with `OK` and advances the generation. -/
theorem State.Serves.single_touched (serves : s.Serves who x) {d : List Byte} {t : State}
    (done : s.runOp s who want (s.rdN .stageGen) x = ⟨.ok, d, t, true⟩) :
    s.single who want x = (t.bumpGen.count .igcorRxCnt).emit (.answer 0 d) := by
  rw [serves.single, done, OpResult.closed]
  simp only [settle_ok, State.countControl_of_served (st := .ok) (by decide) (by decide), if_true]
  rfl

/-- An operation that is refused, not as a write of `CTX_CONTROL`. -/
theorem State.Serves.single_refused (serves : s.Serves who x) {st : Status} {d : List Byte} {t : State}
    (done : s.runOp s who want (s.rdN .stageGen) x = ⟨st, d, t, false⟩) (control : (settle (st, t)).countControl x st = settle (st, t)) :
    s.single who want x = ((settle (st, t)).count .igcorRxCnt).emit (.answer (BitVec.ofNat 8 st.code) d) := by
  rw [serves.single, done, OpResult.closed]
  simp only [control, Bool.false_eq_true, if_false]

end

/-- Reads of entries and of staged values (R435, R436). -/
theorem readAnswers : Sys2Proof.Claim.ReadAnswers := by
  intro who index sub off len s d e refused
  refine ⟨fun serves => ⟨fun read => ?_, fun read => ?_⟩, fun serves => ⟨fun read => ?_, fun read => ?_⟩⟩
  · exact congrArg Host.Outcome.next (serves.single_ok (by simp [State.runOp, read]))
  · exact congrArg Host.Outcome.next (serves.single_refused (by simp [State.runOp, read])
      (State.countControl_of_not_control (.inl (by simp))))
  · exact congrArg Host.Outcome.next (serves.single_ok (by simp [State.runOp, read]))
  · exact congrArg Host.Outcome.next (serves.single_refused (by simp [State.runOp, read])
      (State.countControl_of_not_control (.inl (by simp))))

/-- The first word of eight bytes of a word. -/
theorem wordAt_leBytes (w : W64) : wordAt (leBytes 8 w.toNat) 0 = w := by
  rw [wordAt, Nat.mul_zero, List.drop_zero, List.take_of_length_le (length_leBytes ..).le, leNat_leBytes,
    Nat.mod_eq_of_lt (show w.toNat < 256 ^ 8 from w.isLt), BitVec.ofNat_toNat, BitVec.setWidth_eq]

/-- Descriptions and events (R443, R457). -/
theorem describeAndEvents : Sys2Proof.Claim.DescribeAndEvents := by
  intro who index sub first most s o n
  refine ⟨fun serves found => ?_, fun serves some_records few => ?_⟩
  · exact congrArg Host.Outcome.next (serves.single_ok (by simp [State.runOp, found]))
  · refine congrArg Host.Outcome.next (serves.single_ok ?_)
    simp [State.runOp, State.opEventRead, some_records, few, wordAt_leBytes]

/-! ## Writes (R436, R448, R449) -/

section
variable {s t : State} {index sub off : Nat} {data : List Byte} {o : Obj} {n : Nat} {es : List (Nat × Nat)} {act : Action}

/-- Elements written leave the staging image. -/
theorem State.writeElems_staged (s : State) (o : Obj) (n : Nat) (es : List (Nat × Nat)) : (s.writeElems o n es).staged = s.staged := by
  induction es generalizing s with
  | nil => rfl
  | cons e r ih => exact (ih _).trans (State.wr_staged ..)

/-- A write that takes effect at once leaves the staging image. -/
theorem State.writeRw_staged (written : s.writeRw o n es = .ok t) : t.staged = s.staged := by
  unfold State.writeRw at written
  split at written
  · cases written
  · split at written
    · cases written
    · split at written
      · cases written
        unfold State.clearFlags
        split
        · rfl
        · exact State.wr_staged ..
      · cases written
        split <;> split <;> exact s.writeElems_staged o n es

variable (found : findEntry index sub = .ok (o, n)) (elems : o.info.writeElems off data = some es)
  (good : (es.any fun e => o.info.badValue e.2) = false)
include found elems good

/-- A write of an RWS entry stages it. -/
theorem State.writeEntry_staged (acc : o.info.acc = .rws) (unarmed : s.mgmt.armed = none) :
    s.writeEntry act index sub off data = (.ok, s.stageElems o n es) := by
  simp [State.writeEntry, found, elems, good, acc, unarmed]

/-- An armed image refuses a write of an RWS entry. -/
theorem State.writeEntry_armed (acc : o.info.acc = .rws) (armed : s.mgmt.armed ≠ none) :
    s.writeEntry act index sub off data = (.busy, s) := by
  simp [State.writeEntry, found, elems, good, acc, Option.isSome_iff_ne_none.mpr armed]

/-- A write of an RW entry without behaviour of its own. -/
theorem State.writeEntry_rw (acc : o.info.acc = .rw) (plain : hasAction o = false) (written : s.writeRw o n es = .ok t) :
    s.writeEntry act index sub off data = (.ok, t) := by
  simp [State.writeEntry, found, elems, good, acc, plain, written]

end

section
variable {s t : State} {x : IgOp}

/-- A write that is taken touches the generation when the image changes. -/
theorem State.opWrite_ok (written : s.writeEntry entryAction x.index x.sub x.off x.data = (.ok, t)) :
    s.opWrite x = ⟨.ok, [], t, decide (t.staged ≠ s.staged)⟩ := by
  simp only [State.opWrite, written, decide_true, Bool.true_and]

/-- A write that is refused as busy. -/
theorem State.opWrite_busy (written : s.writeEntry entryAction x.index x.sub x.off x.data = (.busy, s)) :
    s.opWrite x = ⟨.busy, [], s, false⟩ := by
  simp only [State.opWrite, written]
  rfl

/-- `WRITE` is a write of its own. -/
theorem State.runOp_write {at_ : State} {who : Requester} {want gen : Nat} (op : x.op = 2) : s.runOp at_ who want gen x = s.opWrite x := by
  simp [State.runOp, op]

end

/-- `WRITE` (R436). -/
theorem writeStagesOrActs : Sys2Proof.Claim.WriteStagesOrActs := by
  intro who index sub off data s t o n es serves found elems good u
  refine ⟨fun acc unarmed changes => ?_, fun acc unarmed same => ?_, fun acc armed => ?_, fun acc plain written => ?_⟩
  · refine congrArg Host.Outcome.next (serves.single_touched ?_)
    rw [State.runOp_write rfl, State.opWrite_ok (State.writeEntry_staged found elems good acc unarmed), decide_eq_true changes]
  · refine congrArg Host.Outcome.next (serves.single_ok ?_)
    rw [State.runOp_write rfl, State.opWrite_ok (State.writeEntry_staged found elems good acc unarmed), decide_eq_false (not_not.mpr same)]
  · refine congrArg Host.Outcome.next (serves.single_refused ?_ (State.countControl_of_served (st := .busy) (by decide) (by decide)))
    rw [State.runOp_write rfl, State.opWrite_busy (State.writeEntry_armed found elems good acc armed)]
  · refine congrArg Host.Outcome.next (serves.single_ok ?_)
    rw [State.runOp_write rfl, State.opWrite_ok (State.writeEntry_rw found elems good acc plain written),
      decide_eq_false (not_not.mpr (State.writeRw_staged written))]

/-- `REGISTER_WRITE` of an element that is taken. -/
theorem execRegisterWrite_entry {index : BitVec 16} {sub : Byte} {elem : Nat} {v : W64} {s t : State} {o : Obj} {n : Nat}
    (up : s.mgmtUp = true) (found : findEntry index.toNat sub.toNat = .ok (o, n))
    (written : s.writeEntry entryAction index.toNat sub.toNat (o.info.size * elem) (leBytes o.info.size v.toNat) = (.ok, t)) :
    execRegisterWrite (.entry index sub elem) v s = .next (if t.staged ≠ s.staged then t.bumpGen else t) := by
  have op := State.opWrite_ok (x := ⟨2, index.toNat, sub.toNat, 0, o.info.size * elem, o.info.size, leBytes o.info.size v.toNat⟩) written
  simp only [execRegisterWrite, up, found, op, Bool.not_true, Bool.false_eq_true, if_false, settle_ok,
    State.countControl_of_served (st := .ok) (by decide) (by decide), decide_eq_true_eq]

/-- `REGISTER_WRITE` of an element (R11, R436). -/
theorem registerWriteEntry : Sys2Proof.Claim.RegisterWriteEntry := by
  intro index sub elem v s t o n es up found elems good u
  refine ⟨fun acc unarmed => ?_, fun acc plain written => ?_⟩
  · have staged := execRegisterWrite_entry up found (State.writeEntry_staged found elems good acc unarmed)
    exact ⟨fun changes => staged.trans (congrArg _ (if_pos changes)), fun same => staged.trans (congrArg _ (if_neg (not_not.mpr same)))⟩
  · exact (execRegisterWrite_entry up found (State.writeEntry_rw found elems good acc plain written)).trans
      (congrArg _ (if_neg (not_not.mpr (State.writeRw_staged written))))

/-- Settles O47: a served operation is one frame of one record, and each record answers by its branch; the frame counts of single operations
are DESIGN CHOICE 102. -/
theorem dictionaryReadsAndWrites : Obligations.DictionaryReadsAndWrites :=
  ⟨readAnswers, describeAndEvents, writeStagesOrActs, registerWriteEntry⟩

end Sys2Proof.Machine
end

section
/-! PROOFS. `CHECK`, `APPLY` and `DISCARD`, the persistent record, and frames (O49, O50). -/

namespace Sys2Proof.Machine

/-! ## `CHECK`, `APPLY`, `DISCARD` (R451–R454) -/

section
variable {s t : State} {who : Requester} {want gen : Nat} {at_ : State} {x : IgOp}

/-- A frame that expects another generation. -/
theorem State.runOp_stageChanged (op : x.op = 4 ∨ x.op = 5 ∨ x.op = 6) (some_want : want ≠ 0) (other : want ≠ gen) :
    s.runOp at_ who want gen x = ⟨.stageChanged, [], s, false⟩ :=
  if_pos (by simpa [some_want, other, or_assoc] using op)

variable (expected : want = 0 ∨ want = gen)
include expected

/-- A frame that expects no other generation runs its operation. -/
theorem generation_expected (op : Bool) : ¬ (op && decide (want ≠ 0) && decide (want ≠ gen)) = true := by
  obtain h | h := expected <;> simp [h]

/-- `CHECK`. -/
theorem State.runOp_check (op : x.op = 4) {st : Status} {d : List Byte} (checked : s.opCheck gen x.scope = (st, d, t)) :
    s.runOp at_ who want gen x = ⟨st, d, t, false⟩ := by
  unfold State.runOp
  rw [if_neg (generation_expected expected _)]
  simp only [op, checked]

/-- `APPLY`. -/
theorem State.runOp_apply (op : x.op = 5) {st : Status} {d : List Byte}
    (applied : s.opApply gen x.scope (x.data.getD 1 0).toNat (wordAt x.data 1) = (st, d, t)) :
    s.runOp at_ who want gen x = ⟨st, d, t, st = .ok⟩ := by
  unfold State.runOp
  rw [if_neg (generation_expected expected _)]
  simp only [op, applied]

/-- `DISCARD`. -/
theorem State.runOp_discard (op : x.op = 6) {st : Status} (discarded : s.opDiscard x.scope = (st, t)) :
    s.runOp at_ who want gen x = ⟨st, [], t, st = .ok && decide (t.staged ≠ s.staged)⟩ := by
  unfold State.runOp
  rw [if_neg (generation_expected expected _)]
  simp only [op, discarded]

end

section
variable {s : State} {gen scope : Nat} (unarmed : s.mgmt.armed = none) (inside : scope ≤ 0x10)
include unarmed inside

/-- A `CHECK` that finds no rule violated. -/
theorem State.opCheck_passes (passes : (s.runCheck gen scope false).1 = none) :
    s.opCheck gen scope = (.ok, checkResult none scope gen, (s.runCheck gen scope false).2) := by
  simp only [State.opCheck, unarmed, passes, Option.isSome_none, Bool.false_eq_true, if_false, Nat.not_lt.mpr inside]

/-- A `CHECK` that finds a rule violated. -/
theorem State.opCheck_fails (fails : (s.runCheck gen scope false).1 ≠ none) :
    s.opCheck gen scope = (.checkFailed, checkResult (s.runCheck gen scope false).1 scope gen, (s.runCheck gen scope false).2) := by
  simp only [State.opCheck, unarmed, Option.isSome_iff_ne_none.mpr fails, Option.isSome_none, Bool.false_eq_true, if_false, if_true,
    Nat.not_lt.mpr inside]

end

/-- A failed check is counted as a refusal. -/
theorem settle_checkFailed (t : State) : settle (.checkFailed, t) = t.tally .igcorRefuseCnt 0 .igcorStatus 0 2 := rfl

/-- `CHECK` of a scope (R451). -/
theorem checkAnswers : Sys2Proof.Claim.CheckAnswers := by
  intro who gen scope s serves expected unarmed inside r res
  refine ⟨fun passes => ?_, fun fails => ?_⟩
  · have answer : res = checkResult none scope.toNat (s.rdN .stageGen) := by simp only [res, passes]
    rw [answer]
    exact congrArg Host.Outcome.next
      (serves.single_ok (State.runOp_check expected rfl (State.opCheck_passes unarmed inside passes)))
  · have answered := serves.single_refused (State.runOp_check expected rfl (State.opCheck_fails unarmed inside fails))
      (State.countControl_of_served (st := .checkFailed) (by decide) (by decide))
    rw [settle_checkFailed] at answered
    exact congrArg Host.Outcome.next answered

/-- The operands of an `APPLY`. -/
theorem wordAt_applyData (scope form : Byte) (arg : W64) : wordAt (scope :: form :: zeros 6 ++ leBytes 8 arg.toNat) 1 = arg :=
  wordAt_leBytes arg

section
variable {s : State} {gen scope : Nat} {arg : W64} (unarmed : s.mgmt.armed = none) (inside : scope ≤ 0x10)
  (passes : (s.runCheck gen scope true).1 = none)
include unarmed inside passes

/-- An `APPLY` at once. -/
theorem State.opApply_now : s.opApply gen scope 0 arg =
    (.ok, checkResult none scope gen, (s.runCheck gen scope true).2.applyScope scope (nextGen (s.rdN .stageGen))) := by
  simp only [State.opApply, unarmed, passes, Option.isSome_none, Bool.false_eq_true, if_false, Nat.not_lt.mpr inside, if_true]

/-- An `APPLY` at an instant. -/
theorem State.opApply_armed (far : (s.runCheck gen scope true).2.rdN .globalTime + 1000 ≤ arg.toNat) : s.opApply gen scope 2 arg =
    (.ok, checkResult none scope gen, (s.runCheck gen scope true).2.arm scope 2 arg) := by
  simp [State.opApply, unarmed, passes, Nat.not_lt.mpr inside, Nat.not_lt.mpr far]

end

/-- `APPLY` of a scope (R452, R453). -/
theorem applyTakesEffect : Sys2Proof.Claim.ApplyTakesEffect := by
  intro who gen scope form arg s serves g r res
  refine ⟨fun expected unarmed inside passes => ⟨fun now => ?_, fun later far => ?_⟩, fun some_gen other => ?_⟩
  · subst now
    refine congrArg Host.Outcome.next (serves.single_touched (State.runOp_apply expected rfl ?_))
    rw [wordAt_applyData]
    exact State.opApply_now unarmed inside passes
  · subst later
    refine congrArg Host.Outcome.next (serves.single_touched (State.runOp_apply expected rfl ?_))
    rw [wordAt_applyData]
    exact State.opApply_armed unarmed inside passes far
  · exact congrArg Host.Outcome.next (serves.single_refused (State.runOp_stageChanged (.inr (.inl rfl)) some_gen other)
      (State.countControl_of_served (st := .stageChanged) (by decide) (by decide)))

/-- `DISCARD` of a scope (R453, R454). -/
theorem discardReturns : Sys2Proof.Claim.DiscardReturns := by
  intro who gen scope s serves expected t
  refine ⟨fun unarmed inside => ?_, fun armed => ?_⟩
  · have done : s.opDiscard (IgOp.scope ⟨6, 0, 0, 0, 0, 8, scope :: zeros 7⟩) = (.ok, t) := by
      simp only [State.opDiscard, unarmed, Option.isSome_none, Bool.false_eq_true, if_false, IgOp.scope, List.getD_cons_zero,
        Nat.not_lt.mpr inside, t]
    have ran := State.runOp_discard (at_ := s) (who := who) (x := ⟨6, 0, 0, 0, 0, 8, scope :: zeros 7⟩) expected rfl done
    refine ⟨fun changes => ?_, fun same => ?_⟩
    · exact congrArg Host.Outcome.next (serves.single_touched (ran.trans (by simp [changes])))
    · exact congrArg Host.Outcome.next (serves.single_ok (ran.trans (by simp [same])))
  · have refused : s.opDiscard (IgOp.scope ⟨6, 0, 0, 0, 0, 8, scope :: zeros 7⟩) = (.busy, s) :=
      if_pos (Option.isSome_iff_ne_none.mpr armed)
    have ran := State.runOp_discard (at_ := s) (who := who) (x := ⟨6, 0, 0, 0, 0, 8, scope :: zeros 7⟩) expected rfl refused
    exact congrArg Host.Outcome.next (serves.single_refused ran
      (State.countControl_of_served (st := .busy) (by decide) (by decide)))

/-- A change armed for an instant (R452). -/
theorem armedChangeFires : Sys2Proof.Claim.ArmedChangeFires := by
  intro s a armed
  have fires : exec .armedApplyInstant s = .next (if a.form = 2 && s.rd .globalTime = a.arg then s.fire a else s) := by
    rw [exec_armedApplyInstant, execArmedApplyInstant, State.fireTime, armed]
  rw [fires]
  refine ⟨fun form now => ?_, fun other => ?_⟩
  · rw [if_pos (by simp [form, now])]
    rfl
  · rw [if_neg (by simpa [or_iff_not_imp_left] using other)]

/-! ## The persistent record (R438) -/

section
variable {s : State}

/-- A copy closed by its CRC is valid. -/
theorem StoreCopy.closed_valid (vals : Store W64) (seq : Nat) : (StoreCopy.closed vals seq).valid = true := decide_eq_true rfl

/-- A torn copy is not. -/
theorem StoreCopy.torn_valid (x : StoreCopy) : x.torn.valid = false := by
  have bytes : x.torn.bytes = x.bytes := rfl
  rw [StoreCopy.valid, bytes]
  exact decide_eq_false (Nat.succ_ne_self _)

/-- The store written: the copy that is not the newer valid one is the one in force, and the other stays. -/
theorem State.store_closed (vals : Store W64) :
    let t := ({ s with storing := false } : State).setOldCopy fun _ => StoreCopy.closed vals (s.storeSeq + 1)
    t.storing = false ∧ t.stored = vals ∧ (s.newerB = true → t.copyB = s.copyB) ∧ (s.newerB = false → t.copyA = s.copyA) ∧
      t = { s with storing := false, copyA := t.copyA, copyB := t.copyB } := by
  intro t
  have kept : ({ s with storing := false } : State).newerB = s.newerB := rfl
  cases newer : s.newerB with
  | true =>
    have written : t = { s with storing := false, copyA := StoreCopy.closed vals (s.storeSeq + 1) } := if_pos (kept.trans newer)
    have seq : s.storeSeq = s.copyB.seq := if_pos newer
    have older : t.newerB = false := by
      rw [written, State.newerB, StoreCopy.closed_valid, seq]
      simp [StoreCopy.closed]
    refine ⟨by rw [written], ?_, fun _ => by rw [written], fun h => absurd h (by decide), by rw [written]⟩
    rw [State.stored, older, if_neg (by decide), written, StoreCopy.closed_valid, if_pos rfl]
    rfl
  | false =>
    have written : t = { s with storing := false, copyB := StoreCopy.closed vals (s.storeSeq + 1) } :=
      if_neg (by rw [kept, newer]; decide)
    have seq : s.storeSeq = if s.copyA.valid then s.copyA.seq else 0 := if_neg (by rw [newer]; decide)
    have newest : t.newerB = true := by
      rw [written, State.newerB, StoreCopy.closed_valid, seq]
      cases good : s.copyA.valid <;> simp [StoreCopy.closed]
    refine ⟨by rw [written], ?_, fun h => absurd h (by decide), fun _ => by rw [written], by rw [written]⟩
    rw [State.stored, newest, if_pos rfl, written]
    rfl

/-- The store torn: the values in force stay. -/
theorem State.store_torn :
    let t := ({ s with storing := false } : State).setOldCopy StoreCopy.torn
    t.stored = s.stored ∧ t = { s with storing := false, copyA := t.copyA, copyB := t.copyB } := by
  intro t
  have kept : ({ s with storing := false } : State).newerB = s.newerB := rfl
  cases newer : s.newerB with
  | true =>
    have written : t = { s with storing := false, copyA := s.copyA.torn } := if_pos (kept.trans newer)
    obtain ⟨good, _⟩ : s.copyB.valid = true ∧ _ := by simpa [State.newerB] using newer
    refine ⟨?_, by rw [written]⟩
    have newest : t.newerB = true := by simp [written, State.newerB, StoreCopy.torn_valid, good]
    rw [State.stored, newest, if_pos rfl, State.stored, newer, if_pos rfl, written]
  | false =>
    have written : t = { s with storing := false, copyB := s.copyB.torn } := if_neg (by rw [kept, newer]; decide)
    refine ⟨?_, by rw [written]⟩
    have older : t.newerB = false := by simp [written, State.newerB, StoreCopy.torn_valid]
    rw [State.stored, older, if_neg Bool.false_ne_true, State.stored, newer, if_neg Bool.false_ne_true, written]

end

/-- The persistent record (R438). -/
theorem persistentStored : Sys2Proof.Claim.PersistentStored := by
  intro readBack retry s storing vals
  refine ⟨fun good => ⟨_, ?_, State.store_closed vals⟩, fun bad again => ⟨_, ?_, State.store_torn⟩⟩
  · rw [exec_persistWrite, execPersistWrite, if_neg (by simp [storing]), if_pos (by simpa using good)]
  · rw [exec_persistWrite, execPersistWrite, if_neg (by simp [storing]), if_neg (by simp [bad, again])]

/-- Settles O49: each operation as a frame of one record (DESIGN CHOICE 102), the instant at equality alone (DESIGN CHOICE 137), and the record
in the copy that is not the newer valid one. -/
theorem checkApplyDiscard : Obligations.CheckApplyDiscard :=
  ⟨checkAnswers, applyTakesEffect, discardReturns, armedChangeFires, persistentStored⟩

/-! ## Frames of the segment (R439, R446) -/

section
variable {ks : List Kept} {k : Kept}

/-- What is kept of a source once another response is: the last 16 of its own. -/
theorem keepResponse_eq : ∃ old : List Kept, (∀ e ∈ old, e.iid = k.iid) ∧ old.length ≤ 15 ∧
    keepResponse ks k = (ks.filter fun e => e.iid ≠ k.iid) ++ (old ++ [k]) := by
  refine ⟨(ks.filter fun e => e.iid = k.iid).drop ((ks.filter fun e => e.iid = k.iid).length - 15), fun e he => ?_, ?_, ?_⟩
  · simpa using (List.mem_filter.mp (List.mem_of_mem_drop he)).2
  · rw [List.length_drop]
    omega
  · simp only [keepResponse, List.concat_eq_append, List.length_append, List.length_singleton, Nat.reduceSubDiff]
    rw [List.drop_append_of_le_length (Nat.sub_le ..)]

/-- The response is kept. -/
theorem mem_keepResponse : k ∈ keepResponse ks k := by
  obtain ⟨old, _, _, kept⟩ := keepResponse_eq (ks := ks) (k := k)
  simp [kept]

/-- At most 16 are kept of a source. -/
theorem length_keepResponse_le : ((keepResponse ks k).filter fun e => e.iid = k.iid).length ≤ 16 := by
  obtain ⟨old, _, few, kept⟩ := keepResponse_eq (ks := ks) (k := k)
  have strangers : (ks.filter fun e => e.iid ≠ k.iid).filter (fun e => e.iid = k.iid) = [] := by
    simp [List.filter_filter]
  rw [kept, List.filter_append, strangers, List.nil_append]
  refine (List.length_filter_le ..).trans ?_
  rw [List.length_append, List.length_singleton]
  omega

/-- What is kept of other sources stays. -/
theorem mem_keepResponse_of_other {e : Kept} (other : e.iid ≠ k.iid) : e ∈ keepResponse ks k ↔ e ∈ ks := by
  obtain ⟨old, mine, _, kept⟩ := keepResponse_eq (ks := ks) (k := k)
  have not_old : e ∉ old := fun h => other (mine e h)
  have not_k : e ≠ k := fun h => other (congrArg Kept.iid h)
  simp [kept, other, not_old, not_k]

end

section
variable {src : FrameFrom} {iid : W64} {bytes : List Byte} {s : State}

/-- A frame with a good transport is served. -/
theorem execIgcorFrame_served (who : src.who = .segment iid) (up : s.mgmtUp = true) (good : src.transportOk = true)
    (cast : src.multicast = false ∨ readsOnly bytes = true) :
    execIgcorFrame src bytes s = .next (s.segmentFrame iid src.port bytes) := by
  have fine : ¬ (!src.transportOk || (src.multicast && !readsOnly bytes)) = true := by
    obtain h | h := cast <;> simp [good, h]
  simp only [execIgcorFrame, who, up, State.asks, Bool.not_true, Bool.or_self, Bool.false_eq_true, if_false, if_neg fine]

/-- A frame that is not served. -/
theorem execIgcorFrame_dropped (who : src.who = .segment iid) (up : s.mgmtUp = true)
    (bad : src.transportOk = false ∨ (src.multicast = true ∧ readsOnly bytes = false)) :
    execIgcorFrame src bytes s = .next s.dropDatagram := by
  have drops : (!src.transportOk || (src.multicast && !readsOnly bytes)) = true := by simpa using bad
  simp only [execIgcorFrame, who, up, State.asks, Bool.not_true, Bool.or_self, Bool.false_eq_true, if_false, if_pos drops]

/-- A frame that is no duplicate. -/
theorem State.segmentFrame_new {port : BitVec 16}
    (fresh : (s.mgmt.kept.find? fun k => k.iid = iid && k.reqId = BitVec.ofNat 16 (bits 31 16 (wordAt bytes 0))) = none) :
    s.segmentFrame iid port bytes =
      (if hasWrite bytes then
        { (s.frame (.segment iid) bytes).1 with
          mgmt := { (s.frame (.segment iid) bytes).1.mgmt with
            kept := keepResponse (s.frame (.segment iid) bytes).1.mgmt.kept
              ⟨iid, BitVec.ofNat 16 (bits 31 16 (wordAt bytes 0)), (s.frame (.segment iid) bytes).2⟩ } }
      else (s.frame (.segment iid) bytes).1).emit (.datagram iid port (s.frame (.segment iid) bytes).2) := by
  simp only [State.segmentFrame, fresh]

/-- A duplicate is answered from what is kept. -/
theorem State.segmentFrame_dup {port : BitVec 16} {k : Kept}
    (kept : (s.mgmt.kept.find? fun k => k.iid = iid && k.reqId = BitVec.ofNat 16 (bits 31 16 (wordAt bytes 0))) = some k) :
    s.segmentFrame iid port bytes = (s.count .igcorDupCnt).emit (.datagram iid port k.resp) := by
  simp only [State.segmentFrame, kept]

end

/-- Frames of the segment (R439, R443, R446). -/
theorem frameAnswered : Sys2Proof.Claim.FrameAnswered := by
  intro src iid bytes s who up reqId dup r
  refine ⟨fun good cast fresh reads => ?_, fun good single fresh writes => ?_, fun k good single kept => ?_, fun bad => ?_⟩
  · refine (execIgcorFrame_served who up good cast).trans (congrArg Host.Outcome.next ((State.segmentFrame_new fresh).trans ?_))
    rw [if_neg (by rw [reads]; decide)]
  · refine ⟨{ r.1 with mgmt := { r.1.mgmt with kept := keepResponse r.1.mgmt.kept ⟨iid, reqId, r.2⟩ } },
      (execIgcorFrame_served who up good (.inl single)).trans (congrArg Host.Outcome.next ((State.segmentFrame_new fresh).trans ?_)), rfl,
      mem_keepResponse, length_keepResponse_le (k := ⟨iid, reqId, r.2⟩), fun k other => mem_keepResponse_of_other other⟩
    rw [if_pos writes]
  · exact (execIgcorFrame_served who up good (.inl single)).trans (congrArg Host.Outcome.next (State.segmentFrame_dup kept))
  · exact execIgcorFrame_dropped who up bad

/-! ## The mailbox and neighbours (R428, R439, R458) -/

/-- The request of a mailbox (R428). -/
theorem mailboxAnswered : Sys2Proof.Claim.MailboxAnswered := by
  intro src f bytes len s who up asks r t
  have taken : exec (.igcorFrame src bytes) s = .next (s.mailboxFrame f) := by
    simp only [exec_igcorFrame, execIgcorFrame, who, up, asks, Bool.not_true, Bool.or_self, Bool.false_eq_true, if_false]
  rw [taken]
  refine ⟨fun busy asked => ?_, fun idle => ?_⟩
  · have answered : s.mailboxFrame f = r.1.mailboxAnswer f r.2 := by
      simp only [State.mailboxFrame, busy, asked, Bool.not_true, Bool.false_eq_true, if_false, Option.map_some, Option.getD_some, r]
    rw [answered]
    rfl
  · refine congrArg Host.Outcome.next (if_pos ?_)
    rw [idle]
    rfl

/-- Neighbour traffic (R439, R458). -/
theorem neighbourTraffic : Sys2Proof.Claim.NeighbourTraffic := by
  intro src target data s powered
  refine ⟨fun own => ?_, fun other => ?_, ?_⟩
  · rw [exec_neighborSolicitation, execNeighborSolicitation, if_pos (by simp [powered, own])]
  · rw [exec_neighborSolicitation, execNeighborSolicitation, if_neg (by simp [other])]
  · rw [exec_icmpv6Echo, execIcmpv6Echo, if_pos powered]

/-- Settles O50: each frame by the branch that takes it; a mailbox's request has the length of its submission (DESIGN CHOICE 98). -/
theorem framesAnswered : Obligations.FramesAnswered := ⟨frameAnswered, mailboxAnswered, neighbourTraffic⟩

end Sys2Proof.Machine
end
